-- ==== Sys2Proof/Word.lean ====
section
/-!
DEFINITION. Word.lean: the widths in which the manual counts bits (R3, R5): bytes, 16-bit parcels,
32-bit and 64-bit words, a 512-byte vector entry and a 1,024-bit mask.
-/

namespace Sys2Proof

/-- One byte of memory or text (R5). -/
abbrev Byte := BitVec 8

/-- One parcel of instruction text (R76). -/
abbrev Parcel := BitVec 16

/-- A 32-bit word: a literal, a checksum word, a completion counter. -/
abbrev Word32 := BitVec 32

/-- A 64-bit word: an x register, a system register, an address as a program computes it. -/
abbrev Word64 := BitVec 64

/-- The data of one vector entry, 512 bytes (R18). -/
abbrev EntryBits := BitVec 4096

/-- A mask register (R18). -/
abbrev MaskBits := BitVec 1024

end Sys2Proof
end

