-- ==== Sys2Proof/Syntax.lean ====
section
/-!
DEFINITION. Syntax.lean: the operations and events of the part, one constructor of `Instr` per row of
spec/opcode_table.json: the GX instructions and engine words (R76 to R97), and the events by which the part and
its surroundings act. Register names are bounded numbers, modes and conditions are named alternatives; an immediate
or a literal stays the field of bits the encoding gives it.
-/

namespace Sys2Proof

/-- An x register number (R18). -/
abbrev XReg := Fin 32
/-- A vector register number (R18). -/
abbrev VReg := Fin 32
/-- A predicate register number (R18). -/
abbrev PReg := Fin 8
/-- A mask register number (R18). -/
abbrev KReg := Fin 8
/-- An accumulator tile (R183). -/
abbrev ZReg := Fin 8
/-- One of the sixteen stream registers of the matrix engine (R195). -/
abbrev StreamNo := Fin 16
/-- A core of the package (R2, R392). -/
abbrev CoreId := Fin 512
/-- A cluster of the package (R2). -/
abbrev ClusterId := Fin 32
/-- A die of the package (R2). -/
abbrev DieId := Fin 4
/-- A fabric port (R1). -/
abbrev PortId := Fin 16

/-- The guard fields of a C or V instruction (R80, R86): predicate gp, negated when gn. -/
structure Guard where
  gp : PReg
  gn : Bool
  deriving DecidableEq, Repr

/-- The condition of CMP and CMPI (R84, R107). -/
inductive Cond where
  | eq | ne | lt | ge | ltu | geu | tst
  deriving DecidableEq, Repr

/-- The condition of VCMP (R89, R157). -/
inductive VCond where
  | eq | ne | lt | le | gt | ge | un
  deriving DecidableEq, Repr

/-- The operation of VAMO (R89, R151). -/
inductive VAmoOp where
  | add | or | and | xor | min | max
  deriving DecidableEq, Repr

/-- The element size of VGET (R132). -/
inductive LaneSize where
  | b | h | w | d
  deriving DecidableEq, Repr

/-- The four engines with a parameter stack (R90). -/
inductive Eng where
  | m | x | p | s
  deriving DecidableEq, Repr

/-- The fields of a V instruction (R86), with its trailing literal where it has one. Which of them a form uses,
and what the others must hold, is R87 and R88. -/
structure VF where
  et  : BitVec 4
  vd  : VReg
  va  : VReg
  vb  : VReg
  u   : Bool
  vc  : VReg
  k   : KReg
  kz  : Bool
  qa  : Bool
  qb  : Bool
  qc  : Bool
  g   : Guard
  lit : Option Word32
  deriving DecidableEq, Repr

/-- What consumes an event of the core's own datapath (R128): the instruction about to run, or a command. -/
inductive Consumer where
  | instr
  | cmd (seq : Nat)
  deriving DecidableEq, Repr

/-- What a trap handler of the resident kernel may do to a parked task before it resumes it (R35, R40, R97). -/
inductive RegEdit where
  | setX (r : XReg) (v : Word64)
  | setP (r : PReg) (v : Bool)
  | setK (r : KReg) (v : MaskBits)
  | push (q : VReg) (et : BitVec 4) (data : EntryBits)
  | setPc (pc : Word64)
  deriving DecidableEq, Repr

/-- Where a soft error falls, and what it does there (R256, R263, R356, R187): a bit of SRAM or LPDDR, an ECC word, the
descriptor of the tile that holds a byte of SRAM or W-space, older bytes put back in place of a line of LPDDR (R352), a
parked context that lies in LPDDR altered (R275). -/
inductive SoftError where
  | flipMem (pa : Nat) (bit : Fin 8)
  | poisonMem (pa : Nat)
  | poisonTile (pa : Nat)
  | poisonWTile (wa : Nat)
  | replay (pa : Nat) (bytes : List Byte)
  | parkedContext (k : ClusterId) (idx : Nat)
  | flipW (wa : Nat) (bit : Fin 8)
  | flipZ (c : CoreId) (z : ZReg) (elem : Fin 4096) (bit : Fin 32)
  | flipEntry (c : CoreId) (q : VReg) (bit : Fin 4096)
  | badMac (pa : Nat)
  | pair (c : CoreId)
  deriving DecidableEq, Repr

/-- A doubleword of a section that LOAD-IMAGE fills in (R400): its offset in the section, the number of the section that
holds its label, and the label's offset there plus the constant. -/
structure Reloc where
  off    : Nat
  target : Nat
  add    : Word64
  deriving DecidableEq, Repr

/-- A section of an image as LOAD-IMAGE places it (R365, R400, R402): its D-space address, where its bytes stand in the
image, the format code when it is a .tile section, and the doublewords that wait for a label. -/
structure ImageSection where
  va     : Nat
  off    : Nat
  len    : Nat
  tile   : Option (BitVec 5)
  relocs : List Reloc
  deriving DecidableEq, Repr

/-- A key of a job's handle table (R314): slot, generation, algorithm. -/
structure KeyHandle where
  slot : BitVec 16
  gen  : BitVec 16
  alg  : BitVec 2
  deriving DecidableEq, Repr

/-- The payload of CREATE-JOB (R365). -/
structure JobArgs where
  tenant   : Word64
  root     : Nat
  wbase    : BitVec 39
  wlim     : BitVec 39
  maxPrio  : BitVec 2
  ntOk     : Bool
  keyTable : Nat
  keys     : List KeyHandle
  debugKey : Word64
  deriving DecidableEq, Repr

/-- The selector of QUERY (R365). The 48 bytes of a result (R364) hold no whole WBPERM map: a selector names one of its
sixteen registers. -/
inductive QuerySel where
  | launch (job n : Nat)
  | graph (job n : Nat)
  | phase (job n : Nat)
  | job (n : Nat)
  | wsize
  | wbperm (d : DieId) (i : Fin 16)
  | monstat (d : DieId)
  | bootState
  deriving DecidableEq, Repr

/-- The nine flit types and the reserved ones (R380). -/
inductive FlitType where
  | data | end_ | pdone | ack | nak | cairn
  | reserved (t : BitVec 4)
  deriving DecidableEq, Repr

/-- One flit as its header, invocation word and body give it (R378, R379). The body holds what its type uses: the
cut bytes of DATA, and the fields of END, PDONE and CAIRN in the named fields of the other types, before encryption; `mac`
is the GCM tag with which it arrives. -/
structure Flit where
  typ    : FlitType
  dst    : BitVec 20
  src    : BitVec 20
  seq    : BitVec 24
  slot   : Bool
  inv    : BitVec 48
  core   : BitVec 9
  srcCore : BitVec 9
  tag    : BitVec 6
  offset : BitVec 40
  body   : List Byte
  mac    : List Byte
  deriving DecidableEq, Repr

/-- A column in which the controller meets beats that it cannot correct while the tier is measured (R333, R339): die, column,
the vias that its tests find failing, whether the column is lost whatever they show, and how many logical bytes of it
are read before a failure. -/
structure ColumnFailure where
  die  : DieId
  col  : Fin 64
  vias : List (BitVec 13)
  lost : Bool
  read : Nat
  deriving DecidableEq, Repr

/-- A read that met an uncorrectable beat (R334): a command's, with the beats delivered since its last finished unit; the
aperture load at a core's pc; the staging of an input. -/
inductive BeatReader where
  | command (c : CoreId) (seq since : Nat)
  | load (c : CoreId)
  | staging (c : CoreId) (input : Nat)
  deriving DecidableEq, Repr

/-- A mailbox command that the host's bytes ask for (R365), where no rule gives their layout: its arguments, and, where they
lie outside the payload, the sections and blocks of an image and what the hardware meets. -/
inductive PostedCommand where
  | loadImage (job hostAddr len : Nat) (sha : List Byte) (secs : List ImageSection) (blocks : List (Nat × Nat))
  | createJob (a : JobArgs)
  | submitPhase (job addr : Nat)
  | cancel (level : BitVec 2) (job number : Nat)
  | query (sel : QuerySel)
  | programWeights (place : Option (Nat × List Nat)) (bad : List ColumnFailure)
  | resetScrub (confidential : Bool) (bad : List ColumnFailure)
  | debugAttach (job launch : Nat) (index : Word32) (token : Option (List Byte))
  deriving DecidableEq, Repr

/-- The operations and events of the part: one constructor per row of the opcode table. -/
inductive Instr where
  -- C: the SYS group (R134 to R137, R17, R32)
  | nop (g : Guard)
  | trap (g : Guard) (code : BitVec 16)
  | brk (g : Guard) (code : BitVec 16)
  | mile (g : Guard) (zt ef : BitVec 8) (vq : Word32)
  | rep (g : Guard) (cntLess1 : BitVec 6) (d a b c : Bool)
  | ntdrain (g : Guard)
  | exit (g : Guard)
  -- C: integer arithmetic (R102, R103)
  | add (g : Guard) (w : Bool) (rd ra rb : XReg)
  | sub (g : Guard) (w : Bool) (rd ra rb : XReg)
  | and (g : Guard) (w : Bool) (rd ra rb : XReg)
  | or (g : Guard) (w : Bool) (rd ra rb : XReg)
  | xor (g : Guard) (w : Bool) (rd ra rb : XReg)
  | shl (g : Guard) (w : Bool) (rd ra rb : XReg)
  | shr (g : Guard) (w : Bool) (rd ra rb : XReg)
  | sra (g : Guard) (w : Bool) (rd ra rb : XReg)
  -- C: immediate arithmetic (R104)
  | addi (g : Guard) (rd ra : XReg) (imm : BitVec 6)
  | movi (g : Guard) (rd : XReg) (imm : BitVec 6)
  | andi (g : Guard) (rd ra : XReg) (imm : BitVec 6)
  | ori (g : Guard) (rd ra : XReg) (imm : BitVec 6)
  | xori (g : Guard) (rd ra : XReg) (imm : BitVec 6)
  | shli (g : Guard) (rd ra : XReg) (imm : BitVec 6)
  | shri (g : Guard) (rd ra : XReg) (imm : BitVec 6)
  | srai (g : Guard) (rd ra : XReg) (imm : BitVec 6)
  | addiLit (g : Guard) (rd ra : XReg) (lit : Word32)
  | moviLit (g : Guard) (rd : XReg) (lit : Word32)
  | andiLit (g : Guard) (rd ra : XReg) (lit : Word32)
  | oriLit (g : Guard) (rd ra : XReg) (lit : Word32)
  | xoriLit (g : Guard) (rd ra : XReg) (lit : Word32)
  | shliLit (g : Guard) (rd ra : XReg) (lit : Word32)
  | shriLit (g : Guard) (rd ra : XReg) (lit : Word32)
  | sraiLit (g : Guard) (rd ra : XReg) (lit : Word32)
  | mul (g : Guard) (w : Bool) (rd ra rb : XReg)
  | mulh (g : Guard) (w : Bool) (rd ra rb : XReg)
  | mulhu (g : Guard) (w : Bool) (rd ra rb : XReg)
  | div (g : Guard) (w : Bool) (rd ra rb : XReg)
  | divu (g : Guard) (w : Bool) (rd ra rb : XReg)
  | rem (g : Guard) (w : Bool) (rd ra rb : XReg)
  | remu (g : Guard) (w : Bool) (rd ra rb : XReg)
  | min (g : Guard) (w : Bool) (rd ra rb : XReg)
  | max (g : Guard) (w : Bool) (rd ra rb : XReg)
  | minu (g : Guard) (w : Bool) (rd ra rb : XReg)
  | maxu (g : Guard) (w : Bool) (rd ra rb : XReg)
  | clz (g : Guard) (w : Bool) (rd ra : XReg)
  | ctz (g : Guard) (w : Bool) (rd ra : XReg)
  | popc (g : Guard) (w : Bool) (rd ra : XReg)
  | rol (g : Guard) (w : Bool) (rd ra rb : XReg)
  -- C: extension, fields and address arithmetic (R105, R106)
  | sext (g : Guard) (rd ra : XReg) (n : BitVec 6)
  | zext (g : Guard) (rd ra : XReg) (n : BitVec 6)
  | bfx (g : Guard) (rd ra : XReg) (pos : BitVec 6) (wid : BitVec 7)
  | bfi (g : Guard) (rd ra : XReg) (pos : BitVec 6) (wid : BitVec 7)
  | lea (g : Guard) (sh : BitVec 3) (rd ra rb : XReg)
  -- C: compares and predicates (R107, R108)
  | cmp (g : Guard) (c : Cond) (pd pe : PReg) (ra rb : XReg)
  | cmpi (g : Guard) (c : Cond) (pd pe : PReg) (ra : XReg) (imm : BitVec 5)
  | cmpiLit (g : Guard) (c : Cond) (pd pe : PReg) (ra : XReg) (lit : Word32)
  | pand (g : Guard) (pd pa pb : PReg)
  | por (g : Guard) (pd pa pb : PReg)
  | pxor (g : Guard) (pd pa pb : PReg)
  | pandn (g : Guard) (pd pa pb : PReg)
  | pnot (g : Guard) (pd pa : PReg)
  | pmov (g : Guard) (pd pa : PReg)
  | pset (g : Guard) (pd : PReg)
  | pclr (g : Guard) (pd : PReg)
  -- C: branches and calls (R109, R110)
  | br (g : Guard) (disp : BitVec 16)
  | call (g : Guard) (disp : BitVec 16)
  | jmp (g : Guard) (ra : XReg)
  | callr (g : Guard) (rd ra : XReg)
  | ret (g : Guard) (ra : XReg)
  -- C: loads and stores (R111)
  | ldB (g : Guard) (cls : BitVec 2) (sx : Bool) (rd ra : XReg) (disp : BitVec 6)
  | ldH (g : Guard) (cls : BitVec 2) (sx : Bool) (rd ra : XReg) (disp : BitVec 6)
  | ldW (g : Guard) (cls : BitVec 2) (sx : Bool) (rd ra : XReg) (disp : BitVec 6)
  | ldD (g : Guard) (cls : BitVec 2) (rd ra : XReg) (disp : BitVec 6)
  | ldBLit (g : Guard) (cls : BitVec 2) (sx : Bool) (rd ra : XReg) (lit : Word32)
  | ldHLit (g : Guard) (cls : BitVec 2) (sx : Bool) (rd ra : XReg) (lit : Word32)
  | ldWLit (g : Guard) (cls : BitVec 2) (sx : Bool) (rd ra : XReg) (lit : Word32)
  | ldDLit (g : Guard) (cls : BitVec 2) (rd ra : XReg) (lit : Word32)
  | stB (g : Guard) (cls : BitVec 2) (nt : Bool) (rs ra : XReg) (disp : BitVec 6)
  | stH (g : Guard) (cls : BitVec 2) (nt : Bool) (rs ra : XReg) (disp : BitVec 6)
  | stW (g : Guard) (cls : BitVec 2) (nt : Bool) (rs ra : XReg) (disp : BitVec 6)
  | stD (g : Guard) (cls : BitVec 2) (nt : Bool) (rs ra : XReg) (disp : BitVec 6)
  | stBLit (g : Guard) (cls : BitVec 2) (nt : Bool) (rs ra : XReg) (lit : Word32)
  | stHLit (g : Guard) (cls : BitVec 2) (nt : Bool) (rs ra : XReg) (lit : Word32)
  | stWLit (g : Guard) (cls : BitVec 2) (nt : Bool) (rs ra : XReg) (lit : Word32)
  | stDLit (g : Guard) (cls : BitVec 2) (nt : Bool) (rs ra : XReg) (lit : Word32)
  -- C: atomics (R116)
  | aadd (g : Guard) (w : Bool) (rd ra rb : XReg)
  | aand (g : Guard) (w : Bool) (rd ra rb : XReg)
  | aor (g : Guard) (w : Bool) (rd ra rb : XReg)
  | axor (g : Guard) (w : Bool) (rd ra rb : XReg)
  | amin (g : Guard) (w : Bool) (rd ra rb : XReg)
  | amax (g : Guard) (w : Bool) (rd ra rb : XReg)
  | aswap (g : Guard) (w : Bool) (rd ra rb : XReg)
  | cas (g : Guard) (w : Bool) (rd ra rb : XReg)
  -- C: work, waiting, containment, system registers, vector and mask transfers (R118 to R133)
  | spawn (g : Guard) (rd ra rb : XReg)
  | launch (g : Guard) (rd ra : XReg)
  | join (g : Guard) (rd ra rb : XReg) (n : Word32)
  | cancel (g : Guard) (rd ra : XReg)
  | waitc (g : Guard) (ra rb : XReg)
  | bar (g : Guard)
  | tid (g : Guard) (rd : XReg)
  | ctopen (g : Guard) (ra : XReg)
  | ctclose (g : Guard)
  | csrr (g : Guard) (rd : XReg) (n : BitVec 11)
  | csrw (g : Guard) (rs : XReg) (n : BitVec 11)
  | csrs (g : Guard) (rs : XReg) (n : BitVec 11)
  | csrc (g : Guard) (rs : XReg) (n : BitVec 11)
  | vget (g : Guard) (sz : LaneSize) (rd : XReg) (va : VReg) (rb : XReg)
  | kpopc (g : Guard) (rd : XReg) (ka : KReg)
  | kfirst (g : Guard) (rd : XReg) (ka : KReg)
  | kgetw (g : Guard) (rd : XReg) (ka : KReg) (rb : XReg)
  | ksetw (g : Guard) (kd : KReg) (ra rb : XReg)
  -- a head in spaces 6 and 7, with the parcels R97 gives it
  | future (head : Parcel) (rest : List Parcel)
  -- V: loads and stores, atomics (R144 to R152)
  | vld (f : VF)
  | vlds (f : VF)
  | vldg (f : VF)
  | vldt (f : VF)
  | vldth (f : VF)
  | vldb (f : VF)
  | vst (f : VF)
  | vsts (f : VF)
  | vstx (f : VF)
  | vstt (f : VF)
  | vstn (f : VF)
  | vamo (op : VAmoOp) (f : VF)
  -- V: integer, logic, bits (R153)
  | vadd (f : VF)
  | vsub (f : VF)
  | vmul (f : VF)
  | vmulh (f : VF)
  | vmin (f : VF)
  | vmax (f : VF)
  | vabs (f : VF)
  | vneg (f : VF)
  | vmad (f : VF)
  | vmsub (f : VF)
  | vaddsat (f : VF)
  | vsubsat (f : VF)
  | vand (f : VF)
  | vor (f : VF)
  | vxor (f : VF)
  | vandn (f : VF)
  | vnot (f : VF)
  | vshl (f : VF)
  | vshr (f : VF)
  | vsra (f : VF)
  | vpopc (f : VF)
  | vclz (f : VF)
  | vctz (f : VF)
  | vbrev (f : VF)
  -- V: floating arithmetic, approximations (R154, R155)
  | vfadd (f : VF)
  | vfsub (f : VF)
  | vfmul (f : VF)
  | vfmin (f : VF)
  | vfmax (f : VF)
  | vfabs (f : VF)
  | vfneg (f : VF)
  | vfsgn (f : VF)
  | vfma (f : VF)
  | vfms (f : VF)
  | vfnma (f : VF)
  | vfnms (f : VF)
  | vrsqa (f : VF)
  | vrcpa (f : VF)
  | vexpa (f : VF)
  | vloga (f : VF)
  | vsqrt (f : VF)
  | vfdiv (f : VF)
  -- V: compares, moves, permutes, reductions (R157 to R161)
  | vcmp (c : VCond) (f : VF)
  | vsel (f : VF)
  | vmov (f : VF)
  | viota (f : VF)
  | vbcast (f : VF)
  | vpop (f : VF)
  | vperm (f : VF)
  | vslideup (f : VF)
  | vslidedn (f : VF)
  | vzip (f : VF)
  | vunzip (f : VF)
  | vrev (f : VF)
  | vrsum (f : VF)
  | vrmin (f : VF)
  | vrmax (f : VF)
  | vfrsum (f : VF)
  | vfrmin (f : VF)
  | vfrmax (f : VF)
  | vrand (f : VF)
  | vror (f : VF)
  -- V: widening, narrowing, conversion, checksums, mask logic (R162 to R170)
  | vwadd (f : VF)
  | vwmul (f : VF)
  | vwmad (f : VF)
  | vwcvt (f : VF)
  | vwcvt4 (f : VF)
  | vnsat (f : VF)
  | vntrunc (f : VF)
  | vcvt (f : VF)
  | vcvts (f : VF)
  | vcvtd (f : VF)
  | vcvtq (f : VF)
  | vcks (f : VF)
  | vckv (f : VF)
  | vckx (f : VF)
  | vcki (f : VF)
  | kand (f : VF)
  | kor (f : VF)
  | kxor (f : VF)
  | kandn (f : VF)
  | knot (f : VF)
  | kmov (f : VF)
  | kset (f : VF)
  | kclr (f : VF)
  -- the words every engine has (R91)
  | lit (e : Eng) (n : BitVec 8)
  | lith (e : Eng) (n : BitVec 8)
  | lit32 (e : Eng) (n : Word32)
  | dup (e : Eng)
  | drop (e : Eng)
  | swap (e : Eng)
  | over (e : Eng)
  | rot (e : Eng)
  -- M words (R215 to R223)
  | mSbase (wspace : Bool) (st : StreamNo)
  | mSfmt (st : StreamNo)
  | mSgeo (st : StreamNo)
  | mSscl (st : StreamNo)
  | mSidx (st : StreamNo)
  | mSout (st : StreamNo)
  | mNest (level : Fin 8)
  | mTrack (t : Fin 16)
  | mGo (outl clr : Bool) (z : ZReg)
  | mZero (z : ZReg)
  | mLoad (heal : Bool) (z : ZReg)
  | mStore (z : ZReg)
  | mStat (sel : BitVec 8)
  | mTol (n : BitVec 5)
  -- X words (R239 to R243); the selectors keep every bit the word may carry, since a value out of range traps
  | xSrc (space : BitVec 8)
  | xDst (space : BitVec 8)
  | xCk (kind : BitVec 8)
  | xGo (adv b4 : Bool) (track : Fin 16)
  | xFill (adv b4 : Bool) (track : Fin 16)
  | xWprog (adv : Bool) (track : Fin 16)
  | xWverify (adv : Bool) (track : Fin 16)
  -- P words (R254)
  | pStat (sel : BitVec 8)
  -- S words (R318 to R322)
  | sOpen (sel : BitVec 8)
  | sAbs (n : BitVec 6)
  | sFin (n : BitVec 6)
  | sAbt (n : BitVec 6)
  | sQry (n : BitVec 6)
  -- the engine words without a field (R216, R218, R239, R242, R254, R320); they stand here because the runtime bounds
  -- the number of a constructor with fields
  | mNclr
  | mWaitc
  | mDith
  | xLen
  | xStr
  | xCke
  | xMod
  | xWaitc
  | xCkget
  | pCfg
  | pClr
  | pIns
  | pMerge
  | pSave
  | pLoad
  | pCnt
  | pSpill
  | sMeta
  -- events of the engines of a core: one unit of a command, or its completion
  | matrixBlock (c : CoreId) (seq : Nat)
  | mCommandComplete (c : CoreId) (seq : Nat)
  | xChunk (c : CoreId) (seq : Nat)
  | xCommandComplete (c : CoreId) (seq : Nat)
  | pArrival (c : CoreId)
  | sAbsorbBlock (c : CoreId) (seq : Nat)
  | signatureComplete (c : CoreId) (seq : Nat)
  -- waits, milestones, freezes
  | waitcSatisfied (c : CoreId)
  | waitingWordSatisfied (c : CoreId) (seq : Nat)
  | waitOverdue (c : CoreId) (word : Option Nat)
  | milestoneOverdue (c : CoreId)
  | freeze (c : CoreId)
  | freezeEnd (c : CoreId)
  | freezeOverdue (c : CoreId)
  -- reliability
  | timingReplay (c : CoreId) (again : Option Consumer)
  | laneTest (c : CoreId) (matrix : Bool) (lane : BitVec 10)
  | wakeTest (c : CoreId) (pass : Bool)
  -- pre-emption
  | preemptionRequest (c : CoreId)
  | contextSave (c : CoreId) (torn : Bool)
  | resume (c : CoreId) (idx : Nat)
  -- the junction
  | dispatchDecision (k : ClusterId) (cores : List CoreId)
  | inputStaging (c : CoreId)
  | dispatch (c : CoreId) (resid : Fin 7)
  | taskRetire (c : CoreId)
  | barrierRelease (job launch : Nat)
  | generationSweep (job : Nat) (gen : BitVec 4)
  | atomicGrant (k : ClusterId)
  -- traps
  | trapPost (c : CoreId)
  | trapResume (k : ClusterId) (slot : Nat) (edits : List RegEdit)
  | trapKill (k : ClusterId) (slot : Nat)
  -- the weight tier
  | causewayRepair (d : DieId) (col : Fin 64) (failing : List (BitVec 13)) (met : List BeatReader)
  | causewayRepairComplete (d : DieId) (col : Fin 64)
  | weightRowProgram (d : DieId) (readBack : List Bool)
  | bankTooHot (d : DieId) (bank : Fin 1024)
  | bankCooled (d : DieId) (bank : Fin 1024)
  | remappingStep (d : DieId) (bad : List ColumnFailure)
  -- power
  | powerGood (bad : List ColumnFailure) (hot : List (DieId × Fin 1024)) (bar2 : Nat)
  | warmReset (bad : List ColumnFailure) (caught : List Nat)
  | powerLoss (caught : List Nat)
  -- the monitor and the device registers
  | monitorEvent (d : DieId) (sysCore : Fin 4) (mcause mepc mtval : Word64) (xs : List Word64)
  | tlbinvWrite (d : DieId) (v : Word64)
  | tlbinvComplete (d : DieId)
  | fatsetWrite (d : DieId) (v : Word64)
  | fatsetComplete (d : DieId)
  | milemaxWrite (c : CoreId) (v : Word64)
  | srtailWrite (k : ClusterId) (v : Word32)
  | registerWrite (pa : Nat) (doubleword : Bool) (v : Word64) (machineMode : Bool)
  -- the host
  | pcieMemoryRequest (bar0 : Bool) (offset : Nat) (write : Option (List Byte)) (len : Nat)
  | loadImage (tag : BitVec 16) (job : Nat) (hostAddr len : Nat) (sha : List Byte) (secs : List ImageSection)
      (blocks : List (Nat × Nat))
  | createJob (tag : BitVec 16) (a : JobArgs)
  | submitPhase (tag : BitVec 16) (job addr : Nat)
  | mailboxCancel (tag : BitVec 16) (level : BitVec 2) (job number : Nat)
  | query (tag : BitVec 16) (sel : QuerySel)
  | programWeights (tag : BitVec 16) (hostAddr wAddr len : Word64) (flags : Word32) (place : Option (Nat × List Nat))
      (bad : List ColumnFailure)
  | resetScrub (tag : BitVec 16) (confidential : Bool) (bad : List ColumnFailure)
  | debugAttach (tag : BitVec 16) (job launch : Nat) (index : Word32) (token : Option (List Byte))
  | getVersion | getCapabilities
  | negotiateAlgorithms (asym hash dhe aead : Word32)
  | getDigests
  | getCertificate (slot : Fin 8) (offset len : Nat)
  | challenge (slot : Fin 8) (nonce : List Byte)
  | getMeasurements (index : Fin 256) (signed : Bool) (nonce : List Byte)
  | keyExchange (share : List Byte)
  | finish (verify : List Byte)
  | endSession
  -- the fabric
  | data (p : PortId) (f : Flit) (full : Bool)
  | end_ (p : PortId) (f : Flit) (full : Bool)
  | pdone (p : PortId) (f : Flit) (full : Bool)
  | ack (p : PortId) (f : Flit)
  | nak (p : PortId) (f : Flit)
  | cairn (p : PortId) (f : Flit) (full : Bool)
  | keySwitchover (p : PortId)
  | nakTimer (p : PortId)
  | ackTimer (p : PortId)
  | replayTimer (p : PortId)
  | noreply (c : CoreId) (seq : Nat)
  -- surroundings
  | softError (e : SoftError)
  | systemCoreWrite (pa : Nat) (bytes : List Byte)
  | parkedContextMove (c : CoreId) (idx : Nat) (dest : Option CoreId) (debugEvent : Bool)
  | linkBringUp (p : PortId) (peer : BitVec 20) (peerIsSwitch : Bool) (secretTx secretRx : List Byte)
      (saltTx saltRx : Word32)
  | flashWrite (offset : Nat) (bytes : List Byte)
  | mailboxBadCommand (tag : BitVec 16) (code : BitVec 16) (len : Nat)
  deriving DecidableEq, Repr

end Sys2Proof
end

