-- ==== Sys2Proof/Decode.lean ====
section
/-!
DEFINITION. Decode.lean: reading instruction text (R76 to R97) and writing it. The decoder is total on any parcels: it
gives an instruction, or the detail code of R96 that stands first, or says that the text is too short. The encoder
writes the parcels of an instruction from the same tables of the spec. Fields are read and written as numbers.
-/

namespace Sys2Proof

/-! ### Detail codes, lengths, fields -/

/-- The conditions of R96 under which an encoding is no instruction. -/
inductive IllDetail where
  | future | opcode | subcode | literal | field | guard | align | elemtype | rep | format
  deriving DecidableEq, Repr

/-- The detail code of a condition (R96). -/
def IllDetail.code : IllDetail → Byte
  | .future => 0 | .opcode => 1 | .subcode => 2 | .literal => 3 | .field => 4
  | .guard => 5 | .align => 6 | .elemtype => 7 | .rep => 8 | .format => 9

/-- What the decoder says of a text: an instruction, an illegal encoding, or a text shorter than its head says. -/
inductive Decoded where
  | instr (i : Instr)
  | illegal (d : IllDetail)
  | short
  deriving DecidableEq, Repr

/-- Whether a form may, must or must not carry a trailing literal (R84, R87). -/
inductive LitRule where
  | forbidden | optional | required
  deriving DecidableEq, Repr

/-- Whether the presence of a literal obeys the rule. -/
def LitRule.allows : LitRule → Bool → Bool
  | .forbidden, l => !l
  | .optional, _ => true
  | .required, l => l

/-- The field of `n` bits at bit `lo` of a number. -/
def bitsAt (w lo n : Nat) : Nat := w / 2 ^ lo % 2 ^ n

/-- A bit as a number. -/
def bitNat (b : Bool) : Nat := if b then 1 else 0

/-- Bit `lo` of a number. -/
def bitAt (w lo : Nat) : Bool := decide (w / 2 ^ lo % 2 = 1)

/-- The length of an instruction in parcels, from its head alone (R78, R97). -/
def headParcels (h : Parcel) : Nat :=
  let cls := bitsAt h.toNat 13 3
  if cls = 0 then (if bitAt h.toNat 3 then 4 else 2)
  else if cls = 1 then (if bitAt h.toNat 0 then 5 else 3)
  else if cls < 6 then (if bitsAt h.toNat 8 5 = 2 then 3 else 1)
  else bitsAt h.toNat 11 2 + 1

/-- A register number of five bits at bit `lo`. -/
def reg5 (w lo : Nat) : Fin 32 := Fin.ofNat 32 (w / 2 ^ lo)
/-- A register number of three bits at bit `lo`. -/
def reg3 (w lo : Nat) : Fin 8 := Fin.ofNat 8 (w / 2 ^ lo)

/-- The 32-bit literal of two parcels, low parcel first (R78). -/
def litOf (lo hi : Parcel) : Word32 := BitVec.ofNat 32 (lo.toNat + 65536 * hi.toNat)

/-- The two parcels of a literal. -/
def litParcels (l : Word32) : List Parcel := [BitVec.ofNat 16 l.toNat, BitVec.ofNat 16 (l.toNat / 65536)]

/-! ### System register numbers (R405) -/

/-- Whether an 11-bit number is assigned to a system register (R85, R405). -/
def csrAssigned (n : BitVec 11) : Bool :=
  let k := n.toNat
  decide (k ≤ 0x004) || (decide (0x010 ≤ k) && decide (k ≤ 0x018)) || (decide (0x020 ≤ k) && decide (k ≤ 0x022)) ||
  (decide (0x028 ≤ k) && decide (k ≤ 0x02A)) || (decide (0x030 ≤ k) && decide (k ≤ 0x043)) ||
  (decide (0x080 ≤ k) && decide (k ≤ 0x083)) || decide (k = 0x0C0)

/-! ### Vector forms (R87 to R89) -/

/-- What a register field of a V form holds (R88). -/
inductive Slot where
  | queue | xreg | mask | zero | aliasClass | one
  deriving DecidableEq, Repr

/-- What the u bit of a form may be. -/
inductive URule where
  | zero | one | any | int
  deriving DecidableEq, Repr

/-- What the fields k and kz of a form may be: any mask, k alone, or both zero. -/
inductive MaskRule where
  | any | kzZero | none
  deriving DecidableEq, Repr

/-- The encoding of a V form: op and sub-code (R89), what vd, va, vb and vc hold (R88), and the rules for u, the mask
and the literal (R87). -/
structure VForm where
  op   : Nat
  sub  : Nat
  vd   : Slot
  va   : Slot
  vb   : Slot
  vc   : Slot
  u    : URule
  mask : MaskRule
  lit  : LitRule
  deriving DecidableEq, Repr

/-- Sub-code of a VAMO operation (R89). -/
def VAmoOp.sub : VAmoOp → Nat
  | .add => 0 | .or => 1 | .and => 2 | .xor => 3 | .min => 4 | .max => 5
/-- Sub-code of a VCMP condition (R89). -/
def VCond.sub : VCond → Nat
  | .eq => 0 | .ne => 1 | .lt => 2 | .le => 3 | .gt => 4 | .ge => 5 | .un => 6
/-- Sub-code of a CMP condition (R84). -/
def Cond.sub : Cond → Nat
  | .eq => 0 | .ne => 1 | .lt => 2 | .ge => 3 | .ltu => 4 | .geu => 5 | .tst => 6
/-- Sub-code of a VGET size (R84). -/
def LaneSize.sub : LaneSize → Nat
  | .b => 0 | .h => 1 | .w => 2 | .d => 3
/-- Class number of an engine (R77). -/
def Eng.cls : Eng → Nat
  | .m => 2 | .x => 3 | .p => 4 | .s => 5

/-- The form and the fields of a V instruction. -/
def vForm : Instr → Option (VForm × VF)
  | .vld f => some (⟨0, 0, .queue, .xreg, .zero, .aliasClass, .zero, .any, .optional⟩, f)
  | .vlds f => some (⟨0, 1, .queue, .xreg, .xreg, .aliasClass, .zero, .any, .optional⟩, f)
  | .vldg f => some (⟨0, 2, .queue, .xreg, .queue, .aliasClass, .zero, .any, .optional⟩, f)
  | .vldt f => some (⟨0, 3, .queue, .xreg, .zero, .aliasClass, .zero, .none, .optional⟩, f)
  | .vldth f => some (⟨0, 3, .queue, .xreg, .zero, .aliasClass, .one, .none, .optional⟩, f)
  | .vldb f => some (⟨0, 4, .queue, .xreg, .zero, .aliasClass, .zero, .any, .optional⟩, f)
  | .vst f => some (⟨1, 0, .zero, .xreg, .queue, .aliasClass, .zero, .any, .optional⟩, f)
  | .vsts f => some (⟨1, 1, .xreg, .xreg, .queue, .aliasClass, .zero, .any, .optional⟩, f)
  | .vstx f => some (⟨1, 2, .queue, .xreg, .queue, .aliasClass, .zero, .any, .optional⟩, f)
  | .vstt f => some (⟨1, 3, .zero, .xreg, .queue, .aliasClass, .zero, .none, .optional⟩, f)
  | .vstn f => some (⟨1, 4, .zero, .xreg, .queue, .aliasClass, .zero, .any, .optional⟩, f)
  | .vamo o f => some (⟨2, o.sub, if f.u then .queue else .zero, .queue, .queue, .xreg, .any, .any, .optional⟩, f)
  | .vadd f => some (⟨3, 0, .queue, .queue, .queue, .zero, .zero, .any, .forbidden⟩, f)
  | .vsub f => some (⟨3, 1, .queue, .queue, .queue, .zero, .zero, .any, .forbidden⟩, f)
  | .vmul f => some (⟨3, 2, .queue, .queue, .queue, .zero, .zero, .any, .forbidden⟩, f)
  | .vmulh f => some (⟨3, 3, .queue, .queue, .queue, .zero, .any, .any, .forbidden⟩, f)
  | .vmin f => some (⟨3, 4, .queue, .queue, .queue, .zero, .any, .any, .forbidden⟩, f)
  | .vmax f => some (⟨3, 5, .queue, .queue, .queue, .zero, .any, .any, .forbidden⟩, f)
  | .vabs f => some (⟨3, 6, .queue, .queue, .zero, .zero, .zero, .any, .forbidden⟩, f)
  | .vneg f => some (⟨3, 7, .queue, .queue, .zero, .zero, .zero, .any, .forbidden⟩, f)
  | .vmad f => some (⟨4, 0, .queue, .queue, .queue, .queue, .zero, .any, .forbidden⟩, f)
  | .vmsub f => some (⟨4, 1, .queue, .queue, .queue, .queue, .zero, .any, .forbidden⟩, f)
  | .vaddsat f => some (⟨4, 2, .queue, .queue, .queue, .zero, .any, .any, .forbidden⟩, f)
  | .vsubsat f => some (⟨4, 3, .queue, .queue, .queue, .zero, .any, .any, .forbidden⟩, f)
  | .vand f => some (⟨5, 0, .queue, .queue, .queue, .zero, .zero, .any, .forbidden⟩, f)
  | .vor f => some (⟨5, 1, .queue, .queue, .queue, .zero, .zero, .any, .forbidden⟩, f)
  | .vxor f => some (⟨5, 2, .queue, .queue, .queue, .zero, .zero, .any, .forbidden⟩, f)
  | .vandn f => some (⟨5, 3, .queue, .queue, .queue, .zero, .zero, .any, .forbidden⟩, f)
  | .vnot f => some (⟨5, 4, .queue, .queue, .zero, .zero, .zero, .any, .forbidden⟩, f)
  | .vshl f => some (⟨5, 5, .queue, .queue, .queue, .zero, .zero, .any, .forbidden⟩, f)
  | .vshr f => some (⟨5, 6, .queue, .queue, .queue, .zero, .zero, .any, .forbidden⟩, f)
  | .vsra f => some (⟨5, 7, .queue, .queue, .queue, .zero, .zero, .any, .forbidden⟩, f)
  | .vpopc f => some (⟨6, 0, .queue, .queue, .zero, .zero, .zero, .any, .forbidden⟩, f)
  | .vclz f => some (⟨6, 1, .queue, .queue, .zero, .zero, .zero, .any, .forbidden⟩, f)
  | .vctz f => some (⟨6, 2, .queue, .queue, .zero, .zero, .zero, .any, .forbidden⟩, f)
  | .vbrev f => some (⟨6, 3, .queue, .queue, .zero, .zero, .zero, .any, .forbidden⟩, f)
  | .vfadd f => some (⟨7, 0, .queue, .queue, .queue, .zero, .zero, .any, .forbidden⟩, f)
  | .vfsub f => some (⟨7, 1, .queue, .queue, .queue, .zero, .zero, .any, .forbidden⟩, f)
  | .vfmul f => some (⟨7, 2, .queue, .queue, .queue, .zero, .zero, .any, .forbidden⟩, f)
  | .vfmin f => some (⟨7, 3, .queue, .queue, .queue, .zero, .zero, .any, .forbidden⟩, f)
  | .vfmax f => some (⟨7, 4, .queue, .queue, .queue, .zero, .zero, .any, .forbidden⟩, f)
  | .vfabs f => some (⟨7, 5, .queue, .queue, .zero, .zero, .zero, .any, .forbidden⟩, f)
  | .vfneg f => some (⟨7, 6, .queue, .queue, .zero, .zero, .zero, .any, .forbidden⟩, f)
  | .vfsgn f => some (⟨7, 7, .queue, .queue, .queue, .zero, .zero, .any, .forbidden⟩, f)
  | .vfma f => some (⟨8, 0, .queue, .queue, .queue, .queue, .zero, .any, .forbidden⟩, f)
  | .vfms f => some (⟨8, 1, .queue, .queue, .queue, .queue, .zero, .any, .forbidden⟩, f)
  | .vfnma f => some (⟨8, 2, .queue, .queue, .queue, .queue, .zero, .any, .forbidden⟩, f)
  | .vfnms f => some (⟨8, 3, .queue, .queue, .queue, .queue, .zero, .any, .forbidden⟩, f)
  | .vrsqa f => some (⟨9, 0, .queue, .queue, .zero, .zero, .zero, .any, .forbidden⟩, f)
  | .vrcpa f => some (⟨9, 1, .queue, .queue, .zero, .zero, .zero, .any, .forbidden⟩, f)
  | .vexpa f => some (⟨9, 2, .queue, .queue, .zero, .zero, .zero, .any, .forbidden⟩, f)
  | .vloga f => some (⟨9, 3, .queue, .queue, .zero, .zero, .zero, .any, .forbidden⟩, f)
  | .vsqrt f => some (⟨9, 4, .queue, .queue, .zero, .zero, .zero, .any, .forbidden⟩, f)
  | .vfdiv f => some (⟨9, 5, .queue, .queue, .queue, .zero, .zero, .any, .forbidden⟩, f)
  | .vcmp c f => some (⟨10, c.sub, .mask, .queue, .queue, .zero, if 2 ≤ c.sub ∧ c.sub ≤ 5 then .int else .zero, .any, .forbidden⟩, f)
  | .vsel f => some (⟨11, 0, .queue, .queue, .queue, .zero, .zero, .kzZero, .forbidden⟩, f)
  | .vmov f => some (⟨11, 1, .queue, .queue, .zero, .zero, .zero, .any, .forbidden⟩, f)
  | .viota f => some (⟨11, 2, .queue, .zero, .zero, .zero, .zero, .any, .forbidden⟩, f)
  | .vbcast f => some (⟨11, 3, .queue, .xreg, .zero, .zero, .zero, .any, .forbidden⟩, f)
  | .vpop f => some (⟨11, 4, .zero, .queue, .zero, .zero, .zero, .none, .forbidden⟩, f)
  | .vperm f => some (⟨12, 0, .queue, .queue, .queue, .zero, .zero, .any, .forbidden⟩, f)
  | .vslideup f => some (⟨12, 1, .queue, .queue, if f.lit.isSome then .zero else .xreg, .zero, .zero, .any, .optional⟩, f)
  | .vslidedn f => some (⟨12, 2, .queue, .queue, if f.lit.isSome then .zero else .xreg, .zero, .zero, .any, .optional⟩, f)
  | .vzip f => some (⟨12, 3, .queue, .queue, .queue, .zero, .zero, .any, .forbidden⟩, f)
  | .vunzip f => some (⟨12, 4, .queue, .queue, .queue, .zero, .zero, .any, .forbidden⟩, f)
  | .vrev f => some (⟨12, 5, .queue, .queue, .zero, .zero, .zero, .any, .forbidden⟩, f)
  | .vrsum f => some (⟨13, 0, .queue, .queue, .zero, .zero, .zero, .kzZero, .forbidden⟩, f)
  | .vrmin f => some (⟨13, 1, .queue, .queue, .zero, .zero, .any, .kzZero, .forbidden⟩, f)
  | .vrmax f => some (⟨13, 2, .queue, .queue, .zero, .zero, .any, .kzZero, .forbidden⟩, f)
  | .vfrsum f => some (⟨13, 3, .queue, .queue, .zero, .zero, .zero, .kzZero, .forbidden⟩, f)
  | .vfrmin f => some (⟨13, 4, .queue, .queue, .zero, .zero, .zero, .kzZero, .forbidden⟩, f)
  | .vfrmax f => some (⟨13, 5, .queue, .queue, .zero, .zero, .zero, .kzZero, .forbidden⟩, f)
  | .vrand f => some (⟨13, 6, .queue, .queue, .zero, .zero, .zero, .kzZero, .forbidden⟩, f)
  | .vror f => some (⟨13, 7, .queue, .queue, .zero, .zero, .zero, .kzZero, .forbidden⟩, f)
  | .vwadd f => some (⟨14, 0, .queue, .queue, .queue, .zero, .int, .any, .forbidden⟩, f)
  | .vwmul f => some (⟨14, 1, .queue, .queue, .queue, .zero, .int, .any, .forbidden⟩, f)
  | .vwmad f => some (⟨14, 2, .queue, .queue, .queue, .queue, .int, .any, .forbidden⟩, f)
  | .vwcvt f => some (⟨14, 3, .queue, .queue, .zero, .zero, .int, .any, .forbidden⟩, f)
  | .vwcvt4 f => some (⟨14, 3, .queue, .queue, .one, .zero, .int, .any, .forbidden⟩, f)
  | .vnsat f => some (⟨15, 0, .queue, .queue, .zero, .zero, .int, .any, .forbidden⟩, f)
  | .vntrunc f => some (⟨15, 1, .queue, .queue, .zero, .zero, .zero, .any, .forbidden⟩, f)
  | .vcvt f => some (⟨16, 0, .queue, .queue, .zero, .zero, .zero, .any, .required⟩, f)
  | .vcvts f => some (⟨16, 1, .queue, .queue, .queue, .zero, .zero, .any, .required⟩, f)
  | .vcvtd f => some (⟨16, 2, .queue, .queue, .zero, .zero, .zero, .any, .required⟩, f)
  | .vcvtq f => some (⟨16, 3, .queue, .queue, .zero, .zero, .zero, .any, .required⟩, f)
  | .vcks f => some (⟨17, 0, .queue, .queue, .zero, .zero, .zero, .none, .forbidden⟩, f)
  | .vckv f => some (⟨17, 1, .zero, .queue, .zero, .zero, .zero, .none, .forbidden⟩, f)
  | .vckx f => some (⟨17, 2, .queue, .queue, .zero, .zero, .zero, .none, .forbidden⟩, f)
  | .vcki f => some (⟨17, 3, .queue, .queue, .queue, .zero, .zero, .none, .forbidden⟩, f)
  | .kand f => some (⟨18, 0, .mask, .mask, .mask, .zero, .zero, .none, .forbidden⟩, f)
  | .kor f => some (⟨18, 1, .mask, .mask, .mask, .zero, .zero, .none, .forbidden⟩, f)
  | .kxor f => some (⟨18, 2, .mask, .mask, .mask, .zero, .zero, .none, .forbidden⟩, f)
  | .kandn f => some (⟨18, 3, .mask, .mask, .mask, .zero, .zero, .none, .forbidden⟩, f)
  | .knot f => some (⟨18, 4, .mask, .mask, .zero, .zero, .zero, .none, .forbidden⟩, f)
  | .kmov f => some (⟨18, 5, .mask, .mask, .zero, .zero, .zero, .none, .forbidden⟩, f)
  | .kset f => some (⟨18, 6, .mask, .zero, .zero, .zero, .zero, .none, .forbidden⟩, f)
  | .kclr f => some (⟨18, 7, .mask, .zero, .zero, .zero, .zero, .none, .forbidden⟩, f)
  | _ => none

/-- The V instruction of an op and sub-code (R89): none where the pair is reserved. VLDT and VLDTH differ in u (R144),
VWCVT and VWCVT4 in vb (R163). -/
def vCand (op sub : Nat) (f : VF) : Option Instr :=
  match op with
  | 0 =>
    match sub with
    | 0 => some (.vld f)
    | 1 => some (.vlds f)
    | 2 => some (.vldg f)
    | 3 => some (if f.u then .vldth f else .vldt f)
    | 4 => some (.vldb f)
    | _ => none
  | 1 =>
    match sub with
    | 0 => some (.vst f)
    | 1 => some (.vsts f)
    | 2 => some (.vstx f)
    | 3 => some (.vstt f)
    | 4 => some (.vstn f)
    | _ => none
  | 2 =>
    match sub with
    | 0 => some (.vamo .add f)
    | 1 => some (.vamo .or f)
    | 2 => some (.vamo .and f)
    | 3 => some (.vamo .xor f)
    | 4 => some (.vamo .min f)
    | 5 => some (.vamo .max f)
    | _ => none
  | 3 =>
    match sub with
    | 0 => some (.vadd f)
    | 1 => some (.vsub f)
    | 2 => some (.vmul f)
    | 3 => some (.vmulh f)
    | 4 => some (.vmin f)
    | 5 => some (.vmax f)
    | 6 => some (.vabs f)
    | 7 => some (.vneg f)
    | _ => none
  | 4 =>
    match sub with
    | 0 => some (.vmad f)
    | 1 => some (.vmsub f)
    | 2 => some (.vaddsat f)
    | 3 => some (.vsubsat f)
    | _ => none
  | 5 =>
    match sub with
    | 0 => some (.vand f)
    | 1 => some (.vor f)
    | 2 => some (.vxor f)
    | 3 => some (.vandn f)
    | 4 => some (.vnot f)
    | 5 => some (.vshl f)
    | 6 => some (.vshr f)
    | 7 => some (.vsra f)
    | _ => none
  | 6 =>
    match sub with
    | 0 => some (.vpopc f)
    | 1 => some (.vclz f)
    | 2 => some (.vctz f)
    | 3 => some (.vbrev f)
    | _ => none
  | 7 =>
    match sub with
    | 0 => some (.vfadd f)
    | 1 => some (.vfsub f)
    | 2 => some (.vfmul f)
    | 3 => some (.vfmin f)
    | 4 => some (.vfmax f)
    | 5 => some (.vfabs f)
    | 6 => some (.vfneg f)
    | 7 => some (.vfsgn f)
    | _ => none
  | 8 =>
    match sub with
    | 0 => some (.vfma f)
    | 1 => some (.vfms f)
    | 2 => some (.vfnma f)
    | 3 => some (.vfnms f)
    | _ => none
  | 9 =>
    match sub with
    | 0 => some (.vrsqa f)
    | 1 => some (.vrcpa f)
    | 2 => some (.vexpa f)
    | 3 => some (.vloga f)
    | 4 => some (.vsqrt f)
    | 5 => some (.vfdiv f)
    | _ => none
  | 10 =>
    match sub with
    | 0 => some (.vcmp .eq f)
    | 1 => some (.vcmp .ne f)
    | 2 => some (.vcmp .lt f)
    | 3 => some (.vcmp .le f)
    | 4 => some (.vcmp .gt f)
    | 5 => some (.vcmp .ge f)
    | 6 => some (.vcmp .un f)
    | _ => none
  | 11 =>
    match sub with
    | 0 => some (.vsel f)
    | 1 => some (.vmov f)
    | 2 => some (.viota f)
    | 3 => some (.vbcast f)
    | 4 => some (.vpop f)
    | _ => none
  | 12 =>
    match sub with
    | 0 => some (.vperm f)
    | 1 => some (.vslideup f)
    | 2 => some (.vslidedn f)
    | 3 => some (.vzip f)
    | 4 => some (.vunzip f)
    | 5 => some (.vrev f)
    | _ => none
  | 13 =>
    match sub with
    | 0 => some (.vrsum f)
    | 1 => some (.vrmin f)
    | 2 => some (.vrmax f)
    | 3 => some (.vfrsum f)
    | 4 => some (.vfrmin f)
    | 5 => some (.vfrmax f)
    | 6 => some (.vrand f)
    | 7 => some (.vror f)
    | _ => none
  | 14 =>
    match sub with
    | 0 => some (.vwadd f)
    | 1 => some (.vwmul f)
    | 2 => some (.vwmad f)
    | 3 => some (if f.vb = 1 then .vwcvt4 f else .vwcvt f)
    | _ => none
  | 15 =>
    match sub with
    | 0 => some (.vnsat f)
    | 1 => some (.vntrunc f)
    | _ => none
  | 16 =>
    match sub with
    | 0 => some (.vcvt f)
    | 1 => some (.vcvts f)
    | 2 => some (.vcvtd f)
    | 3 => some (.vcvtq f)
    | _ => none
  | 17 =>
    match sub with
    | 0 => some (.vcks f)
    | 1 => some (.vckv f)
    | 2 => some (.vckx f)
    | 3 => some (.vcki f)
    | _ => none
  | 18 =>
    match sub with
    | 0 => some (.kand f)
    | 1 => some (.kor f)
    | 2 => some (.kxor f)
    | 3 => some (.kandn f)
    | 4 => some (.knot f)
    | 5 => some (.kmov f)
    | 6 => some (.kset f)
    | 7 => some (.kclr f)
    | _ => none
  | _ => none

/-- Whether a register field with its peek bit obeys its slot (R87, R88). -/
def Slot.ok (s : Slot) (r : VReg) (peek : Bool) : Bool :=
  match s with
  | .queue => true
  | .xreg => !peek
  | .mask => !peek && decide (r.val < 8)
  | .zero => !peek && decide (r.val = 0)
  | .aliasClass => !peek && decide (r.val < 4)
  | .one => !peek && decide (r.val = 1)

/-- INT8, INT16, INT32 and INT4 (R11). -/
def etIsInt (et : BitVec 4) : Bool := decide (et.toNat ≤ 3)

/-- Whether the group of an op allows an element type (R50); for VAMO, FP32 is allowed only as min and max. -/
def etAllowed (op sub : Nat) (et : BitVec 4) : Bool :=
  let isMem := decide (op = 0) || decide (op = 1)
  let isMove := decide (op = 11) || decide (op = 12)
  let isCvt := decide (op = 16)
  let isCk := decide (op = 17)
  let isFloat := decide (op = 7) || decide (op = 8)
  let isApprox := decide (op = 9)
  let isAtomic := decide (op = 2)
  let isIntLogic := decide (op = 3) || decide (op = 4) || decide (op = 5) || decide (op = 6)
  match et.toNat with
  | 0 | 1 | 2 => !isFloat && !isApprox
  | 3 => !isFloat && !isApprox && !isAtomic
  | 4 | 5 => isMem || isMove || isCvt || isCk
  | 6 | 7 => !isIntLogic && !isAtomic && !isApprox
  | 8 => !isIntLogic && (!isAtomic || decide (sub = 4) || decide (sub = 5))
  | 9 => isMem || isCvt
  | _ => false

/-- Width in bits of an element of an et (R138); 0 for a reserved et. -/
def etWidth (et : BitVec 4) : Nat :=
  match et.toNat with
  | 0 => 8 | 1 => 16 | 2 => 32 | 3 => 4 | 4 => 8 | 5 => 8 | 6 => 16 | 7 => 16 | 8 => 32 | 9 => 8
  | _ => 0

/-- Width in bits of an element of a format code (R43); 0 for a reserved code. -/
def fmtWidth (fmt : BitVec 5) : Nat :=
  match fmt.toNat with
  | 0x00 => 32 | 0x01 => 16 | 0x02 => 16 | 0x03 => 8 | 0x04 => 8 | 0x05 => 6 | 0x06 => 6 | 0x07 => 4
  | 0x08 => 32 | 0x09 => 16 | 0x0A => 8 | 0x0B => 8 | 0x0C => 4 | 0x0D => 4 | 0x0E => 2 | 0x0F => 2
  | 0x10 => 1 | 0x11 => 8 | 0x12 => 6 | 0x13 => 4
  | _ => 0

/-- The registers that the destination of a VCVT spans (R166): the smallest of 1, 2 and 4 that holds the n target
elements; 0 when 4 do not, or the et is reserved. -/
def cvtGroup (et : BitVec 4) (lit : Word32) : Nat :=
  let w := etWidth et
  if w = 0 then 0 else
    let need := 4096 / w * fmtWidth (BitVec.ofNat 5 lit.toNat)
    if need ≤ 4096 then 1 else if need ≤ 8192 then 2 else if need ≤ 16384 then 4 else 0

/-- Whether the literal of a VCVT is free of reserved values (R165). -/
def cvtLitOk (sub : Nat) (lit : Word32) : Bool :=
  let l := lit.toNat
  decide (l < 1024) && decide (bitsAt l 5 3 ≠ 5) && decide (bitsAt l 5 3 ≠ 6) && decide (bitsAt l 0 5 < 0x14) &&
  (decide (sub ≠ 3) || decide (bitsAt l 0 5 = 0x11))

/-- Whether the fields of a V form hold what R87 and R88 and its page require. For a type that is no integer, u = 1 in the
forms of R163 and R164 counts as a u to which their pages give no meaning (log 78). -/
def vFieldOk (fm : VForm) (f : VF) : Bool :=
  fm.vd.ok f.vd false && fm.va.ok f.va f.qa && fm.vb.ok f.vb f.qb && fm.vc.ok f.vc f.qc &&
  !(f.kz && decide (f.k.val = 0)) &&
  (match fm.u with
   | .zero => !f.u
   | .one => f.u
   | .any => true
   | .int => !f.u || etIsInt f.et) &&
  (match fm.mask with
   | .any => true
   | .kzZero => !f.kz
   | .none => !f.kz && decide (f.k.val = 0)) &&
  !(decide (fm.op = 11) && decide (fm.sub = 4) && f.qa) &&
  (if fm.op = 16 then (match f.lit with | some l => cvtLitOk fm.sub l | none => true) else true)

/-- Whether destination groups and wide sources are aligned (R26, R159, R163, R164, R166). -/
def vAlignOk (fm : VForm) (f : VF) : Bool :=
  match fm.op with
  | 12 => if fm.sub = 3 ∨ fm.sub = 4 then decide (f.vd.val % 2 = 0) else true
  | 14 =>
    (if fm.sub = 3 ∧ f.vb.val = 1 then decide (f.vd.val % 4 = 0) else decide (f.vd.val % 2 = 0)) &&
    (if fm.sub = 2 then decide (f.vc.val % 2 = 0) else true)
  | 15 => decide (f.va.val % 2 = 0)
  | 16 =>
    (match f.lit with
     | some l => let g := cvtGroup f.et l; if g = 0 then true else decide (f.vd.val % g = 0)
     | none => true) &&
    (if fm.sub = 2 ∨ fm.sub = 3 then decide (f.vd.val ≠ 31) else true)
  | _ => true

/-- The encoding check of a guard: gp = 0 with gn = 1 is reserved (R80, R96). -/
def Guard.ok (g : Guard) : Bool := !(g.gn && decide (g.gp.val = 0))

/-- The first condition of R96 that a V form meets. -/
def vCheck (fm : VForm) (f : VF) : Option IllDetail :=
  if fm.op = 10 ∧ fm.sub = 6 ∧ etIsInt f.et then some .subcode
  else if !fm.lit.allows f.lit.isSome then some .literal
  else if !vFieldOk fm f then some .field
  else if !f.g.ok then some .guard
  else if !vAlignOk fm f then some .align
  else if fm.op ≠ 18 ∧ !etAllowed fm.op fm.sub f.et then some .elemtype
  else none

/-! ### Conditions on an instruction -/

/-- Whether a position and a width name a bit field (R84, R105). -/
def bitFieldOk (pos : BitVec 6) (wid : BitVec 7) : Bool :=
  decide (1 ≤ wid.toNat) && decide (pos.toNat + wid.toNat ≤ 64)

/-- Whether a compare's destinations differ, or both are p0 (R83). -/
def cpOk (pd pe : PReg) : Bool := !(decide (pd = pe) && decide (pe.val ≠ 0))

/-- The guard of a C or V instruction. -/
def guardOf : Instr → Option Guard
  | .nop g => some g
  | .trap g _ => some g
  | .brk g _ => some g
  | .mile g _ _ _ => some g
  | .rep g _ _ _ _ _ => some g
  | .ntdrain g => some g
  | .exit g => some g
  | .add g _ _ _ _ => some g
  | .sub g _ _ _ _ => some g
  | .and g _ _ _ _ => some g
  | .or g _ _ _ _ => some g
  | .xor g _ _ _ _ => some g
  | .shl g _ _ _ _ => some g
  | .shr g _ _ _ _ => some g
  | .sra g _ _ _ _ => some g
  | .addi g _ _ _ => some g
  | .addiLit g _ _ _ => some g
  | .movi g _ _ => some g
  | .moviLit g _ _ => some g
  | .andi g _ _ _ => some g
  | .andiLit g _ _ _ => some g
  | .ori g _ _ _ => some g
  | .oriLit g _ _ _ => some g
  | .xori g _ _ _ => some g
  | .xoriLit g _ _ _ => some g
  | .shli g _ _ _ => some g
  | .shliLit g _ _ _ => some g
  | .shri g _ _ _ => some g
  | .shriLit g _ _ _ => some g
  | .srai g _ _ _ => some g
  | .sraiLit g _ _ _ => some g
  | .mul g _ _ _ _ => some g
  | .mulh g _ _ _ _ => some g
  | .mulhu g _ _ _ _ => some g
  | .div g _ _ _ _ => some g
  | .divu g _ _ _ _ => some g
  | .rem g _ _ _ _ => some g
  | .remu g _ _ _ _ => some g
  | .min g _ _ _ _ => some g
  | .max g _ _ _ _ => some g
  | .minu g _ _ _ _ => some g
  | .maxu g _ _ _ _ => some g
  | .clz g _ _ _ => some g
  | .ctz g _ _ _ => some g
  | .popc g _ _ _ => some g
  | .rol g _ _ _ _ => some g
  | .sext g _ _ _ => some g
  | .zext g _ _ _ => some g
  | .bfx g _ _ _ _ => some g
  | .bfi g _ _ _ _ => some g
  | .lea g _ _ _ _ => some g
  | .cmp g _ _ _ _ _ => some g
  | .cmpi g _ _ _ _ _ => some g
  | .cmpiLit g _ _ _ _ _ => some g
  | .pand g _ _ _ => some g
  | .por g _ _ _ => some g
  | .pxor g _ _ _ => some g
  | .pandn g _ _ _ => some g
  | .pnot g _ _ => some g
  | .pmov g _ _ => some g
  | .pset g _ => some g
  | .pclr g _ => some g
  | .br g _ => some g
  | .call g _ => some g
  | .jmp g _ => some g
  | .callr g _ _ => some g
  | .ret g _ => some g
  | .ldB g _ _ _ _ _ => some g
  | .ldBLit g _ _ _ _ _ => some g
  | .ldH g _ _ _ _ _ => some g
  | .ldHLit g _ _ _ _ _ => some g
  | .ldW g _ _ _ _ _ => some g
  | .ldWLit g _ _ _ _ _ => some g
  | .ldD g _ _ _ _ => some g
  | .ldDLit g _ _ _ _ => some g
  | .stB g _ _ _ _ _ => some g
  | .stBLit g _ _ _ _ _ => some g
  | .stH g _ _ _ _ _ => some g
  | .stHLit g _ _ _ _ _ => some g
  | .stW g _ _ _ _ _ => some g
  | .stWLit g _ _ _ _ _ => some g
  | .stD g _ _ _ _ _ => some g
  | .stDLit g _ _ _ _ _ => some g
  | .aadd g _ _ _ _ => some g
  | .aand g _ _ _ _ => some g
  | .aor g _ _ _ _ => some g
  | .axor g _ _ _ _ => some g
  | .amin g _ _ _ _ => some g
  | .amax g _ _ _ _ => some g
  | .aswap g _ _ _ _ => some g
  | .cas g _ _ _ _ => some g
  | .spawn g _ _ _ => some g
  | .launch g _ _ => some g
  | .join g _ _ _ _ => some g
  | .cancel g _ _ => some g
  | .waitc g _ _ => some g
  | .bar g => some g
  | .tid g _ => some g
  | .ctopen g _ => some g
  | .ctclose g => some g
  | .csrr g _ _ => some g
  | .csrw g _ _ => some g
  | .csrs g _ _ => some g
  | .csrc g _ _ => some g
  | .vget g _ _ _ _ => some g
  | .kpopc g _ _ => some g
  | .kfirst g _ _ => some g
  | .kgetw g _ _ _ => some g
  | .ksetw g _ _ _ => some g
  | .vld f => some f.g
  | .vlds f => some f.g
  | .vldg f => some f.g
  | .vldt f => some f.g
  | .vldth f => some f.g
  | .vldb f => some f.g
  | .vst f => some f.g
  | .vsts f => some f.g
  | .vstx f => some f.g
  | .vstt f => some f.g
  | .vstn f => some f.g
  | .vadd f => some f.g
  | .vsub f => some f.g
  | .vmul f => some f.g
  | .vmulh f => some f.g
  | .vmin f => some f.g
  | .vmax f => some f.g
  | .vabs f => some f.g
  | .vneg f => some f.g
  | .vmad f => some f.g
  | .vmsub f => some f.g
  | .vaddsat f => some f.g
  | .vsubsat f => some f.g
  | .vand f => some f.g
  | .vor f => some f.g
  | .vxor f => some f.g
  | .vandn f => some f.g
  | .vnot f => some f.g
  | .vshl f => some f.g
  | .vshr f => some f.g
  | .vsra f => some f.g
  | .vpopc f => some f.g
  | .vclz f => some f.g
  | .vctz f => some f.g
  | .vbrev f => some f.g
  | .vfadd f => some f.g
  | .vfsub f => some f.g
  | .vfmul f => some f.g
  | .vfmin f => some f.g
  | .vfmax f => some f.g
  | .vfabs f => some f.g
  | .vfneg f => some f.g
  | .vfsgn f => some f.g
  | .vfma f => some f.g
  | .vfms f => some f.g
  | .vfnma f => some f.g
  | .vfnms f => some f.g
  | .vrsqa f => some f.g
  | .vrcpa f => some f.g
  | .vexpa f => some f.g
  | .vloga f => some f.g
  | .vsqrt f => some f.g
  | .vfdiv f => some f.g
  | .vsel f => some f.g
  | .vmov f => some f.g
  | .viota f => some f.g
  | .vbcast f => some f.g
  | .vpop f => some f.g
  | .vperm f => some f.g
  | .vslideup f => some f.g
  | .vslidedn f => some f.g
  | .vzip f => some f.g
  | .vunzip f => some f.g
  | .vrev f => some f.g
  | .vrsum f => some f.g
  | .vrmin f => some f.g
  | .vrmax f => some f.g
  | .vfrsum f => some f.g
  | .vfrmin f => some f.g
  | .vfrmax f => some f.g
  | .vrand f => some f.g
  | .vror f => some f.g
  | .vwadd f => some f.g
  | .vwmul f => some f.g
  | .vwmad f => some f.g
  | .vwcvt f => some f.g
  | .vwcvt4 f => some f.g
  | .vnsat f => some f.g
  | .vntrunc f => some f.g
  | .vcvt f => some f.g
  | .vcvts f => some f.g
  | .vcvtd f => some f.g
  | .vcvtq f => some f.g
  | .vcks f => some f.g
  | .vckv f => some f.g
  | .vckx f => some f.g
  | .vcki f => some f.g
  | .kand f => some f.g
  | .kor f => some f.g
  | .kxor f => some f.g
  | .kandn f => some f.g
  | .knot f => some f.g
  | .kmov f => some f.g
  | .kset f => some f.g
  | .kclr f => some f.g
  | .vamo _ f => some f.g
  | .vcmp _ f => some f.g
  | _ => none

/-- The first condition of R96 that an instruction meets, beyond what its type rules out. -/
def illegalOf (i : Instr) : Option IllDetail :=
  match vForm i with
  | some (fm, f) => vCheck fm f
  | none =>
    let field : Bool :=
      match i with
      | .mile _ _ ef _ => decide (ef.toNat < 32)
      | .sext _ _ _ n => decide (n.toNat ≠ 0)
      | .zext _ _ _ n => decide (n.toNat ≠ 0)
      | .bfx _ _ _ pos wid => bitFieldOk pos wid
      | .bfi _ _ _ pos wid => bitFieldOk pos wid
      | .cmp _ _ pd pe _ _ => cpOk pd pe
      | .cmpi _ _ pd pe _ _ => cpOk pd pe
      | .cmpiLit _ _ pd pe _ _ => cpOk pd pe
      | .csrr _ _ n => csrAssigned n
      | .csrw _ _ n => csrAssigned n
      | .csrs _ _ n => csrAssigned n
      | .csrc _ _ n => csrAssigned n
      | _ => true
    if !field then some .field
    else match guardOf i with
      | some g => if g.ok then none else some .guard
      | none =>
        match i with
        | .future h rest =>
          if 0xC000 ≤ h.toNat ∧ rest.length = bitsAt h.toNat 11 2 then none else some .future
        | _ => none

/-! ### The C decoder (R80 to R85) -/

/-- A C instruction as its parcels give it: the rule for its literal, and whether the unused bits of P1 are zero. -/
structure CCand where
  instr  : Instr
  lit    : LitRule
  unused : Bool

/-- The condition of a CMP or CMPI sub-code (R84): 7 is reserved. -/
def condOf : Nat → Option Cond
  | 0 => some .eq | 1 => some .ne | 2 => some .lt | 3 => some .ge | 4 => some .ltu | 5 => some .geu | 6 => some .tst
  | _ => none

/-- The C instruction of an op and sub-code (R84): none where the sub-code is reserved. `w` is the number of P1. -/
def cCand (op sub : Nat) (g : Guard) (l : Bool) (w : Nat) (lit : Word32) : Option CCand :=
  match op with
  | 0 =>
    match sub with
    | 0 => some ⟨.nop g, .forbidden, decide (w = 0)⟩
    | 1 => some ⟨.trap g (BitVec.ofNat 16 w), .forbidden, true⟩
    | 2 => some ⟨.brk g (BitVec.ofNat 16 w), .forbidden, true⟩
    | 3 => some ⟨.mile g (BitVec.ofNat 8 (w / 256)) (BitVec.ofNat 8 w) lit, .required, true⟩
    | 4 => some ⟨.rep g (BitVec.ofNat 6 (w / 1024)) (bitAt w 9) (bitAt w 8) (bitAt w 7) (bitAt w 6), .forbidden, decide (bitsAt w 0 6 = 0)⟩
    | 5 => some ⟨.ntdrain g, .forbidden, decide (w = 0)⟩
    | 6 => some ⟨.exit g, .forbidden, decide (w = 0)⟩
    | _ => none
  | 1 =>
    match sub with
    | 0 => some ⟨.add g (bitAt w 0) (reg5 w 11) (reg5 w 6) (reg5 w 1), .forbidden, true⟩
    | 1 => some ⟨.sub g (bitAt w 0) (reg5 w 11) (reg5 w 6) (reg5 w 1), .forbidden, true⟩
    | 2 => some ⟨.and g (bitAt w 0) (reg5 w 11) (reg5 w 6) (reg5 w 1), .forbidden, true⟩
    | 3 => some ⟨.or g (bitAt w 0) (reg5 w 11) (reg5 w 6) (reg5 w 1), .forbidden, true⟩
    | 4 => some ⟨.xor g (bitAt w 0) (reg5 w 11) (reg5 w 6) (reg5 w 1), .forbidden, true⟩
    | 5 => some ⟨.shl g (bitAt w 0) (reg5 w 11) (reg5 w 6) (reg5 w 1), .forbidden, true⟩
    | 6 => some ⟨.shr g (bitAt w 0) (reg5 w 11) (reg5 w 6) (reg5 w 1), .forbidden, true⟩
    | 7 => some ⟨.sra g (bitAt w 0) (reg5 w 11) (reg5 w 6) (reg5 w 1), .forbidden, true⟩
    | _ => none
  | 2 =>
    match sub with
    | 0 => some (if l then ⟨.addiLit g (reg5 w 11) (reg5 w 6) lit, .optional, decide (bitsAt w 0 6 = 0)⟩ else ⟨.addi g (reg5 w 11) (reg5 w 6) (BitVec.ofNat 6 w), .optional, true⟩)
    | 1 => some (if l then ⟨.moviLit g (reg5 w 11) lit, .optional, decide (bitsAt w 0 11 = 0)⟩ else ⟨.movi g (reg5 w 11) (BitVec.ofNat 6 w), .optional, decide (bitsAt w 6 5 = 0)⟩)
    | 2 => some (if l then ⟨.andiLit g (reg5 w 11) (reg5 w 6) lit, .optional, decide (bitsAt w 0 6 = 0)⟩ else ⟨.andi g (reg5 w 11) (reg5 w 6) (BitVec.ofNat 6 w), .optional, true⟩)
    | 3 => some (if l then ⟨.oriLit g (reg5 w 11) (reg5 w 6) lit, .optional, decide (bitsAt w 0 6 = 0)⟩ else ⟨.ori g (reg5 w 11) (reg5 w 6) (BitVec.ofNat 6 w), .optional, true⟩)
    | 4 => some (if l then ⟨.xoriLit g (reg5 w 11) (reg5 w 6) lit, .optional, decide (bitsAt w 0 6 = 0)⟩ else ⟨.xori g (reg5 w 11) (reg5 w 6) (BitVec.ofNat 6 w), .optional, true⟩)
    | 5 => some (if l then ⟨.shliLit g (reg5 w 11) (reg5 w 6) lit, .optional, decide (bitsAt w 0 6 = 0)⟩ else ⟨.shli g (reg5 w 11) (reg5 w 6) (BitVec.ofNat 6 w), .optional, true⟩)
    | 6 => some (if l then ⟨.shriLit g (reg5 w 11) (reg5 w 6) lit, .optional, decide (bitsAt w 0 6 = 0)⟩ else ⟨.shri g (reg5 w 11) (reg5 w 6) (BitVec.ofNat 6 w), .optional, true⟩)
    | 7 => some (if l then ⟨.sraiLit g (reg5 w 11) (reg5 w 6) lit, .optional, decide (bitsAt w 0 6 = 0)⟩ else ⟨.srai g (reg5 w 11) (reg5 w 6) (BitVec.ofNat 6 w), .optional, true⟩)
    | _ => none
  | 3 =>
    match sub with
    | 0 => some ⟨.mul g (bitAt w 0) (reg5 w 11) (reg5 w 6) (reg5 w 1), .forbidden, true⟩
    | 1 => some ⟨.mulh g (bitAt w 0) (reg5 w 11) (reg5 w 6) (reg5 w 1), .forbidden, true⟩
    | 2 => some ⟨.mulhu g (bitAt w 0) (reg5 w 11) (reg5 w 6) (reg5 w 1), .forbidden, true⟩
    | 3 => some ⟨.div g (bitAt w 0) (reg5 w 11) (reg5 w 6) (reg5 w 1), .forbidden, true⟩
    | 4 => some ⟨.divu g (bitAt w 0) (reg5 w 11) (reg5 w 6) (reg5 w 1), .forbidden, true⟩
    | 5 => some ⟨.rem g (bitAt w 0) (reg5 w 11) (reg5 w 6) (reg5 w 1), .forbidden, true⟩
    | 6 => some ⟨.remu g (bitAt w 0) (reg5 w 11) (reg5 w 6) (reg5 w 1), .forbidden, true⟩
    | _ => none
  | 4 =>
    match sub with
    | 0 => some ⟨.min g (bitAt w 0) (reg5 w 11) (reg5 w 6) (reg5 w 1), .forbidden, true⟩
    | 1 => some ⟨.max g (bitAt w 0) (reg5 w 11) (reg5 w 6) (reg5 w 1), .forbidden, true⟩
    | 2 => some ⟨.minu g (bitAt w 0) (reg5 w 11) (reg5 w 6) (reg5 w 1), .forbidden, true⟩
    | 3 => some ⟨.maxu g (bitAt w 0) (reg5 w 11) (reg5 w 6) (reg5 w 1), .forbidden, true⟩
    | 4 => some ⟨.clz g (bitAt w 0) (reg5 w 11) (reg5 w 6), .forbidden, decide (bitsAt w 1 5 = 0)⟩
    | 5 => some ⟨.ctz g (bitAt w 0) (reg5 w 11) (reg5 w 6), .forbidden, decide (bitsAt w 1 5 = 0)⟩
    | 6 => some ⟨.popc g (bitAt w 0) (reg5 w 11) (reg5 w 6), .forbidden, decide (bitsAt w 1 5 = 0)⟩
    | 7 => some ⟨.rol g (bitAt w 0) (reg5 w 11) (reg5 w 6) (reg5 w 1), .forbidden, true⟩
    | _ => none
  | 5 =>
    match sub with
    | 0 => some ⟨.sext g (reg5 w 11) (reg5 w 6) (BitVec.ofNat 6 w), .forbidden, true⟩
    | 1 => some ⟨.zext g (reg5 w 11) (reg5 w 6) (BitVec.ofNat 6 w), .forbidden, true⟩
    | 2 => some ⟨.bfx g (reg5 w 11) (reg5 w 6) (BitVec.ofNat 6 lit.toNat) (BitVec.ofNat 7 (lit.toNat / 256)), .required, decide (bitsAt w 0 6 = 0) && decide (bitsAt lit.toNat 6 2 = 0) && decide (lit.toNat < 32768)⟩
    | 3 => some ⟨.bfi g (reg5 w 11) (reg5 w 6) (BitVec.ofNat 6 lit.toNat) (BitVec.ofNat 7 (lit.toNat / 256)), .required, decide (bitsAt w 0 6 = 0) && decide (bitsAt lit.toNat 6 2 = 0) && decide (lit.toNat < 32768)⟩
    | _ => none
  | 6 => some ⟨.lea g (BitVec.ofNat 3 sub) (reg5 w 11) (reg5 w 6) (reg5 w 1), .forbidden, decide (bitsAt w 0 1 = 0)⟩
  | 7 => (condOf sub).map fun c => ⟨.cmp g c (reg3 w 3) (reg3 w 0) (reg5 w 11) (reg5 w 6), .forbidden, true⟩
  | 8 => (condOf sub).map fun c =>
      if l then ⟨.cmpiLit g c (reg3 w 3) (reg3 w 0) (reg5 w 11) lit, .optional, decide (bitsAt w 6 5 = 0)⟩
      else ⟨.cmpi g c (reg3 w 3) (reg3 w 0) (reg5 w 11) (BitVec.ofNat 5 (w / 64)), .optional, true⟩
  | 9 =>
    match sub with
    | 0 => some ⟨.pand g (reg3 w 13) (reg3 w 10) (reg3 w 7), .forbidden, decide (bitsAt w 0 7 = 0)⟩
    | 1 => some ⟨.por g (reg3 w 13) (reg3 w 10) (reg3 w 7), .forbidden, decide (bitsAt w 0 7 = 0)⟩
    | 2 => some ⟨.pxor g (reg3 w 13) (reg3 w 10) (reg3 w 7), .forbidden, decide (bitsAt w 0 7 = 0)⟩
    | 3 => some ⟨.pandn g (reg3 w 13) (reg3 w 10) (reg3 w 7), .forbidden, decide (bitsAt w 0 7 = 0)⟩
    | 4 => some ⟨.pnot g (reg3 w 13) (reg3 w 10), .forbidden, decide (bitsAt w 0 10 = 0)⟩
    | 5 => some ⟨.pmov g (reg3 w 13) (reg3 w 10), .forbidden, decide (bitsAt w 0 10 = 0)⟩
    | 6 => some ⟨.pset g (reg3 w 13), .forbidden, decide (bitsAt w 0 13 = 0)⟩
    | 7 => some ⟨.pclr g (reg3 w 13), .forbidden, decide (bitsAt w 0 13 = 0)⟩
    | _ => none
  | 10 =>
    match sub with
    | 0 => some ⟨.br g (BitVec.ofNat 16 w), .forbidden, true⟩
    | 1 => some ⟨.call g (BitVec.ofNat 16 w), .forbidden, true⟩
    | _ => none
  | 11 =>
    match sub with
    | 0 => some ⟨.jmp g (reg5 w 6), .forbidden, decide (bitsAt w 0 6 = 0) && decide (bitsAt w 11 5 = 0)⟩
    | 1 => some ⟨.callr g (reg5 w 11) (reg5 w 6), .forbidden, decide (bitsAt w 0 6 = 0)⟩
    | 2 => some ⟨.ret g (reg5 w 6), .forbidden, decide (bitsAt w 0 6 = 0) && decide (bitsAt w 11 5 = 0)⟩
    | _ => none
  | 12 => some (if l then ⟨.ldBLit g (BitVec.ofNat 2 (sub / 2)) (bitAt sub 0) (reg5 w 11) (reg5 w 6) lit, .optional, decide (bitsAt w 0 6 = 0)⟩
      else ⟨.ldB g (BitVec.ofNat 2 (sub / 2)) (bitAt sub 0) (reg5 w 11) (reg5 w 6) (BitVec.ofNat 6 w), .optional, true⟩)
  | 13 => some (if l then ⟨.ldHLit g (BitVec.ofNat 2 (sub / 2)) (bitAt sub 0) (reg5 w 11) (reg5 w 6) lit, .optional, decide (bitsAt w 0 6 = 0)⟩
      else ⟨.ldH g (BitVec.ofNat 2 (sub / 2)) (bitAt sub 0) (reg5 w 11) (reg5 w 6) (BitVec.ofNat 6 w), .optional, true⟩)
  | 14 => some (if l then ⟨.ldWLit g (BitVec.ofNat 2 (sub / 2)) (bitAt sub 0) (reg5 w 11) (reg5 w 6) lit, .optional, decide (bitsAt w 0 6 = 0)⟩
      else ⟨.ldW g (BitVec.ofNat 2 (sub / 2)) (bitAt sub 0) (reg5 w 11) (reg5 w 6) (BitVec.ofNat 6 w), .optional, true⟩)
  | 15 => if bitAt sub 0 then none else
      some (if l then ⟨.ldDLit g (BitVec.ofNat 2 (sub / 2)) (reg5 w 11) (reg5 w 6) lit, .optional, decide (bitsAt w 0 6 = 0)⟩
      else ⟨.ldD g (BitVec.ofNat 2 (sub / 2)) (reg5 w 11) (reg5 w 6) (BitVec.ofNat 6 w), .optional, true⟩)
  | 16 => some (if l then ⟨.stBLit g (BitVec.ofNat 2 (sub / 2)) (bitAt sub 0) (reg5 w 11) (reg5 w 6) lit, .optional, decide (bitsAt w 0 6 = 0)⟩
      else ⟨.stB g (BitVec.ofNat 2 (sub / 2)) (bitAt sub 0) (reg5 w 11) (reg5 w 6) (BitVec.ofNat 6 w), .optional, true⟩)
  | 17 => some (if l then ⟨.stHLit g (BitVec.ofNat 2 (sub / 2)) (bitAt sub 0) (reg5 w 11) (reg5 w 6) lit, .optional, decide (bitsAt w 0 6 = 0)⟩
      else ⟨.stH g (BitVec.ofNat 2 (sub / 2)) (bitAt sub 0) (reg5 w 11) (reg5 w 6) (BitVec.ofNat 6 w), .optional, true⟩)
  | 18 => some (if l then ⟨.stWLit g (BitVec.ofNat 2 (sub / 2)) (bitAt sub 0) (reg5 w 11) (reg5 w 6) lit, .optional, decide (bitsAt w 0 6 = 0)⟩
      else ⟨.stW g (BitVec.ofNat 2 (sub / 2)) (bitAt sub 0) (reg5 w 11) (reg5 w 6) (BitVec.ofNat 6 w), .optional, true⟩)
  | 19 => some (if l then ⟨.stDLit g (BitVec.ofNat 2 (sub / 2)) (bitAt sub 0) (reg5 w 11) (reg5 w 6) lit, .optional, decide (bitsAt w 0 6 = 0)⟩
      else ⟨.stD g (BitVec.ofNat 2 (sub / 2)) (bitAt sub 0) (reg5 w 11) (reg5 w 6) (BitVec.ofNat 6 w), .optional, true⟩)
  | 20 =>
    match sub with
    | 0 => some ⟨.aadd g (bitAt w 0) (reg5 w 11) (reg5 w 6) (reg5 w 1), .forbidden, true⟩
    | 1 => some ⟨.aand g (bitAt w 0) (reg5 w 11) (reg5 w 6) (reg5 w 1), .forbidden, true⟩
    | 2 => some ⟨.aor g (bitAt w 0) (reg5 w 11) (reg5 w 6) (reg5 w 1), .forbidden, true⟩
    | 3 => some ⟨.axor g (bitAt w 0) (reg5 w 11) (reg5 w 6) (reg5 w 1), .forbidden, true⟩
    | 4 => some ⟨.amin g (bitAt w 0) (reg5 w 11) (reg5 w 6) (reg5 w 1), .forbidden, true⟩
    | 5 => some ⟨.amax g (bitAt w 0) (reg5 w 11) (reg5 w 6) (reg5 w 1), .forbidden, true⟩
    | 6 => some ⟨.aswap g (bitAt w 0) (reg5 w 11) (reg5 w 6) (reg5 w 1), .forbidden, true⟩
    | _ => none
  | 21 =>
    match sub with
    | 0 => some ⟨.cas g (bitAt w 0) (reg5 w 11) (reg5 w 6) (reg5 w 1), .forbidden, true⟩
    | _ => none
  | 22 =>
    match sub with
    | 0 => some ⟨.spawn g (reg5 w 11) (reg5 w 6) (reg5 w 1), .forbidden, decide (bitsAt w 0 1 = 0)⟩
    | 1 => some ⟨.launch g (reg5 w 11) (reg5 w 6), .forbidden, decide (bitsAt w 0 6 = 0)⟩
    | 2 => some ⟨.join g (reg5 w 11) (reg5 w 6) (reg5 w 1) lit, .required, decide (bitsAt w 0 1 = 0)⟩
    | 3 => some ⟨.cancel g (reg5 w 11) (reg5 w 6), .forbidden, decide (bitsAt w 0 6 = 0)⟩
    | 4 => some ⟨.waitc g (reg5 w 6) (reg5 w 1), .forbidden, decide (bitsAt w 0 1 = 0) && decide (bitsAt w 11 5 = 0)⟩
    | 5 => some ⟨.bar g, .forbidden, decide (w = 0)⟩
    | 6 => some ⟨.tid g (reg5 w 11), .forbidden, decide (bitsAt w 0 11 = 0)⟩
    | _ => none
  | 23 =>
    match sub with
    | 0 => some ⟨.ctopen g (reg5 w 6), .forbidden, decide (bitsAt w 0 6 = 0) && decide (bitsAt w 11 5 = 0)⟩
    | 1 => some ⟨.ctclose g, .forbidden, decide (w = 0)⟩
    | _ => none
  | 24 =>
    match sub with
    | 0 => some ⟨.csrr g (reg5 w 11) (BitVec.ofNat 11 w), .forbidden, true⟩
    | 1 => some ⟨.csrw g (reg5 w 11) (BitVec.ofNat 11 w), .forbidden, true⟩
    | 2 => some ⟨.csrs g (reg5 w 11) (BitVec.ofNat 11 w), .forbidden, true⟩
    | 3 => some ⟨.csrc g (reg5 w 11) (BitVec.ofNat 11 w), .forbidden, true⟩
    | _ => none
  | 25 =>
    match sub with
    | 0 => some ⟨.vget g .b (reg5 w 11) (reg5 w 6) (reg5 w 1), .forbidden, decide (bitsAt w 0 1 = 0)⟩
    | 1 => some ⟨.vget g .h (reg5 w 11) (reg5 w 6) (reg5 w 1), .forbidden, decide (bitsAt w 0 1 = 0)⟩
    | 2 => some ⟨.vget g .w (reg5 w 11) (reg5 w 6) (reg5 w 1), .forbidden, decide (bitsAt w 0 1 = 0)⟩
    | 3 => some ⟨.vget g .d (reg5 w 11) (reg5 w 6) (reg5 w 1), .forbidden, decide (bitsAt w 0 1 = 0)⟩
    | _ => none
  | 26 =>
    match sub with
    | 0 => some ⟨.kpopc g (reg5 w 11) (reg3 w 6), .forbidden, decide (bitsAt w 0 6 = 0) && decide (bitsAt w 9 2 = 0)⟩
    | 1 => some ⟨.kfirst g (reg5 w 11) (reg3 w 6), .forbidden, decide (bitsAt w 0 6 = 0) && decide (bitsAt w 9 2 = 0)⟩
    | 2 => some ⟨.kgetw g (reg5 w 11) (reg3 w 6) (reg5 w 1), .forbidden, decide (bitsAt w 0 1 = 0) && decide (bitsAt w 9 2 = 0)⟩
    | 3 => some ⟨.ksetw g (reg3 w 11) (reg5 w 6) (reg5 w 1), .forbidden, decide (bitsAt w 0 1 = 0) && decide (bitsAt w 14 2 = 0)⟩
    | _ => none
  | _ => none

/-- Decoding a C instruction from the numbers of its head and P1 and its literal. -/
def decodeC (h w : Nat) (lit : Word32) : Decoded :=
  let op := bitsAt h 8 5
  let sub := bitsAt h 0 3
  let l := bitAt h 3
  if 0x1A < op then .illegal .opcode
  else match cCand op sub ⟨reg3 h 5, bitAt h 4⟩ l w lit with
    | none => .illegal .subcode
    | some c =>
      if !c.lit.allows l then .illegal .literal
      else if !c.unused then .illegal .field
      else match illegalOf c.instr with
        | some d => .illegal d
        | none => .instr c.instr

/-! ### The V decoder (R86 to R89) -/

/-- Decoding a V instruction from the numbers of its three parcels and its literal where L is set. -/
def decodeV (h p1 p2 : Nat) (lit : Option Word32) : Decoded :=
  let f : VF :=
    { et := BitVec.ofNat 4 (h / 2), vd := reg5 p1 11, va := reg5 p1 6, vb := reg5 p1 1, u := bitAt p1 0,
      vc := reg5 p2 11, k := reg3 p2 8, kz := bitAt p2 7, qa := bitAt p2 6, qb := bitAt p2 5, qc := bitAt p2 4,
      g := ⟨reg3 p2 1, bitAt p2 0⟩, lit := lit }
  let op := bitsAt h 8 5
  if 0x12 < op then .illegal .opcode
  else match vCand op (bitsAt h 5 3) f with
    | none => .illegal .subcode
    | some i =>
      match illegalOf i with
      | some d => .illegal d
      | none => .instr i

/-! ### Engine words (R90 to R94) -/

/-- An instruction if the bits of imm8 its word does not use are zero. -/
def ifZero (b : Bool) (i : Instr) : Decoded := if b then .instr i else .illegal .field

/-- The words every engine has (R91), or none for an engine's own op. -/
def eCommon (e : Eng) (op imm : Nat) (lit : Word32) : Option Decoded :=
  match op with
  | 0 => some (.instr (.lit e (BitVec.ofNat 8 imm)))
  | 1 => some (.instr (.lith e (BitVec.ofNat 8 imm)))
  | 2 => some (ifZero (decide (imm = 0)) (.lit32 e lit))
  | 3 =>
    match imm with
    | 0 => some (.instr (.dup e))
    | 1 => some (.instr (.drop e))
    | 2 => some (.instr (.swap e))
    | 3 => some (.instr (.over e))
    | 4 => some (.instr (.rot e))
    | _ => some (.illegal .subcode)
  | _ => none

/-- The M words (R94, R215 to R223). -/
def decodeM (op imm : Nat) : Decoded :=
  let st : StreamNo := Fin.ofNat 16 imm
  let hi4 := decide (imm < 16)
  match op with
  | 4 => ifZero (decide (imm < 32)) (.mSbase (bitAt imm 4) st)
  | 5 => ifZero hi4 (.mSfmt st)
  | 6 => ifZero hi4 (.mSgeo st)
  | 7 => ifZero hi4 (.mSscl st)
  | 8 => ifZero hi4 (.mSidx st)
  | 9 => ifZero hi4 (.mSout st)
  | 10 => ifZero (decide (imm < 8)) (.mNest (reg3 imm 0))
  | 11 => ifZero (decide (imm = 0)) .mNclr
  | 12 => ifZero hi4 (.mTrack (Fin.ofNat 16 imm))
  | 13 => ifZero (decide (imm < 32)) (.mGo (bitAt imm 4) (bitAt imm 3) (reg3 imm 0))
  | 14 => ifZero (decide (imm < 8)) (.mZero (reg3 imm 0))
  | 15 => ifZero hi4 (.mLoad (bitAt imm 3) (reg3 imm 0))
  | 16 => ifZero (decide (imm < 8)) (.mStore (reg3 imm 0))
  | 17 => .instr (.mStat (BitVec.ofNat 8 imm))
  | 18 => ifZero (decide (imm = 0)) .mWaitc
  | 19 => ifZero (decide (imm < 32)) (.mTol (BitVec.ofNat 5 imm))
  | 20 => ifZero (decide (imm = 0)) .mDith
  | _ => .illegal .opcode

/-- The X words (R94, R226, R239 to R243). x.wprog and x.wverify with chain = 1 are the FIELD encoding error, as an imm8
with a bit to which their pages give no meaning: R243 requires 0 and names no error (log 78). -/
def decodeX (op imm : Nat) : Decoded :=
  let tr : Fin 16 := Fin.ofNat 16 imm
  let z := decide (imm = 0)
  match op with
  | 4 => .instr (.xSrc (BitVec.ofNat 8 imm))
  | 5 => .instr (.xDst (BitVec.ofNat 8 imm))
  | 6 => ifZero z .xLen
  | 7 => ifZero z .xStr
  | 8 => .instr (.xCk (BitVec.ofNat 8 imm))
  | 9 => ifZero z .xCke
  | 10 => ifZero (decide (imm < 64)) (.xGo (bitAt imm 5) (bitAt imm 4) tr)
  | 11 => ifZero (decide (imm < 64)) (.xFill (bitAt imm 5) (bitAt imm 4) tr)
  | 12 => ifZero z .xMod
  | 13 => ifZero z .xWaitc
  | 14 => ifZero z .xCkget
  | 15 => ifZero (decide (imm < 64) && !bitAt imm 4) (.xWprog (bitAt imm 5) tr)
  | 16 => ifZero (decide (imm < 64) && !bitAt imm 4) (.xWverify (bitAt imm 5) tr)
  | _ => .illegal .opcode

/-- The P words (R94, R254). -/
def decodeP (op imm : Nat) : Decoded :=
  let z := decide (imm = 0)
  match op with
  | 4 => ifZero z .pCfg
  | 5 => ifZero z .pClr
  | 6 => ifZero z .pIns
  | 7 => ifZero z .pMerge
  | 8 => ifZero z .pSave
  | 9 => ifZero z .pLoad
  | 10 => ifZero z .pCnt
  | 11 => ifZero z .pSpill
  | 12 => .instr (.pStat (BitVec.ofNat 8 imm))
  | _ => .illegal .opcode

/-- The S words (R94, R318 to R322). -/
def decodeS (op imm : Nat) : Decoded :=
  let lo6 := decide (imm < 64)
  match op with
  | 4 => .instr (.sOpen (BitVec.ofNat 8 imm))
  | 5 => ifZero lo6 (.sAbs (BitVec.ofNat 6 imm))
  | 6 => ifZero (decide (imm = 0)) .sMeta
  | 7 => ifZero lo6 (.sFin (BitVec.ofNat 6 imm))
  | 8 => ifZero lo6 (.sAbt (BitVec.ofNat 6 imm))
  | 9 => ifZero lo6 (.sQry (BitVec.ofNat 6 imm))
  | _ => .illegal .opcode

/-- Decoding an engine word of an engine. -/
def decodeE (e : Eng) (h : Nat) (lit : Word32) : Decoded :=
  let op := bitsAt h 8 5
  let imm := bitsAt h 0 8
  match eCommon e op imm lit with
  | some d => d
  | none =>
    match e with
    | .m => decodeM op imm
    | .x => decodeX op imm
    | .p => decodeP op imm
    | .s => decodeS op imm

/-! ### The decoder -/

/-- The engine of a class number (R77). -/
def engOf (cls : Nat) : Eng := if cls = 2 then .m else if cls = 3 then .x else if cls = 4 then .p else .s

/-- Decoding text that starts with the given parcels. -/
def decodeParcels (ps : List Parcel) : Decoded :=
  match ps with
  | [] => .short
  | h :: rest =>
    let n := headParcels h
    if rest.length + 1 < n then .short
    else
      let cls := bitsAt h.toNat 13 3
      if cls = 0 then
        match rest with
        | p1 :: l0 :: l1 :: _ => decodeC h.toNat p1.toNat (if n = 4 then litOf l0 l1 else 0)
        | p1 :: _ => decodeC h.toNat p1.toNat 0
        | [] => .short
      else if cls = 1 then
        match rest with
        | p1 :: p2 :: l0 :: l1 :: _ =>
          decodeV h.toNat p1.toNat p2.toNat (if n = 5 then some (litOf l0 l1) else none)
        | p1 :: p2 :: _ => decodeV h.toNat p1.toNat p2.toNat none
        | _ => .short
      else if cls < 6 then
        match rest with
        | l0 :: l1 :: _ => decodeE (engOf cls) h.toNat (if n = 3 then litOf l0 l1 else 0)
        | _ => decodeE (engOf cls) h.toNat 0
      else .instr (.future h (rest.take (n - 1)))

/-- The parcels of a byte string, low byte first (R5, R76). -/
def parcelsOf : List Byte → List Parcel
  | a :: b :: rest => BitVec.ofNat 16 (a.toNat + 256 * b.toNat) :: parcelsOf rest
  | _ => []

/-- Decoding text given as bytes. -/
def decode (bs : List Byte) : Decoded := decodeParcels (parcelsOf bs)

/-- The five parcels of an instruction whose bits are numbered as the opcode table numbers them. -/
def tableParcels (nbits w : Nat) : List Parcel :=
  let v := w % 2 ^ nbits
  [BitVec.ofNat 16 v, BitVec.ofNat 16 (v / 2 ^ 16), BitVec.ofNat 16 (v / 2 ^ 32), BitVec.ofNat 16 (v / 2 ^ 48),
   BitVec.ofNat 16 (v / 2 ^ 64)]

/-- The instruction the decoder reads from a word of the opcode table. -/
def decodeTableWord (nbits w : Nat) : Option Instr :=
  match decodeParcels (tableParcels nbits w) with
  | .instr i => some i
  | _ => none

/-! ### The encoder -/

/-- The head of a C instruction (R80). -/
def cHead (op sub : Nat) (l : Bool) (g : Guard) : Parcel :=
  BitVec.ofNat 16 (op * 256 + g.gp.val * 32 + bitNat g.gn * 16 + bitNat l * 8 + sub)

/-- P1 in CR layout (R81). -/
def p1CR (rd ra rb : Nat) (w : Bool) : Parcel := BitVec.ofNat 16 (rd * 2048 + ra * 64 + rb * 2 + bitNat w)
/-- P1 in CI and CM layout (R81). -/
def p1CI (rd ra imm : Nat) : Parcel := BitVec.ofNat 16 (rd * 2048 + ra * 64 + imm)
/-- P1 in CP layout (R81). -/
def p1CP (ra rb pd pe : Nat) : Parcel := BitVec.ofNat 16 (ra * 2048 + rb * 64 + pd * 8 + pe)
/-- P1 of the predicate logic (R84). -/
def p1P (pd pa pb : Nat) : Parcel := BitVec.ofNat 16 (pd * 8192 + pa * 1024 + pb * 128)

/-- An engine word (R90). -/
def eWord (e : Eng) (op imm : Nat) : Parcel := BitVec.ofNat 16 (e.cls * 8192 + op * 256 + imm)

/-- The parcels of a V instruction (R86). -/
def encodeV (fm : VForm) (f : VF) : List Parcel :=
  [BitVec.ofNat 16 (8192 + fm.op * 256 + fm.sub * 32 + f.et.toNat * 2 + bitNat f.lit.isSome),
   BitVec.ofNat 16 (f.vd.val * 2048 + f.va.val * 64 + f.vb.val * 2 + bitNat f.u),
   BitVec.ofNat 16 (f.vc.val * 2048 + f.k.val * 256 + bitNat f.kz * 128 + bitNat f.qa * 64 + bitNat f.qb * 32 +
     bitNat f.qc * 16 + f.g.gp.val * 2 + bitNat f.g.gn)] ++
  (match f.lit with
   | some l => litParcels l
   | none => [])

/-- The parcels of an instruction that is neither a V form nor an event; none for those. -/
def encodeOther : Instr → List Parcel
  | .nop g => [cHead 0 0 false g, 0]
  | .trap g code => [cHead 0 1 false g, code]
  | .brk g code => [cHead 0 2 false g, code]
  | .mile g zt ef vq => cHead 0 3 true g :: BitVec.ofNat 16 (zt.toNat * 256 + ef.toNat) :: litParcels vq
  | .rep g n d a b c => [cHead 0 4 false g, BitVec.ofNat 16 (n.toNat * 1024 + bitNat d * 512 + bitNat a * 256 + bitNat b * 128 + bitNat c * 64)]
  | .ntdrain g => [cHead 0 5 false g, 0]
  | .exit g => [cHead 0 6 false g, 0]
  | .add g w rd ra rb => [cHead 1 0 false g, p1CR rd.val ra.val rb.val w]
  | .sub g w rd ra rb => [cHead 1 1 false g, p1CR rd.val ra.val rb.val w]
  | .and g w rd ra rb => [cHead 1 2 false g, p1CR rd.val ra.val rb.val w]
  | .or g w rd ra rb => [cHead 1 3 false g, p1CR rd.val ra.val rb.val w]
  | .xor g w rd ra rb => [cHead 1 4 false g, p1CR rd.val ra.val rb.val w]
  | .shl g w rd ra rb => [cHead 1 5 false g, p1CR rd.val ra.val rb.val w]
  | .shr g w rd ra rb => [cHead 1 6 false g, p1CR rd.val ra.val rb.val w]
  | .sra g w rd ra rb => [cHead 1 7 false g, p1CR rd.val ra.val rb.val w]
  | .addi g rd ra imm => [cHead 2 0 false g, p1CI rd.val ra.val imm.toNat]
  | .addiLit g rd ra lit => cHead 2 0 true g :: p1CI rd.val ra.val 0 :: litParcels lit
  | .movi g rd imm => [cHead 2 1 false g, p1CI rd.val 0 imm.toNat]
  | .moviLit g rd lit => cHead 2 1 true g :: p1CI rd.val 0 0 :: litParcels lit
  | .andi g rd ra imm => [cHead 2 2 false g, p1CI rd.val ra.val imm.toNat]
  | .andiLit g rd ra lit => cHead 2 2 true g :: p1CI rd.val ra.val 0 :: litParcels lit
  | .ori g rd ra imm => [cHead 2 3 false g, p1CI rd.val ra.val imm.toNat]
  | .oriLit g rd ra lit => cHead 2 3 true g :: p1CI rd.val ra.val 0 :: litParcels lit
  | .xori g rd ra imm => [cHead 2 4 false g, p1CI rd.val ra.val imm.toNat]
  | .xoriLit g rd ra lit => cHead 2 4 true g :: p1CI rd.val ra.val 0 :: litParcels lit
  | .shli g rd ra imm => [cHead 2 5 false g, p1CI rd.val ra.val imm.toNat]
  | .shliLit g rd ra lit => cHead 2 5 true g :: p1CI rd.val ra.val 0 :: litParcels lit
  | .shri g rd ra imm => [cHead 2 6 false g, p1CI rd.val ra.val imm.toNat]
  | .shriLit g rd ra lit => cHead 2 6 true g :: p1CI rd.val ra.val 0 :: litParcels lit
  | .srai g rd ra imm => [cHead 2 7 false g, p1CI rd.val ra.val imm.toNat]
  | .sraiLit g rd ra lit => cHead 2 7 true g :: p1CI rd.val ra.val 0 :: litParcels lit
  | .mul g w rd ra rb => [cHead 3 0 false g, p1CR rd.val ra.val rb.val w]
  | .mulh g w rd ra rb => [cHead 3 1 false g, p1CR rd.val ra.val rb.val w]
  | .mulhu g w rd ra rb => [cHead 3 2 false g, p1CR rd.val ra.val rb.val w]
  | .div g w rd ra rb => [cHead 3 3 false g, p1CR rd.val ra.val rb.val w]
  | .divu g w rd ra rb => [cHead 3 4 false g, p1CR rd.val ra.val rb.val w]
  | .rem g w rd ra rb => [cHead 3 5 false g, p1CR rd.val ra.val rb.val w]
  | .remu g w rd ra rb => [cHead 3 6 false g, p1CR rd.val ra.val rb.val w]
  | .min g w rd ra rb => [cHead 4 0 false g, p1CR rd.val ra.val rb.val w]
  | .max g w rd ra rb => [cHead 4 1 false g, p1CR rd.val ra.val rb.val w]
  | .minu g w rd ra rb => [cHead 4 2 false g, p1CR rd.val ra.val rb.val w]
  | .maxu g w rd ra rb => [cHead 4 3 false g, p1CR rd.val ra.val rb.val w]
  | .clz g w rd ra => [cHead 4 4 false g, p1CR rd.val ra.val 0 w]
  | .ctz g w rd ra => [cHead 4 5 false g, p1CR rd.val ra.val 0 w]
  | .popc g w rd ra => [cHead 4 6 false g, p1CR rd.val ra.val 0 w]
  | .rol g w rd ra rb => [cHead 4 7 false g, p1CR rd.val ra.val rb.val w]
  | .sext g rd ra n => [cHead 5 0 false g, p1CI rd.val ra.val n.toNat]
  | .zext g rd ra n => [cHead 5 1 false g, p1CI rd.val ra.val n.toNat]
  | .bfx g rd ra pos wid => cHead 5 2 true g :: p1CI rd.val ra.val 0 :: litParcels (BitVec.ofNat 32 (pos.toNat + wid.toNat * 256))
  | .bfi g rd ra pos wid => cHead 5 3 true g :: p1CI rd.val ra.val 0 :: litParcels (BitVec.ofNat 32 (pos.toNat + wid.toNat * 256))
  | .lea g sh rd ra rb => [cHead 6 sh.toNat false g, p1CR rd.val ra.val rb.val false]
  | .cmp g c pd pe ra rb => [cHead 7 c.sub false g, p1CP ra.val rb.val pd.val pe.val]
  | .cmpi g c pd pe ra imm => [cHead 8 c.sub false g, p1CP ra.val imm.toNat pd.val pe.val]
  | .cmpiLit g c pd pe ra lit => cHead 8 c.sub true g :: p1CP ra.val 0 pd.val pe.val :: litParcels lit
  | .pand g pd pa pb => [cHead 9 0 false g, p1P pd.val pa.val pb.val]
  | .por g pd pa pb => [cHead 9 1 false g, p1P pd.val pa.val pb.val]
  | .pxor g pd pa pb => [cHead 9 2 false g, p1P pd.val pa.val pb.val]
  | .pandn g pd pa pb => [cHead 9 3 false g, p1P pd.val pa.val pb.val]
  | .pnot g pd pa => [cHead 9 4 false g, p1P pd.val pa.val 0]
  | .pmov g pd pa => [cHead 9 5 false g, p1P pd.val pa.val 0]
  | .pset g pd => [cHead 9 6 false g, p1P pd.val 0 0]
  | .pclr g pd => [cHead 9 7 false g, p1P pd.val 0 0]
  | .br g disp => [cHead 10 0 false g, disp]
  | .call g disp => [cHead 10 1 false g, disp]
  | .jmp g ra => [cHead 11 0 false g, p1CI 0 ra.val 0]
  | .callr g rd ra => [cHead 11 1 false g, p1CI rd.val ra.val 0]
  | .ret g ra => [cHead 11 2 false g, p1CI 0 ra.val 0]
  | .ldB g cls sx rd ra disp => [cHead 12 (cls.toNat * 2 + bitNat sx) false g, p1CI rd.val ra.val disp.toNat]
  | .ldBLit g cls sx rd ra lit => cHead 12 (cls.toNat * 2 + bitNat sx) true g :: p1CI rd.val ra.val 0 :: litParcels lit
  | .ldH g cls sx rd ra disp => [cHead 13 (cls.toNat * 2 + bitNat sx) false g, p1CI rd.val ra.val disp.toNat]
  | .ldHLit g cls sx rd ra lit => cHead 13 (cls.toNat * 2 + bitNat sx) true g :: p1CI rd.val ra.val 0 :: litParcels lit
  | .ldW g cls sx rd ra disp => [cHead 14 (cls.toNat * 2 + bitNat sx) false g, p1CI rd.val ra.val disp.toNat]
  | .ldWLit g cls sx rd ra lit => cHead 14 (cls.toNat * 2 + bitNat sx) true g :: p1CI rd.val ra.val 0 :: litParcels lit
  | .ldD g cls rd ra disp => [cHead 15 (cls.toNat * 2) false g, p1CI rd.val ra.val disp.toNat]
  | .ldDLit g cls rd ra lit => cHead 15 (cls.toNat * 2) true g :: p1CI rd.val ra.val 0 :: litParcels lit
  | .stB g cls nt rs ra disp => [cHead 16 (cls.toNat * 2 + bitNat nt) false g, p1CI rs.val ra.val disp.toNat]
  | .stBLit g cls nt rs ra lit => cHead 16 (cls.toNat * 2 + bitNat nt) true g :: p1CI rs.val ra.val 0 :: litParcels lit
  | .stH g cls nt rs ra disp => [cHead 17 (cls.toNat * 2 + bitNat nt) false g, p1CI rs.val ra.val disp.toNat]
  | .stHLit g cls nt rs ra lit => cHead 17 (cls.toNat * 2 + bitNat nt) true g :: p1CI rs.val ra.val 0 :: litParcels lit
  | .stW g cls nt rs ra disp => [cHead 18 (cls.toNat * 2 + bitNat nt) false g, p1CI rs.val ra.val disp.toNat]
  | .stWLit g cls nt rs ra lit => cHead 18 (cls.toNat * 2 + bitNat nt) true g :: p1CI rs.val ra.val 0 :: litParcels lit
  | .stD g cls nt rs ra disp => [cHead 19 (cls.toNat * 2 + bitNat nt) false g, p1CI rs.val ra.val disp.toNat]
  | .stDLit g cls nt rs ra lit => cHead 19 (cls.toNat * 2 + bitNat nt) true g :: p1CI rs.val ra.val 0 :: litParcels lit
  | .aadd g w rd ra rb => [cHead 20 0 false g, p1CR rd.val ra.val rb.val w]
  | .aand g w rd ra rb => [cHead 20 1 false g, p1CR rd.val ra.val rb.val w]
  | .aor g w rd ra rb => [cHead 20 2 false g, p1CR rd.val ra.val rb.val w]
  | .axor g w rd ra rb => [cHead 20 3 false g, p1CR rd.val ra.val rb.val w]
  | .amin g w rd ra rb => [cHead 20 4 false g, p1CR rd.val ra.val rb.val w]
  | .amax g w rd ra rb => [cHead 20 5 false g, p1CR rd.val ra.val rb.val w]
  | .aswap g w rd ra rb => [cHead 20 6 false g, p1CR rd.val ra.val rb.val w]
  | .cas g w rd ra rb => [cHead 21 0 false g, p1CR rd.val ra.val rb.val w]
  | .spawn g rd ra rb => [cHead 22 0 false g, p1CR rd.val ra.val rb.val false]
  | .launch g rd ra => [cHead 22 1 false g, p1CI rd.val ra.val 0]
  | .join g rd ra rb n => cHead 22 2 true g :: p1CR rd.val ra.val rb.val false :: litParcels n
  | .cancel g rd ra => [cHead 22 3 false g, p1CI rd.val ra.val 0]
  | .waitc g ra rb => [cHead 22 4 false g, p1CR 0 ra.val rb.val false]
  | .bar g => [cHead 22 5 false g, 0]
  | .tid g rd => [cHead 22 6 false g, p1CI rd.val 0 0]
  | .ctopen g ra => [cHead 23 0 false g, p1CI 0 ra.val 0]
  | .ctclose g => [cHead 23 1 false g, 0]
  | .csrr g r n => [cHead 24 0 false g, BitVec.ofNat 16 (r.val * 2048 + n.toNat)]
  | .csrw g r n => [cHead 24 1 false g, BitVec.ofNat 16 (r.val * 2048 + n.toNat)]
  | .csrs g r n => [cHead 24 2 false g, BitVec.ofNat 16 (r.val * 2048 + n.toNat)]
  | .csrc g r n => [cHead 24 3 false g, BitVec.ofNat 16 (r.val * 2048 + n.toNat)]
  | .vget g sz rd va rb => [cHead 25 sz.sub false g, p1CR rd.val va.val rb.val false]
  | .kpopc g rd ka => [cHead 26 0 false g, p1CI rd.val ka.val 0]
  | .kfirst g rd ka => [cHead 26 1 false g, p1CI rd.val ka.val 0]
  | .kgetw g rd ka rb => [cHead 26 2 false g, p1CR rd.val ka.val rb.val false]
  | .ksetw g kd ra rb => [cHead 26 3 false g, p1CR kd.val ra.val rb.val false]
  | .future h rest => h :: rest
  | .lit e n => [eWord e 0 n.toNat]
  | .lith e n => [eWord e 1 n.toNat]
  | .lit32 e n => eWord e 2 0 :: litParcels n
  | .dup e => [eWord e 3 0]
  | .drop e => [eWord e 3 1]
  | .swap e => [eWord e 3 2]
  | .over e => [eWord e 3 3]
  | .rot e => [eWord e 3 4]
  | .mSbase w st => [eWord .m 4 (bitNat w * 16 + st.val)]
  | .mSfmt st => [eWord .m 5 st.val]
  | .mSgeo st => [eWord .m 6 st.val]
  | .mSscl st => [eWord .m 7 st.val]
  | .mSidx st => [eWord .m 8 st.val]
  | .mSout st => [eWord .m 9 st.val]
  | .mNest l => [eWord .m 10 l.val]
  | .mNclr => [eWord .m 11 0]
  | .mTrack t => [eWord .m 12 t.val]
  | .mGo o c z => [eWord .m 13 (bitNat o * 16 + bitNat c * 8 + z.val)]
  | .mZero z => [eWord .m 14 z.val]
  | .mLoad h z => [eWord .m 15 (bitNat h * 8 + z.val)]
  | .mStore z => [eWord .m 16 z.val]
  | .mStat n => [eWord .m 17 n.toNat]
  | .mWaitc => [eWord .m 18 0]
  | .mTol n => [eWord .m 19 n.toNat]
  | .mDith => [eWord .m 20 0]
  | .xSrc n => [eWord .x 4 n.toNat]
  | .xDst n => [eWord .x 5 n.toNat]
  | .xLen => [eWord .x 6 0]
  | .xStr => [eWord .x 7 0]
  | .xCk n => [eWord .x 8 n.toNat]
  | .xCke => [eWord .x 9 0]
  | .xGo a b t => [eWord .x 10 (bitNat a * 32 + bitNat b * 16 + t.val)]
  | .xFill a b t => [eWord .x 11 (bitNat a * 32 + bitNat b * 16 + t.val)]
  | .xMod => [eWord .x 12 0]
  | .xWaitc => [eWord .x 13 0]
  | .xCkget => [eWord .x 14 0]
  | .xWprog a t => [eWord .x 15 (bitNat a * 32 + t.val)]
  | .xWverify a t => [eWord .x 16 (bitNat a * 32 + t.val)]
  | .pCfg => [eWord .p 4 0]
  | .pClr => [eWord .p 5 0]
  | .pIns => [eWord .p 6 0]
  | .pMerge => [eWord .p 7 0]
  | .pSave => [eWord .p 8 0]
  | .pLoad => [eWord .p 9 0]
  | .pCnt => [eWord .p 10 0]
  | .pSpill => [eWord .p 11 0]
  | .pStat n => [eWord .p 12 n.toNat]
  | .sOpen n => [eWord .s 4 n.toNat]
  | .sAbs n => [eWord .s 5 n.toNat]
  | .sMeta => [eWord .s 6 0]
  | .sFin n => [eWord .s 7 n.toNat]
  | .sAbt n => [eWord .s 8 n.toNat]
  | .sQry n => [eWord .s 9 n.toNat]
  | _ => []

/-- The parcels of an instruction (R80 to R97). An event has none. -/
def encode (i : Instr) : List Parcel :=
  match vForm i with
  | some (fm, f) => encodeV fm f
  | none => encodeOther i

/-- The length of an instruction in parcels (R78). -/
def parcelCount (i : Instr) : Nat := (encode i).length

/-- Whether an operation is a word of instruction text, and not an event. -/
def isWord (i : Instr) : Bool := !(encode i).isEmpty

/-! ### Stepping the register fields under REP (R33) -/

/-- A register number stepped modulo 32. -/
def stepReg (r : Fin 32) (on : Bool) (by_ : Nat) : Fin 32 := if on then Fin.ofNat 32 (r.val + by_) else r

/-- How many registers the destination of a V form spans (R33, R26, R159, R166). -/
def vdSpan (fm : VForm) (f : VF) : Nat :=
  match fm.op with
  | 12 => if fm.sub = 3 ∨ fm.sub = 4 then 2 else 1
  | 14 => if fm.sub = 3 ∧ f.vb.val = 1 then 4 else 2
  | 16 =>
    if fm.sub = 2 ∨ fm.sub = 3 then 2
    else match f.lit with
      | some l => max 1 (cvtGroup f.et l)
      | none => 1
  | _ => 1

/-- Whether a field of a V form names a register. -/
def Slot.isReg : Slot → Bool
  | .queue | .xreg | .mask => true
  | _ => false

/-- A V form's fields at repetition `n`, counted from 0 (R33): every selected register field modulo 32. A mask field
stepped to 8 breaks R87. -/
def vStep (fm : VForm) (f : VF) (d a b c : Bool) (n : Nat) : VF :=
  let st (s : Slot) (r : VReg) (on : Bool) (k : Nat) : VReg := stepReg r (on && s.isReg) k
  { f with vd := st fm.vd f.vd d (n * vdSpan fm f), va := st fm.va f.va a n, vb := st fm.vb f.vb b n,
           vc := st fm.vc f.vc c n }

/-- The instruction that repetition `n` of a REP executes (R33): each selected register field stepped. -/
def stepInstr (d a b c : Bool) (n : Nat) (i : Instr) : Instr :=
  match i with
  | .add g w rd ra rb => .add g w (stepReg rd d n) (stepReg ra a n) (stepReg rb b n)
  | .sub g w rd ra rb => .sub g w (stepReg rd d n) (stepReg ra a n) (stepReg rb b n)
  | .and g w rd ra rb => .and g w (stepReg rd d n) (stepReg ra a n) (stepReg rb b n)
  | .or g w rd ra rb => .or g w (stepReg rd d n) (stepReg ra a n) (stepReg rb b n)
  | .xor g w rd ra rb => .xor g w (stepReg rd d n) (stepReg ra a n) (stepReg rb b n)
  | .shl g w rd ra rb => .shl g w (stepReg rd d n) (stepReg ra a n) (stepReg rb b n)
  | .shr g w rd ra rb => .shr g w (stepReg rd d n) (stepReg ra a n) (stepReg rb b n)
  | .sra g w rd ra rb => .sra g w (stepReg rd d n) (stepReg ra a n) (stepReg rb b n)
  | .addi g rd ra imm => .addi g (stepReg rd d n) (stepReg ra a n) imm
  | .addiLit g rd ra lit => .addiLit g (stepReg rd d n) (stepReg ra a n) lit
  | .movi g rd imm => .movi g (stepReg rd d n) imm
  | .moviLit g rd lit => .moviLit g (stepReg rd d n) lit
  | .andi g rd ra imm => .andi g (stepReg rd d n) (stepReg ra a n) imm
  | .andiLit g rd ra lit => .andiLit g (stepReg rd d n) (stepReg ra a n) lit
  | .ori g rd ra imm => .ori g (stepReg rd d n) (stepReg ra a n) imm
  | .oriLit g rd ra lit => .oriLit g (stepReg rd d n) (stepReg ra a n) lit
  | .xori g rd ra imm => .xori g (stepReg rd d n) (stepReg ra a n) imm
  | .xoriLit g rd ra lit => .xoriLit g (stepReg rd d n) (stepReg ra a n) lit
  | .shli g rd ra imm => .shli g (stepReg rd d n) (stepReg ra a n) imm
  | .shliLit g rd ra lit => .shliLit g (stepReg rd d n) (stepReg ra a n) lit
  | .shri g rd ra imm => .shri g (stepReg rd d n) (stepReg ra a n) imm
  | .shriLit g rd ra lit => .shriLit g (stepReg rd d n) (stepReg ra a n) lit
  | .srai g rd ra imm => .srai g (stepReg rd d n) (stepReg ra a n) imm
  | .sraiLit g rd ra lit => .sraiLit g (stepReg rd d n) (stepReg ra a n) lit
  | .mul g w rd ra rb => .mul g w (stepReg rd d n) (stepReg ra a n) (stepReg rb b n)
  | .mulh g w rd ra rb => .mulh g w (stepReg rd d n) (stepReg ra a n) (stepReg rb b n)
  | .mulhu g w rd ra rb => .mulhu g w (stepReg rd d n) (stepReg ra a n) (stepReg rb b n)
  | .div g w rd ra rb => .div g w (stepReg rd d n) (stepReg ra a n) (stepReg rb b n)
  | .divu g w rd ra rb => .divu g w (stepReg rd d n) (stepReg ra a n) (stepReg rb b n)
  | .rem g w rd ra rb => .rem g w (stepReg rd d n) (stepReg ra a n) (stepReg rb b n)
  | .remu g w rd ra rb => .remu g w (stepReg rd d n) (stepReg ra a n) (stepReg rb b n)
  | .min g w rd ra rb => .min g w (stepReg rd d n) (stepReg ra a n) (stepReg rb b n)
  | .max g w rd ra rb => .max g w (stepReg rd d n) (stepReg ra a n) (stepReg rb b n)
  | .minu g w rd ra rb => .minu g w (stepReg rd d n) (stepReg ra a n) (stepReg rb b n)
  | .maxu g w rd ra rb => .maxu g w (stepReg rd d n) (stepReg ra a n) (stepReg rb b n)
  | .clz g w rd ra => .clz g w (stepReg rd d n) (stepReg ra a n)
  | .ctz g w rd ra => .ctz g w (stepReg rd d n) (stepReg ra a n)
  | .popc g w rd ra => .popc g w (stepReg rd d n) (stepReg ra a n)
  | .rol g w rd ra rb => .rol g w (stepReg rd d n) (stepReg ra a n) (stepReg rb b n)
  | .sext g rd ra k => .sext g (stepReg rd d n) (stepReg ra a n) k
  | .zext g rd ra k => .zext g (stepReg rd d n) (stepReg ra a n) k
  | .bfx g rd ra pos wid => .bfx g (stepReg rd d n) (stepReg ra a n) pos wid
  | .bfi g rd ra pos wid => .bfi g (stepReg rd d n) (stepReg ra a n) pos wid
  | .lea g sh rd ra rb => .lea g sh (stepReg rd d n) (stepReg ra a n) (stepReg rb b n)
  | .ldB g cl sx rd ra disp => .ldB g cl sx (stepReg rd d n) (stepReg ra a n) disp
  | .ldBLit g cl sx rd ra lit => .ldBLit g cl sx (stepReg rd d n) (stepReg ra a n) lit
  | .ldH g cl sx rd ra disp => .ldH g cl sx (stepReg rd d n) (stepReg ra a n) disp
  | .ldHLit g cl sx rd ra lit => .ldHLit g cl sx (stepReg rd d n) (stepReg ra a n) lit
  | .ldW g cl sx rd ra disp => .ldW g cl sx (stepReg rd d n) (stepReg ra a n) disp
  | .ldWLit g cl sx rd ra lit => .ldWLit g cl sx (stepReg rd d n) (stepReg ra a n) lit
  | .ldD g cl rd ra disp => .ldD g cl (stepReg rd d n) (stepReg ra a n) disp
  | .ldDLit g cl rd ra lit => .ldDLit g cl (stepReg rd d n) (stepReg ra a n) lit
  | .stB g cl nt rs ra disp => .stB g cl nt (stepReg rs d n) (stepReg ra a n) disp
  | .stBLit g cl nt rs ra lit => .stBLit g cl nt (stepReg rs d n) (stepReg ra a n) lit
  | .stH g cl nt rs ra disp => .stH g cl nt (stepReg rs d n) (stepReg ra a n) disp
  | .stHLit g cl nt rs ra lit => .stHLit g cl nt (stepReg rs d n) (stepReg ra a n) lit
  | .stW g cl nt rs ra disp => .stW g cl nt (stepReg rs d n) (stepReg ra a n) disp
  | .stWLit g cl nt rs ra lit => .stWLit g cl nt (stepReg rs d n) (stepReg ra a n) lit
  | .stD g cl nt rs ra disp => .stD g cl nt (stepReg rs d n) (stepReg ra a n) disp
  | .stDLit g cl nt rs ra lit => .stDLit g cl nt (stepReg rs d n) (stepReg ra a n) lit
  | .vld f => (match vForm (.vld f) with | some (fm, f) => .vld (vStep fm f d a b c n) | none => .vld f)
  | .vlds f => (match vForm (.vlds f) with | some (fm, f) => .vlds (vStep fm f d a b c n) | none => .vlds f)
  | .vldg f => (match vForm (.vldg f) with | some (fm, f) => .vldg (vStep fm f d a b c n) | none => .vldg f)
  | .vldt f => (match vForm (.vldt f) with | some (fm, f) => .vldt (vStep fm f d a b c n) | none => .vldt f)
  | .vldth f => (match vForm (.vldth f) with | some (fm, f) => .vldth (vStep fm f d a b c n) | none => .vldth f)
  | .vldb f => (match vForm (.vldb f) with | some (fm, f) => .vldb (vStep fm f d a b c n) | none => .vldb f)
  | .vst f => (match vForm (.vst f) with | some (fm, f) => .vst (vStep fm f d a b c n) | none => .vst f)
  | .vsts f => (match vForm (.vsts f) with | some (fm, f) => .vsts (vStep fm f d a b c n) | none => .vsts f)
  | .vstx f => (match vForm (.vstx f) with | some (fm, f) => .vstx (vStep fm f d a b c n) | none => .vstx f)
  | .vstt f => (match vForm (.vstt f) with | some (fm, f) => .vstt (vStep fm f d a b c n) | none => .vstt f)
  | .vstn f => (match vForm (.vstn f) with | some (fm, f) => .vstn (vStep fm f d a b c n) | none => .vstn f)
  | .vadd f => (match vForm (.vadd f) with | some (fm, f) => .vadd (vStep fm f d a b c n) | none => .vadd f)
  | .vsub f => (match vForm (.vsub f) with | some (fm, f) => .vsub (vStep fm f d a b c n) | none => .vsub f)
  | .vmul f => (match vForm (.vmul f) with | some (fm, f) => .vmul (vStep fm f d a b c n) | none => .vmul f)
  | .vmulh f => (match vForm (.vmulh f) with | some (fm, f) => .vmulh (vStep fm f d a b c n) | none => .vmulh f)
  | .vmin f => (match vForm (.vmin f) with | some (fm, f) => .vmin (vStep fm f d a b c n) | none => .vmin f)
  | .vmax f => (match vForm (.vmax f) with | some (fm, f) => .vmax (vStep fm f d a b c n) | none => .vmax f)
  | .vabs f => (match vForm (.vabs f) with | some (fm, f) => .vabs (vStep fm f d a b c n) | none => .vabs f)
  | .vneg f => (match vForm (.vneg f) with | some (fm, f) => .vneg (vStep fm f d a b c n) | none => .vneg f)
  | .vmad f => (match vForm (.vmad f) with | some (fm, f) => .vmad (vStep fm f d a b c n) | none => .vmad f)
  | .vmsub f => (match vForm (.vmsub f) with | some (fm, f) => .vmsub (vStep fm f d a b c n) | none => .vmsub f)
  | .vaddsat f => (match vForm (.vaddsat f) with | some (fm, f) => .vaddsat (vStep fm f d a b c n) | none => .vaddsat f)
  | .vsubsat f => (match vForm (.vsubsat f) with | some (fm, f) => .vsubsat (vStep fm f d a b c n) | none => .vsubsat f)
  | .vand f => (match vForm (.vand f) with | some (fm, f) => .vand (vStep fm f d a b c n) | none => .vand f)
  | .vor f => (match vForm (.vor f) with | some (fm, f) => .vor (vStep fm f d a b c n) | none => .vor f)
  | .vxor f => (match vForm (.vxor f) with | some (fm, f) => .vxor (vStep fm f d a b c n) | none => .vxor f)
  | .vandn f => (match vForm (.vandn f) with | some (fm, f) => .vandn (vStep fm f d a b c n) | none => .vandn f)
  | .vnot f => (match vForm (.vnot f) with | some (fm, f) => .vnot (vStep fm f d a b c n) | none => .vnot f)
  | .vshl f => (match vForm (.vshl f) with | some (fm, f) => .vshl (vStep fm f d a b c n) | none => .vshl f)
  | .vshr f => (match vForm (.vshr f) with | some (fm, f) => .vshr (vStep fm f d a b c n) | none => .vshr f)
  | .vsra f => (match vForm (.vsra f) with | some (fm, f) => .vsra (vStep fm f d a b c n) | none => .vsra f)
  | .vpopc f => (match vForm (.vpopc f) with | some (fm, f) => .vpopc (vStep fm f d a b c n) | none => .vpopc f)
  | .vclz f => (match vForm (.vclz f) with | some (fm, f) => .vclz (vStep fm f d a b c n) | none => .vclz f)
  | .vctz f => (match vForm (.vctz f) with | some (fm, f) => .vctz (vStep fm f d a b c n) | none => .vctz f)
  | .vbrev f => (match vForm (.vbrev f) with | some (fm, f) => .vbrev (vStep fm f d a b c n) | none => .vbrev f)
  | .vfadd f => (match vForm (.vfadd f) with | some (fm, f) => .vfadd (vStep fm f d a b c n) | none => .vfadd f)
  | .vfsub f => (match vForm (.vfsub f) with | some (fm, f) => .vfsub (vStep fm f d a b c n) | none => .vfsub f)
  | .vfmul f => (match vForm (.vfmul f) with | some (fm, f) => .vfmul (vStep fm f d a b c n) | none => .vfmul f)
  | .vfmin f => (match vForm (.vfmin f) with | some (fm, f) => .vfmin (vStep fm f d a b c n) | none => .vfmin f)
  | .vfmax f => (match vForm (.vfmax f) with | some (fm, f) => .vfmax (vStep fm f d a b c n) | none => .vfmax f)
  | .vfabs f => (match vForm (.vfabs f) with | some (fm, f) => .vfabs (vStep fm f d a b c n) | none => .vfabs f)
  | .vfneg f => (match vForm (.vfneg f) with | some (fm, f) => .vfneg (vStep fm f d a b c n) | none => .vfneg f)
  | .vfsgn f => (match vForm (.vfsgn f) with | some (fm, f) => .vfsgn (vStep fm f d a b c n) | none => .vfsgn f)
  | .vfma f => (match vForm (.vfma f) with | some (fm, f) => .vfma (vStep fm f d a b c n) | none => .vfma f)
  | .vfms f => (match vForm (.vfms f) with | some (fm, f) => .vfms (vStep fm f d a b c n) | none => .vfms f)
  | .vfnma f => (match vForm (.vfnma f) with | some (fm, f) => .vfnma (vStep fm f d a b c n) | none => .vfnma f)
  | .vfnms f => (match vForm (.vfnms f) with | some (fm, f) => .vfnms (vStep fm f d a b c n) | none => .vfnms f)
  | .vrsqa f => (match vForm (.vrsqa f) with | some (fm, f) => .vrsqa (vStep fm f d a b c n) | none => .vrsqa f)
  | .vrcpa f => (match vForm (.vrcpa f) with | some (fm, f) => .vrcpa (vStep fm f d a b c n) | none => .vrcpa f)
  | .vexpa f => (match vForm (.vexpa f) with | some (fm, f) => .vexpa (vStep fm f d a b c n) | none => .vexpa f)
  | .vloga f => (match vForm (.vloga f) with | some (fm, f) => .vloga (vStep fm f d a b c n) | none => .vloga f)
  | .vsqrt f => (match vForm (.vsqrt f) with | some (fm, f) => .vsqrt (vStep fm f d a b c n) | none => .vsqrt f)
  | .vfdiv f => (match vForm (.vfdiv f) with | some (fm, f) => .vfdiv (vStep fm f d a b c n) | none => .vfdiv f)
  | .vsel f => (match vForm (.vsel f) with | some (fm, f) => .vsel (vStep fm f d a b c n) | none => .vsel f)
  | .vmov f => (match vForm (.vmov f) with | some (fm, f) => .vmov (vStep fm f d a b c n) | none => .vmov f)
  | .viota f => (match vForm (.viota f) with | some (fm, f) => .viota (vStep fm f d a b c n) | none => .viota f)
  | .vbcast f => (match vForm (.vbcast f) with | some (fm, f) => .vbcast (vStep fm f d a b c n) | none => .vbcast f)
  | .vpop f => (match vForm (.vpop f) with | some (fm, f) => .vpop (vStep fm f d a b c n) | none => .vpop f)
  | .vperm f => (match vForm (.vperm f) with | some (fm, f) => .vperm (vStep fm f d a b c n) | none => .vperm f)
  | .vslideup f => (match vForm (.vslideup f) with | some (fm, f) => .vslideup (vStep fm f d a b c n) | none => .vslideup f)
  | .vslidedn f => (match vForm (.vslidedn f) with | some (fm, f) => .vslidedn (vStep fm f d a b c n) | none => .vslidedn f)
  | .vzip f => (match vForm (.vzip f) with | some (fm, f) => .vzip (vStep fm f d a b c n) | none => .vzip f)
  | .vunzip f => (match vForm (.vunzip f) with | some (fm, f) => .vunzip (vStep fm f d a b c n) | none => .vunzip f)
  | .vrev f => (match vForm (.vrev f) with | some (fm, f) => .vrev (vStep fm f d a b c n) | none => .vrev f)
  | .vrsum f => (match vForm (.vrsum f) with | some (fm, f) => .vrsum (vStep fm f d a b c n) | none => .vrsum f)
  | .vrmin f => (match vForm (.vrmin f) with | some (fm, f) => .vrmin (vStep fm f d a b c n) | none => .vrmin f)
  | .vrmax f => (match vForm (.vrmax f) with | some (fm, f) => .vrmax (vStep fm f d a b c n) | none => .vrmax f)
  | .vfrsum f => (match vForm (.vfrsum f) with | some (fm, f) => .vfrsum (vStep fm f d a b c n) | none => .vfrsum f)
  | .vfrmin f => (match vForm (.vfrmin f) with | some (fm, f) => .vfrmin (vStep fm f d a b c n) | none => .vfrmin f)
  | .vfrmax f => (match vForm (.vfrmax f) with | some (fm, f) => .vfrmax (vStep fm f d a b c n) | none => .vfrmax f)
  | .vrand f => (match vForm (.vrand f) with | some (fm, f) => .vrand (vStep fm f d a b c n) | none => .vrand f)
  | .vror f => (match vForm (.vror f) with | some (fm, f) => .vror (vStep fm f d a b c n) | none => .vror f)
  | .vwadd f => (match vForm (.vwadd f) with | some (fm, f) => .vwadd (vStep fm f d a b c n) | none => .vwadd f)
  | .vwmul f => (match vForm (.vwmul f) with | some (fm, f) => .vwmul (vStep fm f d a b c n) | none => .vwmul f)
  | .vwmad f => (match vForm (.vwmad f) with | some (fm, f) => .vwmad (vStep fm f d a b c n) | none => .vwmad f)
  | .vwcvt f => (match vForm (.vwcvt f) with | some (fm, f) => .vwcvt (vStep fm f d a b c n) | none => .vwcvt f)
  | .vwcvt4 f => (match vForm (.vwcvt4 f) with | some (fm, f) => .vwcvt4 (vStep fm f d a b c n) | none => .vwcvt4 f)
  | .vnsat f => (match vForm (.vnsat f) with | some (fm, f) => .vnsat (vStep fm f d a b c n) | none => .vnsat f)
  | .vntrunc f => (match vForm (.vntrunc f) with | some (fm, f) => .vntrunc (vStep fm f d a b c n) | none => .vntrunc f)
  | .vcvt f => (match vForm (.vcvt f) with | some (fm, f) => .vcvt (vStep fm f d a b c n) | none => .vcvt f)
  | .vcvts f => (match vForm (.vcvts f) with | some (fm, f) => .vcvts (vStep fm f d a b c n) | none => .vcvts f)
  | .vcvtd f => (match vForm (.vcvtd f) with | some (fm, f) => .vcvtd (vStep fm f d a b c n) | none => .vcvtd f)
  | .vcvtq f => (match vForm (.vcvtq f) with | some (fm, f) => .vcvtq (vStep fm f d a b c n) | none => .vcvtq f)
  | .vcks f => (match vForm (.vcks f) with | some (fm, f) => .vcks (vStep fm f d a b c n) | none => .vcks f)
  | .vckv f => (match vForm (.vckv f) with | some (fm, f) => .vckv (vStep fm f d a b c n) | none => .vckv f)
  | .vckx f => (match vForm (.vckx f) with | some (fm, f) => .vckx (vStep fm f d a b c n) | none => .vckx f)
  | .vcki f => (match vForm (.vcki f) with | some (fm, f) => .vcki (vStep fm f d a b c n) | none => .vcki f)
  | .kand f => (match vForm (.kand f) with | some (fm, f) => .kand (vStep fm f d a b c n) | none => .kand f)
  | .kor f => (match vForm (.kor f) with | some (fm, f) => .kor (vStep fm f d a b c n) | none => .kor f)
  | .kxor f => (match vForm (.kxor f) with | some (fm, f) => .kxor (vStep fm f d a b c n) | none => .kxor f)
  | .kandn f => (match vForm (.kandn f) with | some (fm, f) => .kandn (vStep fm f d a b c n) | none => .kandn f)
  | .knot f => (match vForm (.knot f) with | some (fm, f) => .knot (vStep fm f d a b c n) | none => .knot f)
  | .kmov f => (match vForm (.kmov f) with | some (fm, f) => .kmov (vStep fm f d a b c n) | none => .kmov f)
  | .kset f => (match vForm (.kset f) with | some (fm, f) => .kset (vStep fm f d a b c n) | none => .kset f)
  | .kclr f => (match vForm (.kclr f) with | some (fm, f) => .kclr (vStep fm f d a b c n) | none => .kclr f)
  | .vamo o f => (match vForm (.vamo o f) with | some (fm, f) => .vamo o (vStep fm f d a b c n) | none => .vamo o f)
  | .vcmp o f => (match vForm (.vcmp o f) with | some (fm, f) => .vcmp o (vStep fm f d a b c n) | none => .vcmp o f)
  | i => i

/-- Whether REP may repeat the instruction with this head (R33): a V instruction, or a C instruction of op 0x01 to
0x06 or 0x0C to 0x13 with vc not stepped. -/
def repTargetOk (h : Parcel) (c : Bool) : Bool :=
  let cls := bitsAt h.toNat 13 3
  let op := bitsAt h.toNat 8 5
  decide (cls = 1) ||
  (decide (cls = 0) && ((decide (1 ≤ op) && decide (op ≤ 6)) || (decide (12 ≤ op) && decide (op ≤ 19))) && !c)

end Sys2Proof
end

