-- ==== Sys2Proof/Machine/Num.lean ====
section
/-!
DEFINITION. Machine/Num.lean: the numbers of 03_numbers.md. Every element is read as an exact value (a sign, a natural
number and a power of two; an infinity; a NaN), arithmetic is exact on those, and one function rounds. No table is
written out: the entries of R71 to R74 are computed by comparing integers.
-/

namespace Sys2Proof

namespace Machine

/-! ### Exact values -/

/-- The value of a number element: (−1)^neg · m · 2^e, an infinity, or a NaN, signalling or quiet (R44, R45). -/
inductive Fp where
  | fin (neg : Bool) (m : Nat) (e : Int)
  | inf (neg : Bool)
  | nan (sig : Bool)
  deriving DecidableEq, Repr

/-- Rounding modes (R58, R60). `dith d` rounds with the offset d/32 of R61. -/
inductive Mode where
  | ne | tz | dn | up
  | dith (d : Nat)
  deriving DecidableEq, Repr

/-- How a floating format uses an exponent of all ones (R44). -/
inductive Top where
  | ieee | nanOnly | finite
  deriving DecidableEq, Repr

/-- Fields of a floating format (R44). -/
structure FF where
  eb   : Nat
  fb   : Nat
  bias : Nat
  top  : Top
  deriving DecidableEq, Repr

/-- FP32 (R44). -/
def ff32 : FF := ⟨8, 23, 127, .ieee⟩
/-- BF16 (R44). -/
def ffBf16 : FF := ⟨8, 7, 127, .ieee⟩
/-- FP16 (R44). -/
def ffFp16 : FF := ⟨5, 10, 15, .ieee⟩

/-- The floating format of a format code (R43, R44). -/
def ffOf (fmt : Nat) : Option FF :=
  match fmt with
  | 0x00 => some ff32
  | 0x01 => some ffBf16
  | 0x02 => some ffFp16
  | 0x03 => some ⟨4, 3, 7, .nanOnly⟩
  | 0x04 => some ⟨5, 2, 15, .ieee⟩
  | 0x05 => some ⟨2, 3, 1, .finite⟩
  | 0x06 => some ⟨3, 2, 3, .finite⟩
  | 0x07 => some ⟨2, 1, 1, .finite⟩
  | _ => none

/-- The width of a floating format. -/
def FF.width (f : FF) : Nat := 1 + f.eb + f.fb

/-- The largest finite magnitude, as the number its bits below the sign make (R44). -/
def FF.maxEnc (f : FF) : Nat :=
  match f.top with
  | .ieee => (2 ^ f.eb - 1) * 2 ^ f.fb - 1
  | .nanOnly => 2 ^ (f.eb + f.fb) - 2
  | .finite => 2 ^ (f.eb + f.fb) - 1

/-- The exponent of the smallest normal number. -/
def FF.emin (f : FF) : Int := 1 - (f.bias : Int)

/-- The canonical NaN pattern (R45). -/
def FF.nanBits (f : FF) : Nat :=
  match f.top with
  | .ieee => (2 ^ f.eb - 1) * 2 ^ f.fb + 2 ^ (f.fb - 1)
  | .nanOnly => 2 ^ (f.eb + f.fb) - 1
  | .finite => 0

/-- The bits of an infinity. -/
def FF.infBits (f : FF) (neg : Bool) : Nat := bitNat neg * 2 ^ (f.eb + f.fb) + (2 ^ f.eb - 1) * 2 ^ f.fb

/-- Whether the format has NaN (R44). -/
def FF.hasNan (f : FF) : Bool := decide (f.top ≠ .finite)

/-- The value of an element's bits (R44, R45). FP8B NaNs are quiet; a NaN of FP32, BF16 or FP16 is signalling when its
top fraction bit is 0. -/
def FF.value (f : FF) (w : Nat) : Fp :=
  let neg := bitAt w (f.eb + f.fb)
  let ex := bitsAt w f.fb f.eb
  let fr := bitsAt w 0 f.fb
  let finite : Fp :=
    if ex = 0 then .fin neg fr (f.emin - f.fb) else .fin neg (2 ^ f.fb + fr) (f.emin - f.fb + (ex - 1 : Nat))
  if ex = 2 ^ f.eb - 1 then
    match f.top with
    | .ieee =>
      if fr = 0 then .inf neg
      else .nan (decide (2 < f.fb) && !bitAt fr (f.fb - 1))
    | .nanOnly => if fr = 2 ^ f.fb - 1 then .nan false else finite
    | .finite => finite
  else finite

/-! ### Flags (R41) -/

/-- ACFLAGS.invalid. -/
def flInvalid : Nat := 1
/-- ACFLAGS.divzero. -/
def flDivzero : Nat := 2
/-- ACFLAGS.overflow. -/
def flOverflow : Nat := 4
/-- ACFLAGS.underflow. -/
def flUnderflow : Nat := 8
/-- ACFLAGS.inexact. -/
def flInexact : Nat := 16
/-- ACFLAGS.iov. -/
def flIov : Nat := 32
/-- ACFLAGS.sat. -/
def flSat : Nat := 64
/-- ACFLAGS.ufl. -/
def flUfl : Nat := 128
/-- ACFLAGS.tern2. -/
def flTern2 : Nat := 256

/-! ### Rounding -/

/-- Whether rounding goes up from `lo` when `rem` of `unit` quanta remain (R60): `odd` is lo's lowest bit. -/
def roundsUp (mode : Mode) (neg odd : Bool) (rem unit : Nat) : Bool :=
  if rem = 0 then false
  else match mode with
    | .ne => if 2 * rem = unit then odd else decide (unit < 2 * rem)
    | .tz => false
    | .dn => neg
    | .up => !neg
    | .dith d => decide (32 * unit ≤ 32 * rem + d * unit)

/-- m · 2^e in units of 2^q: the floor, and what remains as a numerator over a unit. -/
def quantise (m : Nat) (e q : Int) : Nat × Nat × Nat :=
  if q ≤ e then (m * 2 ^ (e - q).toNat, 0, 1)
  else
    let u := 2 ^ (q - e).toNat
    (m / u, m % u, u)

/-- The exponent of the leading bit of m · 2^e, for m > 0. -/
def topExp (m : Nat) (e : Int) : Int := e + (Nat.log2 m : Int)

/-- The magnitude of m · 2^e rounded onto a floating format's grid, continued above its largest value with the spacing
of an unbounded exponent range (R60): the number its bits would make, and whether it is exact. -/
def FF.roundMag (f : FF) (mode : Mode) (neg : Bool) (m : Nat) (e : Int) : Nat × Bool :=
  if m = 0 then (0, true)
  else
    let q := max (topExp m e) f.emin - (f.fb : Int)
    let (lo, rem, unit) := quantise m e q
    let up := roundsUp mode neg (decide (lo % 2 = 1)) rem unit
    ((q - (f.emin - (f.fb : Int))).toNat * 2 ^ f.fb + (if up then lo + 1 else lo), decide (rem = 0))

/-- Whether m · 2^e is tiny after rounding, with the exponent range unbounded (R41). -/
def FF.tiny (f : FF) (mode : Mode) (neg : Bool) (m : Nat) (e : Int) : Bool :=
  let t := topExp m e
  if m = 0 ∨ f.emin ≤ t then false
  else if t < f.emin - 1 then true
  else
    let (lo, rem, unit) := quantise m e (t - (f.fb : Int))
    let r := if roundsUp mode neg (decide (lo % 2 = 1)) rem unit then lo + 1 else lo
    decide (r < 2 ^ (f.fb + 1))

/-- IEEE 754 rounding of (−1)^neg · m · 2^e to an IEEE format: bits and flags (R59, R41). -/
def FF.roundFin (f : FF) (mode : Mode) (neg : Bool) (m : Nat) (e : Int) : Nat × Nat :=
  let sgn := bitNat neg * 2 ^ (f.eb + f.fb)
  let (mag, exact) := f.roundMag mode neg m e
  if f.maxEnc < mag then
    let toInf := match mode with
      | .ne | .dith _ => true
      | .tz => false
      | .dn => neg
      | .up => !neg
    (sgn + (if toInf then f.maxEnc + 1 else f.maxEnc), flOverflow + flInexact)
  else
    (sgn + mag, (if exact then 0 else flInexact) + (if !exact && f.tiny mode neg m e then flUnderflow else 0))

/-- IEEE 754 rounding of an exact result: the canonical NaN for a NaN. -/
def FF.round (f : FF) (mode : Mode) : Fp → Nat × Nat
  | .fin neg m e => f.roundFin mode neg m e
  | .inf neg => (f.infBits neg, 0)
  | .nan _ => (f.nanBits, 0)

/-! ### Exact arithmetic on values -/

/-- Whether a value is a signalling NaN. -/
def Fp.isSig : Fp → Bool
  | .nan s => s
  | _ => false
/-- Whether a value is a NaN. -/
def Fp.isNan : Fp → Bool
  | .nan _ => true
  | _ => false
/-- Whether a value is an infinity. -/
def Fp.isInf : Fp → Bool
  | .inf _ => true
  | _ => false
/-- Whether a value is a zero of either sign. -/
def Fp.isZero : Fp → Bool
  | .fin _ m _ => decide (m = 0)
  | _ => false
/-- The sign of a value (a NaN has none). -/
def Fp.sign : Fp → Bool
  | .fin n _ _ => n
  | .inf n => n
  | .nan _ => false
/-- The value with its sign inverted. -/
def Fp.neg : Fp → Fp
  | .fin n m e => .fin (!n) m e
  | .inf n => .inf (!n)
  | .nan s => .nan s

/-- A signed natural number. -/
def signed (neg : Bool) (m : Nat) : Int := if neg then -(m : Int) else (m : Int)

/-- The invalid flag if the condition holds. -/
def invalidIf (b : Bool) : Nat := if b then flInvalid else 0

/-- The exact sum of two dyadics as an integer and an exponent. -/
def addDy (a : Int × Int) (b : Int × Int) : Int × Int :=
  if a.1 = 0 then b
  else if b.1 = 0 then a
  else
    let e := min a.2 b.2
    (a.1 * 2 ^ (a.2 - e).toNat + b.1 * 2 ^ (b.2 - e).toNat, e)

/-- The exact value of a dyadic; a zero takes the given sign. -/
def ofDy (zeroNeg : Bool) (d : Int × Int) : Fp :=
  if d.1 = 0 then .fin zeroNeg 0 0 else .fin (decide (d.1 < 0)) d.1.natAbs d.2

/-- a + b exactly, with IEEE 754's zero signs, and the flags raised (R154). -/
def fpAdd (mode : Mode) (a b : Fp) : Fp × Nat :=
  match a, b with
  | .nan s, b => (.nan false, invalidIf (s || b.isSig))
  | a, .nan s => (.nan false, invalidIf (s || a.isSig))
  | .inf x, .inf y => if x = y then (.inf x, 0) else (.nan false, flInvalid)
  | .inf x, .fin .. => (.inf x, 0)
  | .fin .., .inf y => (.inf y, 0)
  | .fin na ma ea, .fin nb mb eb =>
    let zs := if ma = 0 ∧ mb = 0 ∧ na = nb then na else decide (mode = .dn)
    (ofDy zs (addDy (signed na ma, ea) (signed nb mb, eb)), 0)

/-- a · b exactly (R154). -/
def fpMul (a b : Fp) : Fp × Nat :=
  match a, b with
  | .nan s, b => (.nan false, invalidIf (s || b.isSig))
  | a, .nan s => (.nan false, invalidIf (s || a.isSig))
  | .fin na ma ea, .fin nb mb eb => (.fin (na != nb) (ma * mb) (ea + eb), 0)
  | a, b => if a.isZero || b.isZero then (.nan false, flInvalid) else (.inf (a.sign != b.sign), 0)

/-- (−1)^np · a · b + (−1)^nc · c exactly (R154): an infinity times zero is invalid even when c is a quiet NaN. -/
def fpFma (mode : Mode) (np nc : Bool) (a b c : Fp) : Fp × Nat :=
  let (p, f1) := fpMul a b
  let p := if np then p.neg else p
  let c' := if nc then c.neg else c
  let (r, f2) := fpAdd mode p c'
  (r, f1 ||| f2)

/-- Integer square root by bits: the largest r below 2^k with r² ≤ n. -/
def isqrtAux (n : Nat) : Nat → Nat → Nat
  | 0, r => r
  | k + 1, r => if (r + 2 ^ k) * (r + 2 ^ k) ≤ n then isqrtAux n k (r + 2 ^ k) else isqrtAux n k r

/-- The integer square root. -/
def isqrt (n : Nat) : Nat := isqrtAux n (Nat.log2 n / 2 + 1) 0

/-- A quotient n / d · 2^e as a dyadic that rounds the same in every mode at up to 64 bits: an odd last bit stands for
a remainder. -/
def divSticky (n d : Nat) (e : Int) : Nat × Int :=
  let k := Nat.log2 d + 70
  let q := n * 2 ^ k / d
  (2 * q + (if n * 2 ^ k % d = 0 then 0 else 1), e - (k : Int) - 1)

/-- a / b (R155): a value that rounds as the exact quotient. -/
def fpDiv (a b : Fp) : Fp × Nat :=
  match a, b with
  | .nan s, b => (.nan false, invalidIf (s || b.isSig))
  | a, .nan s => (.nan false, invalidIf (s || a.isSig))
  | .inf _, .inf _ => (.nan false, flInvalid)
  | .inf x, .fin y _ _ => (.inf (x != y), 0)
  | .fin x _ _, .inf y => (.fin (x != y) 0 0, 0)
  | .fin na ma ea, .fin nb mb eb =>
    if mb = 0 then (if ma = 0 then (.nan false, flInvalid) else (.inf (na != nb), flDivzero))
    else
      let (m, e) := divSticky ma mb (ea - eb)
      (.fin (na != nb) m e, 0)

/-- The square root (R155): a value that rounds as the exact root. -/
def fpSqrt (a : Fp) : Fp × Nat :=
  match a with
  | .nan s => (.nan false, invalidIf s)
  | .inf neg => if neg then (.nan false, flInvalid) else (.inf false, 0)
  | .fin neg m e =>
    if m = 0 then (.fin neg 0 0, 0)
    else if neg then (.nan false, flInvalid)
    else
      let (m', e') := if e % 2 = 0 then (m * 2 ^ 140, e - 140) else (m * 2 ^ 141, e - 141)
      let r := isqrt m'
      (.fin false (2 * r + (if r * r = m' then 0 else 1)) (e' / 2 - 1), 0)

/-- Whether a is below b; both not NaN. -/
def fpLt (a b : Fp) : Bool :=
  match a, b with
  | .nan _, _ => false
  | _, .nan _ => false
  | .inf x, .inf y => x && !y
  | .inf x, .fin .. => x
  | .fin .., .inf y => !y
  | .fin na ma ea, .fin nb mb eb =>
    let e := min ea eb
    decide (signed na ma * 2 ^ (ea - e).toNat < signed nb mb * 2 ^ (eb - e).toNat)

/-- Whether a equals b by value: −0 equals +0; both not NaN. -/
def fpEq (a b : Fp) : Bool := !a.isNan && !b.isNan && !fpLt a b && !fpLt b a

/-- VFMIN (R154): which operand's bits, or the canonical NaN; −0 is below +0. -/
def fpMin (f : FF) (wa wb : Nat) : Nat × Nat :=
  let a := f.value wa
  let b := f.value wb
  let fl := invalidIf (a.isSig || b.isSig)
  if a.isNan then (if b.isNan then f.nanBits else wb, fl)
  else if b.isNan then (wa, fl)
  else if fpLt b a || (fpEq a b && b.sign && !a.sign) then (wb, fl) else (wa, fl)

/-- VFMAX (R154). -/
def fpMax (f : FF) (wa wb : Nat) : Nat × Nat :=
  let a := f.value wa
  let b := f.value wb
  let fl := invalidIf (a.isSig || b.isSig)
  if a.isNan then (if b.isNan then f.nanBits else wb, fl)
  else if b.isNan then (wa, fl)
  else if fpLt a b || (fpEq a b && a.sign && !b.sign) then (wb, fl) else (wa, fl)

/-! ### Integers, dual-shift and single-shift formats -/

/-- A w-bit number read as two's complement. -/
def toSigned (w n : Nat) : Int := if n < 2 ^ (w - 1) then (n : Int) else (n : Int) - (2 ^ w : Nat)

/-- An integer as a w-bit two's complement number. -/
def ofInt (w : Nat) (i : Int) : Nat := (i % ((2 ^ w : Nat) : Int)).toNat

/-- The value of a dual-shift element with exponents of `eb` bits (R46). -/
def dsValue (eb w : Nat) : Int :=
  let t (lo : Nat) : Int := signed (bitAt w (lo + eb)) (2 ^ bitsAt w lo eb)
  t (eb + 1) + t 0

/-- The value of an SS4 element (R43). -/
def ssValue (w : Nat) : Int := if bitsAt w 0 3 = 0 then 0 else signed (bitAt w 3) (2 ^ bitsAt w 0 3)

/-- The exact value of an element of a format code (R43), and the flag its reading sets (R47). -/
def elemValue (fmt : Nat) (w : Nat) : Fp × Nat :=
  match ffOf fmt with
  | some f => (f.value w, 0)
  | none =>
    let int (i : Int) : Fp := .fin (decide (i < 0)) i.natAbs 0
    match fmt with
    | 0x08 => (int (toSigned 32 w), 0)
    | 0x09 => (int (toSigned 16 w), 0)
    | 0x0A => (int (toSigned 8 w), 0)
    | 0x0B => (int w, 0)
    | 0x0C => (int (toSigned 4 w), 0)
    | 0x0D => (int w, 0)
    | 0x0E => (int (toSigned 2 w), 0)
    | 0x0F => if w = 2 then (int 0, flTern2) else (int (toSigned 2 w), 0)
    | 0x10 => (int (if w = 0 then -1 else 1), 0)
    | 0x11 => (int (dsValue 3 w), 0)
    | 0x12 => (int (dsValue 2 w), 0)
    | 0x13 => (int (ssValue w), 0)
    | _ => (int 0, 0)

/-- Whether a format code is of the floating family (R43). -/
def isFloatFmt (fmt : Nat) : Bool := (ffOf fmt).isSome

/-- The magnitudes of DS8, ascending (R46). -/
def ds8Mags : List Nat :=
  [0, 1, 2, 3, 4, 5, 6, 7, 8, 9, 10, 12, 14, 15, 16, 17, 18, 20, 24, 28, 30, 31, 32, 33, 34, 36, 40, 48, 56, 60, 62, 63,
   64, 65, 66, 68, 72, 80, 96, 112, 120, 124, 126, 127, 128, 129, 130, 132, 136, 144, 160, 192, 256]
/-- The magnitudes of DS6, ascending (R46). -/
def ds6Mags : List Nat := [0, 1, 2, 3, 4, 5, 6, 7, 8, 9, 10, 12, 16]
/-- The magnitudes of SS4, ascending (R43). -/
def ss4Mags : List Nat := [0, 2, 4, 8, 16, 32, 64, 128]

/-- The lowest encoding below n whose value is v (R46); n when there is none. -/
def lowestEnc (val : Nat → Int) (n : Nat) (v : Int) : Nat :=
  match (List.range n).find? (fun w => decide (val w = v)) with
  | some w => w
  | none => n

/-- The encoding the part writes for an integer value of a format (R46); none when the format has no such value. -/
def encodeInt (fmt : Nat) (v : Int) : Option Nat :=
  let tc (w : Nat) : Option Nat := if -(2 ^ (w - 1) : Int) ≤ v ∧ v < 2 ^ (w - 1) then some (ofInt w v) else none
  let un (w : Nat) : Option Nat := if 0 ≤ v ∧ v < 2 ^ w then some v.toNat else none
  match fmt with
  | 0x08 => tc 32
  | 0x09 => tc 16
  | 0x0A => tc 8
  | 0x0B => un 8
  | 0x0C => tc 4
  | 0x0D => un 4
  | 0x0E => tc 2
  | 0x0F => if -1 ≤ v ∧ v ≤ 1 then some (ofInt 2 v) else none
  | 0x10 => if v = 1 then some 1 else if v = -1 then some 0 else none
  | 0x11 =>
    if v = 0 then some 0x80
    else let w := lowestEnc (dsValue 3) 256 v; if w = 256 then none else some w
  | 0x12 =>
    if v = 0 then some 0x20
    else let w := lowestEnc (dsValue 2) 64 v; if w = 64 then none else some w
  | 0x13 =>
    if v = 0 then some 0
    else let w := lowestEnc ssValue 16 v; if w = 16 then none else some w
  | _ => none

/-- The zero of a format as the part writes it without computing it (R325). -/
def zeroOf (fmt : Nat) : Nat :=
  match fmt with
  | 0x11 => 0x80
  | 0x12 => 0x20
  | _ => 0

/-! ### Conversion (R60 to R64) -/

/-- What a conversion gives: bits, a saturation, an underflow, an invalid (R63, R64, R45). -/
structure Conv where
  bits    : Nat
  sat     : Bool
  ufl     : Bool
  invalid : Bool
  deriving DecidableEq, Repr

/-- The flags of a conversion (R64). -/
def Conv.flags (c : Conv) : Nat :=
  (if c.sat then flSat else 0) + (if c.ufl then flUfl else 0) + (if c.invalid then flInvalid else 0)

/-- The point of an ascending grid of integer magnitudes chosen for m · 2^e (R60). Above the last magnitude M the grid
goes on at M · 2^k. -/
def gridRound (mode : Mode) (neg : Bool) (mags : List Nat) (m : Nat) (e : Int) : Nat :=
  let top := mags.getLastD 0
  let (ip, rem, _) := quantise m e 0
  let lo0 := (mags.filter (fun x => decide (x ≤ ip))).getLastD 0
  let lo := if top ≤ ip then top * 2 ^ Nat.log2 (ip / top) else lo0
  let hi := if top ≤ ip then 2 * lo else (mags.find? (fun x => decide (ip < x))).getD (2 * top)
  let u : Nat := 2 ^ (if 0 ≤ e then 0 else (-e).toNat)
  let frac := (ip - lo) * u + rem
  let unit := (hi - lo) * u
  if frac = 0 then lo
  else if roundsUp mode neg false frac unit then hi else lo

/-- The integer chosen for m · 2^e (R60). -/
def intRound (mode : Mode) (neg : Bool) (m : Nat) (e : Int) : Nat :=
  let (lo, rem, unit) := quantise m e 0
  if roundsUp mode neg (decide (lo % 2 = 1)) rem unit then lo + 1 else lo

/-- The conversion of an exact value to a format code (R45, R60, R63, R64). -/
def convert (fmt : Nat) (mode : Mode) (x : Fp) : Conv :=
  match ffOf fmt with
  | some f =>
    match x with
    | .nan s => if f.hasNan then ⟨f.nanBits, false, false, s⟩ else ⟨0, false, false, true⟩
    | .inf neg =>
      if f.top = .ieee then ⟨f.infBits neg, false, false, false⟩
      else ⟨bitNat neg * 2 ^ (f.eb + f.fb) + f.maxEnc, true, false, false⟩
    | .fin neg m e =>
      let sgn := bitNat neg * 2 ^ (f.eb + f.fb)
      let (mag, exact) := f.roundMag mode neg m e
      if f.maxEnc < mag then ⟨sgn + f.maxEnc, true, false, false⟩
      else ⟨sgn + mag, false, decide (m ≠ 0) && (decide (mag = 0) || (decide (mag < 2 ^ f.fb) && !exact)), false⟩
  | none =>
    if fmt = 0x10 then
      match x with
      | .nan _ => ⟨1, false, false, true⟩
      | .inf neg => ⟨bitNat (!neg), false, false, false⟩
      | .fin neg m _ => ⟨bitNat (!neg || decide (m = 0)), false, false, false⟩
    else
      let limit (neg : Bool) : Nat :=
        match fmt with
        | 0x08 => if neg then 2 ^ 31 else 2 ^ 31 - 1
        | 0x09 => if neg then 2 ^ 15 else 2 ^ 15 - 1
        | 0x0A => if neg then 2 ^ 7 else 2 ^ 7 - 1
        | 0x0B => if neg then 0 else 255
        | 0x0C => if neg then 8 else 7
        | 0x0D => if neg then 0 else 15
        | 0x0E => if neg then 2 else 1
        | 0x0F => 1
        | 0x11 => 256
        | 0x12 => 16
        | _ => 128
      let put (neg : Bool) (mag : Nat) : Nat := (encodeInt fmt (signed neg mag)).getD 0
      match x with
      | .nan _ => ⟨zeroOf fmt, false, false, true⟩
      | .inf neg => ⟨put neg (limit neg), true, false, false⟩
      | .fin neg m e =>
        let mag :=
          match fmt with
          | 0x11 => gridRound mode neg ds8Mags m e
          | 0x12 => gridRound mode neg ds6Mags m e
          | 0x13 => gridRound mode neg ss4Mags m e
          | _ => intRound mode neg m e
        if limit neg < mag then ⟨put neg (limit neg), true, false, false⟩
        else ⟨put neg mag, false, decide (m ≠ 0) && decide (mag = 0), false⟩

/-- BitReverse5 (R61). -/
def bitReverse5 (i : Nat) : Nat :=
  bitsAt i 0 1 * 16 + bitsAt i 1 1 * 8 + bitsAt i 2 1 * 4 + bitsAt i 3 1 * 2 + bitsAt i 4 1

/-- The dither offset in thirty-seconds of position i on tile t (R61). -/
def ditherOf (base step t i : Nat) : Nat := (bitReverse5 (i % 32) + (base + t * step) % 32) % 32

/-! ### Statistics (R67) -/

/-- CVMSE after the squared error of one element: RoundFP32Nearest((x − y)²) is added with one rounding. -/
def addError (cvmse : Nat) (x y : Fp) : Nat :=
  match x, y with
  | .fin nx mx ex, .fin ny my ey =>
    let d := addDy (signed nx mx, ex) (- signed ny my, ey)
    let e := (ff32.roundFin .ne false (d.1.natAbs * d.1.natAbs) (2 * d.2)).1
    (ff32.round .ne (fpAdd .ne (ff32.value cvmse) (ff32.value e)).1).1
  | .fin .., .inf _ => (ff32.round .ne (fpAdd .ne (ff32.value cvmse) (.inf false)).1).1
  | _, _ => cvmse

/-! ### Checksums (R69) -/

/-- The sum of integer values modulo 2^32. -/
def intSum (vals : List Fp) : Nat :=
  ofInt 32 (vals.foldl (fun a v => match v with | .fin n m _ => a + signed n m | _ => a) 0)

/-- The exact sum of finite values, as a dyadic. -/
def dySum (vals : List Fp) : Int × Int :=
  vals.foldl (fun a v => match v with | .fin n m e => addDy a (signed n m, e) | _ => a) (0, 0)

/-- The checksum of floating values: the exact sum rounded once to FP32 nearest-even. -/
def floatSum (vals : List Fp) : Nat :=
  let pos := vals.any (fun v => decide (v = .inf false))
  let neg := vals.any (fun v => decide (v = .inf true))
  if vals.any Fp.isNan || (pos && neg) then ff32.nanBits
  else if pos then ff32.infBits false
  else if neg then ff32.infBits true
  else
    let allNegZero := vals.all (fun v => v.isZero && v.sign)
    (ff32.round .ne (ofDy allNegZero (dySum vals))).1

/-- The checksum of a set of elements of a format code (R69), and the flag of R47. -/
def checksum (fmt : Nat) (elems : List Nat) : Nat × Nat :=
  let vs := elems.map (elemValue fmt)
  let fl := vs.foldl (fun a v => a ||| v.2) 0
  (if isFloatFmt fmt then floatSum (vs.map Prod.fst) else intSum (vs.map Prod.fst), fl)

/-! ### The approximation instructions (R70 to R74) -/

/-- The largest t below `lo + 2^k` with `ok t`, for an `ok` that holds up to some point. -/
def searchUp (ok : Nat → Bool) : Nat → Nat → Nat
  | 0, t => t
  | k + 1, t => if ok (t + 2 ^ k) then searchUp ok k (t + 2 ^ k) else searchUp ok k t

/-- TR(p, j) · 4096 (R71). -/
def tableRsq (p j : Nat) : Nat := (isqrt (4 * 4096 * 4096 * 128 / (2 ^ p * (129 + 2 * j))) + 1) / 2
/-- TC(j) · 4096 (R72). -/
def tableRcp (j : Nat) : Nat := (2 * (4096 * 256) + (257 + 2 * j)) / (2 * (257 + 2 * j))
/-- TE(j) · 4096 (R73). -/
def tableExp (j : Nat) : Nat :=
  (searchUp (fun t => decide (t ^ 256 ≤ 8192 ^ 256 * 2 ^ (2 * j + 1))) 14 0 + 1) / 2
/-- TL(j) · 4096 (R74). -/
def tableLog (j : Nat) : Nat :=
  (searchUp (fun t => decide (2 ^ t * 256 ^ 8192 ≤ (257 + 2 * j) ^ 8192)) 13 0 + 1) / 2

/-- x as 2^E · 1.f: E, and f as a number of 64 bits (R70). -/
def normalise (m : Nat) (e : Int) : Int × Nat :=
  let l := Nat.log2 m
  (e + (l : Int), (m * 2 ^ 64 / 2 ^ l) % 2 ^ 64)

/-- The final rounding of R70, which never sets inexact. -/
def approxRound (x : Fp) : Nat × Nat :=
  let (b, f) := ff32.round .ne x
  (b, f &&& (flOverflow + flUnderflow))

/-- VRSQA (R70, R71): bits and flags. -/
def vrsqa (w : Nat) : Nat × Nat :=
  match ff32.value w with
  | .nan s => (ff32.nanBits, invalidIf s)
  | .inf neg => if neg then (ff32.nanBits, flInvalid) else (0, 0)
  | .fin neg m e =>
    if m = 0 then (ff32.infBits neg, flDivzero)
    else if neg then (ff32.nanBits, flInvalid)
    else
      let (ee, f) := normalise m e
      let p := (ee % 2).toNat
      let q := (ee - (p : Int)) / 2
      if p = 0 ∧ f = 0 then approxRound (.fin false 1 (-q))
      else approxRound (.fin false (tableRsq p (f / 2 ^ 58)) (-q - 12))

/-- VRCPA (R70, R72). -/
def vrcpa (w : Nat) : Nat × Nat :=
  match ff32.value w with
  | .nan s => (ff32.nanBits, invalidIf s)
  | .inf neg => (bitNat neg * 2 ^ 31, 0)
  | .fin neg m e =>
    if m = 0 then (ff32.infBits neg, flDivzero)
    else
      let (ee, f) := normalise m e
      if f = 0 then approxRound (.fin neg 1 (-ee))
      else approxRound (.fin neg (tableRcp (f / 2 ^ 57)) (-ee - 12))

/-- VEXPA (R70, R73). The exponent of an x too large in magnitude is cut to ±1,024, beyond the FP32 range. -/
def vexpa (w : Nat) : Nat × Nat :=
  match ff32.value w with
  | .nan s => (ff32.nanBits, invalidIf s)
  | .inf neg => if neg then (0, 0) else (ff32.infBits false, 0)
  | .fin neg m e =>
    if m = 0 then (ff32.roundFin .ne false 1 0).1 |> fun b => (b, 0)
    else if 10 ≤ topExp m e then approxRound (.fin false 1 (if neg then -1024 else 1024))
    else
      let x128 : Int × Nat :=
        -- floor(128 · x) and whether x is an integer
        let s := signed neg m
        if 0 ≤ e then (s * 2 ^ e.toNat * 128, 1)
        else
          let d := 2 ^ (-e).toNat
          ((s * 128) / (d : Int), if s % (d : Int) = 0 then 1 else 0)
      let n := x128.1 / 128
      if x128.2 = 1 then approxRound (.fin false 1 n)
      else approxRound (.fin false (tableExp (x128.1 % 128).toNat) (n - 12))

/-- VLOGA (R70, R74). -/
def vloga (w : Nat) : Nat × Nat :=
  match ff32.value w with
  | .nan s => (ff32.nanBits, invalidIf s)
  | .inf neg => if neg then (ff32.nanBits, flInvalid) else (ff32.infBits false, 0)
  | .fin neg m e =>
    if m = 0 then (ff32.infBits true, flDivzero)
    else if neg then (ff32.nanBits, flInvalid)
    else
      let (ee, f) := normalise m e
      if f = 0 then approxRound (ofDy false (ee, 0))
      else approxRound (ofDy false (ee * 4096 + (tableLog (f / 2 ^ 57) : Int), -12))

/-! ### Lanes -/

/-- The lanes of an entry's data (R138): n lanes of w bits. -/
def lanesOf (w n : Nat) (d : Nat) : List Nat := (List.range n).map fun i => d / 2 ^ (w * i) % 2 ^ w

/-- Lanes packed from bit 0 (R48). -/
def packLanes (w : Nat) (ls : List Nat) : Nat := ls.foldr (fun x acc => x % 2 ^ w + acc * 2 ^ w) 0

/-- How many elements of a format an entry holds (R138; 682 for a 6-bit format, R22). -/
def entryLanes (fmt : Nat) : Nat :=
  let w := fmtWidth (BitVec.ofNat 5 fmt)
  if w = 0 then 0 else 4096 / w

/-- Splits a list into pieces of 64, the last perhaps shorter. -/
def chunks64 (fuel : Nat) (l : List Nat) : List (List Nat) :=
  match fuel, l with
  | 0, _ => []
  | _, [] => []
  | k + 1, l => l.take 64 :: chunks64 k (l.drop 64)

/-- The segment words of an entry's data under a format (R22, R69), and the flag of R47. -/
def segmentsOf (fmt : Nat) (d : Nat) : List Nat × Nat :=
  let w := fmtWidth (BitVec.ofNat 5 fmt)
  let cs := (chunks64 65 (lanesOf w (entryLanes fmt) d)).map (checksum fmt)
  (cs.map Prod.fst, cs.foldl (fun a c => a ||| c.2) 0)

end Machine

end Sys2Proof
end

