-- ==== Sys2Proof/Config.lean ====
section
/-!
DEFINITION. Config.lean: what an implementation fixes and the manual leaves open, as constants without a body. No
proof can see a value of one of them, so a claim holds whatever they are. The log entries name each (notes/assumptions).
-/

namespace Sys2Proof

namespace Config

/-- Core cycles that pass in the step with the given tick (R406 counts them in CYC; the manual fixes no cost). -/
opaque cycles : Nat → Word64

/-- Energy of a core in the step with the given tick, in picojoules (R406): by tick and core. -/
opaque energy : Nat → Nat → Word64

/-- Whether the V instruction of this tick issues in one group with the V instruction before it (R36 says that the engine
issues up to two a cycle, and not when). -/
opaque sameGroup : Nat → Bool

/-- The program counter of an engine at a tick, where the dynamic path to its next instruction is not yet run (R27). -/
opaque enginePc : Nat → Nat → Word64

/-- A field of a trap record to which R311 gives no content for its cause: an address where there is no faulting address,
the instruction of a fault before dispatch. By tick and offset in the record. -/
opaque openField : Nat → Nat → Word64

/-- Register x1 to x31 of a system core as the monitor's record of an event at a tick holds it, where the event names none
(R345, log 38): the system cores' own registers are outside the model. -/
opaque systemRegister : Nat → Nat → Word64

/-- Digest of the boot ROM, which the ROM records as measurement 1 (R360). -/
opaque romDigest : List Byte

/-- The fuse configuration that measurement 8 covers (R361). -/
opaque fuses : List Byte

/-- Whether an ECDSA P-384 signature over a flash directory entry verifies under the fused vendor key (R359). -/
opaque vendorSignatureOk : List Byte → List Byte → Bool

/-- The fused minimum security version of an image type (R359). -/
opaque minSecurityVersion : Nat → Nat

/-- Width in bytes and coding of a directory entry's fields (R359 names them and gives no offsets): from the 64 bytes
of an entry, its image type, slot, offset, length, security version and SHA-384. -/
opaque directoryEntry : List Byte → Nat × Bool × Nat × Nat × Nat × List Byte

/-- ECDSA P-384 with the nonce of RFC 6979 over a message, by the key in a slot of the root of trust (R313): r then s,
96 bytes. -/
opaque ecdsaSign : BitVec 16 → List Byte → List Byte

/-- Deterministic ML-DSA-65 over a message (R313): none when the rejection loop has not accepted after 64 iterations
(R317), else 3,309 bytes. -/
opaque mldsaSign : BitVec 16 → List Byte → Option (List Byte)

/-- The certificate chain in slot 0 (R361). -/
opaque certificateChain : List Byte

/-- The device identity key's signature over an SPDM transcript (R361). -/
opaque identitySign : List Byte → List Byte

/-- The responder's half of an SPDM key exchange, and the session key it yields (R361). -/
opaque spdmExchange : Nat → List Byte → List Byte × List Byte

/-- Whether a debug token is signed by the tenant's debug key (R357). -/
opaque tokenOk : Word64 → List Byte → Bool

/-- The translation that the resident kernel's translator makes of a block (R368, R370), under a measurement 2. -/
opaque translation : List Byte → List Byte → List Byte

/-- The payload with which the host posts a command whose layout R365 does not give, by code and tick. -/
opaque payload : Nat → Nat → List Byte

/-- The command that a code and a payload written by the host stand for at a tick, where R365 gives no layout (log 67). -/
opaque commandOf : Nat → List Byte → Nat → Option PostedCommand

/-- The payload length of a command's code, where no rule gives its layout (R365, R366). -/
opaque payloadLength : Nat → Nat

/-- A byte that a system core or the host reads where the manual gives no content: the commit buffer and the saved contexts
of a lay-by (R269, R301), the session save area (R313), the notify register (R364). By tick and address. -/
opaque viewByte : Nat → Nat → Byte

/-- Which ready record of a cluster stands in an entry of its overflow rings (R295, R412): by tick and entry. -/
opaque ringRecord : Nat → Nat → Nat

/-- What a host read through BAR 2 returns where a byte it asks for is poisoned (R363 gives no response), by tick. -/
opaque poisonedRead : Nat → List Byte

end Config

end Sys2Proof
end

