-- ==== Sys2Proof/Machine/Task.lean ====
section
/-!
DEFINITION. Machine/Task.lean: the state that belongs to one task and travels with its context (R18, R20, R177,
R193, R244, R272): registers, queues, tiles, engine configurations, accepted commands, the front, seal sessions,
containment regions, the commit buffer. Plain data.
-/

namespace Sys2Proof

namespace Machine

/-- One entry of a vector queue (R22): the format code it was written under (that of its et, or the target format
where no et exists, R166), its data, and its segment-checksum words. -/
structure Entry where
  fmt  : BitVec 5
  data : EntryBits
  segs : List Word32
  deriving DecidableEq, Repr

/-- Recorded type of a z tile (R193). -/
inductive ZType where
  | unset | fp32 | int32
  deriving DecidableEq, Repr

/-- An accumulator tile (R193): 4,096 elements row-major, 64 row words, 64 column words, type, tensor scales, poison. -/
structure ZTile where
  data   : List Word32
  rowW   : List Word32
  colW   : List Word32
  typ    : ZType
  tA     : Word32
  tB     : Word32
  poison : Bool
  deriving DecidableEq, Repr

/-- The tile as m.zero and dispatch leave it (R193, R220): tensor scales 1.0. -/
def ZTile.zero : ZTile :=
  { data := List.replicate 4096 0, rowW := List.replicate 64 0, colW := List.replicate 64 0,
    typ := .unset, tA := 0x3F800000, tB := 0x3F800000, poison := false }

/-- A stream register (R195). -/
structure Stream where
  wspace  : Bool
  base    : Nat
  desc    : Word64
  rows    : Nat
  cols    : Nat
  pitch   : Nat
  sbase   : Nat
  sstride : Nat
  ibase   : Nat
  icount  : Nat
  obase   : Nat
  ocount  : Nat
  deriving DecidableEq, Repr

/-- All fields zero (R177). -/
def Stream.zero : Stream :=
  { wspace := false, base := 0, desc := 0, rows := 0, cols := 0, pitch := 0, sbase := 0, sstride := 0,
    ibase := 0, icount := 0, obase := 0, ocount := 0 }

/-- One level of the loop-nest table (R203). -/
structure NestLevel where
  count : Nat
  strA  : Int
  strB  : Int
  strC  : Int
  deriving DecidableEq, Repr

/-- Next configuration of the matrix engine (R176, R177), with its dither setting and store count (R62). -/
structure MCfg where
  streams : Vector Stream 16
  nest    : Vector NestLevel 6
  track   : Fin 16
  tol     : BitVec 5
  dbase   : BitVec 5
  dstep   : BitVec 5
  dcount  : Nat
  deriving DecidableEq, Repr

/-- The statistics of m.stat (R222). -/
structure MStats where
  cmds   : Nat
  blocks : Nat
  corr   : Nat
  grange : Nat
  deriving DecidableEq, Repr

/-- Spaces of the copy engine (R224). -/
inductive XSpace where
  | spad | dspace | wspace | remote
  deriving DecidableEq, Repr

/-- Check kinds (R230). -/
inductive CkKind where
  | none | sum32 | crc32c
  deriving DecidableEq, Repr

/-- Next configuration of the copy engine (R239). -/
structure XCfg where
  sspace : XSpace
  sbase  : Nat
  dspace : XSpace
  dbase  : Nat
  len    : Nat
  rows   : Nat
  sstr   : Int
  dstr   : Int
  ck     : CkKind
  seed   : Word32
  armed  : Option Word32
  remote : Option Word64
  deriving DecidableEq, Repr

/-- All fields zero (R177, R239). -/
def XCfg.zero : XCfg :=
  { sspace := .spad, sbase := 0, dspace := .spad, dbase := 0, len := 0, rows := 0, sstr := 0, dstr := 0,
    ck := .none, seed := 0, armed := .none, remote := .none }

/-- The latest X launch word whose check kind was not none (R231, R242): its number, kind and running value, whether it
may still be a chain predecessor (R393), and whether it has completed. -/
structure XLast where
  seq     : Nat
  kind    : CkKind
  value   : Word32
  chain   : Bool
  done    : Bool
  deriving DecidableEq, Repr

/-- Next configuration of the front accumulator (R245, R252). -/
structure PCfg where
  cfg   : Word64
  spill : Option (Nat × Nat)
  deriving DecidableEq, Repr

/-- A tuple of the front (R244). -/
structure Tuple where
  keys    : List Word32
  payload : Word32
  deriving DecidableEq, Repr

/-- The front: tuples oldest first, shape (key count and FP32 mask), and the counters INSERTED, DOMINATED, DUPS,
EVICTED, OVERFLOW and SPILLED (R244, R254). -/
structure Front where
  tuples    : List Tuple
  shape     : Option (Nat × BitVec 8)
  inserted  : Word32
  dominated : Word32
  dups      : Word32
  evicted   : Word32
  overflow  : Word32
  spilled   : Word32
  deriving DecidableEq, Repr

/-- Empty front, counters zero (R244). -/
def Front.empty : Front :=
  { tuples := [], shape := .none, inserted := 0, dominated := 0, dups := 0, evicted := 0, overflow := 0, spilled := 0 }

/-- The state of a SHA-384 computation: chaining words, bytes not yet in a whole block, bytes absorbed. -/
structure ShaState where
  h   : List Word64
  buf : List Byte
  len : Nat
  deriving DecidableEq, Repr

/-- A seal session (R313): number, key handle, frame, algorithm, bytes absorbed, digest state, regions open when it was
opened, and whether an accepted s.fin or s.abt is closing it. -/
structure Session where
  num     : BitVec 6
  key     : Word32
  frame   : Word64
  alg     : BitVec 2
  count   : Nat
  sha     : ShaState
  depth   : Nat
  closing : Bool
  deriving DecidableEq, Repr

/-- A bounding byte range of a footprint in physical form (R180): bytes lo to hi − 1; whether an offset of the task's own
scratchpad named it, which moves with the task (R273). -/
structure Foot where
  lo    : Nat
  hi    : Nat
  write : Bool
  own   : Bool
  deriving DecidableEq, Repr

/-- A page of D-space as a launch word translated it (R178, R179): job tag, or global; page base and size, physical base;
the residency index of its task and the number of its command, which tell uses of one page apart. -/
structure PageUse where
  tag    : BitVec 12
  global : Bool
  va     : Nat
  size   : Nat
  pa     : Nat
  wap    : Bool
  slot   : BitVec 12
  seq    : Nat
  deriving DecidableEq, Repr

/-- Progress of a matrix product (R204, R214): step indices i1 to i5, block index, tiles visited, the tile in use and
its predicted sums, corrected bytes of W-space tiles (R207), source rows of a gathered A stream, W beats delivered. -/
structure MGoProg where
  idx     : List Nat
  blk     : Nat
  visited : List Nat
  inUse   : Option (Fin 8)
  rowP    : List Word32
  colP    : List Word32
  rowMap  : List (Option Nat)
  started : Bool
  finished : Bool
  beats   : Nat
  latch   : List Host.Cell
  deriving DecidableEq, Repr

/-- A copy command (R226 to R241): configuration, running value, next chunk, whether its bytes have all been handed over;
of a put the port it goes out by and the core it was begun on (R384); of an x.wprog the scratchpad offset below which the
tiles of its source are verified (R243). -/
structure XCmd where
  cfg    : XCfg
  fill   : Option Word64
  adv    : Bool
  chain  : Option Nat
  value  : Word32
  begun  : Bool
  next   : Nat
  sent   : Bool
  tileCopy : Bool
  putTag : Option (BitVec 6)
  outcome : Option (BitVec 8 × BitVec 8)
  differ : Nat
  firstDiffer : Option Nat
  beats  : Nat
  port   : Option (Fin 16)
  source : Option (BitVec 9)
  checked : Nat
  deriving DecidableEq, Repr

/-- What an accepted command does (R176, R223, R240, R243, R254, R318). -/
inductive CmdKind where
  | mGo (a b : Stream) (nest : Vector NestLevel 6) (z : ZReg) (clr outl : Bool) (tol : BitVec 5) (prog : MGoProg)
  | mZero (z : ZReg)
  | mLoad (off : Nat) (z : ZReg) (heal : Bool) (tol : BitVec 5)
  | mStore (off : Nat) (z : ZReg) (fmt : BitVec 5) (mode : Nat) (dith : Option (BitVec 5 × BitVec 5 × Nat)) (stat : Bool)
  | mWaitc (cc : Fin 16) (target : Word32)
  | xWaitc (cc : Fin 16) (target : Word32)
  | xMove (x : XCmd)
  | xProg (x : XCmd)
  | xVerify (x : XCmd)
  | pIns (off count next : Nat) (cfg : PCfg) (before : Front)
  | pMerge (off : Nat) (todo : Option (List Tuple)) (cfg : PCfg) (before : Front)
  | sAbs (num : BitVec 6) (addr len next : Nat) (count : Nat) (sha : ShaState)
  | sFin (num : BitVec 6) (dest : Nat) (metas : List Word64)
  | sAbt (num : BitVec 6) (reason : Word32) (metas : List Word64)
  deriving DecidableEq, Repr

/-- An accepted command that has not completed (R173, R180): number in dynamic order, address of its launch word,
engine, track, regions open at the word, footprint, pages, the data areas of tiles that it may make (R257), kind. -/
structure Cmd where
  seq   : Nat
  addr  : Word64
  eng   : Eng
  track : Fin 16
  depth : Nat
  foot  : List Foot
  pages : List PageUse
  makes : List Foot
  kind  : CmdKind
  deriving DecidableEq, Repr

/-- What a COMMIT task has written and not yet made visible (R301): a byte, an ECC word that one write covers whole
(R282), a device register, a tile marked STALE, a new tile, poison moved by a copy (R235), in the order made. -/
inductive Buffered where
  | byte (pa : Nat) (b : Byte)
  | whole (word : Nat)
  | device (pa n : Nat) (v : Word64)
  | stale (origin : Nat)
  | tile (origin : Nat) (fmt : BitVec 5) (stale : Bool)
  | poison (word : Nat)
  deriving DecidableEq, Repr

/-- A containment region (R128, R278): handler, and the mark its CTOPEN set in the commit buffer. -/
structure Region where
  handler : Word64
  mark    : Nat
  deriving DecidableEq, Repr

/-- Repeat state (R32 to R35): the fields of RPC, and the count and step mask of the REP in force. -/
structure Repeat where
  vactive : Bool
  vdone   : BitVec 6
  cactive : Bool
  cdone   : BitVec 6
  count   : Nat
  done    : Nat
  d       : Bool
  a       : Bool
  b       : Bool
  c       : Bool
  deriving DecidableEq, Repr

/-- RPC at dispatch (R18). -/
def Repeat.zero : Repeat :=
  { vactive := false, vdone := 0, cactive := false, cdone := 0, count := 0, done := 0,
    d := false, a := false, b := false, c := false }

/-- The system registers that belong to a task (R20, R405). -/
structure SysRegs where
  slipw   : Word64
  acflags : Word64
  acen    : Word64
  rndm    : Word64
  dith    : Word64
  satcnt  : Word64
  uflcnt  : Word64
  cvmse   : Word64
  cvcnt   : Word64
  tolsh   : Word64
  ckcorr  : Word64
  ckfault : Word64
  ckaddr  : Word64
  ctcause : Word64
  ctinfo  : Word64
  deriving DecidableEq, Repr

/-- The system registers at dispatch (R20, R61). -/
def SysRegs.atDispatch : SysRegs :=
  { slipw := 1024, acflags := 0, acen := 0, rndm := 0, dith := 0x100, satcnt := 0, uflcnt := 0, cvmse := 0,
    cvcnt := 0, tolsh := 16, ckcorr := 0, ckfault := 0, ckaddr := 0, ctcause := 0, ctinfo := 0 }

/-- A continuation record (R288). The job is the record's own (launch numbers are numbers within a job). -/
structure Rec where
  job      : Nat
  code     : Word64
  frame    : Word64
  join     : Word32
  launch   : Nat
  prio     : BitVec 2
  commit   : Bool
  paired   : Bool
  gang     : Bool
  nt       : Bool
  origin   : BitVec 2
  fplist   : Word64
  nin      : Nat
  nout     : Nat
  attached : Word32
  succ     : Word64
  index    : Word32
  prom     : Nat
  level    : BitVec 2
  reruns   : BitVec 2
  bgen     : BitVec 4
  hasbgen  : Bool
  wrlist   : Word64
  deriving DecidableEq, Repr

/-- A declared input (R290): source address, scratchpad offset, length. -/
structure InEntry where
  src : Nat
  off : Nat
  len : Nat
  deriving DecidableEq, Repr

/-- A byte range of D-space (R290, R112). -/
structure VRange where
  base : Nat
  len  : Nat
  deriving DecidableEq, Repr

/-- A record with what the junction knows of it: its slot and tenure (R289), the tasks of its launch it still waits on
(R291), the footprint read at LAUNCH (R290), the write ranges (R112), and its place in the order of readiness. -/
structure RecSlot where
  slot   : Nat
  tenure : BitVec 16
  rc     : Rec
  deps   : List Nat
  edge   : Bool
  ins    : List InEntry
  outs   : List VRange
  wr     : List VRange
  ready  : Option Nat
  due    : Nat
  deriving DecidableEq, Repr

/-- A non-temporal store not yet visible (R114, R115), with the ECC words whose poison it clears: those that its
instruction covers whole (R282); of a byte of which it writes one nibble, whether that is the upper one (R145). -/
structure NtStore where
  job    : Nat
  slot   : BitVec 12
  pa     : Nat
  bytes  : List Byte
  clears : List Nat
  half   : Option Bool
  deriving DecidableEq, Repr

/-- Work a COMMIT task has created and holds until EXIT (R301), and whether a cancel has reached it (R299). -/
inductive Held where
  | record (k : Fin 32) (r : RecSlot) (cancelled : Bool)
  | attach (handle : Word64)
  | launch (n : Nat) (recs : List RecSlot) (cancelled : Bool)
  deriving DecidableEq, Repr

/-- What a task waits in: a WAITC, a barrier, a pre-emption at a completed milestone, the drain after EXIT, its retirement
with a status, its abort for a re-run (R124, R125, R271, R137, R300, R302). -/
inductive Wait where
  | none
  | waitc (cc : Fin 16) (target : Word32)
  | bar
  | parking
  | exiting
  | ended (status : BitVec 2)
  | aborted
  deriving DecidableEq, Repr

/-- The live masks of the latest milestone (R17, R136). -/
structure MileMasks where
  zt : BitVec 8
  ef : BitVec 8
  vq : Word32
  deriving DecidableEq, Repr

/-- A lane of a VAMO: its number, its D-space and its physical address. -/
structure AmoLane where
  lane : Nat
  va   : Nat
  pa   : Nat
  deriving DecidableEq, Repr

/-- A VAMO that some of its atomic engines have performed (R152, R304): the lanes still to do, the old values so far. -/
structure AmoProg where
  todo : List AmoLane
  olds : List (Nat × Nat)
  deriving DecidableEq, Repr

/-- A task on a core or parked: everything its context holds (R272). -/
structure Task where
  rs       : RecSlot
  slot     : BitVec 12
  gen      : BitVec 4
  pc       : Word64
  rep      : Repeat
  x        : Vector Word64 32
  p        : Vector Bool 8
  k        : Vector MaskBits 8
  v        : Vector (List Entry) 32
  sys      : SysRegs
  cc       : Vector Word32 16
  regions  : List Region
  dist     : Nat
  limit    : Nat
  masks    : MileMasks
  z        : Vector ZTile 8
  mStack   : List Word64
  xStack   : List Word64
  pStack   : List Word64
  sStack   : List Word64
  m        : MCfg
  mstats   : MStats
  xc       : XCfg
  xlast    : Option XLast
  pcfg     : PCfg
  metas    : List Word64
  front    : Front
  cmds     : List Cmd
  nextSeq  : Nat
  nt       : List NtStore
  commit   : List Buffered
  held     : List Held
  sessions : List Session
  closed   : List (BitVec 6 × BitVec 2)
  wait     : Wait
  bars     : Nat
  passed   : Nat
  exited   : Bool
  amo      : Option AmoProg
  cancel   : Bool
  attached : Bool
  debugEv  : Bool
  deriving DecidableEq, Repr

end Machine

end Sys2Proof
end

