-- ==== Sys2Proof/Machine/State.lean ====
section
/-!
DEFINITION. Machine/State.lean: the state of one FY4-M768 module (R1): cores, clusters, dies, memories with their
metadata, jobs, fabric ports, host interface, boot flash; the reasons a step can stop; the state after reset.
INVENTORY.md lists every field with its rule and reset value.
-/

namespace Sys2Proof

namespace Machine

/-- A trap record (R311) without its state field: what the part writes when it posts one. R141 gives a memory fault of
a V instruction a lane number, and R40 the program counters of the six engines (code order of R281), for which the 64 bytes
of R311 have no field: they are kept here. -/
structure TrapRec where
  kind   : BitVec 2
  cause  : Byte
  detail : Byte
  engine : Byte
  slot   : BitVec 12
  pc     : Word64
  text   : Word64
  addr   : Word64
  info   : Word64
  info2  : Word64
  launch : BitVec 24
  index  : Word32
  lane   : Nat
  pcs    : List Word64
  deriving DecidableEq, Repr

/-- What a core is doing (R271, R293, R297, R312). A chosen record has its inputs staged, or not; under COMMIT, `again`
names the input that is staged once more (R268). -/
inductive CoreStatus where
  | idle
  | chosen (r : RecSlot) (staged : Bool) (again : Option Nat)
  | running
  | trapped (r : TrapRec) (posted : Option Nat)
  | mate
  deriving DecidableEq, Repr

/-- The system registers of a task as a core that runs none reads them (R7, R407): the values of reset, or those that the
last task left. -/
structure LeftRegs where
  sys    : SysRegs
  rpc    : Word64
  cc     : Vector Word32 16
  cthndl : Word64
  deriving DecidableEq, Repr

/-- The registers of R405 at reset (R29 to R281). -/
def LeftRegs.reset : LeftRegs := { sys := SysRegs.atDispatch, rpc := 0, cc := Vector.replicate 16 0, cthndl := 0 }

/-- A put that a core has begun and no PDONE has answered (R384): its tag, its destination, the link it goes on, and whether its
END is sent. -/
structure SentPut where
  tag   : BitVec 6
  dst   : BitVec 20
  core  : BitVec 9
  port  : Option PortId
  ended : Bool
  deriving DecidableEq, Repr

/-- A core: its task, its own registers (R20, R405, R406), its standing with the junction, and its puts that no PDONE has
answered, also those whose command is gone (R384, R386). -/
structure Core where
  status    : CoreStatus
  task      : Option Task
  milemax   : Word64
  waketest  : Word64
  trep      : Word32
  vbsplit   : Word32
  energy    : Word64
  wwbase    : Word64
  wwlim     : Word64
  preempt   : Bool
  frozen    : Bool
  withdrawn : Bool
  wakeOut   : Bool
  laneFault : Option (Bool × BitVec 10)
  pairFault : Bool
  rxwin     : Vector Word64 3
  started   : Nat
  puts      : List SentPut
  left      : LeftRegs
  vgroup    : Option (List VReg)
  deriving DecidableEq, Repr

/-- The state of a core after reset (R270, R385, R406). -/
def Core.reset : Core :=
  { status := .idle, task := none, milemax := 4096, waketest := 0, trep := 0, vbsplit := 0, energy := 0,
    wwbase := 0, wwlim := 0, preempt := false, frozen := false, withdrawn := false, wakeOut := false,
    laneFault := none, pairFault := false, rxwin := Vector.replicate 3 0, started := 0, puts := [], left := LeftRegs.reset,
    vgroup := none }

/-- A granule's stamp (R306), with the job whose generation it bears (R308). A slot of 0xFFF means none. -/
structure Stamp where
  job     : Nat
  cmd     : Bool
  writer  : BitVec 12
  reader  : BitVec 12
  shared  : Bool
  written : Bool
  aclass  : BitVec 2
  gen     : BitVec 4
  deriving DecidableEq, Repr

/-- A checksummed tile (R255, R256): format code, STALE, poisoned descriptor. -/
structure Tile where
  fmt    : BitVec 5
  stale  : Bool
  poison : Bool
  deriving DecidableEq, Repr

/-- The scratchpad below the lay-by as R294 parks it: bytes, tiles, stamps (by granule) and poison, counted from the
start of the scratchpad. -/
structure SpadImage where
  bytes  : List Host.Cell
  tiles  : List (Nat × Tile)
  stamps : List (Nat × Stamp)
  poison : List Nat
  deriving DecidableEq, Repr

/-- A parked context (R272, R273): the core whose lay-by it was saved from, the one whose lay-by holds it now (none
while it lies in LPDDR), its size, the case of R271, the parked scratchpad of R294, the six program counters and the
masks of its header, the version of the seal it lies under in LPDDR (R275), whether its bytes are as they were saved, and
the task. -/
structure Parked where
  origin : CoreId
  home   : Option CoreId
  size   : Nat
  caseB  : Bool
  spad   : Option SpadImage
  ready  : Nat
  pcs    : List Word64
  masks  : MileMasks
  sealed : Option Nat
  intact : Bool
  task   : Task
  deriving DecidableEq, Repr

/-- The record of an aborted session held until an entry of the seal ring frees (R321): its bytes, and the slot of its task
while that runs, for whose EXIT it is one record more to wait for (R319). -/
structure SealOut where
  rec_  : List Byte
  owner : Option (BitVec 12)
  deriving DecidableEq, Repr

/-- A request waiting at an atomic engine (R304): the core, and the instruction it executes. -/
structure AtomReq where
  core  : CoreId
  instr : Instr
  deriving DecidableEq, Repr

/-- A cluster: the junction's record store and queues (R288, R289, R295, R297), the atomic engine (R304), the trap
queue's posting number (R311), the seal ring's indices and held records (R321, R344), parked contexts. -/
structure Cluster where
  recs     : List RecSlot
  tenures  : List (Nat × BitVec 16)
  served   : Vector (Option (Nat × Nat)) 4
  gang     : Option (Nat × Nat)
  parked   : List Parked
  granted  : CoreId
  areqs    : List AtomReq
  hot      : List Nat
  trapSeq  : Word64
  srhead   : Word32
  srtail   : Word32
  held     : List SealOut
  saved    : List (BitVec 12 × BitVec 6)
  deriving DecidableEq, Repr

/-- The state of a cluster after reset (R311, R344). -/
def Cluster.reset : Cluster :=
  { recs := [], tenures := [], served := Vector.replicate 4 none, gang := none, parked := [], granted := 0,
    areqs := [], hot := [], trapSeq := 0, srhead := 0, srtail := 0, held := [], saved := [] }

/-- One entry of a causeway's via repair (R335). -/
structure WrepEntry where
  valid : Bool
  via   : BitVec 13
  deriving DecidableEq, Repr

/-- The monitor's record (R345); the accelerator trap record of its end, as bytes, or none. -/
structure MonRec where
  case_   : BitVec 2
  die     : DieId
  sysCore : Fin 4
  mcause  : Word64
  mepc    : Word64
  mtval   : Word64
  xs      : List Word64
  trap    : List Byte
  deriving DecidableEq, Repr

/-- A die: weight-tier maps and repair (R327 to R338), with the banks that the present placement uses (R338, R373), device
registers (R343 to R345, R354, R356), clock. -/
structure Die where
  wbam     : BitVec 1024
  wbperm   : BitVec 1024
  wsize    : BitVec 16
  wready   : Bool
  wcmap    : Vector (BitVec 16 × BitVec 5) 64
  wrep     : Vector (List WrepEntry) 64
  repair   : Vector (Vector (List WrepEntry) 3) 64
  repairOk : Vector (Vector Bool 3) 64
  repairing : List (Fin 64)
  placed   : BitVec 1024
  lastReq  : Nat
  root     : List Byte
  tlbinv   : Word64
  fatset   : Word64
  fatPages : List PageUse
  tlbPages : List PageUse
  tlbWait  : List Word64
  macfail  : Word32
  tqctl    : Vector Bool 4
  frozen   : Bool
  escal    : Byte
  monRec   : Option MonRec
  cyc      : Word64
  deriving DecidableEq, Repr

/-- The state of a die after reset (R328, R335, R337, R343, R344, R354): registers zero; every bank live. -/
def Die.reset : Die :=
  { wbam := BitVec.allOnes 1024, wbperm := 0, wsize := 0, wready := false,
    wcmap := Vector.replicate 64 (0, 0), wrep := Vector.replicate 64 [],
    repair := Vector.replicate 64 (Vector.replicate 3 []), repairOk := Vector.replicate 64 (Vector.replicate 3 true),
    repairing := [], placed := BitVec.allOnes 1024, lastReq := 0, root := [], tlbinv := 0, fatset := 0, fatPages := [],
    tlbPages := [], tlbWait := [], macfail := 0, tqctl := Vector.replicate 4 false, frozen := false, escal := 0, monRec := none,
    cyc := 0 }

/-- An entry of the frame attribute table (R353). -/
structure FatEntry where
  attr     : BitVec 2
  changing : Bool
  deriving DecidableEq, Repr

/-- Where a translation is cached (R343). -/
inductive TlbPlace where
  | core (c : CoreId)
  | die (d : DieId)
  deriving DecidableEq, Repr

/-- A cached translation (R343): job tag, or global; page and leaf entry. -/
structure TlbEntry where
  place  : TlbPlace
  tag    : BitVec 12
  global : Bool
  va     : Nat
  size   : Nat
  leaf   : Word64
  deriving DecidableEq, Repr

/-- A launch (R118, R298, R375): number, graph, phase, what its descriptor fixes, the weight-programming privilege with the
range it is for (R243, R365), members not complete, retirements by status. -/
structure Launch where
  num       : Nat
  graph     : Nat
  phase     : Nat
  cluster   : ClusterId
  gang      : Bool
  paired    : Bool
  count     : Nat
  after     : Option Nat
  succ      : Word64
  wpriv     : Bool
  window    : Option (BitVec 39 × BitVec 39)
  pending   : Nat
  stats     : Vector Nat 4
  done      : Bool
  cancelled : Bool
  bars      : Nat
  exited    : Nat
  deriving DecidableEq, Repr

/-- A graph or a phase (R298): number, the level above it, members not complete. -/
structure Group where
  num       : Nat
  parent    : Nat
  pending   : Nat
  done      : Bool
  cancelled : Bool
  deriving DecidableEq, Repr

/-- A job (R365, R367): what CREATE-JOB gave it, its generation counter (R305), its work. -/
structure Job where
  num       : Nat
  tag       : BitVec 12
  args      : JobArgs
  gen       : BitVec 4
  asked     : Nat
  made      : Nat
  launches  : List Launch
  graphs    : List Group
  phases    : List Group
  pending   : Nat
  cancelled : Bool
  freeing   : Bool
  deriving DecidableEq, Repr

/-- The sending side of a fabric port (R380 to R383); `resume` is the seq from which a replay still has to go on. -/
structure Tx where
  seq     : BitVec 24
  epoch   : Nat
  inv     : Nat
  oldInv  : Nat
  cairn   : Option (BitVec 24)
  buf     : List Flit
  replays : Nat
  resume  : Option (BitVec 24)
  deriving DecidableEq, Repr

/-- The receiving side of a fabric port (R382, R383): next expected seq, key epochs held in slots 0 and 1, the seq a
NAK has named, flits accepted since the last ACK. -/
structure Rx where
  expected : BitVec 24
  slot0    : Option Nat
  slot1    : Option Nat
  nakSent  : Option (BitVec 24)
  unacked  : Nat
  deriving DecidableEq, Repr

/-- A fabric port (R376, R387). -/
structure Port where
  up       : Bool
  down     : Bool
  limit    : BitVec 49
  warn     : BitVec 49
  flbad    : Word32
  peer     : BitVec 20
  isSwitch : Bool
  secretTx : List Byte
  secretRx : List Byte
  saltTx   : Word32
  saltRx   : Word32
  tx       : Tx
  rx       : Rx
  deriving DecidableEq, Repr

/-- The state of a port after reset (R387). -/
def Port.reset : Port :=
  { up := false, down := false, limit := 0x10000000000, warn := 0xFFFFF00000, flbad := 0, peer := 0, isSwitch := false,
    secretTx := [], secretRx := [], saltTx := 0, saltRx := 0,
    tx := { seq := 0, epoch := 0, inv := 0, oldInv := 0, cairn := none, buf := [], replays := 0, resume := none },
    rx := { expected := 0, slot0 := none, slot1 := none, nakSent := none, unacked := 0 } }

/-- A put arriving at this module (R384): port (none for a put from the module itself), source module and core, tag,
bytes written so far in flattened order, and the reason of a refusal. -/
structure InPut where
  port    : Option PortId
  src     : BitVec 20
  srcCore : BitVec 9
  tag     : BitVec 6
  core    : BitVec 9
  bytes   : List Byte
  refused : Option Byte
  deriving DecidableEq, Repr

/-- Boot state of the module (R359, R360). -/
inductive BootState where
  | off | recovery | open_
  deriving DecidableEq, Repr

/-- The mailbox registers (R364). -/
structure Mailbox where
  code    : BitVec 16
  tag     : BitVec 16
  length  : Word32
  status  : Word32
  result  : List Byte
  payload : List Byte
  deriving DecidableEq, Repr

/-- A PROGRAM-WEIGHTS in progress (R336, R365, R372): its tag, W address, rows as they are to be written, tiles and verify
flag; the rows that the x.wprog of its launches have written, and those that their x.wverify have found without difference;
what its measurement meets; where firmware lays the rows of a launch, the offset in a scratchpad and the cores it prefers, and
the job of its launches (log 65); and the status and W address of the first row that failed. -/
structure Program where
  tag    : BitVec 16
  wa     : Nat
  bytes  : List Byte
  tiles  : List (Nat × Tile)
  verify : Bool
  next   : Nat
  checked : Nat
  bad    : List ColumnFailure
  place  : Nat × List Nat
  job    : Nat
  failed : Option (Nat × Nat)
  deriving DecidableEq, Repr

/-- The SPDM responder (R361): where the connection stands, the transcript, the session, its key, and the messages sent
under it. -/
structure Spdm where
  stage      : Nat
  transcript : List Byte
  session    : Option Nat
  finished   : Bool
  sessions   : Nat
  key        : List Byte
  sent       : Nat
  deriving DecidableEq, Repr

/-- A debug session (R365). -/
structure DebugSession where
  job    : Nat
  launch : Nat
  index  : Word32
  deriving DecidableEq, Repr

/-- An entry of the translation store (R370): digest of the block, the measurement 2 it was made under, the translation. -/
structure TransEntry where
  block : List Byte
  meas2 : List Byte
  code  : List Byte
  deriving DecidableEq, Repr

/-- What the module lets its surroundings see (R312, R357, R361, R364, R378): of a flit, its fields and the 256 bytes of
the wire. -/
inductive Notice where
  | msix (vector : Nat)
  | trapIrq (k : ClusterId) (slot : Nat)
  | breakpoint (c : CoreId) (code : BitVec 16)
  | wakeFail (c : CoreId)
  | laneFail (c : CoreId)
  | pcieData (bytes : List Byte)
  | pcieDone
  | unsupported
  | spdm (bytes : List Byte)
  | spdmError
  | flit (p : PortId) (f : Flit) (wire : List Byte)
  | lost (c : CoreId)
  deriving DecidableEq, Repr

/-- What the surroundings and the part's own timing choose, one entry a step: an event; the next instruction of a core;
a core's atomic going to its engine; a non-temporal store becoming visible; a translation entering a cache. -/
inductive Action where
  | event (i : Instr)
  | run (c : CoreId)
  | issue (c : CoreId)
  | ntVisible (n : Nat)
  | tlbFill (place : TlbPlace) (job : Nat) (va : Nat)
  deriving DecidableEq, Repr

/-- The module. -/
structure State where
  cur      : CoreId
  script   : List Action
  tick     : Nat
  cores    : Vector Core 512
  clusters : Vector Cluster 32
  dies     : Vector Die 4
  ports    : Vector Port 16
  mem      : List Host.Cell
  wmem     : List Host.Cell
  flash    : List Host.Cell
  poison   : List Nat
  wpoison  : List Nat
  badMac   : List Nat
  tiles    : List (Nat × Tile)
  wtiles   : List (Nat × Tile)
  stamps   : List (Nat × Stamp)
  fat      : List (Nat × FatEntry)
  minors   : List (Nat × BitVec 7)
  majors   : List (Nat × BitVec 56)
  wear     : List (Nat × Word32)
  remap    : List (Nat × Nat)
  spares   : List (Nat × Nat)
  tlb      : List TlbEntry
  jobs     : List Job
  nt       : List NtStore
  modid    : Word64
  frtab    : Word64
  inputs   : List InPut
  boot     : BootState
  confidential : Bool
  scrubs   : Word32
  keyEpoch : Nat
  bar2     : Nat
  mailbox  : Mailbox
  msixTable : List Host.Cell
  program  : Option Program
  measured : Vector (List Byte) 10
  spdm     : Spdm
  sessions : List DebugSession
  tstore   : List TransEntry
  readySeq : Nat
  sealSeq  : Nat
  notices  : List Notice
  deriving DecidableEq, Repr

/-- Why the machine stops with a fault. -/
inductive Fault where
  /-- Raised by a step whose core holds a task but whose die is stopped by the monitor for good (R345), with nothing
  left in the script: only a warm reset, an outside event, goes on. Safe. -/
  | clockStopped (d : DieId)
  deriving DecidableEq, Repr

/-- Why an operation has no meaning. -/
inductive Refusal where
  /-- Raised by the dispatcher for an operation without a meaning. Safe: nothing can be proved about such a step. -/
  | notModelled (mnemonic : String)
  deriving DecidableEq, Repr

/-- The module right after reset: registers at the values R18 to R412 give, memories with nothing listed, no task, no
job, boot not yet begun (R360). -/
def State.reset : State :=
  { cur := 0, script := [], tick := 0,
    cores := Vector.replicate 512 Core.reset, clusters := Vector.replicate 32 Cluster.reset,
    dies := Vector.replicate 4 Die.reset, ports := Vector.replicate 16 Port.reset,
    mem := [], wmem := [], flash := [], poison := [], wpoison := [], badMac := [], tiles := [], wtiles := [],
    stamps := [], fat := [], minors := [], majors := [], wear := [], remap := [], spares := [], tlb := [],
    jobs := [], nt := [], modid := 0, frtab := 0, inputs := [], boot := .off, confidential := false,
    scrubs := 0, keyEpoch := 0, bar2 := 0x1000000000,
    mailbox := { code := 0, tag := 0, length := 0, status := 0, result := [], payload := [] },
    msixTable := [], program := none,
    measured := Vector.replicate 10 [],
    spdm := { stage := 0, transcript := [], session := none, finished := false, sessions := 0, key := [], sent := 0 },
    sessions := [], tstore := [], readySeq := 0, sealSeq := 0, notices := [] }

end Machine

end Sys2Proof
end

