-- ==== Sys2Proof/Machine/Mem.lean ====
section
/-!
DEFINITION. Machine/Mem.lean: the memories as plain lists in canonical form, the physical map (R347, R411, R412), ECC
words and poison (R282), lines, versions and MACs of LPDDR (R352 to R356), tile descriptors (R255 to R257, R259).
-/

namespace Sys2Proof

namespace Machine

/-! ### Byte lists -/

/-- The byte at an address: an address that is not listed reads 0 (log 4). -/
def Memory.get : List Host.Cell → Nat → Byte
  | [], _ => 0
  | (a, b) :: rest, x => if a = x then b else Memory.get rest x

/-- The list with one byte written: ascending addresses, no entry of value 0. -/
def Memory.set : List Host.Cell → Nat → Byte → List Host.Cell
  | [], x, v => if v = 0 then [] else [(x, v)]
  | (a, b) :: rest, x, v =>
    if x < a then (if v = 0 then (a, b) :: rest else (x, v) :: (a, b) :: rest)
    else if x = a then (if v = 0 then rest else (x, v) :: rest)
    else (a, b) :: Memory.set rest x v

/-- Whether every address of a list lies above a bound, strictly rising, and every value is other than 0. -/
def Memory.above : Option Nat → List Host.Cell → Bool
  | _, [] => true
  | lo, (a, b) :: rest =>
    (match lo with | none => true | some l => decide (l < a)) && decide (b ≠ 0) && Memory.above (some a) rest

/-- The canonical form of a memory: addresses strictly rising, no entry equal to what an unlisted address reads as. -/
def Memory.wf (m : List Host.Cell) : Bool := Memory.above none m

/-- `n` bytes from an address upwards. -/
def Memory.read (m : List Host.Cell) (a n : Nat) : List Byte := (List.range n).map fun i => Memory.get m (a + i)

/-- Bytes written from an address upwards. -/
def Memory.write : List Host.Cell → Nat → List Byte → List Host.Cell
  | m, _, [] => m
  | m, a, b :: bs => Memory.write (Memory.set m a b) (a + 1) bs

/-- The number that bytes make, the first lowest (R5). -/
def leNat : List Byte → Nat
  | [] => 0
  | b :: bs => b.toNat + 256 * leNat bs

/-- The first `n` bytes of a number, the lowest first (R5). -/
def bytesOf : Nat → Nat → List Byte
  | 0, _ => []
  | n + 1, v => BitVec.ofNat 8 v :: bytesOf n (v / 256)

/-- Splits bytes into groups of `w`, each read as a number. -/
def wordsOf (w fuel : Nat) (bs : List Byte) : List Nat :=
  match fuel with
  | 0 => []
  | k + 1 => if bs.isEmpty then [] else leNat (bs.take w) :: wordsOf w k (bs.drop w)

/-! ### Sorted lists of numbers and keyed values -/

/-- A number put into an ascending list without repeats. -/
def insertNat (x : Nat) : List Nat → List Nat
  | [] => [x]
  | a :: rest => if x < a then x :: a :: rest else if x = a then a :: rest else a :: insertNat x rest

/-- The value under a key. -/
def lookupKey {α : Type} (k : Nat) : List (Nat × α) → Option α
  | [] => none
  | (a, v) :: rest => if a = k then some v else lookupKey k rest

/-- A value put under a key, keys ascending. -/
def insertKey {α : Type} (k : Nat) (v : α) : List (Nat × α) → List (Nat × α)
  | [] => [(k, v)]
  | (a, w) :: rest => if k < a then (k, v) :: (a, w) :: rest else if k = a then (k, v) :: rest
    else (a, w) :: insertKey k v rest

/-- The list without a key. -/
def eraseKey {α : Type} (k : Nat) (l : List (Nat × α)) : List (Nat × α) := l.filter fun e => decide (e.1 ≠ k)

/-- The multiples of `u` whose block of `u` bytes meets the `n` bytes at `a`. -/
def blocksOf (u a n : Nat) : List Nat :=
  if n = 0 then [] else (List.range ((a + n - 1) / u - a / u + 1)).map fun i => (a / u + i) * u

/-! ### The physical map -/

/-- What a physical address belongs to (R347). -/
inductive Home where
  | spad (c : CoreId) (off : Nat)
  | cmem (k : ClusterId) (off : Nat)
  | mmio (off : Nat)
  | lpddr (d : DieId)
  | host
  | none
  deriving DecidableEq, Repr

/-- Base of LPDDR (R347). -/
def lpddrBase : Nat := 0x1000000000
/-- LPDDR of one die (R347). -/
def lpddrSize : Nat := 0x3000000000
/-- Base of host memory (R347). -/
def hostBase : Nat := 0x8000000000000
/-- Base of MMIO (R347). -/
def mmioBase : Nat := 0x40000000
/-- The lay-by base of a scratchpad (R411). -/
def laybyBase : Nat := 0x70000
/-- The offset from which a cluster memory is closed to tasks (R303). -/
def closedBase : Nat := 0x3C0000

/-- The place of a physical address in the map (R347, R408, R411). -/
def homeOf (pa : Nat) : Home :=
  if pa < 0x20000000 then
    (if pa % 0x100000 < 0xC0000 then .spad (Fin.ofNat 512 (pa / 0x100000)) (pa % 0x100000) else .none)
  else if pa < 0x28000000 then .cmem (Fin.ofNat 32 ((pa - 0x20000000) / 0x400000)) ((pa - 0x20000000) % 0x400000)
  else if pa < 0x40000000 then .none
  else if pa < 0x50010000 then .mmio (pa - mmioBase)
  else if pa < lpddrBase then .none
  else if pa < lpddrBase + 4 * lpddrSize then .lpddr (Fin.ofNat 4 ((pa - lpddrBase) / lpddrSize))
  else if pa < hostBase then .none
  else if pa < 2 * hostBase then .host
  else .none

/-- Physical address of a scratchpad offset. -/
def spadPa (c : CoreId) (off : Nat) : Nat := c.val * 0x100000 + off
/-- Physical address of a cluster memory offset. -/
def cmemPa (k : ClusterId) (off : Nat) : Nat := 0x20000000 + k.val * 0x400000 + off

/-- Whether an address lies in SRAM. -/
def Home.isSram : Home → Bool
  | .spad .. => true
  | .cmem .. => true
  | _ => false

/-- Whether an address lies in LPDDR. -/
def Home.isLpddr : Home → Bool
  | .lpddr _ => true
  | _ => false

/-- Size of the ECC word at an address: 8 bytes in SRAM, 32 in LPDDR (R282). Host memory has none: there a mark stands for
a byte whose reads complete poisoned (log 22). -/
def eccSize (pa : Nat) : Nat :=
  match homeOf pa with
  | .spad .. => 8
  | .cmem .. => 8
  | .lpddr _ => 32
  | .host => 1
  | _ => 0

/-- The ECC words that an access of `n` bytes meets; an access lies in one kind of memory. -/
def eccWords (pa n : Nat) : List Nat := if eccSize pa = 0 then [] else blocksOf (eccSize pa) pa n

/-- The die of a core (R287). -/
def dieOf (c : CoreId) : DieId := Fin.ofNat 4 (c.val / 128)
/-- The cluster of a core (R287). -/
def clusterOf (c : CoreId) : ClusterId := Fin.ofNat 32 (8 * (c.val / 128) + c.val % 64 / 8)
/-- The vertical partner of a core (R287). -/
def partnerOf (c : CoreId) : CoreId := Fin.ofNat 512 (if c.val / 64 % 2 = 0 then c.val + 64 else c.val - 64)
/-- Whether a core lies in tier A (R287). -/
def tierA (c : CoreId) : Bool := decide (c.val / 64 % 2 = 0)
/-- The die of a cluster (R287). -/
def dieOfCluster (k : ClusterId) : DieId := Fin.ofNat 4 (k.val / 8)

/-! ### Poison and MACs -/

/-- The lowest poisoned ECC word that an access meets. -/
def State.poisonedAt (s : State) (pa n : Nat) : Option Nat :=
  (eccWords pa n).find? fun w => s.poison.contains w

/-- Marks ECC words poisoned. -/
def State.addPoison (s : State) (ws : List Nat) : State := { s with poison := ws.foldl (fun l w => insertNat w l) s.poison }

/-- The ECC words that an access covers whole. -/
def coveredWords (pa n : Nat) : List Nat :=
  (eccWords pa n).filter fun w => decide (pa ≤ w) && decide (w + eccSize pa ≤ pa + n)

/-- ECC words whose poison is cleared. -/
def State.clearWords (s : State) (ws : List Nat) : State := { s with poison := s.poison.filter fun w => !ws.contains w }

/-- Clears the poison of every ECC word that a write covers whole (R282). -/
def State.clearCovered (s : State) (pa n : Nat) : State :=
  let u := eccSize pa
  if u = 0 then s else { s with poison := s.poison.filter fun w => !(decide (pa ≤ w) && decide (w + u ≤ pa + n)) }

/-- Adds 1 to a count of 32 bits that holds at its top. -/
def satSucc (w : Word32) : Word32 := if w = BitVec.allOnes 32 then w else w + 1

/-- A die's registers changed. -/
def State.setDie (s : State) (d : DieId) (f : Die → Die) : State := { s with dies := s.dies.set d.val (f s.dies[d.val]) }

/-- A line whose MAC has failed: no longer pending, its ECC words poisoned, counted in MACFAIL (R356). -/
def State.failLine (s : State) (line : Nat) : State :=
  match homeOf line with
  | .lpddr d =>
    let s := s.setDie d fun x => { x with macfail := satSucc x.macfail }
    { s.addPoison (blocksOf 32 line 128) with badMac := s.badMac.filter fun l => decide (l ≠ line) }
  | _ => s

/-- What reading bytes of LPDDR does to lines whose MAC fails (R356). -/
def State.checkMacs (s : State) (pa n : Nat) : State :=
  ((blocksOf 128 pa n).filter fun l => s.badMac.contains l).foldl State.failLine s

/-! ### Frames and versions -/

/-- The attribute table's entry of the frame of an address (R353, R373): CLEAR, or ENC in confidential mode, where
nothing is listed. -/
def State.fatOf (s : State) (pa : Nat) : FatEntry :=
  (lookupKey (pa / 65536) s.fat).getD { attr := if s.confidential then 1 else 0, changing := false }

/-- One more write of an ENCIR line (R355). -/
def State.bumpLine (s : State) (line : Nat) : State :=
  if (s.fatOf line).attr = 3 then
    let l := line / 128
    let g := l / 64
    let v := (lookupKey l s.minors).getD 0
    if v = 127 then
      { s with majors := insertKey g ((lookupKey g s.majors).getD 0 + 1) s.majors,
               minors := s.minors.filter fun e => decide (e.1 / 64 ≠ g) }
    else { s with minors := insertKey l (v + 1) s.minors }
  else s

/-- What a write does to one line of LPDDR before its bytes land (R355, R356): a failing MAC is found when the write
does not cover the line. -/
def State.writeLine (pa n : Nat) (s : State) (line : Nat) : State :=
  let whole := decide (pa ≤ line) && decide (line + 128 ≤ pa + n)
  let s := if s.badMac.contains line then
      (if whole then { s with badMac := s.badMac.filter fun l => decide (l ≠ line) } else s.failLine line)
    else s
  s.bumpLine line

/-- Bytes that land in physical memory, within one kind of memory; poison stays. -/
def State.writeRaw (s : State) (pa : Nat) (bs : List Byte) : State :=
  let s := if (homeOf pa).isLpddr then (blocksOf 128 pa bs.length).foldl (State.writeLine pa bs.length) s else s
  { s with mem := Memory.write s.mem pa bs }

/-- Bytes that one store or command writes to physical memory, within one kind of memory. -/
def State.writePa (s : State) (pa : Nat) (bs : List Byte) : State := (s.writeRaw pa bs).clearCovered pa bs.length

/-- `n` bytes of physical memory. -/
def State.readPa (s : State) (pa n : Nat) : List Byte := Memory.read s.mem pa n

/-- A number of `n` bytes in physical memory. -/
def State.readNat (s : State) (pa n : Nat) : Nat := leNat (s.readPa pa n)

/-! ### Tiles -/

/-- Data bytes of a tile of a format (R255). -/
def tileSize (fmt : BitVec 5) : Nat := 512 * fmtWidth fmt

/-- The tiles whose data area or sideband meets a range (R256). -/
def tilesIn (ts : List (Nat × Tile)) (a n : Nat) : List (Nat × Tile) :=
  ts.filter fun e => decide (e.1 < a + n) && decide (a < e.1 + tileSize e.2.fmt + 512)

/-- The tile with an origin. -/
def tileAt (ts : List (Nat × Tile)) (a : Nat) : Option Tile := lookupKey a ts

/-- The tiles after a new one: every older tile it covers a block of is dissolved (R257). -/
def newTile (ts : List (Nat × Tile)) (a : Nat) (t : Tile) : List (Nat × Tile) :=
  insertKey a t (ts.filter fun e => !(decide (e.1 < a + tileSize t.fmt + 512) && decide (a < e.1 + tileSize e.2.fmt + 512)))

/-- The tiles with one of them marked STALE or FRESH. -/
def markTile (ts : List (Nat × Tile)) (a : Nat) (stale : Bool) : List (Nat × Tile) :=
  ts.map fun e => if e.1 = a then (e.1, { e.2 with stale := stale }) else e

/-- Every tile that a write meets becomes STALE (R259). -/
def State.staleTiles (s : State) (pa n : Nat) : State :=
  { s with tiles := (tilesIn s.tiles pa n).foldl (fun ts e => markTile ts e.1 true) s.tiles }

/-! ### W-space (R327, R329, R413) -/

/-- The die of a W address. -/
def wDie (wa : Nat) : DieId := Fin.ofNat 4 (wa / 0x2000000000)
/-- The logical address within the die. -/
def wLogical (wa : Nat) : Nat := wa % 0x2000000000
/-- 96 MiB, the size of a bank. -/
def bankSize : Nat := 0x6000000
/-- The size of a die's tier (R328). -/
def State.wSize (s : State) (d : DieId) : Nat := (s.dies[d.val]).wsize.toNat * bankSize

/-- Whether a range of W-space is valid on every die it meets (R327). -/
def State.wValid (s : State) (wa n : Nat) : Bool :=
  decide (wa + n ≤ 0x8000000000) &&
  (blocksOf 0x2000000000 wa n).all fun b => decide (min (wa + n) (b + 0x2000000000) ≤ b + s.wSize (wDie b))

/-- `n` bytes of W-space. -/
def State.readW (s : State) (wa n : Nat) : List Byte := Memory.read s.wmem wa n

/-- The first poisoned row that a range meets (R336). -/
def State.poisonedRow (s : State) (wa n : Nat) : Option Nat :=
  (blocksOf 4096 wa n).find? fun w => s.wpoison.contains w

end Machine

end Sys2Proof
end

