-- ==== Sys2Proof/Machine/Translate.lean ====
section
/-!
DEFINITION. Machine/Translate.lean: how an operation ends early (R40, R128), and the translation of D-space: the walk
(R340 to R342, R348), cached translations (R343), permissions, the W-aperture and the attribute check (R331, R353).
-/

namespace Sys2Proof

namespace Machine

/-! ### How an operation ends early -/

/-- A trap before it is recorded (R311, R141): kind, cause, detail, address, and the lane of a V instruction. -/
structure Trap where
  kind   : BitVec 2
  cause  : Byte
  detail : Byte
  addr   : Word64
  lane   : Nat
  deriving DecidableEq, Repr

/-- A containment event before it is consumed (R281): cause, CTINFO, CKFAULT and CKADDR for a checksum fault, the physical
ranges read on the way, whose lines may have failed their MAC (R356), and the flags set on the way (R47). -/
structure Event where
  cause : Byte
  info  : Word64
  ck    : Option (Word64 × Word64)
  read  : List (Nat × Nat)
  flags : Nat
  deriving DecidableEq, Repr

/-- Why an operation did not complete: a trap, a containment event, or that it must wait. -/
inductive Stop where
  | trap (t : Trap)
  | event (e : Event)
  | wait
  deriving DecidableEq, Repr

/-- A result, or why there is none. -/
abbrev Res (α : Type) := Except Stop α

/-- A precise trap. -/
def raise {α : Type} (cause : Nat) (detail : Nat) (addr : Nat) : Res α :=
  .error (.trap ⟨0, BitVec.ofNat 8 cause, BitVec.ofNat 8 detail, BitVec.ofNat 64 addr, 0⟩)

/-- A replayable trap (R311). -/
def raiseReplay {α : Type} (cause : Nat) (addr : Nat) : Res α :=
  .error (.trap ⟨1, BitVec.ofNat 8 cause, 0, BitVec.ofNat 64 addr, 0⟩)

/-- An illegal-operation trap with a detail code (R100). -/
def illegalOp {α : Type} (detail : Nat) : Res α := raise 2 detail 0

/-- A containment event of a cause with its CTINFO. -/
def contain {α : Type} (cause : Nat) (info : Nat) (read : List (Nat × Nat)) : Res α :=
  .error (.event ⟨BitVec.ofNat 8 cause, BitVec.ofNat 64 info, none, read, 0⟩)

/-- The unit result under a condition, else an early end. -/
def need (b : Bool) (e : Res Unit) : Res Unit := if b then .ok () else e

/-- A result whose event, if it ends in one, carries flags set before it: ACFLAGS outlive an unwind (R47, R277). -/
def flagged {α : Type} (fl : Nat) (r : Res α) : Res α :=
  match r with
  | .error (.event e) => .error (.event { e with flags := e.flags ||| fl })
  | r => r

/-! ### Cores, tasks, jobs -/

/-- A core. -/
def State.core (s : State) (c : CoreId) : Core := s.cores[c.val]

/-- A core changed. -/
def State.setCore (s : State) (c : CoreId) (f : Core → Core) : State :=
  { s with cores := s.cores.set c.val (f s.cores[c.val]) }

/-- The task of a core. -/
def State.taskOf (s : State) (c : CoreId) : Option Task := (s.core c).task

/-- The core that holds the task of a core: the other core of its pair for a mate (R186). -/
def State.hostOf (s : State) (c : CoreId) : CoreId := if (s.core c).status = .mate then partnerOf c else c

/-- A core's task put in place. -/
def State.setTask (s : State) (c : CoreId) (t : Task) : State := s.setCore c fun k => { k with task := some t }

/-- A cluster changed. -/
def State.setCluster (s : State) (k : ClusterId) (f : Cluster → Cluster) : State :=
  { s with clusters := s.clusters.set k.val (f s.clusters[k.val]) }

/-- A job by number. -/
def State.jobOf (s : State) (n : Nat) : Option Job := s.jobs.find? fun j => decide (j.num = n)

/-- A job changed. -/
def State.setJob (s : State) (n : Nat) (f : Job → Job) : State :=
  { s with jobs := s.jobs.map fun j => if j.num = n then f j else j }

/-- The core of a slot (R306). -/
def slotCore (sl : BitVec 12) : CoreId := Fin.ofNat 512 (sl.toNat / 8)
/-- The residency index of a slot (R306). -/
def slotResid (sl : BitVec 12) : Nat := sl.toNat % 8
/-- A slot of a core and a residency index (R306). -/
def slotOf (c : CoreId) (r : Nat) : BitVec 12 := BitVec.ofNat 12 (c.val * 8 + r % 8)

/-! ### The walk (R340 to R342, R348) -/

/-- Memory type of a page (R341). -/
inductive MType where
  | sram | lpddr | host | mmio | wap
  deriving DecidableEq, Repr

/-- The type code of a leaf. -/
def mtypeOf (code : Nat) : Option MType :=
  match code with
  | 0 => some .sram
  | 1 => some .lpddr
  | 2 => some .host
  | 3 => some .mmio
  | 4 => some .wap
  | _ => none

/-- Whether every address of a page is of a type and backed (R347, R348). -/
def pageBacked (t : MType) (pa size : Nat) : Bool :=
  match t with
  | .sram =>
    if pa + size ≤ 0x20000000 then decide (pa % 0x100000 + size ≤ 0xC0000)
    else decide (0x20000000 ≤ pa) && decide (pa + size ≤ 0x28000000)
  | .lpddr => decide (lpddrBase ≤ pa) && decide (pa + size ≤ lpddrBase + 4 * lpddrSize)
  | .host => decide (hostBase ≤ pa) && decide (pa + size ≤ 2 * hostBase)
  | .mmio => decide (mmioBase ≤ pa) && decide (pa + size ≤ 0x50010000)
  | .wap => true

/-- Whether a leaf of a page size is one the walk accepts (R341, R342, R348). -/
def State.leafOk (s : State) (e size : Nat) : Bool :=
  let pa := bitsAt e 16 36 * 65536
  decide (bitsAt e 52 12 = 0) && decide (bitsAt e 11 5 = 0) && decide (pa % size = 0) &&
  match mtypeOf (bitsAt e 2 3) with
  | none => false
  | some t =>
    pageBacked t pa size && (decide (t = .lpddr) || decide (bitsAt e 8 2 = 0)) &&
    (decide (t ≠ .wap) || (decide (pa < 0x8000000000) && decide ((s.dies[(wDie pa).val]).wsize ≠ 0)))

/-- The four levels from the top: the shift of the index, its bits, and the alignment of the next table (R340). -/
def levels : List (Nat × Nat × Nat) := [(30, 18, 128), (26, 4, 256), (21, 5, 256), (16, 5, 0)]

/-- The walk from a table (R342): the leaf and its page size. -/
def State.walkFrom (s : State) : List (Nat × Nat × Nat) → Nat → Nat → Option (Nat × Nat)
  | [], _, _ => none
  | (sh, bits, al) :: rest, table, va =>
    let e := s.readNat (table + 8 * bitsAt va sh bits) 8
    if !bitAt e 0 then none
    else if bitAt e 1 then (if s.leafOk e (2 ^ sh) then some (e, 2 ^ sh) else none)
    else if al = 0 then none
    else if bitsAt e 52 12 ≠ 0 ∨ bitsAt e 2 5 ≠ 0 ∨ bitsAt e 7 45 * 128 % al ≠ 0 then none
    else s.walkFrom rest (bitsAt e 7 45 * 128) va

/-- The walk of a job's tables. -/
def State.walk (s : State) (root va : Nat) : Option (Nat × Nat) := s.walkFrom levels root va

/-- A cached translation of a place for a job tag (R343). -/
def State.cached (s : State) (place : TlbPlace) (tag : BitVec 12) (va : Nat) : Option (Nat × Nat) :=
  (s.tlb.find? fun e => decide (e.place = place) && (e.global || decide (e.tag = tag)) &&
    decide (e.va ≤ va) && decide (va < e.va + e.size)).map fun e => (e.leaf.toNat, e.size)

/-- The leaf of an address for a core and a job: what the core holds, what its die holds, or the walk. -/
def State.leafOf (s : State) (c : CoreId) (j : Job) (va : Nat) : Option (Nat × Nat) :=
  match s.cached (.core c) j.tag va with
  | some r => some r
  | none =>
    match s.cached (.die (dieOf c)) j.tag va with
    | some r => some r
    | none => s.walk j.args.root va

/-- The entries that a walk reads, by address (R342). -/
def State.walkReads (s : State) : List (Nat × Nat × Nat) → Nat → Nat → List Nat
  | [], _, _ => []
  | (sh, bits, al) :: rest, table, va =>
    let a := table + 8 * bitsAt va sh bits
    let e := s.readNat a 8
    if bitAt e 0 && !bitAt e 1 && decide (al ≠ 0) then a :: s.walkReads rest (bitsAt e 7 45 * 128) va else [a]

/-- The first poisoned entry that a walk of a job's tables reads (R356). -/
def State.badEntry (s : State) (j : Job) (va : Nat) : Option Nat :=
  (s.walkReads levels j.args.root va).find? fun a => ((s.checkMacs a 8).poisonedAt a 8).isSome

/-- The first poisoned entry that the walk of a core's address reads, where no translation is cached (R356, log 71). -/
def State.walkPoison (s : State) (c : CoreId) (j : Job) (va : Nat) : Option Nat :=
  if (s.cached (.core c) j.tag va).isSome || (s.cached (.die (dieOf c)) j.tag va).isSome then none
  else s.badEntry j va

/-! ### The access checks (R101, R342, R331, R353) -/

/-- What an access needs of its page (R342). -/
inductive Need where
  | read | write | fetch | atomic
  deriving DecidableEq, Repr

/-- Whether a leaf grants an access. -/
def Need.granted (n : Need) (e : Nat) : Bool :=
  match n with
  | .read => bitAt e 5
  | .write => bitAt e 6
  | .fetch => bitAt e 7
  | .atomic => bitAt e 5 && bitAt e 6

/-- A translated address: physical or W address, type, and the page: base and size in D-space, physical base. -/
structure Xlate where
  pa   : Nat
  typ  : MType
  page : Nat
  size : Nat
  deriving DecidableEq, Repr

/-- Whether a physical address is closed to tasks: the lay-by of a scratchpad, the reserved part of a cluster memory
(R269, R303). -/
def closedToTasks (pa : Nat) : Bool :=
  match homeOf pa with
  | .spad _ off => decide (laybyBase ≤ off)
  | .cmem _ off => decide (closedBase ≤ off)
  | _ => false

/-- Translate of R111, for the byte at an address: the 48-bit limit (R101), the walk, the permission, the size of the
tier for an aperture page (R327), the attribute check (R353), and what is closed to tasks. -/
def State.translate (s : State) (c : CoreId) (job : Nat) (va : Nat) (n : Need) : Res Xlate :=
  if 2 ^ 48 ≤ va then raiseReplay 8 va
  else
    match s.jobOf job with
    | none => raiseReplay 8 va
    | some j =>
      match s.walkPoison c j va with
      | some a => contain 1 va [(a, 8)]
      | none =>
      match s.leafOf c j va with
      | none => raiseReplay 8 va
      | some (e, size) =>
        let base := va / size * size
        let pa := bitsAt e 16 36 * 65536 + va % size
        match mtypeOf (bitsAt e 2 3) with
        | none => raiseReplay 8 va
        | some typ =>
          if !n.granted e then raise 9 0 va
          else if typ = .wap then
            (if s.wValid (bitsAt e 16 36 * 65536) size then .ok ⟨pa, typ, base, size⟩ else raiseReplay 8 va)
          else if typ = .lpddr ∧ ((s.fatOf pa).changing = true ∨ (s.fatOf pa).attr.toNat ≠ bitsAt e 8 2) then
            raise 11 0 va
          else if closedToTasks pa then raise 9 0 va
          else .ok ⟨pa, typ, base, size⟩

end Machine

end Sys2Proof
end

