-- ==== Sys2Proof/Machine/Regs.lean ====
section
/-!
DEFINITION. Machine/Regs.lean: the registers a task names (R18, R19), its vector queues (R22 to R25), and the system
registers a CSR instruction reads and writes (R7, R20, R130, R405, R406).
-/

namespace Sys2Proof

namespace Machine

/-! ### x, p and k registers (R18, R19) -/

/-- An x register as read: x0 reads zero. -/
def Task.getX (t : Task) (r : XReg) : Word64 := if r.val = 0 then 0 else t.x[r.val]
/-- An x register written: x0 discards. -/
def Task.setX (t : Task) (r : XReg) (v : Word64) : Task := if r.val = 0 then t else { t with x := t.x.set r.val v }
/-- A predicate as read: p0 reads true. -/
def Task.getP (t : Task) (r : PReg) : Bool := if r.val = 0 then true else t.p[r.val]
/-- A predicate written: p0 discards. -/
def Task.setP (t : Task) (r : PReg) (v : Bool) : Task := if r.val = 0 then t else { t with p := t.p.set r.val v }
/-- A mask as read: k0 reads all ones. -/
def Task.getK (t : Task) (r : KReg) : MaskBits := if r.val = 0 then BitVec.allOnes 1024 else t.k[r.val]
/-- A mask written: k0 discards. -/
def Task.setK (t : Task) (r : KReg) (v : MaskBits) : Task := if r.val = 0 then t else { t with k := t.k.set r.val v }

/-- Whether a guarded instruction executes (R30). -/
def Task.passes (t : Task) (g : Guard) : Bool := decide (g.gp.val = 0) || (t.getP g.gp != g.gn)

/-! ### Queues (R22 to R25) -/

/-- The entries of a queue, oldest first. -/
def Task.queue (t : Task) (q : VReg) : List Entry := t.v[q.val]
/-- A queue's entries replaced. -/
def Task.setQueue (t : Task) (q : VReg) (l : List Entry) : Task := { t with v := t.v.set q.val l }
/-- A queue without its head. -/
def Task.popQ (t : Task) (q : VReg) : Task := t.setQueue q (t.queue q).tail
/-- A queue with an entry at its end. -/
def Task.pushQ (t : Task) (q : VReg) (e : Entry) : Task := t.setQueue q (t.queue q ++ [e])

/-! ### Flags (R41) -/

/-- Sticky bits set in ACFLAGS. -/
def Task.flag (t : Task) (fl : Nat) : Task :=
  { t with sys := { t.sys with acflags := t.sys.acflags ||| BitVec.ofNat 64 fl } }

/-- A 32-bit count in bits 31:0 that holds at its top, raised by n (R65, R267); the bits above keep their value. -/
def satCount (w : Word64) (n : Nat) : Word64 :=
  BitVec.ofNat 64 (w.toNat / 2 ^ 32 * 2 ^ 32 + min (w.toNat % 2 ^ 32 + n) (2 ^ 32 - 1))

/-- Saturations and underflows counted (R64, R65). -/
def Task.count (t : Task) (sat ufl : Nat) : Task :=
  { t with sys := { t.sys with satcnt := satCount t.sys.satcnt sat, uflcnt := satCount t.sys.uflcnt ufl } }

/-- The rounding mode of RNDM for arithmetic: dithered is nearest-even (R58, R59). -/
def Task.arithMode (t : Task) : Mode :=
  match t.sys.rndm.toNat % 8 with
  | 1 => .tz
  | 2 => .dn
  | 3 => .up
  | _ => .ne

/-- The base of DITH (R61). -/
def dithBase (w : Word64) : Nat := bitsAt w.toNat 0 5
/-- The step of DITH. -/
def dithStep (w : Word64) : Nat := bitsAt w.toNat 8 5
/-- The tile counter of DITH. -/
def dithCount (w : Word64) : Nat := bitsAt w.toNat 16 16

/-! ### System registers (R405) -/

/-- PGRAN (R286). -/
def pgran : Word64 := 0x0000B28A6C4D2800

/-- RPC (R34). -/
def Repeat.rpc (r : Repeat) : Word64 :=
  BitVec.ofNat 64 (bitNat r.vactive * 2 ^ 15 + r.vdone.toNat * 2 ^ 8 + bitNat r.cactive * 2 ^ 7 + r.cdone.toNat)

/-- CTHNDL (R129). -/
def Task.cthndl (t : Task) : Word64 :=
  match t.regions.getLast? with
  | none => 0
  | some r => BitVec.ofNat 64 (t.regions.length * 2 ^ 48 + r.handler.toNat % 2 ^ 48)

/-- WSIZE (R328). -/
def State.wsizeReg (s : State) : Word64 :=
  BitVec.ofNat 64 ((List.finRange 4).foldl (fun a d => a + (s.dies[d.val]).wsize.toNat * 2 ^ (16 * d.val)) 0)

/-- WREADY (R328). -/
def State.wreadyReg (s : State) : Word64 :=
  BitVec.ofNat 64 ((List.finRange 4).foldl (fun a d => a + bitNat (s.dies[d.val]).wready * 2 ^ d.val) 0)

/-- COREID (R392): both cores of a pair read the number of the tier A core, on which the task stands. -/
def State.coreid (s : State) (c : CoreId) : Word64 :=
  BitVec.ofNat 64 ((s.hostOf c).val * 2 ^ 20 + s.modid.toNat % 2 ^ 20)

/-- A task's own system registers. -/
def Task.leftRegs (t : Task) : LeftRegs := { sys := t.sys, rpc := t.rep.rpc, cc := t.cc, cthndl := t.cthndl }

/-- The value of a system register of a core (R405, R406), where the registers of R405 that belong to a task have given
values. MILEMAX reads as last written (R7), whatever limit the present task runs under. A number that is not assigned
reads 0. -/
def State.csrOf (s : State) (c : CoreId) (r : LeftRegs) (n : Nat) : Word64 :=
  match n with
  | 0x000 => r.sys.slipw
  | 0x001 => r.rpc
  | 0x002 => (s.core c).milemax
  | 0x003 => pgran
  | 0x004 => s.coreid c
  | 0x010 => r.sys.acflags
  | 0x011 => r.sys.acen
  | 0x012 => r.sys.rndm
  | 0x013 => r.sys.dith
  | 0x014 => r.sys.satcnt
  | 0x015 => r.sys.uflcnt
  | 0x016 => r.sys.cvmse
  | 0x017 => r.sys.cvcnt
  | 0x018 => r.sys.tolsh
  | 0x020 => r.sys.ckcorr
  | 0x021 => r.sys.ckfault
  | 0x022 => r.sys.ckaddr
  | 0x028 => r.sys.ctcause
  | 0x029 => r.sys.ctinfo
  | 0x02A => r.cthndl
  | 0x040 => s.wsizeReg
  | 0x041 => s.wreadyReg
  | 0x042 => (s.core c).wwbase
  | 0x043 => (s.core c).wwlim
  | 0x080 => (s.dies[(dieOf c).val]).cyc
  | 0x081 => (s.core c).trep.setWidth 64
  | 0x082 => (s.core c).vbsplit.setWidth 64
  | 0x083 => (s.core c).energy
  | 0x0C0 => (s.core c).waketest
  | _ => if h : 0x30 ≤ n ∧ n < 0x40 then (r.cc[n - 0x30]).setWidth 64 else 0

/-- The value of a system register of a core on which a task runs (R405, R406). -/
def State.csr (s : State) (c : CoreId) (t : Task) (n : Nat) : Word64 := s.csrOf c t.leftRegs n

/-- SLIPW as a write stores it (R29). -/
def slipStore (v : Word64) : Word64 := BitVec.ofNat 64 (max 64 (min 8192 (v.toNat % 2 ^ 14)))

/-- RNDM as a write stores it (R58). -/
def rndmStore (v : Word64) : Word64 := if 4 < v.toNat % 8 then 0 else BitVec.ofNat 64 (v.toNat % 8)

/-- A system register after a task's write of a value to its RW fields (R7, R29, R41, R58, R61, R65, R67, R217, R267):
reserved and RO fields keep their value. -/
def Task.csrStore (t : Task) (n : Nat) (v : Word64) : Task :=
  let m32 : Word64 := v &&& 0xFFFFFFFF
  match n with
  | 0x000 => { t with sys := { t.sys with slipw := slipStore v } }
  | 0x010 => { t with sys := { t.sys with acflags := v &&& 0x1FF } }
  | 0x011 => { t with sys := { t.sys with acen := v &&& 0x1FF } }
  | 0x012 => { t with sys := { t.sys with rndm := rndmStore v } }
  | 0x013 => { t with sys := { t.sys with dith := v &&& 0xFFFF1F1F } }
  | 0x014 => { t with sys := { t.sys with satcnt := m32 } }
  | 0x015 => { t with sys := { t.sys with uflcnt := m32 } }
  | 0x016 => { t with sys := { t.sys with cvmse := m32 } }
  | 0x017 => { t with sys := { t.sys with cvcnt := v } }
  | 0x018 => { t with sys := { t.sys with tolsh := v &&& 0x1F },
                      m := { t.m with tol := v.setWidth 5 } }
  | 0x020 => { t with sys := { t.sys with ckcorr := m32 } }
  | _ => t

/-- Whether any access of a task raises PRIV (R285, R405). -/
def csrClosed (n : Nat) : Bool := decide (n = 0x0C0)
/-- Whether a write of a task raises PRIV (R405). -/
def csrNoWrite (n : Nat) : Bool :=
  csrClosed n || decide (n = 0x002) || decide (n = 0x004) || (decide (0x040 ≤ n) && decide (n ≤ 0x043))

/-- Whether commands of the task's engines update a register, so that a CSRR waits for them (R68, R131): CKCORR is read as
an event counter (R267). -/
def csrOrdered (n : Nat) : Bool :=
  decide (n = 0x010) || (decide (0x014 ≤ n) && decide (n ≤ 0x017)) || (decide (0x030 ≤ n) && decide (n < 0x040))

/-- Whether CSRW, CSRS or CSRC waits for the commands that update a register (R131): CKCORR among them. -/
def csrWriteOrdered (n : Nat) : Bool := csrOrdered n || decide (n = 0x020)

end Machine

end Sys2Proof
end

