-- ==== Sys2Proof/Machine/Sha.lean ====
section
/-!
DEFINITION. Machine/Sha.lean: the digests the part computes: SHA-384 (R316, R339, R359), HMAC over it (R378), and the
CRC-32C of copies (R230). The round constants are computed from the roots of primes that define them.
-/

namespace Sys2Proof

namespace Machine

/-! ### SHA-384 -/

/-- Whether a number is prime, by trial division. -/
def isPrime (n : Nat) : Bool := decide (2 ≤ n) && (List.range n).all fun d => decide (d < 2) || decide (n % d ≠ 0)

/-- The first 80 primes: 409 is the eightieth. -/
def primes80 : List Nat := (List.range 410).filter isPrime

/-- 64 bits of the fraction of a cube root. -/
def cbrtBits (p : Nat) : Word64 := BitVec.ofNat 64 (searchUp (fun t => decide (t * t * t ≤ p * 2 ^ 192)) 68 0)
/-- 64 bits of the fraction of a square root. -/
def sqrtBits (p : Nat) : Word64 := BitVec.ofNat 64 (searchUp (fun t => decide (t * t ≤ p * 2 ^ 128)) 70 0)

/-- The round constants. -/
def shaK : List Word64 := primes80.map cbrtBits

/-- The state before any byte. -/
def ShaState.init : ShaState := { h := ((primes80.drop 8).take 8).map sqrtBits, buf := [], len := 0 }

/-- Rotation of a word to the right. -/
def rotr (x : Word64) (n : Nat) : Word64 := x.rotateRight n

/-- The 80 message words of a block, newest first in the accumulator. -/
def shaSchedule : Nat → List Word64 → List Word64
  | 0, ws => ws.reverse
  | n + 1, ws =>
    let w (i : Nat) : Word64 := ws.getD i 0
    let a := w 14
    let b := w 1
    let s0 := rotr a 1 ^^^ rotr a 8 ^^^ (a >>> 7)
    let s1 := rotr b 19 ^^^ rotr b 61 ^^^ (b >>> 6)
    shaSchedule n ((w 15 + s0 + w 6 + s1) :: ws)

/-- One round. -/
def shaRound (v : List Word64) (kw : Word64 × Word64) : List Word64 :=
  match v with
  | [a, b, c, d, e, f, g, h] =>
    let s1 := rotr e 14 ^^^ rotr e 18 ^^^ rotr e 41
    let ch := (e &&& f) ^^^ (~~~e &&& g)
    let t1 := h + s1 + ch + kw.1 + kw.2
    let s0 := rotr a 28 ^^^ rotr a 34 ^^^ rotr a 39
    let mj := (a &&& b) ^^^ (a &&& c) ^^^ (b &&& c)
    [t1 + s0 + mj, a, b, c, d + t1, e, f, g]
  | _ => v

/-- The number that bytes make, the first highest. -/
def beNat (bs : List Byte) : Nat := bs.foldl (fun a b => a * 256 + b.toNat) 0

/-- The words of a 128-byte block, the first highest byte first. -/
def blockWords (b : List Byte) : List Word64 :=
  (List.range 16).map fun i => BitVec.ofNat 64 (beNat ((b.drop (8 * i)).take 8))

/-- The chaining words after a block. -/
def shaBlock (h : List Word64) (b : List Byte) : List Word64 :=
  let ws := shaSchedule 64 (blockWords b).reverse
  (h.zip ((shaK.zip ws).foldl shaRound h)).map fun p => p.1 + p.2

/-- Whole blocks taken from a buffer. -/
def shaBlocks : Nat → List Word64 → List Byte → List Word64 × List Byte
  | 0, h, b => (h, b)
  | n + 1, h, b => if b.length < 128 then (h, b) else shaBlocks n (shaBlock h (b.take 128)) (b.drop 128)

/-- More bytes absorbed. -/
def ShaState.absorb (s : ShaState) (bs : List Byte) : ShaState :=
  let b := s.buf ++ bs
  let r := shaBlocks (b.length / 128 + 1) s.h b
  { h := r.1, buf := r.2, len := s.len + bs.length }

/-- `n` bytes of a number, the highest first. -/
def beBytes (n v : Nat) : List Byte := (bytesOf n v).reverse

/-- The digest of the bytes absorbed: 48 bytes. -/
def ShaState.digest (s : ShaState) : List Byte :=
  let pad := (BitVec.ofNat 8 0x80 : Byte) :: List.replicate ((111 + 128 - s.buf.length % 128) % 128) 0
  let r := s.absorb (pad ++ beBytes 16 (8 * s.len))
  (r.h.take 6).flatMap fun w => beBytes 8 w.toNat

/-- SHA-384 of a byte string. -/
def sha384 (bs : List Byte) : List Byte := (ShaState.init.absorb bs).digest

/-- HMAC-SHA-384. -/
def hmac384 (key msg : List Byte) : List Byte :=
  let k := if 128 < key.length then sha384 key else key
  let k := k ++ List.replicate (128 - k.length) 0
  let x (v : Byte) : List Byte := k.map fun b => b ^^^ v
  sha384 (x 0x5C ++ sha384 (x 0x36 ++ msg))

/-! ### CRC-32C -/

/-- One byte into a reflected CRC of polynomial 0x1EDC6F41. -/
def crcByte (c : Word32) (b : Byte) : Word32 :=
  (List.range 8).foldl (fun c _ => if c.getLsbD 0 then (c >>> 1) ^^^ 0x82F63B78 else c >>> 1)
    (c ^^^ b.setWidth 32)

/-- The CRC's register after bytes. -/
def crcBytes (c : Word32) (bs : List Byte) : Word32 := bs.foldl crcByte c

/-- CRC-32C of a byte string: initial value and final exclusive-or all ones. -/
def crc32c (bs : List Byte) : Word32 := ~~~(crcBytes (BitVec.allOnes 32) bs)

end Machine

end Sys2Proof
end

