-- ==== Sys2Proof/Machine/SealRing.lean ====
section
/-!
DEFINITION. Machine/SealRing.lean: seal records (R316, R317), the cluster's seal ring (R321, R344, R412), and the
abort of sessions.
-/

namespace Sys2Proof

namespace Machine

/-- A byte string cut or padded with zeros to a length. -/
def fixLen (n : Nat) (l : List Byte) : List Byte := l.take n ++ List.replicate (n - l.length) 0

/-- Bytes 0x00 to 0x9F of a seal record (R316): the signed message. -/
def sealMessage (k : ClusterId) (x : Session) (status reason : Nat) (metas : List Word64) : List Byte :=
  bytesOf 4 0x4C414553 ++ bytesOf 1 1 ++ bytesOf 1 status ++ bytesOf 1 x.alg.toNat ++ bytesOf 1 x.num.toNat ++
  bytesOf 8 x.frame.toNat ++ bytesOf 8 x.count ++ bytesOf 4 x.key.toNat ++ bytesOf 4 reason ++
  bytesOf 1 k.val ++ bytesOf 1 metas.length ++ bytesOf 6 0 ++ x.sha.digest ++
  fixLen 64 (metas.flatMap fun w => bytesOf 8 w.toNat) ++ bytesOf 8 0

/-- A whole seal record, and whether it is unsigned (R316, R317). Status 0 asks for FINAL, 1 for ABORTED. -/
def sealRecord (k : ClusterId) (x : Session) (status reason : Nat) (metas : List Word64) : List Byte × Bool :=
  let msg := sealMessage k x status reason metas
  let slot : BitVec 16 := x.key.setWidth 16
  if x.alg = 0 then (msg ++ fixLen 96 (Config.ecdsaSign slot msg), false)
  else
    let lens := bytesOf 4 3309 ++ bytesOf 4 256 ++ bytesOf 88 0
    match Config.mldsaSign slot msg with
    | some sig => (msg ++ lens ++ fixLen 3328 (fixLen 3309 sig), false)
    | none => (sealMessage k x (status + 2) reason metas ++ lens ++ List.replicate 3328 0, true)

/-- A record into the next entry of a cluster's ring, or kept until an entry frees (R321): `owner` is the slot of the task
whose EXIT waits for it. -/
def State.ringPut (s : State) (k : ClusterId) (rec_ : List Byte) (owner : Option (BitVec 12)) : State :=
  let cl := s.clusters[k.val]
  if (cl.srhead - cl.srtail).toNat = 32 then s.setCluster k fun c => { c with held := c.held ++ [⟨rec_, owner⟩] }
  else
    (s.writePa (cmemPa k (0x3E0000 + 4096 * (cl.srhead.toNat % 32))) rec_).setCluster k fun c =>
      { c with srhead := c.srhead + 1 }

/-- Records kept back enter the ring while entries are free (R321). -/
def State.ringDrain (k : ClusterId) : Nat → State → State
  | 0, s => s
  | n + 1, s =>
    let cl := s.clusters[k.val]
    match cl.held with
    | [] => s
    | r :: rest =>
      if (cl.srhead - cl.srtail).toNat = 32 then s
      else State.ringDrain k n ((s.setCluster k fun c => { c with held := rest }).ringPut k r.rec_ r.owner)

/-- Aborts one session: its record, ABORTED, goes to the ring (R321). -/
def State.abortSession (s : State) (k : ClusterId) (x : Session) (reason : Nat) (metas : List Word64)
    (owner : Option (BitVec 12)) : State × Bool :=
  let (r, unsigned) := sealRecord k x 1 reason metas
  (s.ringPut k r owner, unsigned)

/-- Whether a record of a task that runs in a cluster is still kept back from its ring (R319). -/
def State.recordKept (s : State) (k : ClusterId) (slot : BitVec 12) : Bool :=
  (s.clusters[k.val]).held.any fun r => decide (r.owner = some slot)

/-- The records kept back of a task that leaves: they wait for the ring alone. -/
def State.disownRecords (s : State) (k : ClusterId) (slot : BitVec 12) : State :=
  s.setCluster k fun c =>
    { c with held := c.held.map fun r => if r.owner = some slot then { r with owner := none } else r }

/-- The outcome of a session number's latest close (R322): 1 FINAL, 2 ABORTED, 3 unsigned. -/
def Task.closeSession (t : Task) (num : BitVec 6) (outcome : BitVec 2) : Task :=
  { t with sessions := t.sessions.eraseP fun x => decide (x.num = num),
           closed := (num, outcome) :: t.closed.filter fun e => decide (e.1 ≠ num) }

/-- Aborts every session of a task that a condition picks. -/
def State.abortSessions (k : ClusterId) (reason : Nat) (pick : Session → Bool) (owner : Option (BitVec 12)) :
    List Session → State → Task → State × Task
  | [], s, t => (s, t)
  | x :: rest, s, t =>
    if pick x then
      let (s', unsigned) := s.abortSession k x reason [] owner
      State.abortSessions k reason pick owner rest s' (t.closeSession x.num (if unsigned then 3 else 2))
    else State.abortSessions k reason pick owner rest s t

end Machine

end Sys2Proof
end

