-- ==== Sys2Proof/Machine/Device.lean ====
section
/-!
DEFINITION. Machine/Device.lean: the device registers (R343 to R345, R354, R387, R407 to R410): what a read of MMIO
returns and what a write does, for system cores and for tasks whose pages map MMIO.
-/

namespace Sys2Proof

namespace Machine

/-! ### Trap records as bytes (R311) -/

/-- The 64 bytes of a trap record with a state and a posting number. -/
def TrapRec.bytes (r : TrapRec) (state : Nat) (seq : Word64) : List Byte :=
  bytesOf 8 (state + r.kind.toNat * 2 ^ 2 + r.cause.toNat * 2 ^ 8 + r.detail.toNat * 2 ^ 16 + r.engine.toNat * 2 ^ 24 +
    r.slot.toNat * 2 ^ 32) ++
  bytesOf 8 r.pc.toNat ++ bytesOf 8 r.text.toNat ++ bytesOf 8 r.addr.toNat ++ bytesOf 8 r.info.toNat ++
  bytesOf 8 r.info2.toNat ++ bytesOf 4 r.launch.toNat ++ bytesOf 4 r.index.toNat ++ bytesOf 8 seq.toNat

/-- The bytes of the monitor save area (R345). -/
def Die.monitorBytes (d : Die) : List Byte :=
  match d.monRec with
  | none => List.replicate 0x180 0
  | some m =>
    bytesOf 8 (m.case_.toNat + m.die.val * 2 ^ 8 + m.sysCore.val * 2 ^ 10) ++ bytesOf 8 m.mcause.toNat ++
    bytesOf 8 m.mepc.toNat ++ bytesOf 8 m.mtval.toNat ++ fixLen 248 (m.xs.flatMap fun x => bytesOf 8 x.toNat) ++
    bytesOf 8 d.escal.toNat ++ List.replicate 32 0 ++ fixLen 64 m.trap

/-! ### Pages in flight (R179) -/

/-- Every command that has been accepted and has not retired: of running and parked tasks. -/
def State.allCmds (s : State) : List Cmd :=
  (s.cores.toList.flatMap fun c => match c.task with
    | some t => t.cmds
    | none => []) ++
  (s.clusters.toList.flatMap fun k => k.parked.flatMap fun p => p.task.cmds)

/-- Every page that a command holds in flight. -/
def State.pagesInFlight (s : State) : List PageUse := s.allCmds.flatMap fun c => c.pages

/-! ### TLBINV and FATSET -/

/-- Whether TLBINV's value covers a translation of a tag, or a global one, of a page (R343). -/
def tlbinvCovers (v : Nat) (tag : BitVec 12) (global : Bool) (va size : Nat) : Bool :=
  let a := bitsAt v 16 32 * 65536
  (decide (tag.toNat = bitsAt v 52 12) || (global && bitAt v 50)) &&
  (bitAt v 51 || (decide (va ≤ a) && decide (a < va + size)))

/-- A write of TLBINV: while busy it stalls its system core, and takes effect when busy clears (R343, R410). -/
def State.tlbinvWrite (s : State) (d : DieId) (v : Word64) : State :=
  if (s.dies[d.val]).tlbinv.getLsbD 0 then s.setDie d fun x => { x with tlbWait := x.tlbWait ++ [v] }
  else
    let n := v.toNat
    let s := { s with tlb := s.tlb.filter fun e => !tlbinvCovers n e.tag e.global e.va e.size }
    s.setDie d fun x =>
      { x with tlbinv := (v &&& 0xFFFCFFFFFFFF0000) ||| 1,
               tlbPages := s.pagesInFlight.filter fun p => tlbinvCovers n p.tag p.global p.va p.size }

/-- Completion of TLBINV: nothing while a covered page is still in flight (R343); then the next stalled write (R410). -/
def State.tlbinvComplete (s : State) (d : DieId) : State :=
  let x := s.dies[d.val]
  if x.tlbinv.getLsbD 0 && x.tlbPages.all fun p => !(s.pagesInFlight.contains p) then
    let s := s.setDie d fun x =>
      { x with tlbinv := x.tlbinv &&& ~~~(1 : Word64), tlbPages := [], tlbWait := x.tlbWait.drop 1 }
    match x.tlbWait with
    | [] => s
    | v :: _ => s.tlbinvWrite d v
  else s

/-- ENCIR frames of a die (R354). -/
def State.encirFrames (s : State) (d : DieId) : Nat :=
  (s.fat.filter fun e => decide (e.2.attr = 3) && decide (homeOf (e.1 * 65536) = .lpddr d)).length

/-- A write of FATSET (R354): ignored while busy, refused with err, or begun. -/
def State.fatsetWrite (s : State) (d : DieId) (v : Word64) : State :=
  let x := s.dies[d.val]
  if x.fatset.getLsbD 61 then s
  else
    let fr := bitsAt v.toNat 16 36
    let attr : BitVec 2 := BitVec.ofNat 2 (bitsAt v.toNat 62 2)
    let keep : Word64 := v &&& 0xC00FFFFFFFFF0000
    let refuse := s.setDie d fun x => { x with fatset := keep ||| 0x1000000000000000 }
    match homeOf (fr * 65536) with
    | .lpddr f =>
      if (s.confidential && decide (attr = 0)) ||
          (decide (attr = 3) && decide ((s.fatOf (fr * 65536)).attr ≠ 3) && decide (16384 ≤ s.encirFrames f)) then refuse
      else
        let old := s.fatOf (fr * 65536)
        let maps (pa size : Nat) : Bool := decide (pa < fr * 65536 + 65536) && decide (fr * 65536 < pa + size)
        let s := { s with
          fat := insertKey fr { old with changing := true } s.fat,
          tlb := s.tlb.filter fun e => !(maps (bitsAt e.leaf.toNat 16 36 * 65536) e.size &&
            decide (bitsAt e.leaf.toNat 2 3 = 1)) }
        s.setDie d fun x => { x with fatset := keep ||| 0x2000000000000000,
                                     fatPages := s.pagesInFlight.filter fun p => maps p.pa p.size }
    | _ => refuse

/-- Entries kept of a listing, outside a range of keys. -/
def outside {α : Type} (lo hi : Nat) (l : List (Nat × α)) : List (Nat × α) :=
  l.filter fun e => !(decide (lo ≤ e.1) && decide (e.1 < hi))

/-- Completion of FATSET: the frame zeroed under its new attribute, versions reset (R354). -/
def State.fatsetComplete (s : State) (d : DieId) : State :=
  let x := s.dies[d.val]
  if x.fatset.getLsbD 61 && x.fatPages.all fun p => !(s.pagesInFlight.contains p) then
    let fr := bitsAt x.fatset.toNat 16 36
    let lo := fr * 65536
    let hi := lo + 65536
    let attr : BitVec 2 := BitVec.ofNat 2 (bitsAt x.fatset.toNat 62 2)
    let s := { s with
      mem := outside lo hi s.mem,
      poison := s.poison.filter fun w => !(decide (lo ≤ w) && decide (w < hi)),
      badMac := s.badMac.filter fun w => !(decide (lo ≤ w) && decide (w < hi)),
      minors := outside (lo / 128) (hi / 128) s.minors,
      majors := outside (lo / 8192) (hi / 8192) s.majors,
      fat := insertKey fr { attr := attr, changing := false } s.fat }
    s.setDie d fun x => { x with fatset := x.fatset &&& ~~~(0x2000000000000000 : Word64), fatPages := [] }
  else s

/-! ### Other registers with an effect -/

/-- A write of SRTAIL: records kept back enter the ring as entries free (R321, R344). -/
def State.srtailWrite (s : State) (k : ClusterId) (v : Word32) : State :=
  State.ringDrain k (s.clusters[k.val]).held.length (s.setCluster k fun c => { c with srtail := v })

/-- MILEMAX as a write stores it (R270). -/
def milemaxStore (v : Word64) : Word64 := BitVec.ofNat 64 (max 64 (v.toNat % 65536))

/-- A write of MILEMAX by the kernel: it applies when a task next begins or resumes on the core (R407). -/
def State.milemaxWrite (s : State) (c : CoreId) (v : Word64) : State :=
  s.setCore c fun k => { k with milemax := milemaxStore v }

/-- WAKETEST after a write: en is RW, fail W1C (R285). -/
def waketestStore (old v : Word64) : Word64 := (v &&& 1) ||| (old &&& ~~~v &&& 2)

/-- One 64-bit word of a map of 1,024 bits. -/
def mapWord (m : BitVec 1024) (i : Nat) : Nat := bitsAt m.toNat (64 * i) 64

/-- An entry of WREPc as 16 bits (R335). -/
def WrepEntry.bits (e : WrepEntry) : Nat := bitNat e.valid * 2 ^ 15 + e.via.toNat

/-- The 64 entries of a column, those not listed empty. -/
def wrepEntry (l : List WrepEntry) (i : Nat) : WrepEntry := l.getD i { valid := false, via := 0 }

/-- LIMIT as a write stores it (R387). -/
def limitStore (v : Word64) : BitVec 49 := BitVec.ofNat 49 (max (2 ^ 21) (min (2 ^ 48) (v.toNat % 2 ^ 49)))

/-- FSTAT (R387). -/
def Port.fstat (p : Port) : Nat := p.tx.epoch % 2 ^ 24 * 2 ^ 40 + bitNat p.down * 2 + bitNat p.up

/-- A port changed. -/
def State.setPort (s : State) (p : PortId) (f : Port → Port) : State := { s with ports := s.ports.set p.val (f s.ports[p.val]) }

/-! ### Reads and writes (R408, R409) -/

/-- How a device offset may be accessed. -/
inductive RegSize where
  | doubleword | word | any
  deriving DecidableEq, Repr

/-- Whether an access of a size at an offset is accepted. -/
def RegSize.accepts (r : RegSize) (n : Nat) : Bool :=
  match r with
  | .doubleword => decide (n = 8)
  | .word => decide (n = 4)
  | .any => true

/-- The size a die block's offset accepts (R408). -/
def dieRegSize (o : Nat) : RegSize :=
  if o < 0x100 then .doubleword
  else if o < 0x200 then .word
  else if o < 0x240 then .doubleword
  else if o < 0x280 then .word
  else if 0x1000 ≤ o ∧ o < 0x1180 then .doubleword
  else if 0x10000 ≤ o ∧ o < 0x12000 then .doubleword
  else if 0x20000 ≤ o ∧ o < 0x21000 ∧ o % 0x20 < 0x18 then .doubleword
  else if 0x100000 ≤ o ∧ o < 0x300000 then .doubleword
  else .any

/-- The size an offset of the package block accepts (R409). -/
def packageRegSize (o : Nat) : RegSize :=
  if o < 0x10 then .doubleword
  else if 0x1000 ≤ o ∧ o < 0x1400 ∧ o % 0x40 < 0x20 then .doubleword
  else .any

/-- A system register as a system core reads it (R407): what the task on the core would read, on either core of a pair;
on a core without a task, what the last one left. -/
def State.sysRead (s : State) (c : CoreId) (n : Nat) : Nat :=
  match s.taskOf (s.hostOf c) with
  | some t => (s.csr c t n).toNat
  | none => (s.csrOf c (s.core c).left n).toNat

/-- The value of a die's device register at an offset. -/
def State.dieRead (s : State) (d : DieId) (o : Nat) : Nat :=
  let x := s.dies[d.val]
  let cl : ClusterId := Fin.ofNat 32 (8 * d.val + (o - 0x240) / 8)
  if o < 0x80 then mapWord x.wbam (o / 8)
  else if o < 0x100 then mapWord x.wbperm ((o - 0x80) / 8)
  else if o < 0x200 then
    let e := x.wcmap[(o - 0x100) / 4 % 64]'(Nat.mod_lt _ (by decide))
    e.1.toNat + e.2.toNat * 2 ^ 16
  else if o < 0x208 then bitNat x.frozen + x.escal.toNat * 2 ^ 8
  else if o < 0x210 then x.tlbinv.toNat
  else if o < 0x218 then x.fatset.toNat
  else if o < 0x220 then x.macfail.toNat
  else if o < 0x240 then bitNat (x.tqctl[(o - 0x220) / 8 % 4]'(Nat.mod_lt _ (by decide)))
  else if o < 0x280 then
    (if o % 8 = 0 then (s.clusters[cl.val]).srhead.toNat else (s.clusters[cl.val]).srtail.toNat)
  else if 0x1000 ≤ o ∧ o < 0x1180 then leNat ((x.monitorBytes.drop (o - 0x1000)).take 8)
  else if 0x10000 ≤ o ∧ o < 0x12000 then
    let l := x.wrep[(o - 0x10000) / 0x80 % 64]'(Nat.mod_lt _ (by decide))
    let i := (o - 0x10000) % 0x80 / 8 * 4
    (wrepEntry l i).bits + (wrepEntry l (i + 1)).bits * 2 ^ 16 + (wrepEntry l (i + 2)).bits * 2 ^ 32 +
      (wrepEntry l (i + 3)).bits * 2 ^ 48
  else if 0x20000 ≤ o ∧ o < 0x21000 ∧ o % 0x20 < 0x18 then
    ((s.core (Fin.ofNat 512 (d.val * 128 + (o - 0x20000) / 0x20))).rxwin[o % 0x20 / 8 % 3]'(Nat.mod_lt _ (by decide))).toNat
  else if 0x100000 ≤ o ∧ o < 0x300000 then
    s.sysRead (Fin.ofNat 512 (d.val * 128 + (o - 0x100000) / 0x4000)) (o % 0x4000 / 8)
  else 0

/-- The value of a register of the package block at an offset. -/
def State.packageRead (s : State) (o : Nat) : Nat :=
  if o < 8 then s.modid.toNat
  else if o < 0x10 then s.frtab.toNat
  else if 0x1000 ≤ o ∧ o < 0x1400 then
    let p := s.ports[(o - 0x1000) / 0x40 % 16]'(Nat.mod_lt _ (by decide))
    match o % 0x40 / 8 with
    | 0 => p.limit.toNat
    | 1 => p.warn.toNat
    | 2 => p.fstat
    | 3 => p.flbad.toNat
    | _ => 0
  else 0

/-- A read of `n` bytes of MMIO at a physical address: none when the register does not accept the size (R112, R408). -/
def State.mmioRead (s : State) (pa n : Nat) : Option Nat :=
  let off := pa - mmioBase
  if off < 0x10000000 then
    let o := off % 0x4000000
    if (dieRegSize o).accepts n then
      some (if dieRegSize o = .any then 0 else s.dieRead (Fin.ofNat 4 (off / 0x4000000)) o) else none
  else
    let o := off - 0x10000000
    if (packageRegSize o).accepts n then some (if packageRegSize o = .any then 0 else s.packageRead o) else none

/-- A write of a system register by a system core: MILEMAX and WAKETEST alone (R407). -/
def State.sysWrite (s : State) (c : CoreId) (n : Nat) (v : Word64) : State :=
  if n = 0x002 then s.milemaxWrite c v
  else if n = 0x0C0 then s.setCore c fun k => { k with waketest := waketestStore k.waketest v }
  else s

/-- A write of a word of RXWIN (R385). -/
def rxwinStore (i : Nat) (v : Word64) : Word64 :=
  match i with
  | 0 => v
  | 1 => v &&& 0x1FFFFFFFFFF
  | _ => v &&& 0x800000FFFFFFFFFF

/-- Four entries of WREPc from a doubleword (R335). -/
def wrepStore (l : List WrepEntry) (i : Nat) (v : Nat) : List WrepEntry :=
  (List.range 64).map fun e =>
    if i ≤ e ∧ e < i + 4 then
      let w := v / 2 ^ (16 * (e - i))
      { valid := bitAt w 15, via := BitVec.ofNat 13 w }
    else wrepEntry l e

/-- A write of a device register of a die. -/
def State.dieWrite (s : State) (d : DieId) (o : Nat) (v : Word64) (machine : Bool) : State :=
  if 0x208 ≤ o ∧ o < 0x210 then s.tlbinvWrite d v
  else if 0x210 ≤ o ∧ o < 0x218 then s.fatsetWrite d v
  else if 0x220 ≤ o ∧ o < 0x240 then
    (if v.getLsbD 0 then s.setDie d fun x => { x with tqctl := x.tqctl.set ((o - 0x220) / 8 % 4) false (Nat.mod_lt _ (by decide)) } else s)
  else if 0x240 ≤ o ∧ o < 0x280 then
    (if o % 8 = 4 then s.srtailWrite (Fin.ofNat 32 (8 * d.val + (o - 0x240) / 8)) (v.setWidth 32) else s)
  else if 0x10000 ≤ o ∧ o < 0x12000 then
    (if machine then s.setDie d fun x =>
      let col := (o - 0x10000) / 0x80 % 64
      have hc : col < 64 := Nat.mod_lt _ (by decide)
      let l := wrepStore (x.wrep[col]) ((o - 0x10000) % 0x80 / 8 * 4) v.toNat
      { x with wrep := x.wrep.set col l }
    else s)
  else if 0x20000 ≤ o ∧ o < 0x21000 ∧ o % 0x20 < 0x18 then
    s.setCore (Fin.ofNat 512 (d.val * 128 + (o - 0x20000) / 0x20)) fun k =>
      { k with rxwin := k.rxwin.set (o % 0x20 / 8 % 3) (rxwinStore (o % 0x20 / 8) v) (Nat.mod_lt _ (by decide)) }
  else if 0x100000 ≤ o ∧ o < 0x300000 then
    s.sysWrite (Fin.ofNat 512 (d.val * 128 + (o - 0x100000) / 0x4000)) (o % 0x4000 / 8) v
  else s

/-- A write of a register of the package block (R387): machine mode writes MODID, LIMIT, WARN and FSTAT.up; the kernel
FRTAB and the W1C bits. -/
def State.packageWrite (s : State) (o : Nat) (v : Word64) (machine : Bool) : State :=
  if o < 8 then (if machine then { s with modid := v &&& 0xFFFFF } else s)
  else if o < 0x10 then { s with frtab := v }
  else if 0x1000 ≤ o ∧ o < 0x1400 then
    s.setPort (Fin.ofNat 16 ((o - 0x1000) / 0x40)) fun p =>
      match o % 0x40 / 8 with
      | 0 => if machine then { p with limit := limitStore v } else p
      | 1 => if machine then { p with warn := v.setWidth 49 } else p
      | 2 => { p with up := if machine then v.getLsbD 0 else p.up, down := p.down && !v.getLsbD 1 }
      | 3 => { p with flbad := p.flbad &&& ~~~(v.setWidth 32) }
      | _ => p
  else s

/-- A write of `n` bytes of MMIO: none when the register does not accept the size. -/
def State.mmioWrite (s : State) (pa n : Nat) (v : Word64) (machine : Bool) : Option State :=
  let off := pa - mmioBase
  if off < 0x10000000 then
    let o := off % 0x4000000
    if (dieRegSize o).accepts n then
      some (if dieRegSize o = .any then s else s.dieWrite (Fin.ofNat 4 (off / 0x4000000)) o v machine) else none
  else
    let o := off - 0x10000000
    if (packageRegSize o).accepts n then
      some (if packageRegSize o = .any then s else s.packageWrite o v machine) else none

end Machine

end Sys2Proof
end

