-- ==== Sys2Proof/Machine/Access.lean ====
section
/-!
DEFINITION. Machine/Access.lean: the accesses of the C and V strands: granule stamps and alias classes (R305 to R307,
R258), the commit buffer and non-temporal stores (R301, R114), poison (R113, R282), write ranges (R112), and the order
of R111's checks.
-/

namespace Sys2Proof

namespace Machine

/-! ### Stamps (R306, R307) -/

/-- How an access touches a granule. -/
inductive Touch where
  | read | write | atomic
  deriving DecidableEq, Repr

/-- The slot that means none (R306). -/
def noSlot : BitVec 12 := 0xFFF

/-- An empty stamp of a generation. -/
def Stamp.empty (job : Nat) (gen : BitVec 4) : Stamp :=
  { job := job, cmd := false, writer := noSlot, reader := noSlot, shared := false, written := false, aclass := 0,
    gen := gen }

/-- The stamp after an access by slot `s` (R307), or none for a conflict or an alias violation. An engine command has
no alias class. R117's words are wider than R307's steps, which the model follows: after a task's own store and own atomic,
another's atomic and then the first's ordinary access pass (log 80). -/
def Stamp.touch (st : Stamp) (s : BitVec 12) (cls : Option (BitVec 2)) (how : Touch) : Option Stamp :=
  match how with
  | .atomic =>
    if (st.written && !st.shared && decide (st.writer ≠ s)) || (decide (st.reader ≠ noSlot) && decide (st.reader ≠ s))
    then none else some { st with written := true, shared := true }
  | _ =>
    if st.written && st.shared then
      (if st.writer ≠ s ∧ st.reader ≠ s then none else some st)
    else if st.written && decide (st.writer ≠ s) then none
    else if st.written && !st.cmd && cls.any (fun a => decide (a ≠ st.aclass)) then none
    else if how = .write then
      (if st.shared || (decide (st.reader ≠ noSlot) && decide (st.reader ≠ s)) then none
       else
        match cls with
        | some a => some { st with writer := s, written := true, cmd := false, aclass := a }
        | none => some { st with writer := s, written := true, cmd := true })
    else if st.reader = noSlot then some { st with reader := s }
    else if st.reader ≠ s then some { st with shared := true }
    else some st

/-- The stamp of a granule as a task of a job and a generation finds it (R307's first line). -/
def State.stampOf (s : State) (g job : Nat) (gen : BitVec 4) : Stamp :=
  match lookupKey g s.stamps with
  | some st => if st.job = job ∧ st.gen = gen then st else Stamp.empty job gen
  | none => Stamp.empty job gen

/-- One granule touched by a task. -/
def State.touchGranule (s : State) (t : Task) (g : Nat) (how : Touch) (cls : Option (BitVec 2)) : Option State :=
  ((s.stampOf g t.rs.rc.job t.gen).touch t.slot cls how).map fun st => { s with stamps := insertKey g st s.stamps }

/-- Granules touched in turn; none at the first conflict. -/
def State.touchAll (t : Task) (how : Touch) (cls : Option (BitVec 2)) : List Nat → State → Option State
  | [], s => some s
  | g :: gs, s =>
    match s.touchGranule t g how cls with
    | none => none
    | some s' => State.touchAll t how cls gs s'

/-- The granules of a range. -/
def granules (pa n : Nat) : List Nat := (blocksOf 64 pa n).map fun a => a / 64

/-- A range of SRAM touched by a task. -/
def State.touchRange (s : State) (t : Task) (pa n : Nat) (how : Touch) (cls : Option (BitVec 2)) : Option State :=
  State.touchAll t how cls (granules pa n) s

/-- The stamps of a range emptied: an arriving put, the junction's staging (R307). -/
def State.emptyStamps (s : State) (pa n : Nat) : State :=
  { s with stamps := outside (pa / 64) ((pa + n + 63) / 64) s.stamps }

/-- The stamps that arriving bytes empty: their own, and the sidebands of the tiles they make STALE (R258, R307). -/
def State.arriveStamps (s : State) (pa n : Nat) : State :=
  (tilesIn s.tiles pa n).foldl (fun s e => s.emptyStamps (e.1 + tileSize e.2.fmt) 512) (s.emptyStamps pa n)

/-! ### What a COMMIT task and a non-temporal store hold back -/

/-- Bytes put over an ascending listing, later ones winning. -/
def bufferedBytes (l : List Buffered) : List Host.Cell :=
  l.foldl (fun acc e => match e with | .byte pa b => insertKey pa b acc | _ => acc) []

/-- The runs of adjacent addresses of an ascending listing. -/
def runsOf : List Host.Cell → List (Nat × List Byte)
  | [] => []
  | (a, b) :: rest =>
    match runsOf rest with
    | (x, bs) :: more => if x = a + 1 then (a, b :: bs) :: more else (a, [b]) :: (x, bs) :: more
    | [] => [(a, [b])]

/-- The effect of a buffered entry on poison and tiles: a word that one write covered whole loses its mark (R282). -/
def State.applyMark (s : State) : Buffered → State
  | .whole w => s.clearWords [w]
  | .poison w => s.addPoison [w]
  | .stale o => { s with tiles := markTile s.tiles o true }
  | .tile o fmt st => { s with tiles := newTile s.tiles o { fmt := fmt, stale := st, poison := false } }
  | .byte .. => s
  | .device .. => s

/-- The memory of a commit buffer made visible as one step (R301). -/
def State.applyCommit (s : State) (l : List Buffered) : State :=
  l.foldl State.applyMark ((runsOf (bufferedBytes l)).foldl (fun s r => s.writeRaw r.1 r.2) s)

/-- The device registers that a commit buffer writes. -/
def State.applyDevice (s : State) : Buffered → State
  | .device pa n v => (s.mmioWrite pa n v false).getD s
  | _ => s

/-- A whole commit buffer made visible (R301). -/
def State.publish (s : State) (l : List Buffered) : State := l.foldl State.applyDevice (s.applyCommit l)

/-- A device register's bytes as a COMMIT task sees them: its own writes over what the register reads. -/
def deviceView (l : List Buffered) (pa : Nat) (bs : List Byte) : List Byte :=
  l.foldl (fun bs e => match e with
    | .device q n v => bs.zipIdx.map fun b =>
        if q ≤ pa + b.2 ∧ pa + b.2 < q + n then BitVec.ofNat 8 (v.toNat / 2 ^ (8 * (pa + b.2 - q))) else b.1
    | _ => bs) bs

/-- A byte with one nibble taken from another. -/
def withNibble (upper : Bool) (new old : Nat) : Nat :=
  if upper then old % 16 + new / 16 % 16 * 16 else new % 16 + old / 16 % 16 * 16

/-- The bytes that a non-temporal store leaves: the nibble that it does not write stays as it is then (R145). -/
def NtStore.leaves (s : State) (x : NtStore) : List Byte :=
  match x.half with
  | none => x.bytes
  | some upper => bytesOf 1 (withNibble upper (leNat x.bytes) (s.readNat x.pa 1))

/-- A non-temporal store made visible (R114). -/
def State.applyNt (s : State) (x : NtStore) : State := (s.writeRaw x.pa (x.leaves s)).clearWords x.clears

/-- Memory as a task sees it: its own non-temporal stores and its commit buffer over what is visible (R38, R301). -/
def State.viewOf (s : State) (t : Task) : State :=
  let s := t.nt.foldl State.applyNt s
  if t.commit.isEmpty then s else s.applyCommit t.commit

/-- Whether an NT store meets a range. -/
def NtStore.meets (x : NtStore) (pa n : Nat) : Bool := decide (x.pa < pa + n) && decide (pa < x.pa + x.bytes.length)

/-- The task's NT stores up to the last that meets a range become visible before an ordinary write there (R38). -/
def State.flushNt (s : State) (t : Task) (pa n : Nat) : State × Task :=
  if t.nt.any fun x => x.meets pa n then (t.nt.foldl State.applyNt s, { t with nt := [] }) else (s, t)

/-! ### Order against commands (R180, R181) -/

/-- Whether a pending command's footprint orders an access of a range after it. -/
def Task.blocked (t : Task) (pa n : Nat) (write : Bool) : Bool :=
  t.cmds.any fun c => c.foot.any fun f => decide (f.lo < pa + n) && decide (pa < f.hi) && (write || f.write)

/-- Whether a pending command orders an access after it, with the sideband that a write of a tile's bytes also writes when
it marks the tile STALE (R180, R258). -/
def State.blocked (s : State) (t : Task) (pa n : Nat) (write : Bool) : Bool :=
  t.blocked pa n write ||
  (write && (tilesIn (s.viewOf t).tiles pa n).any fun e => t.blocked (e.1 + tileSize e.2.fmt) 512 true)

/-! ### The checks of R111 -/

/-- Whether a D-space range lies inside the task's write ranges rounded out to 4 KiB blocks (R112). -/
def Task.inWriteRange (t : Task) (va n : Nat) : Bool :=
  (blocksOf 4096 va n).all fun b => t.rs.wr.any fun r => decide (r.base / 4096 * 4096 ≤ b) && decide (b < r.base + r.len)

/-- A C or V access as its instruction asks for it: address, size, alias class, non-temporal. -/
structure Acc where
  va  : Nat
  n   : Nat
  cls : BitVec 2
  nt  : Bool
  deriving DecidableEq, Repr

/-- Whether a write meets a tile of SRAM: the sideband granules it then writes (R258). -/
def State.sideGranules (s : State) (pa n : Nat) : List Nat :=
  (tilesIn s.tiles pa n).flatMap fun e => granules (e.1 + tileSize e.2.fmt) 512

/-- The sideband granules of the tiles whose sideband a range meets: reading a word of a sideband reads all eight
(R258). -/
def State.sideReads (s : State) (pa n : Nat) : List Nat :=
  ((tilesIn s.tiles pa n).filter fun e => decide (e.1 + tileSize e.2.fmt < pa + n)).flatMap fun e =>
    granules (e.1 + tileSize e.2.fmt) 512

/-- The stamps after an access of SRAM: its own granules, and the sidebands of tiles a write marks STALE or a read meets
(R258). A tile-row store touches its sideband itself. -/
def State.touchAccess (s : State) (t : Task) (pa n : Nat) (write tileRow : Bool) (cls : Option (BitVec 2)) :
    Option State :=
  let v := s.viewOf t
  (s.touchRange t pa n (if write then .write else .read) cls).bind fun s1 =>
    if tileRow then some s1
    else if write then State.touchAll t .write cls (v.sideGranules pa n) s1
    else State.touchAll t .read cls (v.sideReads pa n) s1

/-- The stamps after an atomic of SRAM: as a write all eight sideband granules of the tiles it marks STALE, then its own
granules as an atomic's, so that a sideband granule it falls in names the task as its writer too (R117, R258). The manual gives
an atomic no alias class: the model stamps that write with none, as an engine command's (log 80). -/
def State.touchAtomic (s : State) (t : Task) (pa n : Nat) : Option State :=
  (State.touchAll t .write none (s.sideGranules pa n) s).bind fun s1 => s1.touchRange t pa n .atomic none

/-- The checks of a load (R111), in order: translation, permission, attribute (R342, R353); the aperture (R331); the size
of a register (R112); commands before it (R181); stamps (R307). -/
def State.probeLoad (s : State) (c : CoreId) (t : Task) (a : Acc) : Res Xlate := do
  let x ← s.translate c t.rs.rc.job a.va .read
  if x.typ = .wap ∧ (s.dies[(wDie x.pa).val]).wready = false then raiseReplay 13 a.va
  else if x.typ = .mmio ∧ (s.mmioRead x.pa a.n).isNone then raise 9 0 a.va
  else if x.typ ≠ .wap ∧ t.blocked x.pa a.n false then .error .wait
  else if x.typ = .sram ∧ (s.touchAccess t x.pa a.n false false (some a.cls)).isNone then raise 12 0 a.va
  else .ok x

/-- The checks of a store (R111, R114): as those of a load, with the W-store fault, the non-temporal checks and the
write range. That PRIV and NT come before a register's size is the model's choice (log 79). -/
def State.probeStore (s : State) (c : CoreId) (t : Task) (a : Acc) (tileRow : Bool) : Res Xlate := do
  let x ← s.translate c t.rs.rc.job a.va .write
  if x.typ = .wap then raise 10 0 a.va
  else if a.nt ∧ t.rs.rc.nt = false then raise 2 0 a.va
  else if a.nt ∧ (x.typ ≠ .lpddr ∨ t.rs.rc.commit = true) then raise 2 1 a.va
  else if x.typ = .mmio ∧ (s.mmioWrite x.pa a.n 0 false).isNone then raise 9 0 a.va
  else if s.blocked t x.pa a.n true then .error .wait
  else if x.typ = .sram ∧ (s.touchAccess t x.pa a.n true tileRow (some a.cls)).isNone then raise 12 0 a.va
  else if (x.typ = .lpddr ∨ x.typ = .host) ∧ !t.inWriteRange a.va a.n then raise 12 0 a.va
  else .ok x

/-! ### The accesses -/

/-- The stamps after an access that has passed its probe. -/
def State.touched (s : State) (t : Task) (x : Xlate) (n : Nat) (write tileRow : Bool) (cls : BitVec 2) : State :=
  if x.typ = .sram then (s.touchAccess t x.pa n write tileRow (some cls)).getD s else s

/-- The bytes a load reads after its probe, with every earlier store of its strand in them, of another alias class too
(log 60). Poisoned data is consumed: nothing is returned (R113). -/
def State.doLoad (s : State) (t : Task) (x : Xlate) (a : Acc) : Res (State × List Byte) :=
  match x.typ with
  | .mmio => .ok (s, deviceView t.commit x.pa (bytesOf a.n ((s.mmioRead x.pa a.n).getD 0)))
  | .wap =>
    match s.poisonedRow x.pa a.n with
    | some r => contain 1 (a.va + (max r x.pa - x.pa)) []
    | none => .ok (s, s.readW x.pa a.n)
  | _ =>
    match ((s.viewOf t).checkMacs x.pa a.n).poisonedAt x.pa a.n with
    | some w => contain 1 (a.va + w - x.pa) [(x.pa, a.n)]
    | none => .ok (s.touched t x a.n false false a.cls, (s.viewOf t).readPa x.pa a.n)

/-- Whether a physical address lies in the scratchpad of a core. -/
def ownSpad (c : CoreId) (pa : Nat) : Bool :=
  match homeOf pa with
  | .spad k _ => decide (k = c)
  | _ => false

/-- How many granules a commit buffer holds. -/
def commitGranules (l : List Buffered) : Nat :=
  (l.foldl (fun acc e => match e with
    | .byte pa _ => insertNat (pa / 64) acc
    | .device pa _ _ => insertNat (pa / 64) acc
    | _ => acc) []).length

/-- Buffered entries added, or the abort of a full buffer (R301). -/
def Task.buffer (t : Task) (es : List Buffered) : Res Task :=
  let l := t.commit ++ es
  if 768 < commitGranules l then .error (.trap ⟨2, 22, 0, 0, 0⟩) else .ok { t with commit := l }

/-- The entries of a write of bytes. -/
def bufferBytes (pa : Nat) (bs : List Byte) : List Buffered :=
  (bs.zipIdx.map fun e => .byte (pa + e.2) e.1) ++ (coveredWords pa bs.length).map .whole

/-- Bytes that a task's strand or command writes to physical memory of one kind, with tiles STALE where asked (R259):
into the commit buffer when the task is COMMIT and the bytes leave its own scratchpad (R301). -/
def State.taskWrite (s : State) (c : CoreId) (t : Task) (pa : Nat) (bs : List Byte) (stale : Bool) :
    Res (State × Task) :=
  let hit := if stale then tilesIn (s.viewOf t).tiles pa bs.length else []
  if t.rs.rc.commit && !ownSpad c pa then
    match t.buffer (bufferBytes pa bs ++ hit.map fun e => .stale e.1) with
    | .ok t' => .ok (s, t')
    | .error e => .error e
  else
    let (s, t) := s.flushNt t pa bs.length
    let s := s.writePa pa bs
    .ok (if stale then s.staleTiles pa bs.length else s, t)

/-- The bytes of a store after its probe. Under COMMIT a device register is written at EXIT (R301). -/
def State.doStore (s : State) (c : CoreId) (t : Task) (x : Xlate) (a : Acc) (bs : List Byte) (tileRow : Bool) :
    Res (State × Task) :=
  match x.typ with
  | .mmio =>
    match s.mmioWrite x.pa a.n (BitVec.ofNat 64 (leNat bs)) false with
    | some s' =>
      if t.rs.rc.commit then do
        let t' ← t.buffer [.device x.pa a.n (BitVec.ofNat 64 (leNat bs))]
        .ok (s, t')
      else .ok (s', t)
    | none => raise 9 0 a.va
  | _ =>
    if a.nt then .ok (s, { t with nt := t.nt ++ [⟨t.rs.rc.job, t.slot, x.pa, bs, [], none⟩] })
    else (s.touched t x a.n true tileRow a.cls).taskWrite c t x.pa bs (decide (x.typ = .sram) && !tileRow)

/-- A scalar load (R101, R111). -/
def State.load (s : State) (c : CoreId) (t : Task) (a : Acc) : Res (State × List Byte) := do
  if a.va % a.n ≠ 0 then raise 7 0 a.va
  else
    let x ← s.probeLoad c t a
    s.doLoad t x a

/-- A scalar store (R101, R111). -/
def State.store (s : State) (c : CoreId) (t : Task) (a : Acc) (bs : List Byte) : Res (State × Task) := do
  if a.va % a.n ≠ 0 then raise 7 0 a.va
  else
    let x ← s.probeStore c t a false
    s.doStore c t x a bs false

end Machine

end Sys2Proof
end

