-- ==== Sys2Proof/Machine/Flags.lean ====
section
/-!
DEFINITION. Machine/Flags.lean: the conditions that write predicates and masks (R107, R157), and the arithmetic trap that
a milestone takes on sticky flags (R41, R42).
-/

namespace Sys2Proof

namespace Machine

/-- The condition of CMP and CMPI on 64 bits (R107). -/
def condHolds (c : Cond) (a b : Word64) : Bool :=
  match c with
  | .eq => decide (a = b)
  | .ne => decide (a ≠ b)
  | .lt => a.slt b
  | .ge => !a.slt b
  | .ltu => a.ult b
  | .geu => !a.ult b
  | .tst => decide (a &&& b ≠ 0)

/-- CMP's write: the condition to pd, and its complement to pe when pe is not p0 (R107, R19). -/
def Task.setPair (t : Task) (pd pe : PReg) (v : Bool) : Task := (t.setP pd v).setP pe (!v)

/-- The condition of VCMP on integers (R157): UN never holds. -/
def intCond (c : VCond) (a b : Int) : Bool :=
  match c with
  | .eq => decide (a = b)
  | .ne => decide (a ≠ b)
  | .lt => decide (a < b)
  | .le => decide (a ≤ b)
  | .gt => decide (b < a)
  | .ge => decide (b ≤ a)
  | .un => false

/-- The condition of VCMP on floating values (R157): ordered conditions are false on a NaN, NE and UN true. -/
def floatCond (c : VCond) (a b : Fp) : Bool :=
  let un := a.isNan || b.isNan
  match c with
  | .eq => fpEq a b
  | .ne => un || !fpEq a b
  | .lt => fpLt a b
  | .le => !un && !fpLt b a
  | .gt => fpLt b a
  | .ge => !un && !fpLt a b
  | .un => un

/-- Whether a milestone takes the arithmetic trap (R42). -/
def Task.arithTrap (t : Task) : Bool := decide (t.sys.acflags &&& t.sys.acen ≠ 0)

end Machine

end Sys2Proof
end

