-- ==== Sys2Proof/Machine/Alu.lean ====
section
/-!
DEFINITION. Machine/Alu.lean: what the instructions that only compute on x, p and k registers do to a task: the operations
of R102 to R108, R126, R133 and R170 on values, and each such instruction as a register operation, with what it reads and
writes.
-/

namespace Sys2Proof

namespace Machine

/-! ### The operations of R102, on 64 bits and on 32 -/

/-- An operation of two widths: 64 bits, or 32 bits with the result sign-extended (R102). -/
def aluOp (w : Bool) (f64 : Word64 → Word64 → Word64) (f32 : Word32 → Word32 → Word32) (a b : Word64) : Word64 :=
  if w then (f32 (a.setWidth 32) (b.setWidth 32)).signExtend 64 else f64 a b

/-- The high half of the signed product. -/
def mulhOf {n : Nat} (a b : BitVec n) : BitVec n := BitVec.ofInt n ((a.toInt * b.toInt) / (2 ^ n : Nat))
/-- The high half of the unsigned product. -/
def mulhuOf {n : Nat} (a b : BitVec n) : BitVec n := BitVec.ofNat n (a.toNat * b.toNat / 2 ^ n)
/-- Signed quotient toward zero: −1 by zero (R103). -/
def divOf {n : Nat} (a b : BitVec n) : BitVec n := if b = 0 then BitVec.allOnes n else BitVec.ofInt n (a.toInt.tdiv b.toInt)
/-- Unsigned quotient: all ones by zero (R103). -/
def divuOf {n : Nat} (a b : BitVec n) : BitVec n := if b = 0 then BitVec.allOnes n else a / b
/-- Signed remainder with the sign of a: a by zero (R103). -/
def remOf {n : Nat} (a b : BitVec n) : BitVec n := if b = 0 then a else BitVec.ofInt n (a.toInt.tmod b.toInt)
/-- Unsigned remainder: a by zero (R103). -/
def remuOf {n : Nat} (a b : BitVec n) : BitVec n := if b = 0 then a else a % b
/-- Signed minimum. -/
def minOf {n : Nat} (a b : BitVec n) : BitVec n := if b.slt a then b else a
/-- Signed maximum. -/
def maxOf {n : Nat} (a b : BitVec n) : BitVec n := if a.slt b then b else a
/-- Unsigned minimum. -/
def minuOf {n : Nat} (a b : BitVec n) : BitVec n := if b.ult a then b else a
/-- Unsigned maximum. -/
def maxuOf {n : Nat} (a b : BitVec n) : BitVec n := if a.ult b then b else a
/-- Number of one bits. -/
def popcOf {n : Nat} (a : BitVec n) : Nat := (List.range n).foldl (fun k i => k + bitNat (a.getLsbD i)) 0
/-- Leading zeros, n for zero. -/
def clzOf {n : Nat} (a : BitVec n) : Nat := ((List.range n).find? fun i => a.getLsbD (n - 1 - i)).getD n
/-- Trailing zeros, n for zero. -/
def ctzOf {n : Nat} (a : BitVec n) : Nat := ((List.range n).find? fun i => a.getLsbD i).getD n

/-- A shift to the left by b modulo the width. -/
def shlOf {n : Nat} (a b : BitVec n) : BitVec n := a <<< (b.toNat % n)
/-- A logical shift to the right by b modulo the width. -/
def shrOf {n : Nat} (a b : BitVec n) : BitVec n := a >>> (b.toNat % n)
/-- An arithmetic shift to the right by b modulo the width. -/
def sraOf {n : Nat} (a b : BitVec n) : BitVec n := a.sshiftRight (b.toNat % n)
/-- A rotation to the left by b modulo the width. -/
def rolOf {n : Nat} (a b : BitVec n) : BitVec n := a.rotateLeft (b.toNat % n)
/-- The leading zeros as the result of a unary form. -/
def clzVal {n : Nat} (a _b : BitVec n) : BitVec n := BitVec.ofNat n (clzOf a)
/-- The trailing zeros as the result of a unary form. -/
def ctzVal {n : Nat} (a _b : BitVec n) : BitVec n := BitVec.ofNat n (ctzOf a)
/-- The one bits as the result of a unary form. -/
def popcVal {n : Nat} (a _b : BitVec n) : BitVec n := BitVec.ofNat n (popcOf a)
/-- The second operand alone (MOVI). -/
def immOf (_a i : Word64) : Word64 := i

/-! ### Fields, addresses, lanes (R105, R106, R132, R133) -/

/-- The low n bits of a value, sign-extended. -/
def signLow (n : Nat) (a : Word64) : Word64 := BitVec.ofInt 64 (toSigned n (a.toNat % 2 ^ n))
/-- The low n bits of a value. -/
def zeroLow (n : Nat) (a : Word64) : Word64 := BitVec.ofNat 64 (a.toNat % 2 ^ n)
/-- `wid` bits of a value at `pos`. -/
def fieldOf (pos wid : Nat) (a : Word64) : Word64 := zeroLow wid (a >>> pos)
/-- A value with `wid` bits at `pos` replaced by the low bits of another. -/
def insertField (pos wid : Nat) (v a : Word64) : Word64 :=
  let mask : Word64 := BitVec.ofNat 64 ((2 ^ wid - 1) * 2 ^ pos)
  (v &&& ~~~mask) ||| ((a <<< pos) &&& mask)

/-- a + b << sh (R106). -/
def scaledSum (sh : BitVec 3) (a b : Word64) : Word64 := a + (b <<< sh.toNat)

/-- imm5 of CMPI: unsigned for LTU and GEU, else signed (R83). -/
def cmpImm (c : Cond) (imm : BitVec 5) : Word64 :=
  match c with
  | .ltu | .geu => imm.setWidth 64
  | _ => imm.signExtend 64

/-- A mask with one 64-bit word replaced. -/
def setMaskWord (m : MaskBits) (i : Nat) (v : Word64) : MaskBits :=
  let hole : MaskBits := (BitVec.allOnes 64).setWidth 1024 <<< (64 * i)
  (m &&& ~~~hole) ||| (v.setWidth 1024 <<< (64 * i))

/-- A 64-bit word of a mask. -/
def maskWord (m : MaskBits) (i : Nat) : Word64 := (m >>> (64 * i)).setWidth 64

/-- Bits of a lane of VGET (R132). -/
def laneSizeBits (z : LaneSize) : Nat :=
  match z with
  | .b => 8
  | .h => 16
  | .w => 32
  | .d => 64

/-- A lane of an entry, sign-extended (R132). -/
def signedLane (sz : LaneSize) (e : Entry) (i : Nat) : Word64 :=
  BitVec.ofInt 64 (toSigned (laneSizeBits sz) (bitsAt e.data.toNat (laneSizeBits sz * i) (laneSizeBits sz)))

/-- The mask register a field names (R87). -/
def maskReg (r : VReg) : KReg := Fin.ofNat 8 r.val

/-! ### Register operations -/

/-- What an instruction that only computes on registers does: the registers it reads, those it writes, its effect. -/
structure RegOp where
  rx  : List XReg
  rp  : List PReg
  rk  : List KReg
  wx  : List XReg
  wp  : List PReg
  wk  : List KReg
  run : Task → Task

/-- x[rd] from two x registers. -/
def binReg (rd ra rb : XReg) (f : Word64 → Word64 → Word64) : RegOp :=
  { rx := [ra, rb], rp := [], rk := [], wx := [rd], wp := [], wk := [], run := fun t => t.setX rd (f (t.getX ra) (t.getX rb)) }
/-- x[rd] from two x registers, on 64 bits or on 32 (R102). -/
def aluReg (w : Bool) (rd ra rb : XReg) (f64 : Word64 → Word64 → Word64) (f32 : Word32 → Word32 → Word32) : RegOp :=
  binReg rd ra rb (aluOp w f64 f32)
/-- x[rd] from one x register. -/
def unReg (rd ra : XReg) (f : Word64 → Word64) : RegOp :=
  { rx := [ra], rp := [], rk := [], wx := [rd], wp := [], wk := [], run := fun t => t.setX rd (f (t.getX ra)) }
/-- x[rd] from an x register and an immediate (R104). -/
def immReg (rd ra : XReg) (i : Word64) (f : Word64 → Word64 → Word64) : RegOp := unReg rd ra fun a => f a i
/-- A compare of two x registers (R107). -/
def cmpReg (c : Cond) (pd pe : PReg) (ra rb : XReg) : RegOp :=
  { rx := [ra, rb], rp := [], rk := [], wx := [], wp := [pd, pe], wk := [],
    run := fun t => t.setPair pd pe (condHolds c (t.getX ra) (t.getX rb)) }
/-- A compare with an immediate (R107). -/
def cmpiReg (c : Cond) (pd pe : PReg) (ra : XReg) (i : Word64) : RegOp :=
  { rx := [ra], rp := [], rk := [], wx := [], wp := [pd, pe], wk := [],
    run := fun t => t.setPair pd pe (condHolds c (t.getX ra) i) }
/-- A predicate operation (R108). -/
def plogReg (pd pa pb : PReg) (f : Bool → Bool → Bool) : RegOp :=
  { rx := [], rp := [pa, pb], rk := [], wx := [], wp := [pd], wk := [], run := fun t => t.setP pd (f (t.getP pa) (t.getP pb)) }
/-- x[rd] from a mask (R133). -/
def maskCount (rd : XReg) (ka : KReg) (f : MaskBits → Nat) : RegOp :=
  { rx := [], rp := [], rk := [ka], wx := [rd], wp := [], wk := [], run := fun t => t.setX rd (BitVec.ofNat 64 (f (t.getK ka))) }
/-- A mask-logic instruction (R170). -/
def maskReg3 (f : VF) (op : MaskBits → MaskBits → MaskBits) : RegOp :=
  { rx := [], rp := [], rk := [maskReg f.va, maskReg f.vb], wx := [], wp := [], wk := [maskReg f.vd],
    run := fun t => t.setK (maskReg f.vd) (op (t.getK (maskReg f.va)) (t.getK (maskReg f.vb))) }
/-- x[rd] from the record (R126). -/
def tidReg (rd : XReg) : RegOp :=
  { rx := [], rp := [], rk := [], wx := [rd], wp := [], wk := [],
    run := fun t => t.setX rd (BitVec.ofNat 64 (t.rs.rc.index.toNat + t.rs.rc.launch % 2 ^ 24 * 2 ^ 32)) }

/-- The register operation of an instruction that only computes on registers; none for any other. -/
def regOp (i : Instr) : Option RegOp :=
  match i with
  | .add _ w rd ra rb => some (aluReg w rd ra rb (· + ·) (· + ·))
  | .sub _ w rd ra rb => some (aluReg w rd ra rb (· - ·) (· - ·))
  | .and _ w rd ra rb => some (aluReg w rd ra rb (· &&& ·) (· &&& ·))
  | .or _ w rd ra rb => some (aluReg w rd ra rb (· ||| ·) (· ||| ·))
  | .xor _ w rd ra rb => some (aluReg w rd ra rb (· ^^^ ·) (· ^^^ ·))
  | .shl _ w rd ra rb => some (aluReg w rd ra rb shlOf shlOf)
  | .shr _ w rd ra rb => some (aluReg w rd ra rb shrOf shrOf)
  | .sra _ w rd ra rb => some (aluReg w rd ra rb sraOf sraOf)
  | .mul _ w rd ra rb => some (aluReg w rd ra rb (· * ·) (· * ·))
  | .mulh _ w rd ra rb => some (aluReg w rd ra rb mulhOf mulhOf)
  | .mulhu _ w rd ra rb => some (aluReg w rd ra rb mulhuOf mulhuOf)
  | .div _ w rd ra rb => some (aluReg w rd ra rb divOf divOf)
  | .divu _ w rd ra rb => some (aluReg w rd ra rb divuOf divuOf)
  | .rem _ w rd ra rb => some (aluReg w rd ra rb remOf remOf)
  | .remu _ w rd ra rb => some (aluReg w rd ra rb remuOf remuOf)
  | .min _ w rd ra rb => some (aluReg w rd ra rb minOf minOf)
  | .max _ w rd ra rb => some (aluReg w rd ra rb maxOf maxOf)
  | .minu _ w rd ra rb => some (aluReg w rd ra rb minuOf minuOf)
  | .maxu _ w rd ra rb => some (aluReg w rd ra rb maxuOf maxuOf)
  | .rol _ w rd ra rb => some (aluReg w rd ra rb rolOf rolOf)
  | .clz _ w rd ra => some (aluReg w rd ra 0 clzVal clzVal)
  | .ctz _ w rd ra => some (aluReg w rd ra 0 ctzVal ctzVal)
  | .popc _ w rd ra => some (aluReg w rd ra 0 popcVal popcVal)
  | .addi _ rd ra imm => some (immReg rd ra (imm.signExtend 64) (· + ·))
  | .movi _ rd imm => some (immReg rd 0 (imm.signExtend 64) immOf)
  | .andi _ rd ra imm => some (immReg rd ra (imm.signExtend 64) (· &&& ·))
  | .ori _ rd ra imm => some (immReg rd ra (imm.signExtend 64) (· ||| ·))
  | .xori _ rd ra imm => some (immReg rd ra (imm.signExtend 64) (· ^^^ ·))
  | .shli _ rd ra imm => some (immReg rd ra (imm.signExtend 64) shlOf)
  | .shri _ rd ra imm => some (immReg rd ra (imm.signExtend 64) shrOf)
  | .srai _ rd ra imm => some (immReg rd ra (imm.signExtend 64) sraOf)
  | .addiLit _ rd ra lit => some (immReg rd ra (lit.signExtend 64) (· + ·))
  | .moviLit _ rd lit => some (immReg rd 0 (lit.signExtend 64) immOf)
  | .andiLit _ rd ra lit => some (immReg rd ra (lit.signExtend 64) (· &&& ·))
  | .oriLit _ rd ra lit => some (immReg rd ra (lit.signExtend 64) (· ||| ·))
  | .xoriLit _ rd ra lit => some (immReg rd ra (lit.signExtend 64) (· ^^^ ·))
  | .shliLit _ rd ra lit => some (immReg rd ra (lit.signExtend 64) shlOf)
  | .shriLit _ rd ra lit => some (immReg rd ra (lit.signExtend 64) shrOf)
  | .sraiLit _ rd ra lit => some (immReg rd ra (lit.signExtend 64) sraOf)
  | .sext _ rd ra n => some (unReg rd ra (signLow n.toNat))
  | .zext _ rd ra n => some (unReg rd ra (zeroLow n.toNat))
  | .bfx _ rd ra pos wid => some (unReg rd ra (fieldOf pos.toNat wid.toNat))
  | .bfi _ rd ra pos wid => some (binReg rd rd ra (insertField pos.toNat wid.toNat))
  | .lea _ sh rd ra rb => some (binReg rd ra rb (scaledSum sh))
  | .cmp _ c pd pe ra rb => some (cmpReg c pd pe ra rb)
  | .cmpi _ c pd pe ra imm => some (cmpiReg c pd pe ra (cmpImm c imm))
  | .cmpiLit _ c pd pe ra lit => some (cmpiReg c pd pe ra (lit.signExtend 64))
  | .pand _ pd pa pb => some (plogReg pd pa pb (· && ·))
  | .por _ pd pa pb => some (plogReg pd pa pb (· || ·))
  | .pxor _ pd pa pb => some (plogReg pd pa pb (· != ·))
  | .pandn _ pd pa pb => some (plogReg pd pa pb fun a b => a && !b)
  | .pnot _ pd pa => some (plogReg pd pa 0 fun a _ => !a)
  | .pmov _ pd pa => some (plogReg pd pa 0 fun a _ => a)
  | .pset _ pd => some (plogReg pd 0 0 fun _ _ => true)
  | .pclr _ pd => some (plogReg pd 0 0 fun _ _ => false)
  | .kpopc _ rd ka => some (maskCount rd ka popcOf)
  | .kfirst _ rd ka => some (maskCount rd ka ctzOf)
  | .tid _ rd => some (tidReg rd)
  | .kand f => some (maskReg3 f (· &&& ·))
  | .kor f => some (maskReg3 f (· ||| ·))
  | .kxor f => some (maskReg3 f (· ^^^ ·))
  | .kandn f => some (maskReg3 f fun a b => a &&& ~~~b)
  | .knot f => some (maskReg3 f fun a _ => ~~~a)
  | .kmov f => some (maskReg3 f fun a _ => a)
  | .kset f => some (maskReg3 f fun _ _ => BitVec.allOnes 1024)
  | .kclr f => some (maskReg3 f fun _ _ => 0)
  | _ => none

end Machine

end Sys2Proof
end

