-- ==== Sys2Proof/Machine/Path.lean ====
section
/-!
DEFINITION. Machine/Path.lean: the text of an instruction (R79), what one instruction adds to the path of a task (R27, R33,
R34, R270), and the program counters of the engines, found along that path (R27, R40).
-/

namespace Sys2Proof

namespace Machine

/-! ### Fetching text (R79) -/

/-- One parcel of text as a task on a core fetches it, always the newest (log 60). Poisoned text is consumed by the
instruction. A parcel is two bytes: a device register that takes another size refuses it (R408); the aperture serves
fetches as it serves loads (log 60). -/
def State.fetchParcel (s : State) (c : CoreId) (t : Task) (va : Nat) : Res Parcel := do
  let x ← s.translate c t.rs.rc.job va .fetch
  match x.typ with
  | .mmio =>
    match s.mmioRead x.pa 2 with
    | some v => .ok (BitVec.ofNat 16 v)
    | none => raise 9 0 va
  | .wap =>
    if (s.dies[(wDie x.pa).val]).wready = false then raiseReplay 13 va
    else
      match s.poisonedRow x.pa 2 with
      | some r => contain 1 (va + (max r x.pa - x.pa)) []
      | none => .ok (BitVec.ofNat 16 (leNat (s.readW x.pa 2)))
  | _ =>
    match ((s.viewOf t).checkMacs x.pa 2).poisonedAt x.pa 2 with
    | some w => contain 1 (va + w - x.pa) [(x.pa, 2)]
    | none => .ok (BitVec.ofNat 16 ((s.viewOf t).readNat x.pa 2))

/-- Further parcels. -/
def State.fetchMore (s : State) (c : CoreId) (t : Task) : Nat → Nat → Res (List Parcel)
  | 0, _ => .ok []
  | n + 1, va => do
    let p ← s.fetchParcel c t va
    let ps ← s.fetchMore c t n (va + 2)
    .ok (p :: ps)

/-- Every parcel of the instruction at an address. -/
def State.fetchText (s : State) (c : CoreId) (t : Task) (pc : Word64) : Res (List Parcel) := do
  let h ← s.fetchParcel c t pc.toNat
  let ps ← s.fetchMore c t (headParcels h - 1) (pc.toNat + 2)
  .ok (h :: ps)

/-- The number that parcels make, the first lowest. -/
def parcelsNat : List Parcel → Nat
  | [] => 0
  | p :: ps => p.toNat + 65536 * parcelsNat ps

/-- The first 64 bits of the instruction at an address, bits beyond its length zero (R95, R311); 0 when it cannot be
fetched. -/
def State.textAt (s : State) (c : CoreId) (t : Task) (pc : Word64) : Word64 :=
  match s.fetchText c t pc with
  | .ok ps => BitVec.ofNat 64 (parcelsNat (ps.take 4))
  | .error _ => 0

/-- The task after `n` more parcels of dynamic path (R27, R33, R34, R270): a repeated instruction keeps the pc until its
last repetition. -/
def Task.advance (t : Task) (n : Nat) : Task :=
  let next : Word64 := t.pc + BitVec.ofNat 64 (2 * n)
  if t.rep.vactive || t.rep.cactive then
    let d := t.rep.done + 1
    let fin := decide (t.rep.count ≤ d)
    { t with dist := t.dist + n, pc := if fin then next else t.pc,
             rep := { t.rep with
               done := if fin then 0 else d,
               vactive := t.rep.vactive && !fin, cactive := t.rep.cactive && !fin,
               vdone := if t.rep.vactive then BitVec.ofNat 6 d else t.rep.vdone,
               cdone := if t.rep.cactive then BitVec.ofNat 6 d else t.rep.cdone } }
  else { t with dist := t.dist + n, pc := next }

/-- The instruction as the task's repeat state steps it (R33): a stepped encoding may turn illegal. -/
def Task.stepped (t : Task) (i : Instr) : Except IllDetail Instr :=
  if t.rep.vactive || t.rep.cactive then
    let j := stepInstr t.rep.d t.rep.a t.rep.b t.rep.c t.rep.done i
    match illegalOf j with
    | some d => .error d
    | none => .ok j
  else .ok i

/-- A REP accepted: its target is repeated from here (R33, R34). -/
def Task.startRepeat (t : Task) (isV : Bool) (n : Nat) (d a b c : Bool) : Task :=
  { t with rep := { t.rep with
      vactive := isV, cactive := !isV, count := n, done := 0, d := d, a := a, b := b, c := c,
      vdone := if isV then 0 else t.rep.vdone, cdone := if isV then t.rep.cdone else 0 } }

/-! ### The program counters of the engines (R27, R40) -/

/-- The class of an instruction as an engine code (R281): heads outside the six engines count for the C strand. -/
def headEngine (h : Parcel) : Nat := if bitsAt h.toNat 13 3 < 6 then bitsAt h.toNat 13 3 else 0

/-- The target of a relative branch (R109): from the address of its head, in parcels. -/
def branchTarget (head : Word64) (disp : BitVec 16) : Word64 := head + (disp.signExtend 64 <<< 1)

/-- A place on the path of a task (R27): the task as it will stand there, and of it what only running the path tells: x, p
and k registers, system registers, and whether it is the queues too. `far` is the greatest milestone distance that it may
have there, its own the least. -/
structure Path where
  task   : Task
  xs     : List XReg
  ps     : List PReg
  ks     : List KReg
  csrs   : List Nat
  queues : Bool
  far    : Nat

/-- Where the path goes behind an instruction: on, to its end, or where only running it tells. -/
inductive PathStep where
  | on (p : Path)
  | ends
  | unknown

/-- The path where a task stands. -/
def Task.path (t : Task) : Path := { task := t, xs := [], ps := [], ks := [], csrs := [], queues := false, far := t.dist }

/-- Whether the value of an x register is known. -/
def Path.hasX (p : Path) (r : XReg) : Bool := !p.xs.contains r
/-- An x register whose value only running tells; x0 stays zero (R18). -/
def Path.loseX (p : Path) (r : XReg) : Path := if r.val = 0 then p else { p with xs := p.xs.insert r }
/-- An x register written with a known value. -/
def Path.putX (p : Path) (r : XReg) (v : Word64) : Path := { p with task := p.task.setX r v, xs := p.xs.filter (· ≠ r) }

/-- A register operation on the path: known results from known operands. -/
def Path.apply (p : Path) (o : RegOp) : Path :=
  if o.rx.all p.hasX && o.rp.all (!p.ps.contains ·) && o.rk.all (!p.ks.contains ·) then
    { p with task := o.run p.task, xs := p.xs.filter (!o.wx.contains ·), ps := p.ps.filter (!o.wp.contains ·),
             ks := p.ks.filter (!o.wk.contains ·) }
  else
    { p with xs := (o.wx.filter (·.val ≠ 0)).foldl (fun l r => l.insert r) p.xs,
             ps := (o.wp.filter (·.val ≠ 0)).foldl (fun l r => l.insert r) p.ps,
             ks := (o.wk.filter (·.val ≠ 0)).foldl (fun l r => l.insert r) p.ks }

/-- The path at another address. -/
def Path.goTo (p : Path) (a : Word64) : Path := { p with task := { p.task with pc := a } }

/-- A transfer to a register's value, with the link written behind its read (R110); a value with bit 0 set raises TARGET. -/
def Path.transfer (p : Path) (ra : XReg) (link : Path → Path) : PathStep :=
  let a := p.task.getX ra
  if p.hasX ra && !a.getLsbD 0 then .on ((link p).goTo a) else .unknown

/-- The system registers that the C strand alone changes, so that the path has their values: SLIPW, PGRAN, ACEN, RNDM,
TOLSH, CTHNDL. -/
def pathCsrs : List Nat := [0x000, 0x003, 0x011, 0x012, 0x018, 0x02A]

/-- Whether the path has the value of a system register. -/
def Path.hasCsr (p : Path) (n : Nat) : Bool := pathCsrs.contains n && !p.csrs.contains n

/-- A write of a system register on the path, its value known or not. -/
def Path.putCsr (p : Path) (known : Bool) (n : Nat) (v : Word64) : Path :=
  if n = 0x003 ∨ n = 0x02A ∨ !pathCsrs.contains n then p
  else if known then { p with task := p.task.csrStore n v, csrs := p.csrs.filter (· ≠ n) }
  else { p with csrs := p.csrs.insert n }

/-- The path behind an instruction that traps whatever it finds: what answers the trap may write any register (R35, R40). -/
def Path.answered (p : Path) : Path :=
  { p with xs := (List.finRange 32).filter (·.val ≠ 0), ps := (List.finRange 8).filter (·.val ≠ 0),
           ks := (List.finRange 8).filter (·.val ≠ 0), queues := true }

/-- The x register that a C instruction writes with what only running it tells: a load, an atomic, LAUNCH, JOIN and CANCEL
(R111, R116, R118 to R123). -/
def loadedX (i : Instr) : Option XReg :=
  match i with
  | .ldB _ _ _ rd _ _ => some rd
  | .ldBLit _ _ _ rd _ _ => some rd
  | .ldH _ _ _ rd _ _ => some rd
  | .ldHLit _ _ _ rd _ _ => some rd
  | .ldW _ _ _ rd _ _ => some rd
  | .ldWLit _ _ _ rd _ _ => some rd
  | .ldD _ _ rd _ _ => some rd
  | .ldDLit _ _ rd _ _ => some rd
  | .aadd _ _ rd _ _ => some rd
  | .aand _ _ rd _ _ => some rd
  | .aor _ _ rd _ _ => some rd
  | .axor _ _ rd _ _ => some rd
  | .amin _ _ rd _ _ => some rd
  | .amax _ _ rd _ _ => some rd
  | .aswap _ _ rd _ _ => some rd
  | .cas _ _ rd _ _ => some rd
  | .launch _ rd _ => some rd
  | .join _ rd _ _ _ => some rd
  | .cancel _ rd _ => some rd
  | _ => none

/-- The path behind a V instruction that is no mask logic: only VCMP writes a mask (R157, R170), and the queues are those
that running it leaves. -/
def Path.vector (p : Path) (i : Instr) : Path :=
  match i, vForm i with
  | .vcmp _ f, _ => { p with queues := true, ks := ((some (maskReg f.vd)).filter (·.val ≠ 0)).elim p.ks p.ks.insert }
  | _, some _ => { p with queues := true }
  | _, none => p

/-- The path behind an instruction that executes at address `a`, `p` being the path one instruction on, and `v` whether a V
instruction stands there (R27, R33, R109, R110, R130 to R137). Only the C strand writes its registers. -/
def Path.behind (s : State) (c : CoreId) (p : Path) (a : Word64) (v : Bool) (i : Instr) : PathStep :=
  match i with
  | .br _ d => .on (p.goTo (branchTarget a d))
  | .call _ d => .on ((p.putX 1 (a + 4)).goTo (branchTarget a d))
  | .jmp _ ra => p.transfer ra id
  | .callr _ rd ra => p.transfer ra (·.putX rd (a + 4))
  | .ret _ ra => p.transfer ra id
  | .exit _ => .ends
  | .mile .. => .on { p with task := { p.task with dist := 0 }, far := 0 }
  | .rep _ n fd fa fb fc => .on { p with task := p.task.startRepeat v (n.toNat + 1) fd fa fb fc }
  | .trap .. => .on p.answered
  | .brk .. => .on p.answered
  | .future .. => .on p.answered
  | .ctopen _ ra =>
    if p.hasX ra then .on { p with task := { p.task with regions := p.task.regions ++ [⟨p.task.getX ra, 0⟩] } }
    else .on { p with csrs := p.csrs.insert 0x02A }
  | .ctclose _ => .on { p with task := { p.task with regions := p.task.regions.dropLast } }
  | .csrr _ rd n => .on (if p.hasCsr n.toNat then p.putX rd (s.csr c p.task n.toNat) else p.loseX rd)
  | .csrw _ rs n => .on (p.putCsr (p.hasX rs) n.toNat (p.task.getX rs))
  | .csrs _ rs n => .on (p.putCsr (p.hasX rs && p.hasCsr n.toNat) n.toNat (s.csr c p.task n.toNat ||| p.task.getX rs))
  | .csrc _ rs n => .on (p.putCsr (p.hasX rs && p.hasCsr n.toNat) n.toNat (s.csr c p.task n.toNat &&& ~~~(p.task.getX rs)))
  | .kgetw _ rd ka rb =>
    let n := (p.task.getX rb).toNat
    .on (if p.hasX rb && !p.ks.contains ka && decide (n < 16) then p.putX rd (maskWord (p.task.getK ka) n) else p.loseX rd)
  | .ksetw _ kd ra rb =>
    let n := (p.task.getX rb).toNat
    if p.hasX ra && p.hasX rb && !p.ks.contains kd && decide (n < 16) then
      .on { p with task := p.task.setK kd (setMaskWord (p.task.getK kd) n (p.task.getX ra)) }
    else .on { p with ks := if kd.val = 0 then p.ks else p.ks.insert kd }
  | .vget _ sz rd va rb =>
    let n := (p.task.getX rb).toNat
    match p.task.queue va with
    | e :: _ =>
      .on (if p.hasX rb && !p.queues && decide (n < 4096 / laneSizeBits sz) then p.putX rd (signedLane sz e n) else p.loseX rd)
    | [] => .on (p.loseX rd)
  | _ =>
    match regOp i, loadedX i with
    | some o, _ => .on (p.apply o)
    | none, some rd => .on (p.loseX rd)
    | none, none => .on (p.vector i)

/-- Where two ways of the path run on together: what they have in common; unknown where they part. -/
def Path.join (s : State) (c : CoreId) (p q : Path) : PathStep :=
  if p.task.pc = q.task.pc ∧ p.task.rep = q.task.rep ∧ p.task.regions.length = q.task.regions.length then
    .on { task := { p.task with dist := min p.task.dist q.task.dist },
          xs := (List.finRange 32).filter fun r => p.xs.contains r || q.xs.contains r || decide (p.task.getX r ≠ q.task.getX r),
          ps := (List.finRange 8).filter fun r => p.ps.contains r || q.ps.contains r || decide (p.task.getP r ≠ q.task.getP r),
          ks := (List.finRange 8).filter fun r => p.ks.contains r || q.ks.contains r || decide (p.task.getK r ≠ q.task.getK r),
          csrs := pathCsrs.filter fun n => p.csrs.contains n || q.csrs.contains n || decide (s.csr c p.task n ≠ s.csr c q.task n),
          queues := p.queues || q.queues,
          far := max p.far q.far }
  else .unknown

/-- The path behind an instruction whose guard may keep it from executing (R30): where only running tells whether it does,
what both ways have in common. -/
def Path.next (s : State) (c : CoreId) (p : Path) (a : Word64) (v : Bool) (i : Instr) : PathStep :=
  match guardOf i with
  | none => Path.behind s c p a v i
  | some g =>
    if p.ps.contains g.gp then
      match Path.behind s c p a v i with
      | .on q => Path.join s c p q
      | _ => .unknown
    else if p.task.passes g then Path.behind s c p a v i
    else .on p

/-- The program counters of the six engines, found one by one along the path (R27): an engine with no instruction left
holds the address that ends the path, that of an EXIT or of the instruction that is milestone-overdue (R270). None for an
engine whose instruction lies where only running the path tells it. -/
def State.walkPath (s : State) (c : CoreId) : Nat → List (Option Word64) → Path → List (Option Word64)
  | 0, found, _ => found
  | n + 1, found, p =>
    if found.all Option.isSome then found
    else
      let t := p.task
      match s.fetchText c t t.pc with
      | .error _ => found
      | .ok ps =>
        let len := headParcels (ps.headD 0)
        let e := headEngine (ps.headD 0)
        let found := found.zipIdx.map fun x => if x.2 = e then some (x.1.getD t.pc) else x.1
        let last := found.map fun x => some (x.getD t.pc)
        if t.limit < t.dist + len then last
        else if t.limit < p.far + len then found
        else
          match decodeParcels ps with
          | .instr i =>
            match t.stepped i with
            | .ok j =>
              let q : Path := { p with task := t.advance len, far := p.far + len }
              let v := match s.fetchParcel c t (t.pc.toNat + 2 * len) with
                | .ok h => decide (bitsAt h.toNat 13 3 = 1)
                | .error _ => false
              match Path.next s c q t.pc v j with
              | .on q => State.walkPath s c n found q
              | .ends => last
              | .unknown => found
            | .error _ => found
          | _ => found

/-- The program counters of the six engines, in the code order of R281 (R27, R40): of a task that has executed its EXIT the
address of that, which ends its path; a free value where the path is not yet run (log 75). -/
def State.enginePcs (s : State) (c : CoreId) (t : Task) : List Word64 :=
  let found := if t.exited then List.replicate 6 (some (t.pc - 4))
    else s.walkPath c 65536 (List.replicate 6 none) t.path
  found.zipIdx.map fun x => x.1.getD (Config.enginePc s.tick x.2)

end Machine

end Sys2Proof
end

