-- ==== Sys2Proof/Machine/Ops.lean ====
section
/-!
DEFINITION. Machine/Ops.lean: what every instruction shares: taking a trap (R40, R311, R312)
and returning from one (R35, R97, R135), consuming a containment event with its unwind (R128, R277 to R281), and the
frame of an instruction: guard, effect, program counter, milestone distance and repetition (R27, R30, R33, R270).
-/

namespace Sys2Proof

namespace Machine

/-- The outcomes of a step. -/
abbrev Out := Host.Outcome State Fault Refusal

/-! ### The trap queue (R311, R312) -/

/-- Physical address of a record of a cluster's trap queue (R412). -/
def trapRecPa (k : ClusterId) (i : Nat) : Nat := cmemPa k (closedBase + 64 * i)

/-- The state field of a record: 0 free, 1 posted, 2 resume, 3 kill. -/
def State.trapState (s : State) (k : ClusterId) (i : Nat) : Nat := s.readNat (trapRecPa k i) 1 % 4

/-- The lowest free record of a range. -/
def State.freeRecord (s : State) (k : ClusterId) (lo n : Nat) : Option Nat :=
  ((List.range n).map fun i => lo + i).find? fun i => decide (s.trapState k i = 0)

/-- The free record a trap takes: an ordinary one, and for a fatal record then a reserved one. -/
def State.recordFor (s : State) (k : ClusterId) (fatal : Bool) : Option Nat :=
  match s.freeRecord k 0 256 with
  | some i => some i
  | none => if fatal then s.freeRecord k 256 8 else none

/-- A record posted in a slot of the queue: the next posting number, and an interrupt of a system core (log 21). -/
def State.postRecord (s : State) (k : ClusterId) (i : Nat) (r : TrapRec) : State :=
  let seq := (s.clusters[k.val]).trapSeq
  let s := (s.writePa (trapRecPa k i) (r.bytes 1 seq)).setCluster k fun c => { c with trapSeq := seq + 1 }
  let s := s.setDie (dieOfCluster k) fun d => { d with tqctl := d.tqctl.set (k.val % 4) true (Nat.mod_lt _ (by decide)) }
  { s with notices := s.notices ++ [.trapIrq k i] }

/-- A record freed by the junction. -/
def State.freeTrap (s : State) (k : ClusterId) (i : Nat) : State :=
  s.writePa (trapRecPa k i) [BitVec.ofNat 8 (s.readNat (trapRecPa k i) 1 / 4 * 4)]

/-- The monitor takes an event (R345): the first record is kept, a later event counts; the die stops and the host is
interrupted. -/
def State.monitorTake (s : State) (d : DieId) (m : MonRec) : State :=
  let s := s.setDie d fun x =>
    match x.monRec with
    | none => { x with frozen := true, monRec := some m }
    | some _ => { x with frozen := true, escal := if x.escal = 255 then 255 else x.escal + 1 }
  { s with notices := s.notices ++ [.msix 1] }

/-- Whether the monitor has stopped the clock of a core, with those of its die (R345). -/
def State.stopped (s : State) (c : CoreId) : Bool := (s.dies[(dieOf c).val]).frozen

/-- What the monitor records of an event of an accelerator core (R345): the system core is the one that services its cluster
(log 38); mcause, mepc and mtval are zero, the registers those that the system core then holds. -/
def State.coreRecord (s : State) (case_ : BitVec 2) (c : CoreId) (trap : List Byte) : MonRec :=
  { case_ := case_, die := dieOf c, sysCore := Fin.ofNat 4 (clusterOf c).val, mcause := 0, mepc := 0, mtval := 0,
    xs := (List.range 31).map fun i => Config.systemRegister s.tick (i + 1), trap := trap }

/-- The causes whose record holds a faulting address, or the code of a TRAP or BRK (R311). -/
def addrCauses : List Byte := [7, 8, 9, 10, 11, 12, 13, 18, 19, 21]

/-- The address field of a trap's record (R311): where a cause has no faulting address, a free value (log 8). -/
def trapAddr (n : Nat) (x : Trap) : Word64 :=
  if x.addr = 0 ∧ x.cause ∉ addrCauses then Config.openField n 0x18 else x.addr

/-- The trap record of a task (R311), taken at a tick, with the program counters of the engines. -/
def trapRec (n : Nat) (pcs : List Word64) (t : Task) (x : Trap) (engine : Nat) (pc text info info2 : Word64) : TrapRec :=
  { kind := x.kind, cause := x.cause, detail := x.detail, engine := BitVec.ofNat 8 engine, slot := t.slot, pc := pc,
    text := text, addr := trapAddr n x, info := info, info2 := info2, launch := BitVec.ofNat 24 t.rs.rc.launch,
    index := t.rs.rc.index, lane := x.lane, pcs := pcs }

/-- A fatal record posted, or the monitor's event when no slot is free (R312). -/
def State.postFatal (s : State) (c : CoreId) (r : TrapRec) : State :=
  match s.recordFor (clusterOf c) true with
  | some i => s.postRecord (clusterOf c) i r
  | none => s.monitorTake (dieOf c) (s.coreRecord 1 c (r.bytes 1 (s.clusters[(clusterOf c).val]).trapSeq))

/-- The parked core's record goes into the lowest free ordinary slot, if there is one (R312). -/
def State.postTrap (s : State) (c : CoreId) (r : TrapRec) : State :=
  match s.recordFor (clusterOf c) false with
  | some i => (s.postRecord (clusterOf c) i r).setCore c fun k => { k with status := .trapped r (some i) }
  | none => s.setCore c fun k => { k with status := .trapped r none }

/-- The end of a task by a fatal fault: its engines stop. Under COMMIT it is aborted, and run again while it may
(R280, R300, R302). -/
def Task.endFatal (t : Task) (mayRerun : Bool) : Task :=
  { t with cmds := [], amo := none, regions := if t.rs.rc.commit then [] else t.regions,
           wait := if t.rs.rc.commit && mayRerun && decide (t.rs.rc.reruns ≠ 3) then .aborted else .ended 2 }

/-- Whether an abort by a cause may be followed by a re-run: not for milestone-overdue, which would fault again (R270),
nor for COMMIT-OVERFLOW (R301). -/
def mayRerun (cause : Byte) : Bool := decide (cause ≠ 15) && decide (cause ≠ 22)

/-- Taking a trap at an instruction (R40, R312): a precise or replayable trap parks the core, its task as before the
instruction, and posts a record; a fatal one posts a record and ends the task. -/
def State.takeTrap (s : State) (c : CoreId) (t : Task) (x : Trap) (engine : Nat) (pc text info info2 : Word64) : State :=
  let r := trapRec s.tick (s.enginePcs c t) t x engine pc text info info2
  if x.kind = 2 then (s.setTask c (t.endFatal (mayRerun x.cause))).postFatal c r
  else (s.setTask c t).postTrap c r

/-! ### Containment events (R128, R277 to R281) -/

/-- What consumes an event: engine code, track, whether a command, address, regions open at its place. -/
structure Eater where
  engine : Nat
  track  : Nat
  cmd    : Bool
  addr   : Word64
  depth  : Nat
  deriving DecidableEq, Repr

/-- CTCAUSE (R281). -/
def ctcause (e : Event) (w : Eater) : Word64 :=
  BitVec.ofNat 64 (w.addr.toNat % 2 ^ 48 * 2 ^ 16 + w.track * 2 ^ 12 + w.engine * 2 ^ 9 + bitNat w.cmd * 2 ^ 8 +
    e.cause.toNat)

/-- CTCAUSE, CTINFO, and for a checksum fault CKFAULT and CKADDR (R264, R277); the flags set on the way stay. -/
def Task.noteEvent (t : Task) (e : Event) (w : Eater) : Task :=
  let sys := { t.sys with ctcause := ctcause e w, ctinfo := e.info, acflags := t.sys.acflags ||| BitVec.ofNat 64 e.flags }
  match e.ck with
  | none => { t with sys := sys }
  | some (f, a) => { t with sys := { sys with ckfault := f, ckaddr := a } }

/-- Every loop level of a nest table once, with strides 0 (R15). -/
def nestReset : Vector NestLevel 6 := Vector.replicate 6 { count := 1, strA := 0, strB := 0, strC := 0 }

/-- The matrix engine's next configuration at dispatch (R177). -/
def mcfgAt (tolsh dith : Word64) : MCfg :=
  { streams := Vector.replicate 16 Stream.zero, nest := nestReset, track := 0, tol := tolsh.setWidth 5,
    dbase := BitVec.ofNat 5 (dithBase dith), dstep := BitVec.ofNat 5 (dithStep dith), dcount := 0 }

/-- The z tiles that a command names or has visited (R210). -/
def Cmd.tiles (c : Cmd) : List Nat :=
  match c.kind with
  | .mGo _ _ _ z _ _ _ p => z.val :: p.visited
  | .mZero z => [z.val]
  | .mLoad _ z _ _ => [z.val]
  | .mStore _ z _ _ _ _ => [z.val]
  | _ => []

/-- z tiles poisoned. -/
def Task.poisonZ (t : Task) (l : List Nat) : Task :=
  { t with z := Vector.ofFn fun i => if l.contains i.val then { t.z[i.val] with poison := true } else t.z[i.val] }

/-- Every parameter stack, next configuration and queue as at dispatch (R177, R277). -/
def Task.resetEngines (t : Task) : Task :=
  { t with v := Vector.replicate 32 [], mStack := [], xStack := [], pStack := [], sStack := [],
           m := mcfgAt t.sys.tolsh t.sys.dith, xc := XCfg.zero, pcfg := { cfg := 0, spill := none }, metas := [],
           xlast := t.xlast.map fun x => { x with chain := false }, rep := Repeat.zero, cmds := [], amo := none }

/-- The unwind to the region that an event belongs to (R277): regions opened inside it close with it. -/
def State.unwind (s : State) (c : CoreId) (t : Task) (e : Event) (depth : Nat) (r : Region) : State :=
  let t := (t.poisonZ (t.cmds.flatMap Cmd.tiles)).resetEngines
  let (s, t) := State.abortSessions (clusterOf c) (2 ^ 24 + e.cause.toNat) (fun x => decide (depth ≤ x.depth))
    (some t.slot) t.sessions s t
  let t := { t with regions := t.regions.take (depth - 1), pc := r.handler, wait := .none,
                    sessions := t.sessions.map fun x => { x with closing := false },
                    commit := if t.rs.rc.commit then t.commit.take r.mark else t.commit }
  s.setTask c t

/-- An effect that leaves the core, which a paired launch compares (R186, R281): its code in CTINFO. -/
abbrev Effect := Option (Fin 6)

/-- A pair fault of the core meets an effect of a paired task: the effect is not performed (R187). -/
def State.pairStop (s : State) (c : CoreId) (t : Task) (fx : Effect) : Option Event :=
  match fx with
  | some e => if (s.core c).pairFault && t.rs.rc.paired then some ⟨4, BitVec.ofNat 64 e.val, none, [], 0⟩ else none
  | none => none

/-- An event consumed (R277, R280): an unwind to its region, or the end of the task outside any region, where a DRAIN
task posts a fatal record. A pair that differs in that record takes the pair's event in its place (R186, R187). -/
def State.consume (s : State) (c : CoreId) (t : Task) (e : Event) (w : Eater) : State :=
  let s := e.read.foldl (fun s r => s.checkMacs r.1 r.2) s
  let text := s.textAt c t w.addr
  let t := t.noteEvent e w
  match (if t.wait = .exiting then none else t.regions[w.depth - 1]?), w.depth with
  | some r, _ + 1 => s.unwind c t e w.depth r
  | _, _ =>
    let pair := s.pairStop c t (if t.rs.rc.commit then none else some 5)
    let t := match pair with
      | some e => t.noteEvent e w
      | none => t
    let s := if pair.isSome then s.setCore c fun k => { k with pairFault := false } else s
    let s := s.setTask c ((t.poisonZ (t.cmds.flatMap Cmd.tiles)).endFatal true)
    if t.rs.rc.commit then s
    else s.postFatal c (trapRec s.tick (s.enginePcs c t) t ⟨2, 20, 0, 0, 0⟩ w.engine w.addr text t.sys.ctcause t.sys.ctinfo)

/-! ### The frame of an instruction -/

/-- The overflow policy of a front configuration: 0 DROPNEW, 1 EVICTKEY, 2 SPILL, 3 FAULT (R245). -/
def PCfg.policy (p : PCfg) : Nat := bitsAt p.cfg.toNat 38 2

/-- Whether a front word that may yet raise PFULL has not retired: nothing after it has an effect (R249). -/
def Task.mayPfull (t : Task) : Bool :=
  t.cmds.any fun c => match c.kind with
    | .pIns _ _ _ cfg _ => decide (cfg.policy = 3)
    | .pMerge _ _ cfg _ => decide (cfg.policy = 3)
    | _ => false

/-- The task that the current core runs and that may execute an instruction now. -/
def State.running (s : State) : Option Task :=
  let k := s.core s.cur
  if k.frozen || (s.dies[(dieOf s.cur).val]).frozen then none
  else
    match k.status, k.task with
    | .running, some t => if t.wait = .none ∧ !t.mayPfull then some t else none
    | _, _ => none

/-- What becomes of a core whose instruction did not complete. -/
def State.stopAt (s : State) (c : CoreId) (t : Task) (engine : Nat) (e : Stop) : State :=
  let w : Eater := ⟨engine, 0, false, t.pc, t.regions.length⟩
  match e with
  | .wait => s
  | .event e => s.consume c t e w
  | .trap x =>
    match s.pairStop c t (some 5) with
    | some e => (s.setCore c fun k => { k with pairFault := false }).consume c t e w
    | none => s.takeTrap c t x engine t.pc (s.textAt c t t.pc) 0 0

/-- The effect of an instruction: core, address of the instruction, state, task already advanced past it. -/
abbrev Body := CoreId → Word64 → State → Task → Res (State × Task)

/-- An executing instruction of `n` parcels on the current core. -/
def State.perform (s : State) (t : Task) (engine n : Nat) (fx : Effect) (body : Body) : State :=
  let c := s.cur
  match s.pairStop c t fx with
  | some e =>
    (s.setCore c fun k => { k with pairFault := false }).consume c t e ⟨engine, 0, false, t.pc, t.regions.length⟩
  | none =>
    match body c t.pc s (t.advance n) with
    | .ok (s', t') => s'.setTask c t'
    | .error e => s.stopAt c t engine e

/-- The frame of a C instruction of `n` parcels (R30). -/
def cWord (n : Nat) (g : Guard) (fx : Effect) (body : Body) (s : State) : Out :=
  match s.running with
  | none => .next s
  | some t => if t.passes g then .next (s.perform t 0 n fx body) else .next (s.setTask s.cur (t.advance n))

/-- A body that reads and writes the task's registers alone. -/
def regs (f : Word64 → Task → Res Task) : Body := fun _ h s t =>
  match f h t with
  | .ok t' => .ok (s, t')
  | .error e => .error e

/-- A body that only writes registers. -/
def pureRegs (f : Task → Task) : Body := fun _ _ s t => .ok (s, f t)

/-- A lane-test fault of the V pipeline or the matrix engine, as the next instruction or command of it meets it (R284). -/
def State.laneStop (s : State) (c : CoreId) (matrix : Bool) : Option Event :=
  match (s.core c).laneFault with
  | some (m, lane) =>
    if m = matrix then some ⟨6, BitVec.ofNat 64 ((if matrix then 2 else 1) * 2 ^ 12 + lane.toNat), none, [], 0⟩ else none
  | none => none

/-- The frame of a V instruction (R30, R284). -/
def vWord (f : VF) (fx : Effect) (body : Body) (s : State) : Out :=
  match s.running with
  | none => .next s
  | some t =>
    let n := if f.lit.isSome then 5 else 3
    if t.passes f.g then
      match s.laneStop s.cur false with
      | some e => .next ((s.setCore s.cur fun k => { k with laneFault := none }).consume s.cur t e
          ⟨1, 0, false, t.pc, t.regions.length⟩)
      | none => .next (s.perform t 1 n fx body)
    else .next (s.setTask s.cur (t.advance n))

/-- Engine codes of CTCAUSE (R281). -/
def engCode : Eng → Nat
  | .m => 2 | .x => 3 | .p => 4 | .s => 5

/-- Whether a waiting word holds the dispatch queue head of an engine (R174). -/
def Task.holds (t : Task) (e : Eng) : Bool :=
  t.cmds.any fun c => match c.kind with
    | .mWaitc .. => decide (e = .m)
    | .xWaitc .. => decide (e = .x)
    | _ => false

/-- Every S word of a COMMIT task is refused with SEALMODE, after the conditions of a lower code (R100, R315). That it comes
before the stack traps of the same word (R92) is the model's choice (log 18). -/
def sealMode (e : Eng) (t : Task) (r : Res (State × Task)) : Res (State × Task) :=
  if e = .s ∧ t.rs.rc.commit = true then
    match r with
    | .error (.trap x) => if x.cause = 2 then .error (.trap x) else illegalOp 34
    | _ => illegalOp 34
  else r

/-- The frame of an engine word of `n` parcels, which carries no guard (R90). It is accepted when no waiting word of its
engine stands before it (R173, R174). A lane-test fault of M meets the next M instruction (R284). An S word leaves the core for the seal port (R186). -/
def engWord (e : Eng) (n : Nat) (fx : Effect) (body : Body) (s : State) : Out :=
  match s.running with
  | none => .next s
  | some t =>
    match (if e = .m then s.laneStop s.cur true else none) with
    | some x => .next ((s.setCore s.cur fun k => { k with laneFault := none }).consume s.cur t x
        ⟨2, 0, false, t.pc, t.regions.length⟩)
    | none => .next (s.perform t (engCode e) n (if e = .s then some 3 else fx) fun c h s t =>
        if t.holds e then .error .wait else sealMode e t (body c h s t))

end Machine

end Sys2Proof
end

