-- ==== Sys2Proof/Machine/Control.lean ====
section
/-!
DEFINITION. Machine/Control.lean: branches and calls (R109, R110), the SYS group (R32 to R35, R114, R115, R134 to R137),
waiting (R124, R125), TID (R126), containment regions (R128), system registers (R130), loads and stores (R111).
-/

namespace Sys2Proof

namespace Machine

/-! ### Branches and calls -/

/-- BR (R109). -/
def execBr (g : Guard) (disp : BitVec 16) (s : State) : Out :=
  cWord 2 g none (regs fun h t => .ok { t with pc := branchTarget h disp }) s

/-- CALL (R109). -/
def execCall (g : Guard) (disp : BitVec 16) (s : State) : Out :=
  cWord 2 g none (regs fun h t => .ok { t.setX 1 (h + 4) with pc := branchTarget h disp }) s

/-- A transfer to a register's value (R110): bit 0 set raises TARGET. -/
def transfer (link : Option XReg) (ra : XReg) : Body := regs fun h t =>
  let a := t.getX ra
  if a.getLsbD 0 then raise 2 2 0
  else
    let t := match link with
      | some rd => t.setX rd (h + 4)
      | none => t
    .ok { t with pc := a }

/-- JMP (R110). -/
def execJmp (g : Guard) (ra : XReg) (s : State) : Out := cWord 2 g none (transfer none ra) s
/-- CALLR (R110). -/
def execCallr (g : Guard) (rd ra : XReg) (s : State) : Out := cWord 2 g none (transfer (some rd) ra) s
/-- RET (R110). -/
def execRet (g : Guard) (ra : XReg) (s : State) : Out := cWord 2 g none (transfer none ra) s

/-! ### The SYS group -/

/-- NOP (R134). -/
def execNop (g : Guard) (s : State) : Out := cWord 2 g none (pureRegs fun t => t) s

/-- TRAP (R135): a precise software trap with the code in the record. -/
def execTrap (g : Guard) (code : BitVec 16) (s : State) : Out := cWord 2 g none (regs fun _ _ => raise 18 0 code.toNat) s

/-- BRK (R135): to the debugger that holds the task, whose answer comes as TRAP_RESUME or TRAP_KILL of the
pseudo-slot 264 + core; else to the resident kernel. -/
def execBrk (g : Guard) (code : BitVec 16) (s : State) : Out :=
  match s.running with
  | some t =>
    if t.passes g && t.attached && (s.pairStop s.cur t (some 5)).isNone then
      let r := trapRec s.tick (s.enginePcs s.cur t) t ⟨0, 19, 0, code.setWidth 64, 0⟩ 0 t.pc (s.textAt s.cur t t.pc) 0 0
      let s' := s.setCore s.cur fun k => { k with status := .trapped r (some (264 + s.cur.val)) }
      .next { s' with notices := s'.notices ++ [.breakpoint s.cur code] }
    else cWord 2 g none (regs fun _ _ => raise 19 0 code.toNat) s
  | none => .next s

/-- The LIVE check of MILE (R136): queues and stacks that the masks declare dead are empty. -/
def Task.liveOk (t : Task) (ef : BitVec 8) (vq : Word32) : Bool :=
  ((List.finRange 32).all fun q => vq.getLsbD q.val || (t.v[q.val]).isEmpty) &&
  (ef.getLsbD 0 || t.mStack.isEmpty) && (ef.getLsbD 1 || t.xStack.isEmpty) &&
  (ef.getLsbD 2 || t.pStack.isEmpty) && (ef.getLsbD 3 || t.sStack.isEmpty)

/-- The list emptied and the shape unset; the counters stay (R244). -/
def Front.clear (f : Front) : Front := { f with tuples := [], shape := none }

/-- What MILE clears (R136). -/
def Task.clearDead (t : Task) (zt ef : BitVec 8) : Task :=
  { t with z := Vector.ofFn fun i => if zt.getLsbD i.val then t.z[i.val] else ZTile.zero,
           front := if ef.getLsbD 4 then t.front else t.front.clear }

/-- MILE's effect (R42, R136), and what follows at it: a cancelled task retires (R299), a requested pre-emption finds
the task stopped (R271). -/
def mileBody (zt ef : BitVec 8) (vq : Word32) : Body := fun c _ s t =>
  if !t.cmds.isEmpty then .error .wait
  else if !t.liveOk ef vq then illegalOp 8
  else if t.arithTrap then raise 14 0 0
  else
    let t := { t.clearDead zt ef with dist := 0, masks := ⟨zt, ef, vq⟩ }
    .ok (s, if t.cancel then { t with wait := .ended 1 }
            else if (s.core c).preempt then { t with wait := .parking } else t)

/-- MILE (R17, R136). -/
def execMile (g : Guard) (zt ef : BitVec 8) (vq : Word32) (s : State) : Out := cWord 4 g none (mileBody zt ef vq) s

/-- REP (R32 to R34): the class and op of its target are checked whatever the guard (R96). -/
def execRep (g : Guard) (cntLess1 : BitVec 6) (d a b c : Bool) (s : State) : Out :=
  match s.running with
  | none => .next s
  | some t =>
    match s.fetchParcel s.cur t (t.pc.toNat + 4) with
    | .error e => .next (s.stopAt s.cur t 0 e)
    | .ok h =>
      if !repTargetOk h c then .next (s.stopAt s.cur t 0 (.trap ⟨0, 1, 8, 0, 0⟩))
      else
        cWord 2 g none (pureRegs fun t =>
          t.startRepeat (decide (bitsAt h.toNat 13 3 = 1)) (cntLess1.toNat + 1) d a b c) s

/-- NTDRAIN (R115): every non-temporal store of the task becomes visible. -/
def execNtdrain (g : Guard) (s : State) : Out :=
  cWord 2 g none (fun _ _ s t => .ok (t.nt.foldl State.applyNt s, { t with nt := [] })) s

/-- EXIT (R137): every region closes, and the task drains until it retires. -/
def execExit (g : Guard) (s : State) : Out :=
  cWord 2 g none (pureRegs fun t => { t with regions := [], wait := .exiting, exited := true }) s

/-- A head in spaces 6 and 7 always traps with detail FUTURE (R97). -/
def execFuture (_head : Parcel) (_rest : List Parcel) (s : State) : Out :=
  match s.running with
  | none => .next s
  | some t => .next (s.stopAt s.cur t 0 (.trap ⟨0, 1, 0, 0, 0⟩))

/-! ### Waiting, TID -/

/-- The condition of WAITC and the waiting words (R124). -/
def Task.counted (t : Task) (cc : Fin 16) (target : Word32) : Bool := decide ((t.cc[cc.val] - target).toNat < 2 ^ 31)

/-- WAITC (R124): complete, or waiting with its own address as pc; a cancelled task retires at a waiting WAITC (R299). -/
def execWaitc (g : Guard) (ra rb : XReg) (s : State) : Out :=
  cWord 2 g none (regs fun h t =>
    let n := (t.getX ra).toNat
    if 15 < n then illegalOp 5
    else
      let cc : Fin 16 := Fin.ofNat 16 n
      let target : Word32 := (t.getX rb).setWidth 32
      if t.counted cc target then .ok t
      else .ok { t with pc := h, dist := t.dist - 2, wait := if t.cancel then .ended 1 else .waitc cc target }) s

/-- BAR (R125): an arrival, once every command before it is complete. -/
def execBar (g : Guard) (s : State) : Out :=
  cWord 2 g none (regs fun _ t =>
    if !t.rs.rc.gang then illegalOp 4
    else if !t.cmds.isEmpty then .error .wait
    else .ok { t with bars := t.bars + 1, wait := .bar }) s

/-- TID (R126). -/
def execTid (g : Guard) (rd : XReg) (s : State) : Out :=
  cWord 2 g none (pureRegs (tidReg rd).run) s

/-! ### Containment regions (R128) -/

/-- CTOPEN (R128, R278). -/
def execCtopen (g : Guard) (ra : XReg) (s : State) : Out :=
  cWord 2 g none (regs fun _ t =>
    let a := t.getX ra
    if a.getLsbD 0 then illegalOp 2
    else if 4 ≤ t.regions.length then illegalOp 7
    else .ok { t with regions := t.regions ++ [⟨a, t.commit.length⟩] }) s

/-- A region closed in order: the sessions opened in it are from now on sessions of the region around it (R321). -/
def Task.closeRegion (t : Task) : Task :=
  { t with regions := t.regions.dropLast,
           sessions := t.sessions.map fun x => { x with depth := min x.depth (t.regions.length - 1) } }

/-- CTCLOSE (R128): complete only after every command before it. -/
def execCtclose (g : Guard) (s : State) : Out :=
  cWord 2 g none (regs fun _ t =>
    if t.regions.isEmpty then illegalOp 7
    else if !t.cmds.isEmpty then .error .wait
    else .ok t.closeRegion) s

/-! ### System registers (R130, R131) -/

/-- Whether a pending command may still update an ordered register (R68, R131): any of M and X but a waiting word. -/
def Task.updating (t : Task) : Bool :=
  t.cmds.any fun c => (decide (c.eng = .m) || decide (c.eng = .x)) && (match c.kind with
    | .mWaitc .. => false
    | .xWaitc .. => false
    | _ => true)

/-- The frame of the CSR instructions: PRIV before any effect, then, for a register that commands update in order, the
wait for them. -/
def csrWord (g : Guard) (closed ordered : Bool) (f : State → CoreId → Task → Task) (s : State) : Out :=
  cWord 2 g none (fun c _ s t =>
    if closed then illegalOp 0
    else if ordered && t.updating then .error .wait
    else .ok (s, f s c t)) s

/-- CSRR (R130). RPC is read as the instruction finds it. -/
def execCsrr (g : Guard) (rd : XReg) (n : BitVec 11) (s : State) : Out :=
  csrWord g (csrClosed n.toNat) (csrOrdered n.toNat) (fun s c t => t.setX rd (s.csr c t n.toNat)) s

/-- CSRW (R130). -/
def execCsrw (g : Guard) (rs : XReg) (n : BitVec 11) (s : State) : Out :=
  csrWord g (csrNoWrite n.toNat) (csrWriteOrdered n.toNat) (fun _ _ t => t.csrStore n.toNat (t.getX rs)) s

/-- CSRS (R130). -/
def execCsrs (g : Guard) (rs : XReg) (n : BitVec 11) (s : State) : Out :=
  csrWord g (csrNoWrite n.toNat) (csrWriteOrdered n.toNat) (fun s c t => t.csrStore n.toNat (s.csr c t n.toNat ||| t.getX rs)) s

/-- CSRC (R130). -/
def execCsrc (g : Guard) (rs : XReg) (n : BitVec 11) (s : State) : Out :=
  csrWord g (csrNoWrite n.toNat) (csrWriteOrdered n.toNat) (fun s c t => t.csrStore n.toNat (s.csr c t n.toNat &&& ~~~(t.getX rs))) s

end Machine

end Sys2Proof
end

