-- ==== Sys2Proof/Machine/Junction.lean ====
section
/-!
DEFINITION. Machine/Junction.lean: what the junctions keep (R287 to R305, R375): handles, record slots, generations,
readiness, retirement and completion counters, cancelling. The events of the junction are in Dispatching.lean.
-/

namespace Sys2Proof

namespace Machine

/-! ### Handles and slots (R289) -/

/-- A handle of a record. -/
def handleOf (k : ClusterId) (slot : Nat) (tenure : BitVec 16) : Word64 :=
  BitVec.ofNat 64 (2 ^ 63 + k.val * 2 ^ 48 + tenure.toNat * 2 ^ 32 + slot % 2 ^ 32)

/-- The cluster, tenure and slot a handle names; none for a value that is no handle. -/
def splitHandle (h : Word64) : Option (ClusterId × BitVec 16 × Nat) :=
  let n := h.toNat
  if bitAt n 63 && decide (bitsAt n 53 10 = 0) then
    some (Fin.ofNat 32 (bitsAt n 48 5), BitVec.ofNat 16 (bitsAt n 32 16), bitsAt n 0 32)
  else none

/-- A task and what it holds back. -/
def State.allTasks (s : State) : List Task :=
  (s.cores.toList.filterMap fun c => c.task) ++ (s.clusters.toList.flatMap fun k => k.parked.map fun p => p.task)

/-- Every task changed, on its core or parked. -/
def State.mapTasks (s : State) (f : Task → Task) : State :=
  { s with cores := s.cores.map fun k => { k with task := k.task.map f },
           clusters := s.clusters.map fun k => { k with parked := k.parked.map fun p => { p with task := f p.task } } }

/-- The records a COMMIT task holds until EXIT (R301). -/
def Task.heldRecs (t : Task) : List RecSlot :=
  t.held.flatMap fun h => match h with
    | .record _ r _ => [r]
    | .attach _ => []
    | .launch _ rs _ => rs

/-- Records chosen for dispatch and not yet dispatched. -/
def State.chosenRecs (s : State) : List RecSlot :=
  s.cores.toList.filterMap fun c => match c.status with
    | .chosen r _ _ => some r
    | _ => none

/-- The record slots of a cluster in use: undispatched records, and records held by a COMMIT task. -/
def State.usedSlots (s : State) (k : ClusterId) (more : List RecSlot) : List Nat :=
  ((s.clusters[k.val]).recs ++ s.chosenRecs ++ more ++ s.allTasks.flatMap Task.heldRecs).map fun r => r.slot

/-- The lowest number not in a list. -/
def lowestFree (l : List Nat) : Nat := ((List.range (l.length + 1)).find? fun n => !l.contains n).getD l.length

/-- A slot for a new record of a cluster, with the tenure its reuse takes (R289). -/
def State.newSlot (s : State) (k : ClusterId) (more : List RecSlot) : State × Nat × BitVec 16 :=
  let sl := lowestFree (s.usedSlots k more)
  let ten := match lookupKey sl (s.clusters[k.val]).tenures with
    | some x => x + 1
    | none => 0
  (s.setCluster k fun c => { c with tenures := insertKey sl ten c.tenures }, sl, ten)

/-- The undispatched record that a handle names. -/
def State.recOf (s : State) (h : Word64) : Option (ClusterId × RecSlot) :=
  match splitHandle h with
  | none => none
  | some (k, ten, sl) =>
    ((s.clusters[k.val]).recs.find? fun r => decide (r.slot = sl) && decide (r.tenure = ten)).map fun r => (k, r)

/-- A record of a cluster changed. -/
def State.setRec (s : State) (k : ClusterId) (sl : Nat) (f : RecSlot → RecSlot) : State :=
  s.setCluster k fun c => { c with recs := c.recs.map fun r => if r.slot = sl then f r else r }

/-! ### Generations (R305, R351) -/

/-- Whether a generation value of a job is held by a running or parked task, or by an undispatched record as its base
generation (R305). A record whose base generation an advance gives that is not yet made holds it from then on (log 11). -/
def State.genHeld (s : State) (job : Nat) (g : BitVec 4) : Bool :=
  let made := ((s.jobOf job).map Job.made).getD 0
  ((List.finRange 512).any fun c => match s.taskOf c with
    | some t => decide (t.rs.rc.job = job) && decide (t.gen = g)
    | none => false) ||
  (s.clusters.toList.any fun k => k.parked.any fun p => decide (p.task.rs.rc.job = job) && decide (p.task.gen = g)) ||
  ((s.clusters.toList.flatMap (fun k => k.recs) ++ s.chosenRecs ++ s.allTasks.flatMap Task.heldRecs).any fun r =>
    decide (r.rc.job = job) && r.rc.hasbgen && decide (r.rc.bgen = g) && decide (r.due ≤ made))

/-- The background sweep: every stamp of a job that bears a generation is emptied. -/
def State.sweep (s : State) (job : Nat) (g : BitVec 4) : State :=
  let keep (e : Nat × Stamp) : Bool := !(decide (e.2.job = job) && decide (e.2.gen = g))
  { s with stamps := s.stamps.filter keep,
           clusters := s.clusters.map fun k => { k with parked := k.parked.map fun p =>
             { p with spad := p.spad.map fun i => { i with stamps := i.stamps.filter keep } } } }

/-- The next advance of a job's generation counter made; none while the value is still held (R305). -/
def State.makeGen (s : State) (job : Nat) : Option State :=
  match s.jobOf job with
  | none => none
  | some j =>
    if s.genHeld job (j.gen + 1) then none
    else some ((s.setJob job fun j => { j with gen := j.gen + 1, made := j.made + 1 }).sweep job (j.gen + 1))

/-- An advance that must be made at once, and its new value: none while it waits, or while another before it does (R305). -/
def State.advanceGen (s : State) (job : Nat) : Option (State × BitVec 4) :=
  match s.jobOf job with
  | none => none
  | some j =>
    if j.asked ≠ j.made then none
    else ((s.setJob job fun j => { j with asked := j.asked + 1 }).makeGen job).map fun s => (s, j.gen + 1)

/-- An advance asked for: made now, or when the value is free, after those asked for before (R305). It is the advance that
waits, and with it the dispatch of the records that take its value (R351), not what asks for it (log 11). Its new value and
its number among the job's advances. -/
def State.askGen (s : State) (job : Nat) : State × BitVec 4 × Nat :=
  match s.jobOf job with
  | none => (s, 0, 0)
  | some j =>
    let n := j.asked + 1
    (((s.advanceGen job).map Prod.fst).getD (s.setJob job fun j => { j with asked := n }),
      j.gen + BitVec.ofNat 4 (n - j.made), n)

/-- Whether the advance that gives a record its base generation is made (R305, R351). -/
def State.born (s : State) (r : RecSlot) : Bool := (s.jobOf r.rc.job).all fun j => decide (r.due ≤ j.made)

/-! ### Readiness (R292) -/

/-- Whether a launch of a job has completed. -/
def State.launchDone (s : State) (job n : Nat) : Bool :=
  match s.jobOf job with
  | some j => (j.launches.find? fun l => decide (l.num = n)).any fun l => l.done
  | none => false

/-- The launch of a record. -/
def State.launchOf (s : State) (job n : Nat) : Option Launch :=
  (s.jobOf job).bind fun j => j.launches.find? fun l => decide (l.num = n)

/-- Whether a record may become ready. -/
def State.canStart (s : State) (r : RecSlot) : Bool :=
  r.ready.isNone && decide (r.rc.join = 0) && r.deps.isEmpty &&
  match s.launchOf r.rc.job r.rc.launch with
  | some l => l.after.all fun a => s.launchDone r.rc.job a
  | none => true

/-- The records of one cluster that may start become ready, in order. -/
def State.readyIn (k : ClusterId) : List RecSlot → State → State
  | [], s => s
  | r :: rest, s =>
    State.readyIn k rest
      (if s.canStart r then
        { s.setRec k r.slot (fun x => { x with ready := some s.readySeq }) with readySeq := s.readySeq + 1 }
       else s)

/-- Every record that may start becomes ready. -/
def State.refresh (s : State) : State :=
  (List.finRange 32).foldl (fun s k => State.readyIn k (s.clusters[k.val]).recs s) s

/-! ### Retirement and completion (R298, R300) -/

/-- A successor's join counter decremented by one, and with it, by a predecessor that SPAWN attached, the count of those
attached (log 62); a handle that names no record is passed over. -/
def State.decrement (s : State) (h : Word64) (spawned : Bool) : State :=
  match s.recOf h with
  | some (k, r) => s.setRec k r.slot fun x =>
      { x with rc := { x.rc with join := x.rc.join - 1,
                                 attached := if spawned then x.rc.attached - 1 else x.rc.attached } }
  | none => s

/-- A launch changed. -/
def State.setLaunch (s : State) (job n : Nat) (f : Launch → Launch) : State :=
  s.setJob job fun j => { j with launches := j.launches.map fun l => if l.num = n then f l else l }

/-- A job freed (R367): its stamps and debug sessions go with it. -/
def State.freeJob (s : State) (job : Nat) : State :=
  { s with jobs := s.jobs.filter fun j => decide (j.num ≠ job),
           stamps := s.stamps.filter fun e => decide (e.2.job ≠ job),
           sessions := s.sessions.filter fun d => decide (d.job ≠ job) }

/-- A phase complete: the job's counter. -/
def State.phaseDone (s : State) (job : Nat) : State :=
  let s := s.setJob job fun j => { j with pending := j.pending - 1 }
  match s.jobOf job with
  | some j => if j.freeing ∧ j.pending = 0 then s.freeJob job else s
  | none => s

/-- One member of a group of a list complete: the groups after it, and whether the group has completed. -/
def groupStep (l : List Group) (n : Nat) : List Group × Option Group :=
  let l' := l.map fun g => if g.num = n then { g with pending := g.pending - 1, done := decide (g.pending = 1) } else g
  (l', (l'.find? fun g => decide (g.num = n)).bind fun g => if g.done then some g else none)

/-- A graph's counter, and the phase's when it reaches 0. -/
def State.graphStep (s : State) (job n : Nat) : State :=
  match s.jobOf job with
  | none => s
  | some j =>
    let (gs, fin) := groupStep j.graphs n
    let s := s.setJob job fun j => { j with graphs := gs }
    match fin with
    | none => s
    | some g =>
      let (ps, pfin) := groupStep j.phases g.parent
      let s := s.setJob job fun j => { j with phases := ps }
      if pfin.isSome then s.phaseDone job else s

/-- The tasks of launches that waited on a completed launch and have no footprint edge take a base generation, those
that a COMMIT task still holds among them (R305). -/
def State.giveBase (s : State) (job n : Nat) (g : BitVec 4) (due : Nat) : State :=
  let waits (r : RecSlot) : Bool := decide (r.rc.job = job) && !r.edge &&
    (s.launchOf job r.rc.launch).any (fun l => decide (l.after = some n)) && decide (r.rc.origin = 0)
  let give (r : RecSlot) : RecSlot :=
    if (waits r) = true then { r with due := due, rc := { r.rc with hasbgen := true, bgen := g } } else r
  let s := s.mapTasks fun t => { t with held := t.held.map fun h => match h with
    | .launch n rs x => .launch n (rs.map give) x
    | h => h }
  { s with clusters := s.clusters.map fun k => { k with recs := k.recs.map give } }

/-- A launch complete: release to the level above, its successor, and the launches that named it (R298, R305). -/
def State.launchComplete (s : State) (job : Nat) (l : Launch) : State :=
  let s := (s.setLaunch job l.num fun l => { l with done := true }).decrement l.succ false
  let named := (s.jobOf job).any fun j => j.launches.any fun x => decide (x.after = some l.num)
  let a := s.askGen job
  (if named then a.1.giveBase job l.num a.2.1 a.2.2 else s).graphStep job l.graph

/-- A record's retirement with a status (R298, R300): counted for its launch, its successor decremented, its dependents
released. -/
def State.retireRec (s : State) (r : Rec) (status : BitVec 2) : State :=
  let s := s.decrement r.succ (decide (r.origin = 1))
  let s := if r.origin = 0 then
      { s with clusters := s.clusters.map fun k => { k with recs := k.recs.map fun x =>
          if x.rc.job = r.job ∧ x.rc.launch = r.launch ∧ x.rc.origin = 0 then
            { x with deps := x.deps.filter fun d => decide (d ≠ r.index.toNat) } else x } }
    else s
  let s := s.setLaunch r.job r.launch fun l =>
    { l with pending := l.pending - 1, stats := l.stats.set status.toNat (l.stats[status.toNat] + 1) }
  match s.launchOf r.job r.launch with
  | some l => (if l.pending = 0 then s.launchComplete r.job l else s).refresh
  | none => s.refresh

/-! ### Cancelling (R123, R299) -/

/-- A core idle, and its partner when it ran a pair (R186): a task leaves its registers behind (R7). -/
def State.freeCore (s : State) (c : CoreId) (paired : Bool) : State :=
  let t := (s.core c).task.map Task.leftRegs
  let free (k : Core) : Core := { k with status := .idle, task := none, left := t.getD k.left, vgroup := none }
  let s := s.setCore c free
  if paired then s.setCore (partnerOf c) free else s

/-- Held work marked by a cancel (R299). -/
def Held.markCancel (mine : Rec → Bool) (h : Held) : Held :=
  match h with
  | .record k r x => .record k r (x || mine r.rc)
  | .attach h => .attach h
  | .launch n rs x => .launch n rs (x || rs.any fun r => mine r.rc)

/-- A task marked by a cancel; one that waits in a WAITC retires there. -/
def Task.markCancel (t : Task) : Task :=
  { t with cancel := true, wait := match t.wait with | .waitc .. => .ended 1 | w => w }

/-- Undispatched records retired with CANCELLED, in turn. -/
def State.cancelRecs : List (ClusterId × RecSlot) → State → State
  | [], s => s
  | (k, r) :: rest, s =>
    State.cancelRecs rest
      ((s.setCluster k fun c => { c with recs := c.recs.filter fun x => decide (x.slot ≠ r.slot) }).retireRec r.rc 1)

/-- The work of a job whose launch a condition picks is cancelled: its launches marked, its undispatched records
retired, its running and parked tasks marked, and what a COMMIT task holds of it. -/
def State.cancelWork (s : State) (job : Nat) (pick : Nat → Bool) : State :=
  let mine (r : Rec) : Bool := decide (r.job = job) && pick r.launch
  let chosen := (List.finRange 512).filterMap fun c => match (s.core c).status with
    | .chosen r _ _ => if (mine r.rc) = true then some (c, r) else none
    | _ => none
  let s := s.setJob job fun j =>
    { j with launches := j.launches.map fun l => if pick l.num then { l with cancelled := true } else l }
  let s := chosen.foldl (fun s e => (s.freeCore e.1 e.2.rc.paired).setCluster (clusterOf e.1)
    fun c => { c with recs := c.recs ++ [e.2] }) s
  let s := s.mapTasks fun t =>
    let t := { t with held := t.held.map (Held.markCancel mine) }
    if (mine t.rs.rc) = true then t.markCancel else t
  let recs := (List.finRange 32).flatMap fun k =>
    ((s.clusters[k.val]).recs.filter fun r => mine r.rc).map fun r => (k, r)
  State.cancelRecs recs s

/-- The launches a level and a number name (R123): none for no such work. Levels: 0 launch, 1 graph, 2 phase, 3 job. -/
def Job.workOf (j : Job) (level n : Nat) : Option (List Launch) :=
  match level with
  | 0 => (j.launches.find? fun l => decide (l.num = n)).map fun l => [l]
  | 1 => (j.graphs.find? fun g => decide (g.num = n)).map fun _ => j.launches.filter fun l => decide (l.graph = n)
  | 2 => (j.phases.find? fun g => decide (g.num = n)).map fun _ => j.launches.filter fun l => decide (l.phase = n)
  | _ => if n = j.num then some j.launches else none

/-! ### What a COMMIT task's held launches show of themselves (R301) -/

/-- Whether a task holds a launch back until its EXIT. -/
def Task.holdsLaunch (t : Task) (n : Nat) : Bool :=
  t.held.any fun h => match h with
    | .launch m _ _ => decide (m = n)
    | _ => false

/-- Whether a launch is hidden: a task other than the one that looks still holds it. The host and the firmware look as no
task. -/
def State.hides (s : State) (t : Option Task) (job n : Nat) : Bool :=
  !(t.any fun t => decide (t.rs.rc.job = job) && t.holdsLaunch n) &&
  s.allTasks.any fun q => decide (q.rs.rc.job = job) && q.holdsLaunch n

/-- A job without the launches that are hidden from one who looks. -/
def State.seen (s : State) (t : Option Task) (j : Job) : Job :=
  { j with launches := j.launches.filter fun l => !s.hides t j.num l.num }

/-- The launches that a CANCEL's level and number name (R123, R301): one by its number only where it can be seen; those of
a graph, phase or job with the ones its tasks hold, which a cancel reaches there (R299). -/
def State.work (s : State) (t : Option Task) (job level n : Nat) : Option (List Launch) :=
  (s.jobOf job).bind fun j => (if level = 0 then s.seen t j else j).workOf level n

/-! ### Reading D-space for the junction and for lists (R290, R293) -/

/-- The 64 KiB pieces of a range: address and length. -/
def piecesOf (va n : Nat) : List (Nat × Nat) :=
  (blocksOf 65536 va n).map fun b => (max va b, min (va + n) (b + 65536) - max va b)

/-- A piece of D-space read through a job's tables, with the checks of a load but for stamps: MEMTYPE on MMIO. The list
reads of a task's LAUNCH wait for its earlier commands that write there (R181), and miss in the aperture as its loads do
(R331); the firmware, which reads for no task, does neither (log 10). -/
def State.readPiece (s : State) (c : CoreId) (job : Nat) (t : Option Task) (va n : Nat) : Res (List Byte) := do
  let x ← s.translate c job va .read
  match x.typ with
  | .mmio => raise 2 9 va
  | .wap =>
    if t.isSome && !(s.dies[(wDie x.pa).val]).wready then raiseReplay 13 va
    else
      match s.poisonedRow x.pa n with
      | some r => contain 1 (va + (max r x.pa - x.pa)) []
      | none => .ok (s.readW x.pa n)
  | _ =>
    if t.any fun t => t.blocked x.pa n false then .error .wait
    else
      match (s.checkMacs x.pa n).poisonedAt x.pa n with
      | some w => contain 1 (va + w - x.pa) [(x.pa, n)]
      | none => .ok (s.readPa x.pa n)

/-- A range of D-space read through a job's tables, for a task's LAUNCH or for firmware. -/
def State.readD (s : State) (c : CoreId) (job : Nat) (t : Option Task) : List (Nat × Nat) → Res (List Byte)
  | [] => .ok []
  | (va, n) :: rest => do
    let a ← s.readPiece c job t va n
    let b ← s.readD c job t rest
    .ok (a ++ b)

end Machine

end Sys2Proof
end

