-- ==== Sys2Proof/Machine/Work.lean ====
section
/-!
DEFINITION. Machine/Work.lean: the instructions that create and cancel work: SPAWN, LAUNCH, JOIN, CANCEL (R16, R118 to
R123, R290, R291, R301, R324).
-/

namespace Sys2Proof

namespace Machine

/-! ### SPAWN and JOIN -/

/-- The record of a task that SPAWN or JOIN creates (R16, R288): what it takes from its creator. With a join counter above
0, or in a launch that names an after launch, it holds no base generation (R305). -/
def childRec (t : Task) (code frame : Word64) (join : Word32) (origin : BitVec 2) (succ : Word64) (after : Bool)
    (gen : BitVec 4) : Rec :=
  { job := t.rs.rc.job, code := code, frame := frame, join := join, launch := t.rs.rc.launch, prio := t.rs.rc.prio,
    commit := t.rs.rc.commit, paired := t.rs.rc.paired, gang := false, nt := t.rs.rc.nt, origin := origin,
    fplist := 0, nin := 0, nout := 0, attached := 0, succ := succ, index := 0xFFFFFFFF, prom := 0,
    level := t.rs.rc.prio, reruns := 0, bgen := if join = 0 ∧ after = false then gen else 0,
    hasbgen := decide (join = 0) && !after, wrlist := t.rs.rc.wrlist }

/-- Whether the launch of a task names an after launch (R305). -/
def State.afterOf (s : State) (t : Task) : Bool := (s.launchOf t.rs.rc.job t.rs.rc.launch).any fun l => l.after.isSome

/-- One more member of a launch (R298). -/
def State.addMember (s : State) (job launch : Nat) : State :=
  s.setLaunch job launch fun l => { l with pending := l.pending + 1 }

/-- A record created in a cluster: at once, or held until EXIT under COMMIT (R301). `due` is the number of the advance that
gives its base generation. -/
def State.create (s : State) (k : ClusterId) (t : Task) (rc : Rec) (due : Nat) : State × Task × Word64 :=
  let (s, sl, ten) := s.newSlot k t.heldRecs
  let r : RecSlot := { slot := sl, tenure := ten, rc := rc, deps := [], edge := false, ins := [], outs := [],
                       wr := t.rs.wr, ready := none, due := if rc.hasbgen then due else 0 }
  let h := handleOf k sl ten
  if rc.commit then (s, { t with held := t.held ++ [.record k r false] }, h)
  else (((s.setCluster k fun c => { c with recs := c.recs ++ [r] }).addMember rc.job rc.launch).refresh, t, h)

/-- Whether SPAWN may attach to a record (R122): of the same launch, created by JOIN, not yet ready, not full. -/
def attachable (t : Task) (r : RecSlot) : Bool :=
  decide (r.rc.job = t.rs.rc.job) && decide (r.rc.launch = t.rs.rc.launch) && decide (r.rc.origin = 2) &&
  r.ready.isNone && decide (r.rc.join ≠ 0) && decide (r.rc.attached ≠ r.rc.join)

/-- The record a handle names among those a COMMIT task holds. -/
def Task.heldRec (t : Task) (h : Word64) : Option RecSlot :=
  t.held.findSome? fun x => match x with
    | .record k r _ => if handleOf k r.slot r.tenure = h then some r else none
    | _ => none

/-- One more attached predecessor of a held record. -/
def attachHeld (h : Word64) : Held → Held
  | .record k r x =>
    if handleOf k r.slot r.tenure = h then .record k { r with rc := { r.rc with attached := r.rc.attached + 1 } } x
    else .record k r x
  | x => x

/-- A predecessor attached to the record of a handle, where SPAWN may attach one (R122). -/
def State.attach (s : State) (t : Task) (h : Word64) : Option (State × Task) :=
  if h = 0 then some (s, t)
  else
    match t.heldRec h with
    | some r => if attachable t r then some (s, { t with held := t.held.map (attachHeld h) }) else none
    | none =>
      match s.recOf h with
      | some (k, r) =>
        if attachable t r then
          some (s.setRec k r.slot fun x => { x with rc := { x.rc with attached := x.rc.attached + 1 } },
            if t.rs.rc.commit then { t with held := t.held ++ [.attach h] } else t)
        else none
      | none => none

/-- SPAWN (R122): a ready task of the creator's launch, attached to its successor. It is a release point (R16) for what its
strands have done; that it does not also wait for commands still running is the model's choice (log 11). -/
def spawnBody (rd ra rb : XReg) : Body := fun c _ s t =>
  if (t.getX ra).getLsbD 0 then illegalOp 2
  else
    match s.attach t (t.getX rd) with
    | none => illegalOp 3
    | some (s, t) =>
      let a := s.askGen t.rs.rc.job
      let r := a.1.create (clusterOf c) t
        (childRec t (t.getX ra) (t.getX rb) 0 1 (t.getX rd) (s.afterOf t) a.2.1) a.2.2
      .ok (r.1, r.2.1)

/-- SPAWN (R16, R122). -/
def execSpawn (g : Guard) (rd ra rb : XReg) (s : State) : Out := cWord 2 g (some 4) (spawnBody rd ra rb) s

/-- JOIN (R121): a continuation record with a join counter; its handle to rd. -/
def joinBody (rd ra rb : XReg) (n : Word32) : Body := fun c _ s t =>
  if (t.getX ra).getLsbD 0 then illegalOp 2
  else
    let a := s.askGen t.rs.rc.job
    let r := a.1.create (clusterOf c) t (childRec t (t.getX ra) (t.getX rb) n 2 0 (s.afterOf t) a.2.1) a.2.2
    .ok (r.1, r.2.1.setX rd r.2.2)

/-- JOIN (R16, R121). -/
def execJoin (g : Guard) (rd ra rb : XReg) (n : Word32) (s : State) : Out := cWord 4 g (some 4) (joinBody rd ra rb n) s

/-! ### Launch descriptors and footprint lists (R118, R290) -/

/-- A launch descriptor (R118). -/
structure LaunchDesc where
  code     : Word64
  fbase    : Word64
  fstride  : Nat
  count    : Nat
  prio     : BitVec 2
  commit   : Bool
  paired   : Bool
  gang     : Bool
  nt       : Bool
  target   : Option ClusterId
  after    : Option Nat
  fplist   : Word64
  fpstride : Nat
  nin      : Nat
  nout     : Nat
  succ     : Word64
  reserved : Bool
  deriving DecidableEq, Repr

/-- The fields of 64 bytes. -/
def parseDesc (bs : List Byte) : LaunchDesc :=
  let n := leNat bs
  let fl := bitsAt n (8 * 0x18) 32
  let af := bitsAt n (8 * 0x1C) 32
  { code := BitVec.ofNat 64 n, fbase := BitVec.ofNat 64 (bitsAt n 64 64), fstride := bitsAt n 128 32,
    count := bitsAt n 160 32, prio := BitVec.ofNat 2 fl, commit := bitAt fl 2, paired := bitAt fl 3, gang := bitAt fl 4,
    nt := bitAt fl 5, target := if bitAt fl 6 then some (Fin.ofNat 32 (fl / 128)) else none,
    after := if bitsAt af 0 24 = 0xFFFFFF then none else some (bitsAt af 0 24),
    fplist := BitVec.ofNat 64 (bitsAt n 256 64), fpstride := bitsAt n 320 32, nin := bitsAt n 352 16,
    nout := bitsAt n 368 16, succ := BitVec.ofNat 64 (bitsAt n 384 64),
    reserved := decide (bitsAt fl 12 20 ≠ 0) || decide (bitsAt af 24 8 ≠ 0) || decide (bitsAt n 448 64 ≠ 0) }

/-- The frame pointer of task i. -/
def LaunchDesc.frame (d : LaunchDesc) (i : Nat) : Word64 := d.fbase + BitVec.ofNat 64 (i * d.fstride)
/-- The footprint list of task i. -/
def LaunchDesc.list (d : LaunchDesc) (i : Nat) : Word64 :=
  if d.fplist = 0 then 0 else d.fplist + BitVec.ofNat 64 (i * d.fpstride)

/-- Length of a footprint entry: a field of 0 encodes 2^24 (R290). -/
def entryLen (w : Nat) : Nat := if bitsAt w 0 24 = 0 then 2 ^ 24 else bitsAt w 0 24

/-- An input entry from its 16 bytes; none when the list is refused. -/
def parseIn (bs : List Byte) : Option InEntry :=
  let n := leNat bs
  let w3 := bitsAt n 96 32
  let off := bitsAt n 64 20
  if bitsAt n 84 12 ≠ 0 ∨ bitsAt w3 24 8 ≠ 0 ∨ laybyBase < off + entryLen w3 then none
  else some ⟨bitsAt n 0 64, off, entryLen w3⟩

/-- An output entry from its 16 bytes. -/
def parseOut (bs : List Byte) : Option VRange :=
  let n := leNat bs
  let w3 := bitsAt n 96 32
  if bitsAt n 64 32 ≠ 0 ∨ bitsAt w3 24 8 ≠ 0 then none else some ⟨bitsAt n 0 64, entryLen w3⟩

/-- Groups of 16 bytes. -/
def groups16 : Nat → List Byte → List (List Byte)
  | 0, _ => []
  | n + 1, bs => bs.take 16 :: groups16 n (bs.drop 16)

/-- Whether two inputs overlap in the scratchpad. -/
def insClash : List InEntry → Bool
  | [] => false
  | x :: rest => (rest.any fun y => decide (x.off < y.off + y.len) && decide (y.off < x.off + x.len)) || insClash rest

/-- A footprint list from its bytes; none when it is refused (R290). -/
def parseList (nin nout : Nat) (bs : List Byte) : Option (List InEntry × List VRange) :=
  match ((groups16 nin bs).mapM parseIn), ((groups16 nout (bs.drop (16 * nin))).mapM parseOut) with
  | some a, some b => if insClash a then none else some (a, b)
  | _, _ => none

/-- The footprint lists of every task, each read: a fault on one is precise, a refused one gives none. For a task's LAUNCH
the reads wait for its earlier commands and miss in a closed aperture, and check no stamp (log 10). -/
def readLists (s : State) (c : CoreId) (job : Nat) (t : Option Task) (d : LaunchDesc) :
    List Nat → Res (Option (List (List InEntry × List VRange)))
  | [] => .ok (some [])
  | i :: rest =>
    if d.fplist = 0 ∨ d.nin + d.nout = 0 then do
      let more ← readLists s c job t d rest
      .ok (more.map fun l => ([], []) :: l)
    else do
      let bs ← s.readD c job t (piecesOf (d.list i).toNat (16 * (d.nin + d.nout)))
      let more ← readLists s c job t d rest
      match (if (d.list i).toNat % 16 ≠ 0 then none else parseList d.nin d.nout bs), more with
      | some x, some l => .ok (some (x :: l))
      | _, _ => .ok none

/-- Whether two ranges of D-space share a byte. -/
def VRange.meets (a b : VRange) : Bool := decide (a.base < b.base + b.len) && decide (b.base < a.base + a.len)

/-- Whether task j depends on an earlier task i (R291): some range of each overlaps, one of the two an output. -/
def depends (i j : List InEntry × List VRange) : Bool :=
  let src (l : List InEntry) : List VRange := l.map fun e => ⟨e.src, e.len⟩
  (i.2.any fun a => (j.2 ++ src j.1).any fun b => a.meets b) || (j.2.any fun b => (src i.1).any fun a => a.meets b)

/-- The tasks each task depends on, in index order. -/
def edgesOf (fps : List (List InEntry × List VRange)) : List (List Nat) :=
  fps.zipIdx.map fun e => ((fps.zipIdx.take e.2).filter fun f => depends f.1 e.1).map fun f => f.2

/-- Whether a descriptor's fields alone are bad (R119). -/
def LaunchDesc.bad (d : LaunchDesc) (afterOk : Nat → Bool) : Bool :=
  d.reserved || decide (d.count = 0) || decide (2 ^ 31 < d.count) || d.code.getLsbD 0 || !(d.after.all afterOk) ||
  (decide (d.fplist = 0) && decide (d.nin + d.nout ≠ 0)) || decide (64 < d.nin) || decide (64 < d.nout)

/-- The status after BAD-DESCRIPTOR (R119): DENIED, GANG-TOO-LARGE, or 0. -/
def LaunchDesc.status (d : LaunchDesc) (prio : BitVec 2) (nt : Bool) : Nat :=
  if prio.toNat < d.prio.toNat ∨ (d.nt = true ∧ (nt = false ∨ d.commit = true)) then 3
  else if d.gang = true ∧ (16 < d.count ∨ (d.paired = true ∧ 8 < d.count)) then 1
  else 0

/-! ### Creating a launch -/

/-- The records of a launch's tasks (R288, R291, R305). -/
def launchRecs (job num : Nat) (d : LaunchDesc) (fps : List (List InEntry × List VRange)) (gen : BitVec 4) (due : Nat) :
    List RecSlot :=
  (fps.zip (edgesOf fps)).zipIdx.map fun e =>
    let i := e.2
    let waits := !e.1.2.isEmpty || d.after.isSome
    { slot := 0, tenure := 0, deps := e.1.2, edge := !e.1.2.isEmpty, ins := e.1.1.1, outs := e.1.1.2, wr := e.1.1.2,
      ready := none, due := if waits then 0 else due,
      rc := { job := job, code := d.code, frame := d.frame i, join := 0, launch := num, prio := d.prio,
              commit := d.commit, paired := d.paired, gang := d.gang, nt := d.nt, origin := 0, fplist := d.list i,
              nin := d.nin, nout := d.nout, attached := 0, succ := 0, index := BitVec.ofNat 32 i, prom := 0,
              level := d.prio, reruns := 0, bgen := if waits then 0 else gen, hasbgen := !waits, wrlist := d.list i } }

/-- Records put into a cluster's store, each in a slot of its own. -/
def State.place (k : ClusterId) (more : List RecSlot) : List RecSlot → State → State
  | [], s => s
  | r :: rest, s =>
    let x := s.newSlot k more
    State.place k more rest (x.1.setCluster k fun c => { c with recs := c.recs ++ [{ r with slot := x.2.1, tenure := x.2.2 }] })

/-- The lowest launch number that no launch of a job holds (R375). -/
def Job.freeLaunch (j : Job) : Option Nat :=
  let n := lowestFree (j.launches.map fun l => l.num)
  if n = 0xFFFFFF then none else some n

/-- The launch object of a descriptor. It holds no weight-programming privilege, which only the launches that firmware creates
for PROGRAM-WEIGHTS hold (R243). -/
def launchObj (num graph phase : Nat) (k : ClusterId) (d : LaunchDesc) : Launch :=
  { num := num, graph := graph, phase := phase, cluster := k, gang := d.gang, paired := d.paired, count := d.count,
    after := d.after, succ := d.succ, wpriv := false, window := none, pending := d.count, stats := Vector.replicate 4 0, done := false,
    cancelled := false, bars := 0, exited := 0 }

/-- One more member of a graph (R298). -/
def State.addToGraph (s : State) (job graph : Nat) : State :=
  s.setJob job fun j => { j with graphs := j.graphs.map fun g => if g.num = graph then { g with pending := g.pending + 1 } else g }

/-- Eight doubleword loads of a descriptor (R324). -/
def readDesc (c : CoreId) : Nat → Nat → State → Task → Res (State × List Byte)
  | 0, _, s, _ => .ok (s, [])
  | n + 1, va, s, t => do
    let a ← s.load c t ⟨va % 2 ^ 64, 8, 0, false⟩
    let b ← readDesc c n (va + 8) a.1 t
    .ok (b.1, a.2 ++ b.2)

/-- Whether a launch's successor handle is one LAUNCH takes (R324). -/
def State.succOk (s : State) (t : Task) (h : Word64) : Bool :=
  decide (h = 0) ||
  (match t.heldRec h with
   | some r => decide (r.rc.origin = 2) && decide (r.rc.join ≠ 0)
   | none =>
     match s.recOf h with
     | some (_, r) => decide (r.rc.job = t.rs.rc.job) && decide (r.rc.launch = t.rs.rc.launch) &&
         decide (r.rc.origin = 2) && r.ready.isNone
     | none => false)

/-- A launch accepted with a number: its tasks' records, placed at once or held until EXIT (R301). -/
def State.accept (s : State) (c : CoreId) (t : Task) (mine : Launch) (d : LaunchDesc) (num : Nat)
    (fps : List (List InEntry × List VRange)) (g : BitVec 4) (due : Nat) : State × Task :=
  let job := t.rs.rc.job
  let k := d.target.getD (clusterOf c)
  let s := s.setJob job fun j =>
    { j with launches := j.launches ++ [launchObj num mine.graph mine.phase k d] }
  let recs := launchRecs job num d fps g due
  if t.rs.rc.commit then (s, { t with held := t.held ++ [.launch num recs false] })
  else ((State.place k t.heldRecs recs (s.addToGraph job mine.graph)).refresh, t)

/-- LAUNCH (R119, R324), which reads every task's footprint list before it answers: status in bits 39:32 and number in bits
23:0 of rd. A count above 2^31 is answered at once, its lists unread (log 10). -/
def launchBody (rd ra : XReg) : Body := fun c _ s t => do
  let r ← readDesc c 8 (t.getX ra).toNat s t
  let d := parseDesc r.2
  let s := r.1
  let job := t.rs.rc.job
  let status (n : Nat) : Task := t.setX rd (BitVec.ofNat 64 (n * 2 ^ 32))
  match s.jobOf job, s.launchOf job t.rs.rc.launch with
  | some j, some mine =>
    let lists ← readLists (s.viewOf t) c job (some t) d (List.range (if d.count ≤ 2 ^ 31 then d.count else 0))
    let bad := d.bad fun a => (s.seen (some t) j).launches.any fun l => decide (l.num = a) && decide (l.graph = mine.graph)
    if bad || !s.succOk t d.succ then .ok (s, status 2)
    else
      match lists with
      | none => .ok (s, status 2)
      | some fps =>
        if d.status t.rs.rc.prio t.rs.rc.nt ≠ 0 then .ok (s, status (d.status t.rs.rc.prio t.rs.rc.nt))
        else
          match j.freeLaunch with
          | none => .ok (s, status 4)
          | some num =>
            let a := s.askGen job
            let x := a.1.accept c t mine d num fps a.2.1 a.2.2
            .ok (x.1, x.2.setX rd (BitVec.ofNat 64 num))
  | _, _ => .ok (s, status 2)

/-- LAUNCH (R118, R119). -/
def execLaunch (g : Guard) (rd ra : XReg) (s : State) : Out := cWord 2 g (some 4) (launchBody rd ra) s

/-! ### CANCEL -/

/-- CANCEL's result and state (R123). -/
def cancelBody (rd ra : XReg) : Body := fun c _ s t =>
  let v := (t.getX ra).toNat
  let level := bitsAt v 62 2
  let n := bitsAt v 0 32
  let answer (x : Nat) (s : State) (t : Task) : Res (State × Task) := .ok (s, t.setX rd (BitVec.ofNat 64 x))
  if bitsAt v 32 30 ≠ 0 then answer 2 s t
  else if level = 3 ∧ n ≠ t.rs.rc.job then answer 3 s t
  else
    match s.work (some t) t.rs.rc.job level n with
    | none => answer 2 s t
    | some ls =>
      if ls.all fun l => l.done then answer 1 s t
      else
        let pick (l : Nat) : Bool := ls.any fun x => decide (x.num = l)
        let s := s.cancelWork t.rs.rc.job pick
        answer 0 s { t with held := ((s.taskOf c).map Task.held).getD t.held, cancel := t.cancel || pick t.rs.rc.launch }

/-- CANCEL (R123, R299). -/
def execCancel (g : Guard) (rd ra : XReg) (s : State) : Out := cWord 2 g none (cancelBody rd ra) s

end Machine

end Sys2Proof
end

