-- ==== Sys2Proof/Machine/Atomic.lean ====
section
/-!
DEFINITION. Machine/Atomic.lean: the scalar atomics (R116, R117) and what the atomic engine that owns a line keeps (R304).
-/

namespace Sys2Proof

namespace Machine

/-- The cluster whose atomic engine owns a physical address (R304). -/
def engineOf (pa : Nat) : ClusterId :=
  match homeOf pa with
  | .spad c _ => clusterOf c
  | .cmem k _ => k
  | .lpddr d => Fin.ofNat 32 (8 * d.val)
  | _ => 0

/-- A line becomes the most recently used of its engine's 64 hot lines (R304). -/
def State.heat (s : State) (pa : Nat) : State :=
  let l := pa / 64
  s.setCluster (engineOf pa) fun k => { k with hot := (l :: k.hot.filter fun x => decide (x ≠ l)).take 64 }

/-- The checks of an atomic on `n` bytes (R116), in order. The place of detail 14 (ATOMIC), behind MEMTYPE and before the write
range, is the model's choice (log 79). -/
def State.probeAtomic (s : State) (c : CoreId) (t : Task) (va n : Nat) : Res Xlate := do
  if va % n ≠ 0 then raise 7 0 va
  else
    let x ← s.translate c t.rs.rc.job va .atomic
    if x.typ = .mmio ∨ x.typ = .wap then raise 2 9 va
    else if t.rs.rc.commit then raise 2 14 va
    else if (x.typ = .lpddr ∨ x.typ = .host) ∧ !t.inWriteRange va n then raise 12 0 va
    else if s.blocked t x.pa n true then .error .wait
    else if x.typ = .sram ∧ (s.touchAtomic t x.pa n).isNone then raise 12 0 va
    else .ok x

/-- Whether an atomic on SRAM meets a tile whose descriptor is bad: marking the tile STALE consults it (R256). -/
def State.badTile (s : State) (x : Xlate) (n : Nat) : Bool :=
  decide (x.typ = .sram) && (tilesIn s.tiles x.pa n).any fun e => e.2.poison

/-- The poison that an atomic consumes (R113, R141): that of the bytes it reads, then that of a tile's descriptor. -/
def State.atomicPoison (s : State) (t : Task) (x : Xlate) (va n : Nat) : Res Unit :=
  let v := s.viewOf t
  match (v.checkMacs x.pa n).poisonedAt x.pa n with
  | some w => contain 1 (va + w - x.pa) [(x.pa, n)]
  | none => if v.badTile x n then contain 1 va [] else .ok ()

/-- One indivisible step of the atomic engine on bytes whose poison has been looked for: the old bytes, and memory with the
new ones (R116). A conflict that another task's access has brought since the probe, between two parts of a VAMO, leaves the
stamp as it is (log 18). -/
def State.applyAtomic (s : State) (t : Task) (x : Xlate) (n : Nat) (f : Nat → Nat) : State × Task × Nat :=
  let (s, t) := s.flushNt t x.pa n
  let old := s.readNat x.pa n
  let s := if x.typ = .sram then (s.touchAtomic t x.pa n).getD s else s
  let s := (s.writePa x.pa (bytesOf n (f old))).heat x.pa
  (if x.typ = .sram then s.staleTiles x.pa n else s, t, old)

/-- A scalar atomic after its probe: poison, then the step (R116). -/
def State.doAtomic (s : State) (t : Task) (x : Xlate) (va n : Nat) (f : Nat → Nat) : Res (State × Task × Nat) := do
  s.atomicPoison t x va n
  .ok (s.applyAtomic t x n f)

/-- The bytes of an atomic's width. -/
def atomSize (w : Bool) : Nat := if w then 4 else 8

/-- The register value of an atomic's old bytes (R116). -/
def atomOld (w : Bool) (old : Nat) : Word64 :=
  if w then (BitVec.ofNat 32 old).signExtend 64 else BitVec.ofNat 64 old

/-- AMO and CAS at X[ra] (R116): `f` takes rd's value, rb's value and the old bytes, each in the access's width. -/
def atomBody (w : Bool) (rd ra rb : XReg) (f : Nat → Nat → Nat → Nat → Nat) : Body := fun c _ s t => do
  let n := atomSize w
  let va := (t.getX ra).toNat
  let x ← s.probeAtomic c t va n
  let m := 2 ^ (8 * n)
  let r ← s.doAtomic t x va n (f (8 * n) ((t.getX rd).toNat % m) ((t.getX rb).toNat % m))
  .ok (r.1, r.2.1.setX rd (atomOld w r.2.2))

/-- Signed minimum of two numbers of a width. -/
def sminNat (n a b : Nat) : Nat := if toSigned n b < toSigned n a then b else a
/-- Signed maximum of two numbers of a width. -/
def smaxNat (n a b : Nat) : Nat := if toSigned n a < toSigned n b then b else a

/-- AADD (R116). -/
def execAadd (g : Guard) (w : Bool) (rd ra rb : XReg) (s : State) : Out :=
  cWord 2 g (some 1) (atomBody w rd ra rb fun n _ b old => (old + b) % 2 ^ n) s
/-- AAND (R116). -/
def execAand (g : Guard) (w : Bool) (rd ra rb : XReg) (s : State) : Out :=
  cWord 2 g (some 1) (atomBody w rd ra rb fun _ _ b old => old &&& b) s
/-- AOR (R116). -/
def execAor (g : Guard) (w : Bool) (rd ra rb : XReg) (s : State) : Out :=
  cWord 2 g (some 1) (atomBody w rd ra rb fun _ _ b old => old ||| b) s
/-- AXOR (R116). -/
def execAxor (g : Guard) (w : Bool) (rd ra rb : XReg) (s : State) : Out :=
  cWord 2 g (some 1) (atomBody w rd ra rb fun _ _ b old => old ^^^ b) s
/-- AMIN (R116). -/
def execAmin (g : Guard) (w : Bool) (rd ra rb : XReg) (s : State) : Out :=
  cWord 2 g (some 1) (atomBody w rd ra rb fun n _ b old => sminNat n old b) s
/-- AMAX (R116). -/
def execAmax (g : Guard) (w : Bool) (rd ra rb : XReg) (s : State) : Out :=
  cWord 2 g (some 1) (atomBody w rd ra rb fun n _ b old => smaxNat n old b) s
/-- ASWAP (R116). -/
def execAswap (g : Guard) (w : Bool) (rd ra rb : XReg) (s : State) : Out :=
  cWord 2 g (some 1) (atomBody w rd ra rb fun _ _ b _ => b) s
/-- CAS: rd compared, rb swapped in (R116). -/
def execCas (g : Guard) (w : Bool) (rd ra rb : XReg) (s : State) : Out :=
  cWord 2 g (some 1) (atomBody w rd ra rb fun _ a b old => if old = a then b else old) s

end Machine

end Sys2Proof
end

