-- ==== Sys2Proof/Machine/Operands.lean ====
section
/-!
DEFINITION. Machine/Operands.lean: the operands of V instructions: element types (R50, R138), queues read, popped and
pushed (R22 to R26), masks and merge sources (R139), groups (R26, R162), and the shape every V instruction over queues
has (R140, R141).
-/

namespace Sys2Proof

namespace Machine

/-! ### Element types -/

/-- The format code an element type stands for (R50). -/
def etFmt (et : BitVec 4) : BitVec 5 :=
  match et.toNat with
  | 0 => 0x0A
  | 1 => 0x09
  | 2 => 0x08
  | 3 => 0x0C
  | 4 => 0x03
  | 5 => 0x04
  | 6 => 0x02
  | 7 => 0x01
  | 8 => 0x00
  | _ => 0x11

/-- The floating format of an element type. -/
def etFF (et : BitVec 4) : FF := (ffOf (etFmt et).toNat).getD ff32

/-- FP16, BF16 and FP32 (R11). -/
def etIsFloat (et : BitVec 4) : Bool := decide (6 ≤ et.toNat) && decide (et.toNat ≤ 8)

/-- Lanes of an entry of an element width (R138). -/
def lanesIn (w : Nat) : Nat := 4096 / w

/-- Lane j of width w of packed data (R138); a group's registers follow one another (R26). -/
def laneAt (w d j : Nat) : Nat := d / 2 ^ (w * j) % 2 ^ w

/-! ### Entries -/

/-- An entry of a format with its segment words computed (R140). -/
def mkEntry (fmt : BitVec 5) (d : Nat) : Entry :=
  { fmt := fmt, data := BitVec.ofNat 4096 d, segs := (segmentsOf fmt.toNat (d % 2 ^ 4096)).1.map fun n => BitVec.ofNat 32 n }

/-- An entry read under a format: under another one than its own, its segment words are recomputed (R22). -/
def Entry.under (e : Entry) (fmt : BitVec 5) : Entry := if e.fmt = fmt then e else mkEntry fmt e.data.toNat

/-- Packed data split over the registers of a group (R26). -/
def splitGroup (fmt : BitVec 5) (g d : Nat) : List Entry :=
  (List.range g).map fun i => mkEntry fmt (d / 2 ^ (4096 * i) % 2 ^ 4096)

/-! ### Queues -/

/-- The queues an instruction reads, each with its peek bit. -/
abbrev Srcs := List (VReg × Bool)

/-- A register of a group. -/
def groupReg (v : VReg) (i : Nat) : VReg := Fin.ofNat 32 (v.val + i)

/-- The registers of a group. -/
def groupRegs (v : VReg) (g : Nat) : List VReg := (List.range g).map (groupReg v)

/-- A source group read with one peek bit. -/
def groupSrcs (v : VReg) (g : Nat) (peek : Bool) : Srcs := (groupRegs v g).map fun r => (r, peek)

/-- The head entry of a queue (R21). -/
def Task.head (t : Task) (q : VReg) : Entry := (t.queue q).headD { fmt := 0, data := 0, segs := [] }

/-- The data of a queue's head. -/
def Task.headBits (t : Task) (q : VReg) : Nat := (t.head q).data.toNat

/-- The data of the heads of a group, the first register lowest (R26). -/
def Task.groupBits (t : Task) (v : VReg) (g : Nat) : Nat :=
  ((List.range g).map fun i => t.headBits (groupReg v i) * 2 ^ (4096 * i)).foldl (· + ·) 0

/-- The queues that sources pop: each once, unless every field that names it peeks (R24). -/
def popSet (srcs : Srcs) : List VReg := ((srcs.filter fun s => !s.2).map Prod.fst).dedup

/-- The task with its source queues popped. -/
def Task.popAll (t : Task) (srcs : Srcs) : Task := (popSet srcs).foldl Task.popQ t

/-- The task with entries pushed to registers. -/
def Task.pushAll (t : Task) : List (VReg × Entry) → Task
  | [] => t
  | (q, e) :: rest => (t.pushQ q e).pushAll rest

/-- Underflow, then overflow (R25, R141 step 3): the task after its pops. -/
def Task.takeSources (t : Task) (srcs : Srcs) (dsts : List VReg) : Res Task :=
  if srcs.any fun s => (t.queue s.1).isEmpty then raise 3 0 0
  else
    let p := t.popAll srcs
    if dsts.any fun d => decide (4 ≤ (p.queue d).length) then raise 4 0 0 else .ok p

/-- What a V instruction over queues computes from the heads it sees: entries, and the task's flags and counters. -/
abbrev VResult := Task → List Entry × (Task → Task)

/-- The body of a V instruction over queues (R140, R141): sources, ETFORM, results. -/
def queueBody (srcs : Srcs) (dsts : List VReg) (form : Bool) (f : VResult) : Body := fun _ _ s t => do
  let p ← t.takeSources srcs dsts
  if !form then illegalOp 13
  else
    let r := f t
    .ok (s, (r.2 p).pushAll (dsts.zip r.1))

/-! ### Masks (R139) -/

/-- Whether element j of a destination group is active. -/
def activeAt (m : MaskBits) (j : Nat) : Bool := m.getLsbD (j % 1024)

/-- The elements of a destination: computed where active, else merged or the zero of the type (R139, R140, R325): bits
and flags. -/
def maskLanes (m : MaskBits) (kz : Bool) (zr n : Nat) (merge : Option (Nat → Nat)) (op : Nat → Nat × Nat) :
    List (Nat × Nat) :=
  (List.range n).map fun j =>
    if activeAt m j then op j
    else match merge with
      | some g => (if kz then zr else g j, 0)
      | none => (zr, 0)

/-- The flags and counts of lanes (R41, R64, R68). -/
def Task.noteLanes (t : Task) (ls : List (Nat × Nat)) : Task :=
  let fl := ls.foldl (fun a l => a ||| l.2) 0
  let cnt (b : Nat) := (ls.filter fun l => decide (l.2 &&& b ≠ 0)).length
  (t.flag fl).count (cnt flSat) (cnt flUfl)

/-- An operation on the lanes of one to three sources: it takes lanes a, b and c. -/
abbrev LaneOp := Nat → Nat → Nat → Nat × Nat

/-- The source queues of a form of one, two or three operands. -/
def vfSrcs (f : VF) (n : Nat) : Srcs := [(f.va, f.qa), (f.vb, f.qb), (f.vc, f.qc)].take n

/-- The bits of lanes, packed (R48). -/
def laneBits (w : Nat) (ls : List (Nat × Nat)) : Nat := packLanes w (ls.map Prod.fst)

/-- An element-wise instruction (R140): `n` operands, merged from va, or from vc when it is the third. -/
def laneBody (f : VF) (n : Nat) (op : Task → LaneOp) : Body :=
  let w := etWidth f.et
  queueBody (vfSrcs f n) [f.vd] true fun t =>
    let a := t.headBits f.va
    let b := if 2 ≤ n then t.headBits f.vb else 0
    let c := if 3 ≤ n then t.headBits f.vc else 0
    let ls := maskLanes (t.getK f.k) f.kz 0 (lanesIn w) (some (laneAt w (if 3 ≤ n then c else a)))
      fun j => op t (laneAt w a j) (laneAt w b j) (laneAt w c j)
    ([mkEntry (etFmt f.et) (laneBits w ls)], fun p => p.noteLanes ls)

/-- A result without flags. -/
def noFlags (n : Nat) : Nat × Nat := (n, 0)

end Machine

end Sys2Proof
end

