-- ==== Sys2Proof/Machine/Tiles.lean ====
section
/-!
DEFINITION. Machine/Tiles.lean: checksummed tiles: their words (R69, R255), what a checksum fault reports (R264 to R266),
the compares and the single-element correction (R261, R262), and the refresh of a sideband (R148, R260).
-/

namespace Sys2Proof

namespace Machine

/-! ### What a checksum fault reports -/

/-- What CKFAULT and CTINFO say of a failing compare (R265, R281). -/
structure CkFault where
  kind     : Nat
  col      : Bool
  index    : Nat
  nrow     : Nat
  ncol     : Nat
  fmt      : Nat
  space    : Nat
  addr     : Nat
  carried  : Nat
  computed : Nat
  deriving DecidableEq, Repr

/-- CKFAULT (R265). -/
def CkFault.word (f : CkFault) : Nat :=
  f.kind * 2 ^ 52 + bitNat f.col * 2 ^ 51 + f.index % 64 * 2 ^ 45 + f.nrow * 2 ^ 38 + f.ncol * 2 ^ 31 + f.fmt * 2 ^ 26 +
    f.space * 2 ^ 24

/-- The checksum event (R264, R281): CTINFO is 0 for kind 0. -/
def CkFault.event (f : CkFault) : Event :=
  ⟨3, BitVec.ofNat 64 (if f.kind = 0 then 0 else f.carried % 2 ^ 32 * 2 ^ 32 + f.computed % 2 ^ 32),
    some (BitVec.ofNat 64 f.word, BitVec.ofNat 64 f.addr), [], 0⟩

/-- A checksum fault ends an operation. -/
def ckStop {α : Type} (f : CkFault) : Res α := .error (.event f.event)

/-- The first index at which two lists of words differ, with the two words. -/
def firstDiff : Nat → List Nat → List Nat → Option (Nat × Nat × Nat)
  | i, a :: as, b :: bs => if a = b then firstDiff (i + 1) as bs else some (i, a, b)
  | _, _, _ => none

/-- How many places of two lists of words differ. -/
def countDiff (a b : List Nat) : Nat := ((a.zip b).filter fun p => decide (p.1 ≠ p.2)).length

/-- The compare of an entry's segment words with its data under a format, for an instruction at an address (R147, R169). -/
def checkEntry (e : Entry) (fmt : BitVec 5) (pc : Word64) : Res Unit :=
  let e := e.under fmt
  let want := e.segs.map BitVec.toNat
  let got := (segmentsOf fmt.toNat e.data.toNat).1
  match firstDiff 0 want got with
  | none => .ok ()
  | some (i, a, b) =>
    ckStop { kind := 4, col := false, index := i, nrow := 0, ncol := 0, fmt := fmt.toNat, space := 1, addr := pc.toNat,
             carried := a, computed := b }

/-! ### The words of a tile -/

/-- Bytes of a row of a tile (R255). -/
def rowBytes (fmt : BitVec 5) : Nat := 8 * fmtWidth fmt

/-- The 64 elements of row i of a tile's data. -/
def tileRow (fmt : BitVec 5) (d i : Nat) : List Nat :=
  lanesOf (fmtWidth fmt) 64 (d / 2 ^ (8 * rowBytes fmt * i) % 2 ^ (8 * rowBytes fmt))

/-- The rows of a tile's data. -/
def tileRows (fmt : BitVec 5) (d : Nat) : List (List Nat) := (List.range 64).map (tileRow fmt d)

/-- Columns from rows. -/
def columnsOf (rows : List (List Nat)) : List (List Nat) := (List.range 64).map fun j => rows.map fun r => r.getD j 0

/-- Checksums of lists of elements (R69). -/
def sumsOf (fmt : BitVec 5) (ls : List (List Nat)) : List Nat := ls.map fun l => (checksum fmt.toNat l).1

/-- The flag that reading a tile's elements sets (R47). -/
def tileFlags (fmt : BitVec 5) (rows : List (List Nat)) : Nat :=
  if fmt = 0x0F ∧ rows.any (fun r => r.contains 2) then flTern2 else 0

/-- A sideband: 64 row words, then 64 column words (R255). -/
def sidebandOf (fmt : BitVec 5) (rows : List (List Nat)) : List Byte :=
  (sumsOf fmt rows ++ sumsOf fmt (columnsOf rows)).flatMap fun w => bytesOf 4 w

/-- A tile's data from its rows. -/
def packTile (fmt : BitVec 5) (rows : List (List Nat)) : List Byte :=
  rows.flatMap fun r => bytesOf (rowBytes fmt) (packLanes (fmtWidth fmt) r)

/-- A list of rows with one element changed. -/
def setElem (rows : List (List Nat)) (i j v : Nat) : List (List Nat) := rows.modify i fun r => r.set j v

/-! ### Compare and correction (R261, R262) -/

/-- What a compare of a tile ends in. -/
inductive Verdict where
  | pass
  | fixed (i j v : Nat)
  | bad (col : Bool) (index nrow ncol carried computed : Nat)
  deriving DecidableEq, Repr

/-- The fault a verdict stands for. -/
def Verdict.fault (v : Verdict) (kind fmt space addr : Nat) : CkFault :=
  match v with
  | .bad col i nr nc a b => ⟨kind, col, i, nr, nc, fmt, space, addr, a, b⟩
  | _ => ⟨kind, false, 0, 0, 0, fmt, space, addr, 0, 0⟩

/-- The verdict of failing words without a correction. -/
def badVerdict (rowW colW rs cs : List Nat) : Verdict :=
  match firstDiff 0 rowW rs, firstDiff 0 colW cs with
  | some (i, a, b), _ => .bad false i (countDiff rowW rs) (countDiff colW cs) a b
  | none, some (j, a, b) => .bad true j 0 (countDiff colW cs) a b
  | none, none => .pass

/-- The exact dyadic of a finite value. -/
def Fp.dy : Fp → Option (Int × Int)
  | .fin n m e => some (signed n m, e)
  | _ => none

/-- The difference of two dyadics. -/
def subDy (a b : Int × Int) : Int × Int := addDy a (-b.1, b.2)

/-- Whether |a| > |b| for dyadics. -/
def dyAbsGt (a b : Int × Int) : Bool := decide (0 < (subDy ((a.1.natAbs : Int), a.2) ((b.1.natAbs : Int), b.2)).1)

/-- The exact sum of the magnitudes of finite elements. -/
def absSum (fmt : Nat) (l : List Nat) : Int × Int :=
  l.foldl (fun a w => match (elemValue fmt w).1 with | .fin _ m e => addDy a ((m : Int), e) | _ => a) (0, 0)

/-- 2^−s times a sum plus 2^−126: the tolerance of R209 and R262. -/
def tolerance (s : Nat) (a b : Int × Int) : Int × Int :=
  let t := addDy a b
  addDy (t.1, t.2 - (s : Int)) (1, -126)

/-- The corrected value of an integer element: none when R262 finds a fault. -/
def fixInt (fmt : Nat) (old dr dc : Nat) : Option Nat :=
  if dr ≠ dc then none
  else
    match (elemValue fmt old).1 with
    | .fin n m _ => encodeInt fmt (toSigned 32 (ofInt 32 (signed n m + dr)))
    | _ => none

/-- The corrected value of a floating element, from the four sums and the absolute sums of its row and column: none when
R262 finds a fault. The check with the value in place is the caller's. -/
def fixFloat (fmt : Nat) (old rowW rs colW cs s : Nat) (ra ca : Int × Int) : Option Nat :=
  match (elemValue fmt old).1.dy, (ff32.value rowW).dy, (ff32.value rs).dy, (ff32.value colW).dy, (ff32.value cs).dy with
  | some x, some a, some b, some c, some d =>
    let dr := subDy a b
    let dc := subDy c d
    if dyAbsGt (subDy dr dc) (tolerance s ra ca) then none
    else some (convert fmt .ne (ofDy false (addDy x dr))).bits
  | _, _, _, _, _ => none

/-- The compare of a stored tile with its words (R261), with the correction of R262 where the family allows it: integers
when `okInt`, floating formats when `okFloat`. `s` is the tolerance shift. -/
def judgeTile (fmt : BitVec 5) (rows : List (List Nat)) (rowW colW : List Nat) (okInt okFloat : Bool) (s : Nat) : Verdict :=
  let cols := columnsOf rows
  let rs := sumsOf fmt rows
  let cs := sumsOf fmt cols
  match firstDiff 0 rowW rs, firstDiff 0 colW cs with
  | none, none => .pass
  | some (i, a, b), some (j, c, d) =>
    let bad := badVerdict rowW colW rs cs
    let old := (rows.getD i []).getD j 0
    if countDiff rowW rs ≠ 1 ∨ countDiff colW cs ≠ 1 then bad
    else
      match ffOf fmt.toNat with
      | none =>
        if okInt then
          match fixInt fmt.toNat old (ofInt 32 ((a : Int) - b)) (ofInt 32 ((c : Int) - d)) with
          | some v => .fixed i j v
          | none => bad
        else bad
      | some _ =>
        if okFloat then
          let row := rows.getD i []
          let col := cols.getD j []
          match fixFloat fmt.toNat old a b c d s (absSum fmt.toNat row) (absSum fmt.toNat col) with
          | some v =>
            if (checksum fmt.toNat (row.set j v)).1 = a ∧ (checksum fmt.toNat (col.set i v)).1 = c then .fixed i j v
            else bad
          | none => bad
        else bad
  | _, _ => badVerdict rowW colW rs cs

/-- Row words and column words of a sideband's bytes. -/
def wordsOfSideband (bs : List Byte) : List Nat × List Nat :=
  let ws := wordsOf 4 128 bs
  (ws.take 64, ws.drop 64)

/-- A 32-bit count saturated, raised by one (R267). -/
def Task.countCorr (t : Task) : Task := { t with sys := { t.sys with ckcorr := satCount t.sys.ckcorr 1 } }

end Machine

end Sys2Proof
end

