-- ==== Sys2Proof/Machine/Engine.lean ====
section
/-!
DEFINITION. Machine/Engine.lean: what the four engines share: parameter stacks (R90 to R92), commands and their order
(R173 to R183), the range checks at a launch word (R178), and how a running command reads, writes and ends (R210, R306).
-/

namespace Sys2Proof

namespace Machine

/-! ### Parameter stacks: the top stands first -/

/-- The parameter stack of an engine. -/
def Task.stack (t : Task) (e : Eng) : List Word64 :=
  match e with
  | .m => t.mStack
  | .x => t.xStack
  | .p => t.pStack
  | .s => t.sStack

/-- A parameter stack replaced. -/
def Task.setStack (t : Task) (e : Eng) (l : List Word64) : Task :=
  match e with
  | .m => { t with mStack := l }
  | .x => { t with xStack := l }
  | .p => { t with pStack := l }
  | .s => { t with sStack := l }

/-- Values popped, the top first, or the underflow trap (R92). -/
def Task.popWords (t : Task) (e : Eng) (n : Nat) : Res (List Word64 × Task) :=
  if (t.stack e).length < n then raise 5 0 0 else .ok ((t.stack e).take n, t.setStack e ((t.stack e).drop n))

/-- Values pushed, the last one on top, or the overflow trap (R92). -/
def Task.pushWords (t : Task) (e : Eng) (vs : List Word64) : Res Task :=
  if 8 < (t.stack e).length + vs.length then raise 6 0 0 else .ok (t.setStack e (vs.reverse ++ t.stack e))

/-- A word that only works on its stack (R91): what it pops, the top first, gives what it pushes, the last on top. -/
def stackWord (e : Eng) (n pops : Nat) (f : List Word64 → List Word64) (s : State) : Out :=
  engWord e n none (fun _ _ s t => do
    let r ← t.popWords e pops
    let t' ← r.2.pushWords e (f r.1)
    .ok (s, t')) s

/-- lit (R91). -/
def execLit (e : Eng) (n : BitVec 8) (s : State) : Out := stackWord e 1 0 (fun _ => [n.signExtend 64]) s
/-- lith (R91). -/
def execLith (e : Eng) (n : BitVec 8) (s : State) : Out :=
  stackWord e 1 1 (fun l => [(l.getD 0 0 <<< 8) ||| n.setWidth 64]) s
/-- lit32 (R91). -/
def execLit32 (e : Eng) (n : Word32) (s : State) : Out := stackWord e 3 0 (fun _ => [n.signExtend 64]) s
/-- dup (R91). -/
def execDup (e : Eng) (s : State) : Out := stackWord e 1 1 (fun l => [l.getD 0 0, l.getD 0 0]) s
/-- drop (R91). -/
def execDrop (e : Eng) (s : State) : Out := stackWord e 1 1 (fun _ => []) s
/-- swap: a b gives b a (R91). -/
def execSwap (e : Eng) (s : State) : Out := stackWord e 1 2 (fun l => [l.getD 0 0, l.getD 1 0]) s
/-- over: a b gives a b a (R91). -/
def execOver (e : Eng) (s : State) : Out := stackWord e 1 2 (fun l => [l.getD 1 0, l.getD 0 0, l.getD 1 0]) s
/-- rot: a b c gives b c a (R91). -/
def execRot (e : Eng) (s : State) : Out := stackWord e 1 3 (fun l => [l.getD 1 0, l.getD 0 0, l.getD 2 0]) s

/-- A setup word (R176): values popped, checked and written to the next configuration. -/
def setupWord (e : Eng) (fx : Effect) (pops : Nat) (f : List Word64 → Task → Res Task) (s : State) : Out :=
  engWord e 1 fx (fun _ _ s t => do
    let r ← t.popWords e pops
    let t' ← f r.1 r.2
    .ok (s, t')) s

/-- A popped value. -/
def popped (l : List Word64) (i : Nat) : Nat := (l.getD i 0).toNat
/-- A popped value read as signed. -/
def poppedInt (l : List Word64) (i : Nat) : Int := (l.getD i 0).toInt

/-- A query word (R176): it waits for every earlier command of its engine, and pushes a value. -/
def queryWord (e : Eng) (bad : Task → Res Unit) (v : State → Task → Word64) (s : State) : Out :=
  engWord e 1 none (fun _ _ s t => do
    bad t
    if t.cmds.any fun c => decide (c.eng = e) then .error .wait
    else
      let t' ← t.pushWords e [v s t]
      .ok (s, t')) s

/-! ### Commands and their order -/

/-- A command accepted (R173). -/
def Task.accept (t : Task) (head : Word64) (e : Eng) (track : Fin 16) (foot : List Foot) (pages : List PageUse)
    (kind : CmdKind) (makes : List Foot := []) : Task :=
  { t with nextSeq := t.nextSeq + 1,
           cmds := t.cmds ++ [{ seq := t.nextSeq, addr := head, eng := e, track := track, depth := t.regions.length,
                                foot := foot, pages := pages, makes := makes, kind := kind }] }

/-- Whether a footprint range meets another, at least one of them writing (R181). -/
def Foot.meets (a b : Foot) : Bool := decide (a.lo < b.hi) && decide (b.lo < a.hi) && (a.write || b.write)

/-- Whether a command is a waiting word. -/
def Cmd.waits (c : Cmd) : Bool :=
  match c.kind with
  | .mWaitc .. => true
  | .xWaitc .. => true
  | _ => false

/-- The z tiles a walk of a nest table may visit from tile z (R203). -/
def tilesOfNest (nest : Vector NestLevel 6) (z : Nat) : List Nat :=
  (nest.toList.drop 1).foldl (fun (ts : List Nat) lv =>
    (ts.flatMap fun (t : Nat) => (List.range (min lv.count 8)).map fun (i : Nat) => (((t : Int) + (i : Int) * lv.strC) % 8).toNat).dedup) [z]

/-- The z tiles that a command names (R183): for m.go every tile of its walk. -/
def Cmd.names (c : Cmd) : List Nat :=
  match c.kind with
  | .mGo _ _ nest z _ _ _ _ => tilesOfNest nest z.val
  | _ => c.tiles

/-- Whether a command keeps statistics (R68). -/
def Cmd.stats (c : Cmd) : Bool :=
  match c.kind with
  | .mStore _ _ _ _ _ st => st
  | _ => false

/-- Whether a command must complete before a later one starts (R181 to R183, R174, R231, R248, R68). -/
def Cmd.before (p c : Cmd) : Bool :=
  (p.foot.any fun a => c.foot.any fun b => a.meets b) ||
  (decide (p.eng = c.eng) &&
    match c.eng with
    | .m => decide (p.track = c.track) || p.waits || (p.names.any fun z => c.names.contains z) || (p.stats && c.stats)
    | .x => decide (p.track = c.track) || p.waits ||
      (match c.kind with
       | .xMove x => decide (x.chain = some p.seq)
       | _ => false)
    | _ => true)

/-- Whether a command may start or go on. -/
def Task.ready (t : Task) (c : Cmd) : Bool := t.cmds.all fun p => !(decide (p.seq < c.seq) && p.before c)

/-- A command changed. -/
def Task.setCmd (t : Task) (seq : Nat) (k : CmdKind) : Task :=
  { t with cmds := t.cmds.map fun c => if c.seq = seq then { c with kind := k } else c }

/-- A command gone. -/
def Task.dropCmd (t : Task) (seq : Nat) : Task := { t with cmds := t.cmds.filter fun c => decide (c.seq ≠ seq) }

/-- A completion counter raised by 1 (R124, R202, R233). -/
def Task.countCc (t : Task) (n : Fin 16) : Task := { t with cc := t.cc.set n.val (t.cc[n.val] + 1) }

/-- A waiting word once a command has advanced its counter: a command behind it in dynamic order does not release it, so
its target moves along, and the wait ends overdue (R175). -/
def Cmd.notReleased (q : Cmd) (w : Cmd) : Cmd :=
  if w.seq < q.seq then
    match w.kind with
    | .mWaitc cc target => if cc = q.track then { w with kind := .mWaitc cc (target + 1) } else w
    | .xWaitc cc target => if cc = q.track then { w with kind := .xWaitc cc (target + 1) } else w
    | _ => w
  else w

/-- A command's advance of its counter (R202, R233). -/
def Task.countCmd (t : Task) (q : Cmd) : Task :=
  { t.countCc q.track with cmds := t.cmds.map q.notReleased }

/-- Whether the engines of a core run (R184, R271): it executes a task, neither frozen nor stopped. -/
def State.engineTask (s : State) (c : CoreId) : Option Task :=
  let k := s.core c
  if k.frozen || (s.dies[(dieOf c).val]).frozen then none
  else
    match k.status, k.task with
    | .running, some t =>
      match t.wait with
      | .parking => none
      | .ended _ => none
      | .aborted => none
      | _ => some t
    | _, _ => none

/-- What consumes an event of a command. -/
def Cmd.eater (c : Cmd) : Eater := ⟨engCode c.eng, c.track.val, true, c.addr, c.depth⟩

/-- A copy command whose first part meets an event has begun its running value: x.ckget gives it as it stands then, the
seed; of a put that its destination has answered, the value of the answer (R230, R242). -/
def Task.noteSeed (t : Task) (c : Cmd) : Task :=
  let note (x : XCmd) : Task :=
    { t with xlast := t.xlast.map fun l => if l.seq = c.seq then { l with value := x.value } else l }
  match c.kind with
  | .xMove x => if (if x.cfg.dspace = .remote then x.outcome.isSome else !x.begun) = true then note x else t
  | .xVerify x => if x.begun then t else note x
  | _ => t

/-- The end of a command by an event it consumes (R210): its own tiles are poisoned with those of every unfinished
command. -/
def State.failCmd (s : State) (k : CoreId) (t : Task) (e : Event) (c : Cmd) : State :=
  s.consume k (t.noteSeed c) e c.eater

/-- What becomes of a core whose command stopped: an event ends it, a trap is taken at its launch word; in a pair the trap's
record is an effect (R186). -/
def State.stopCmd (s : State) (k : CoreId) (t : Task) (c : Cmd) (e : Stop) : State :=
  match e with
  | .event e => s.failCmd k t e c
  | .trap x =>
    match s.pairStop k t (some 5) with
    | some e => (s.setCore k fun x => { x with pairFault := false }).failCmd k t e c
    | none => s.takeTrap k t x (engCode c.eng) c.addr (s.textAt k t c.addr) 0 0
  | .wait => s

/-- What one unit of a command does: the state and the task after it, or an event that ends the command. -/
abbrev Unit_ := Res (State × Task)

/-- A command's unit performed on a core, with the pair fault and the lane-test fault that may meet it (R187, R284). -/
def State.unit (s : State) (k : CoreId) (seq : Nat) (fx : Effect) (f : Task → Cmd → Unit_) : State :=
  match s.engineTask k with
  | none => s
  | some t =>
    match t.cmds.find? fun c => decide (c.seq = seq) with
    | none => s
    | some c =>
      if !t.ready c then s
      else
        match (if c.eng = .m then s.laneStop k true else none) with
        | some e => (s.setCore k fun x => { x with laneFault := none }).failCmd k t e c
        | none =>
          match s.pairStop k t fx with
          | some e => (s.setCore k fun x => { x with pairFault := false }).failCmd k t e c
          | none =>
            match f t c with
            | .ok (s', t') => s'.setTask k t'
            | .error e => s.stopCmd k t c e

/-! ### Range checks at a launch word (R178) -/

/-- An address as a record holds it. -/
def addr64 (a : Int) : Nat := (a % 2 ^ 64).toNat

/-- A scratchpad range below the lay-by. -/
def checkSpad (lo hi : Int) : Res Unit :=
  if hi ≤ lo then .ok ()
  else if lo < 0 then raise 9 0 (addr64 lo)
  else if (laybyBase : Int) < hi then raise 9 0 (addr64 (max lo laybyBase))
  else .ok ()

/-- A W-space range inside the launch's window and below the size register. -/
def State.checkW (s : State) (c : CoreId) (lo hi : Int) : Res Unit :=
  let k := s.core c
  if hi ≤ lo then .ok ()
  else if lo < (k.wwbase.toNat : Int) then raiseReplay 8 (addr64 lo)
  else if (k.wwlim.toNat : Int) < hi then raiseReplay 8 (addr64 (max lo k.wwlim.toNat))
  else if !s.wValid lo.toNat (hi - lo).toNat then raiseReplay 8 (addr64 lo)
  else .ok ()

/-- A D-space range of rows that a command names. -/
structure DRange where
  base  : Nat
  len   : Nat
  rows  : Nat
  str   : Int
  write : Bool
  deriving DecidableEq, Repr

/-- Start of a row. -/
def DRange.rowAt (r : DRange) (i : Nat) : Nat := addr64 ((r.base : Int) + (i : Int) * r.str)

/-- The smaller of two numbers that may be absent. -/
def minOpt : Option Nat → Option Nat → Option Nat
  | some a, some b => some (min a b)
  | some a, none => some a
  | none, b => b

/-- The lowest byte of a range at or above an address. -/
def DRange.from_ (r : DRange) (a : Nat) : Option Nat :=
  (List.range r.rows).foldl (fun m i =>
    let p := r.rowAt i
    minOpt m (if a < p + r.len then some (max p a) else none)) none

/-- The end of the bytes of a range that lie below an address and at or above another. -/
def DRange.lastIn (r : DRange) (lo hi : Nat) : Nat :=
  (List.range r.rows).foldl (fun m i =>
    let p := r.rowAt i
    if p < hi ∧ lo < p + r.len then max m (min hi (p + r.len)) else m) lo

/-- A page met in ascending order (R178): base, size, and the leaf when it has a translation. -/
structure Piece where
  va   : Nat
  size : Nat
  at_  : Nat
  leaf : Option Nat
  deriving DecidableEq, Repr

/-- The pages that ranges touch, ascending, the first `fuel` of them. A page without a translation counts as 64 KiB. -/
def State.pieces (s : State) (c : CoreId) (t : Task) (rs : List DRange) : Nat → Nat → List Piece
  | 0, _ => []
  | k + 1, a =>
    match rs.foldl (fun m r => minOpt m (r.from_ a)) none with
    | none => []
    | some x =>
      let size := 65536
      match (s.jobOf t.rs.rc.job).bind fun j => s.leafOf c j x with
      | none => ⟨x / size * size, size, x, none⟩ :: s.pieces c t rs k (x / size * size + size)
      | some (e, size) => ⟨x / size * size, size, x, some e⟩ :: s.pieces c t rs k (x / size * size + size)

/-- The part of a range that lies in a page: first byte and end. -/
def DRange.inPage (r : DRange) (p : Piece) : Option (Nat × Nat) :=
  match r.from_ p.va with
  | some a => if a < p.va + p.size then some (a, r.lastIn p.va (p.va + p.size)) else none
  | none => none

/-- The checks of one page for one range (R178): the translation and permission of each 64 KiB unit it touches, the kind of
page, the aperture, the write ranges. -/
def State.checkPage (s : State) (c : CoreId) (t : Task) (p : Piece) (r : DRange) : Res Unit :=
  match r.inPage p with
  | none => .ok ()
  | some (a, b) =>
    (blocksOf 65536 a (b - a)).foldlM (fun _ u => do
      let va := max a u
      let x ← s.translate c t.rs.rc.job va (if r.write then .write else .read)
      if x.typ = .mmio then raise 2 9 va
      else if r.write ∧ x.typ = .wap then raise 10 0 va
      else if r.write ∧ x.typ = .host ∧ t.rs.rc.commit = true then raise 2 24 va
      else if x.typ = .wap ∧ (s.dies[(wDie x.pa).val]).wready = false then raiseReplay 13 va
      else if r.write ∧ (x.typ = .lpddr ∨ x.typ = .host) then
        ((List.range r.rows).foldlM (fun _ i =>
          let q := r.rowAt i
          let lo := max q va
          let hi := min (q + r.len) (min b (u + 65536))
          if lo < hi ∧ !t.inWriteRange lo (hi - lo) then raise 12 0 lo else .ok ()) ())
      else .ok ()) ()

/-- The D-space checks of a launch word (R178): pages in ascending order, a read before a write; SPAN before a 65th. -/
def State.checkPieces (s : State) (c : CoreId) (t : Task) (rs : List DRange) : Nat → List Piece → Res Unit
  | _, [] => .ok ()
  | n, p :: ps =>
    if 64 ≤ n then illegalOp 16
    else do
      -- a page without a leaf: the poison of a walk that met a broken entry (R356), or the translation fault
      if p.leaf.isNone then (s.translate c t.rs.rc.job p.at_ .read).bind fun _ => raiseReplay 8 p.at_
      (rs.filter fun r => !r.write).foldlM (fun _ r => s.checkPage c t p r) ()
      (rs.filter fun r => r.write).foldlM (fun _ r => s.checkPage c t p r) ()
      s.checkPieces c t rs (n + 1) ps

/-- The pages a command holds (R179). -/
def pagesOf (s : State) (t : Task) (ps : List Piece) : List PageUse :=
  ps.filterMap fun p => p.leaf.map fun e =>
    { tag := ((s.jobOf t.rs.rc.job).map Job.tag).getD 0, global := bitAt e 10, va := p.va, size := p.size,
      pa := bitsAt e 16 36 * 65536, wap := decide (mtypeOf (bitsAt e 2 3) = some .wap), slot := t.slot,
      seq := t.nextSeq }

/-- The physical footprint of D-space ranges (R180): one bounding range a page; W-space is not in it (R191). -/
def footOf (ps : List Piece) (rs : List DRange) : List Foot :=
  ps.flatMap fun p =>
    match p.leaf with
    | none => []
    | some e =>
      if mtypeOf (bitsAt e 2 3) = some .wap then []
      else
        let pa := bitsAt e 16 36 * 65536
        rs.filterMap fun r => (r.inPage p).map fun q => ⟨pa + (q.1 - p.va), pa + (q.2 - p.va), r.write, false⟩

/-- The footprint with the sidebands of the tiles it meets, and of those that a pending command may make there (R180,
R258). -/
def State.withSidebands (s : State) (t : Task) (fs : List Foot) : List Foot :=
  fs ++ fs.flatMap fun f =>
    ((tilesIn (s.viewOf t).tiles f.lo (f.hi - f.lo)).map fun e =>
      ⟨e.1 + tileSize e.2.fmt, e.1 + tileSize e.2.fmt + 512, f.write, f.own⟩) ++
    ((t.cmds.flatMap Cmd.makes).filter fun m => decide (m.lo < f.hi) && decide (f.lo < m.hi + 512)).map fun m =>
      ⟨m.hi, m.hi + 512, f.write, f.own⟩

/-- The footprint with the whole of every tile that a range marked as written meets, and of those that a pending command
may make there: a verification reads the tile in full, and a correction stands as a write in the footprint (R263). -/
def State.withTiles (s : State) (t : Task) (fs : List Foot) : List Foot :=
  fs ++ (fs.filter fun f => f.write).flatMap fun f =>
    ((tilesIn (s.viewOf t).tiles f.lo (f.hi - f.lo)).map fun e => ⟨e.1, e.1 + tileSize e.2.fmt + 512, true, f.own⟩) ++
    ((t.cmds.flatMap Cmd.makes).filter fun m => decide (m.lo < f.hi) && decide (f.lo < m.hi + 512)).map fun m =>
      ⟨m.lo, m.hi + 512, true, f.own⟩

/-! ### What a running command reads and writes -/

/-- The physical place of a D-space address under a command's pages. -/
def Cmd.at_ (c : Cmd) (va : Nat) : Option (Nat × Bool) :=
  (c.pages.find? fun p => decide (p.va ≤ va) && decide (va < p.va + p.size)).map fun p => (p.pa + (va - p.va), p.wap)

/-- A memory-model exception against a command (R178, R281), with the address in the space that named it. -/
def modelStop {α : Type} (addr : Nat) : Res α := contain 8 (addr % 2 ^ 48) []

/-- The stamps of SRAM bytes that a command touches (R307), and of the sidebands a read meets (R258): a conflict is an
event of the command. `name` is the address that named physical address `pa`. -/
def State.cmdTouch (s : State) (t : Task) (pa n : Nat) (how : Touch) (name : Nat) : Res State :=
  if (homeOf pa).isSram then
    (granules pa n ++ (if how = .read then (s.viewOf t).sideReads pa n else [])).foldlM (fun s g =>
      match s.touchGranule t g how none with
      | some s' => .ok s'
      | none => modelStop (name + (max (64 * g) pa - pa))) s
  else .ok s

/-- The space codes of CTINFO for cause MEMORY (R281). -/
def memInfo (space addr : Nat) : Nat := space * 2 ^ 62 + addr % 2 ^ 48

/-- The first poisoned ECC word of physical bytes, as it lies from `pa`. -/
def State.poisonIn (s : State) (t : Task) (pa n : Nat) : Option Nat :=
  (((s.viewOf t).checkMacs pa n).poisonedAt pa n).map fun w => w - pa

/-- Scratchpad bytes that a command of core `k` reads: poison is consumed (R212), stamps are touched. -/
def State.readSpad (s : State) (k : CoreId) (t : Task) (off n : Nat) : Res (State × List Byte) := do
  let pa := spadPa k off
  match s.poisonedAt pa n with
  | some w => contain 1 (memInfo 1 (off + w - pa)) []
  | none =>
    let s ← s.cmdTouch t pa n .read off
    .ok (s, s.readPa pa n)

/-- Scratchpad bytes that a command writes. -/
def State.writeSpad (s : State) (k : CoreId) (t : Task) (off : Nat) (bs : List Byte) (stale : Bool) : Res (State × Task) := do
  let pa := spadPa k off
  let s ← s.cmdTouch t pa bs.length .write off
  let s ← if stale then (s.sideGranules pa bs.length).foldlM (fun s g =>
      match s.touchGranule t g .write none with
      | some s' => .ok s'
      | none => modelStop off) s
    else .ok s
  s.taskWrite k t pa bs stale

/-- W-space bytes that a command reads: a poisoned row is consumed (R336); the address of its record is the first byte of that
row which is read (log 80). -/
def State.readWs (s : State) (wa n : Nat) : Res (List Byte) :=
  match s.poisonedRow wa n with
  | some r => contain 1 (memInfo 2 (max r wa)) []
  | none => .ok (s.readW wa n)

/-! ### Waiting words (R174) -/

/-- m.waitc and x.waitc: the counter number, then the target; a counter above 15 raises COUNTER. -/
def waitWord (e : Eng) (mk : Fin 16 → Word32 → CmdKind) (s : State) : Out :=
  engWord e 1 none (fun _ h s t => do
    let r ← t.popWords e 2
    let n := popped r.1 0
    if 15 < n then illegalOp 5
    else
      let cc : Fin 16 := Fin.ofNat 16 n
      let target : Word32 := (r.1.getD 1 0).setWidth 32
      if decide ((r.2.cc[cc.val] - target).toNat < 2 ^ 31) then .ok (s, r.2)
      else .ok (s, r.2.accept h e 0 [] [] (mk cc target))) s

/-- m.waitc (R174). -/
def execMWaitc (s : State) : Out := waitWord .m .mWaitc s
/-- x.waitc (R174). -/
def execXWaitc (s : State) : Out := waitWord .x .xWaitc s

end Machine

end Sys2Proof
end

