-- ==== Sys2Proof/Machine/Matrix.lean ====
section
/-!
DEFINITION. Machine/Matrix.lean: the M words (R195 to R206, R215 to R223): setup words with their limits, and what a
launch word checks and snapshots when it is accepted. MWalk.lean runs the commands.
-/

namespace Sys2Proof

namespace Machine

/-! ### Streams and descriptors (R195, R196) -/

/-- Format code of a stream. -/
def Stream.fmt (s : Stream) : BitVec 5 := s.desc.setWidth 5
/-- Whether a stream carries block scales. -/
def Stream.blks (s : Stream) : Bool := s.desc.getLsbD 6
/-- Whether a stream carries a tensor scale. -/
def Stream.tens (s : Stream) : Bool := s.desc.getLsbD 7
/-- Whether a stream carries a gather index. -/
def Stream.gath (s : Stream) : Bool := s.desc.getLsbD 8
/-- Whether a stream carries an outlier table. -/
def Stream.outl (s : Stream) : Bool := s.desc.getLsbD 9
/-- Checksum policy: 0 STRICT, 1 HEAL, 2 OFF. -/
def Stream.policy (s : Stream) : Nat := bitsAt s.desc.toNat 10 2
/-- The tensor scale, 1.0 where the stream carries none (R53). -/
def Stream.tscale (s : Stream) : Word32 := if s.tens then (s.desc >>> 32).setWidth 32 else 0x3F800000
/-- Element width of a stream. -/
def Stream.width (s : Stream) : Nat := fmtWidth s.fmt

/-- The limit of an address in a stream's space (R215). -/
def spaceLimit (wspace : Bool) : Nat := if wspace then 2 ^ 39 else 2 ^ 20

/-- RANGE (R206). -/
def rangeStop {α : Type} : Res α := illegalOp 17

/-- A condition on popped values, else RANGE. -/
def inRange (b : Bool) : Res Unit := need b rangeStop

/-- A stream of the next configuration changed. -/
def Task.setStream (t : Task) (n : StreamNo) (f : Stream → Stream) : Task :=
  { t with m := { t.m with streams := t.m.streams.set n.val (f t.m.streams[n.val]) } }

/-- m.sbase (R215). -/
def execMSbase (wspace : Bool) (st : StreamNo) (s : State) : Out :=
  setupWord .m none 1 (fun l t => do
    inRange (decide (popped l 0 < spaceLimit wspace))
    .ok (t.setStream st fun x => { x with wspace := wspace, base := popped l 0 })) s

/-- Whether a descriptor is free of the reserved values of R196 that raise RANGE. -/
def descOk (d : Nat) : Bool :=
  decide (bitsAt d 12 20 = 0) && !bitAt d 5 && decide (bitsAt d 10 2 ≠ 3) &&
  (if bitAt d 7 then decide (bitsAt d 55 8 ≠ 0) && decide (bitsAt d 55 8 ≠ 255) else decide (bitsAt d 32 32 = 0))

/-- m.sfmt (R196): a reserved format is the illegal-instruction trap with detail FORMAT. -/
def execMSfmt (st : StreamNo) (s : State) : Out :=
  setupWord .m none 1 (fun l t => do
    need (decide (bitsAt (popped l 0) 0 5 < 0x14)) (raise 1 9 0)
    inRange (descOk (popped l 0))
    .ok (t.setStream st fun x => { x with desc := l.getD 0 0 })) s

/-- m.sgeo (R215). -/
def execMSgeo (st : StreamNo) (s : State) : Out :=
  setupWord .m none 3 (fun l t => do
    let ok (n : Nat) := decide (1 ≤ n) && decide (n ≤ 65535)
    inRange (ok (popped l 0) && ok (popped l 1) && decide (popped l 2 < 2 ^ 24))
    .ok (t.setStream st fun x => { x with rows := popped l 0, cols := popped l 1, pitch := popped l 2 })) s

/-- m.sscl (R215). -/
def execMSscl (st : StreamNo) (s : State) : Out :=
  setupWord .m none 2 (fun l t => do
    inRange (decide (popped l 1 < 2 ^ 20))
    .ok (t.setStream st fun x => { x with sbase := popped l 0, sstride := popped l 1 })) s

/-- m.sidx (R215). -/
def execMSidx (st : StreamNo) (s : State) : Out :=
  setupWord .m none 2 (fun l t => do
    inRange (decide (popped l 0 < 2 ^ 20) && decide (popped l 0 % 4 = 0) && decide (1 ≤ popped l 1) &&
      decide (popped l 1 ≤ 64))
    .ok (t.setStream st fun x => { x with ibase := popped l 0, icount := popped l 1 })) s

/-- m.sout (R215). -/
def execMSout (st : StreamNo) (s : State) : Out :=
  setupWord .m none 2 (fun l t => do
    inRange (decide (popped l 0 < 2 ^ 20) && decide (popped l 0 % 4 = 0) && decide (popped l 1 ≤ 64))
    .ok (t.setStream st fun x => { x with obase := popped l 0, ocount := popped l 1 })) s

/-- m.nest (R216). -/
def execMNest (level : Fin 8) (s : State) : Out :=
  setupWord .m none 4 (fun l t =>
    let i32 (v : Int) := decide (-(2 ^ 31) ≤ v) && decide (v < 2 ^ 31)
    let c := poppedInt l 3
    if h : level.val < 6 then do
      inRange (decide (1 ≤ popped l 0) && decide (popped l 0 ≤ 2 ^ 20) && i32 (poppedInt l 1) && i32 (poppedInt l 2) &&
        decide (-7 ≤ c) && decide (c ≤ 7) && (decide (level.val ≠ 0) || decide (c = 0)))
      let lv : NestLevel := { count := popped l 0, strA := poppedInt l 1, strB := poppedInt l 2, strC := c }
      .ok { t with m := { t.m with nest := t.m.nest.set level.val lv h } }
    else rangeStop) s

/-- m.nclr (R15, R216). -/
def execMNclr (s : State) : Out := setupWord .m none 0 (fun _ t => .ok { t with m := { t.m with nest := nestReset } }) s

/-- m.track (R182, R216). -/
def execMTrack (n : Fin 16) (s : State) : Out :=
  setupWord .m none 0 (fun _ t => .ok { t with m := { t.m with track := n } }) s

/-- m.tol (R217). -/
def execMTol (n : BitVec 5) (s : State) : Out :=
  setupWord .m none 0 (fun _ t => .ok { t with m := { t.m with tol := n } }) s

/-- m.dith (R218). -/
def execMDith (s : State) : Out :=
  setupWord .m none 1 (fun l t => do
    inRange (decide (popped l 0 < 2 ^ 13) && decide (bitsAt (popped l 0) 5 3 = 0))
    .ok { t with m := { t.m with
      dbase := BitVec.ofNat 5 (popped l 0), dstep := BitVec.ofNat 5 (bitsAt (popped l 0) 8 5), dcount := 0 } }) s

/-! ### The geometry of a walk (R197, R198, R203) -/

/-- Levels of a nest table from 0. -/
def nestLevels (nest : Vector NestLevel 6) : List NestLevel := nest.toList

/-- The steps of a walk: product of the counts of levels 1 to 5. -/
def nestSteps (nest : Vector NestLevel 6) : Nat := ((nestLevels nest).drop 1).foldl (fun a l => a * l.count) 1

/-- Blocks along K: the count of level 0. -/
def nestBlocks (nest : Vector NestLevel 6) : Nat := nest[0].count

/-- Every sum of index times stride over levels given as count and stride. -/
def offsets : List (Nat × Int) → List Int
  | [] => [0]
  | (n, str) :: rest => (offsets rest).flatMap fun o => (List.range n).map fun (i : Nat) => o + i * str

/-- The lowest of those sums. -/
def lowOffset (ls : List (Nat × Int)) : Int := ls.foldl (fun a l => a + min 0 (((l.1 : Int) - 1) * l.2)) 0
/-- The highest of those sums. -/
def highOffset (ls : List (Nat × Int)) : Int := ls.foldl (fun a l => a + max 0 (((l.1 : Int) - 1) * l.2)) 0

/-- Count and A stride, or B stride, of each level. -/
def stridesOf (nest : Vector NestLevel 6) (isA : Bool) : List (Nat × Int) :=
  (nestLevels nest).map fun l => (l.count, if isA then l.strA else l.strB)

/-- K elements of block b (R52). -/
def blockWidth (kk b : Nat) : Nat := min 32 (kk - 32 * b)

/-- Whether the scale addressing of a stream holds at a data offset (R198). -/
def scaleOkAt (st : Stream) (isA : Bool) (delta : Int) : Bool :=
  if delta < 0 then false
  else
    let q := delta.toNat / st.pitch
    let bits := delta.toNat % st.pitch * 8
    if isA then decide (bits % (32 * st.width) = 0) else decide (bits % st.width = 0) && decide (q % 32 = 0)

/-- The conditions of R198 over a whole walk. -/
def scaleOk (st : Stream) (nest : Vector NestLevel 6) (isA : Bool) : Bool :=
  !st.blks || (decide (0 < st.pitch) && (offsets (stridesOf nest isA)).all (scaleOkAt st isA))

/-- Offset of the first scale byte of a block from sbase (R198). -/
def scaleOff (st : Stream) (isA : Bool) (delta : Nat) : Nat :=
  let q := delta / st.pitch
  let e := delta % st.pitch * 8 / st.width
  if isA then q * st.sstride + e / 32 else e * st.sstride + q / 32

/-- A range that a command names: its space is W-space or the scratchpad. -/
structure MRange where
  w     : Bool
  lo    : Int
  hi    : Int
  write : Bool
  deriving DecidableEq, Repr

/-- The bounding ranges of a stream (R180): data, then scale bytes. `last` is the last row of A it may read; `n` the
columns of B. -/
def streamRanges (st : Stream) (nest : Vector NestLevel 6) (isA : Bool) (kk n last : Nat) : List MRange :=
  let ls := stridesOf nest isA
  let nb := nestBlocks nest
  let s0 : Int := (ls.getD 0 (1, 0)).2
  let ext (b : Nat) : Int :=
    let kb := blockWidth kk b
    (b : Int) * s0 + (if isA then ((kb * st.width + 7) / 8 + last * st.pitch : Nat)
      else ((kb - 1) * st.pitch + (n * st.width + 7) / 8 : Nat))
  let top := max (ext 0) (max (ext (nb - 2)) (ext (nb - 1)))
  let data : MRange := ⟨st.wspace, st.base + lowOffset ls, st.base + highOffset (ls.drop 1) + top,
    !st.wspace && decide (st.policy ≠ 2)⟩
  if st.blks then
    let os := (offsets ls).map fun d => scaleOff st isA d.toNat
    let lo := os.foldl min (os.headD 0)
    let hi := os.foldl max 0 + (if isA then last else n - 1) * st.sstride
    [data, ⟨st.wspace, (st.sbase + lo : Nat), (st.sbase + hi + 1 : Nat), false⟩]
  else [data]

/-- Every range of an m.go (R205 step 8), in the order in which the model checks them, which the manual does not give
(log 80): A's data and scales, B's data and scales, the gather table, A's outlier table, B's. -/
def goRanges (a b : Stream) (nest : Vector NestLevel 6) (m n kk : Nat) (outl : Bool) : List MRange :=
  streamRanges a nest true kk n (if a.gath then a.rows - 1 else m - 1) ++ streamRanges b nest false kk n 0 ++
  (if a.gath then [⟨false, a.ibase, (a.ibase + 4 * a.icount : Nat), false⟩] else []) ++
  (if outl ∧ a.ocount ≠ 0 then
    [⟨false, a.obase, (a.obase + 4 * a.ocount + 128 * (a.ocount - 1) + 2 * m : Nat), false⟩,
     ⟨false, b.obase, (b.obase + 128 * (b.ocount - 1) + 2 * n : Nat), false⟩] else [])

/-- The check of a range (R178). -/
def State.checkMRange (s : State) (c : CoreId) (r : MRange) : Res Unit :=
  if r.w then s.checkW c r.lo r.hi else checkSpad r.lo r.hi

/-- The physical footprint of scratchpad ranges. -/
def spadFoot (c : CoreId) (rs : List MRange) : List Foot :=
  (rs.filter fun r => !r.w && decide (r.lo < r.hi)).map fun r => ⟨spadPa c r.lo.toNat, spadPa c r.hi.toNat, r.write, true⟩

/-- Whether a die that a W range meets does not accept reads yet (R331). -/
def State.wNotReady (s : State) (lo hi : Int) : Bool :=
  decide (lo < hi) && (blocksOf 0x2000000000 lo.toNat (hi - lo).toNat).any fun b =>
    decide (b < 0x8000000000) && !(s.dies[(wDie b).val]).wready

/-! ### m.go (R205, R219) -/

/-- Whether a format is of the integer, dual-shift or single-shift family (R43, R54). -/
def isIntFmt (fmt : BitVec 5) : Bool := !isFloatFmt fmt.toNat

/-- Whether a command accumulates in INT32 (R54). -/
def accInt (a b : Stream) (outl : Bool) : Bool :=
  isIntFmt a.fmt && isIntFmt b.fmt && !a.blks && !a.tens && !b.blks && !b.tens && !outl

/-- The accumulator type of a command. -/
def accType (a b : Stream) (outl : Bool) : ZType := if accInt a b outl then .int32 else .fp32

/-- Rows of the output (R197). -/
def rowsOf (a : Stream) : Nat := if a.gath then a.icount else a.rows

/-- A format that no operand stream of m.go may have: FP32 or INT32 (R49). -/
def plainFmt (f : BitVec 5) : Bool := decide (f = 0x00) || decide (f = 0x08)

/-- Steps 1 to 4 of R205. -/
def goShape (a b : Stream) (nest : Vector NestLevel 6) (outl : Bool) : Res Unit := do
  need (!plainFmt a.fmt && !plainFmt b.fmt) (illegalOp 10)
  let lim (n top : Nat) := decide (1 ≤ n) && decide (n ≤ top)
  need (lim (rowsOf a) 64 && lim b.cols 64 && lim a.cols 65535 && decide (b.rows = a.cols) &&
    decide (nestBlocks nest = (a.cols + 31) / 32) && lim (nestSteps nest) (2 ^ 32) &&
    scaleOk a nest true && scaleOk b nest false) (illegalOp 18)
  need (!b.gath && (!a.gath || (!a.wspace && lim a.icount 64))) (illegalOp 19)
  need (!(a.outl && a.wspace) && !(b.outl && b.wspace) &&
    (!outl || (a.outl && b.outl && decide (a.ocount = b.ocount) && decide (nestSteps nest = 1)))) (illegalOp 20)

/-- Steps 5 and 6 of R205, for tiles that the walk visits. -/
def goTiles (t : Task) (a b : Stream) (vis : List Nat) (outl : Bool) : Res Unit := do
  let typed := vis.map fun i => t.z[i % 8]'(Nat.mod_lt _ (by decide))
  need (typed.all fun z => decide (z.typ = .unset) || decide (z.typ = accType a b outl)) (illegalOp 11)
  need (typed.all fun z => decide (z.typ = .unset) || (decide (z.tA = a.tscale) && decide (z.tB = b.tscale)))
    (illegalOp 21)

/-- The progress of a command that has not begun. -/
def MGoProg.zero : MGoProg :=
  { idx := [0, 0, 0, 0, 0], blk := 0, visited := [], inUse := none, rowP := [], colP := [], rowMap := [],
    started := false, finished := false, beats := 0, latch := [] }

/-- m.go (R219): it waits for earlier commands on the tiles it continues, whose type and scales it checks. A stream that
exists is judged for OPFORMAT though the other number names none: of several conditions the lowest code counts (R100). -/
def execMGo (outl clr : Bool) (z : ZReg) (s : State) : Out :=
  engWord .m 1 none (fun c h s t => do
    let r ← t.popWords .m 2
    let named (n : Nat) : Bool := decide (n < 16) && plainFmt (t.m.streams[n % 16]'(Nat.mod_lt _ (by decide))).fmt
    need (!named (popped r.1 0) && !named (popped r.1 1)) (illegalOp 10)
    inRange (decide (popped r.1 0 < 16) && decide (popped r.1 1 < 16))
    let a := t.m.streams[popped r.1 0 % 16]'(Nat.mod_lt _ (by decide))
    let b := t.m.streams[popped r.1 1 % 16]'(Nat.mod_lt _ (by decide))
    let nest := t.m.nest
    goShape a b nest outl
    let vis := tilesOfNest nest z.val
    if !clr && t.cmds.any fun p => decide (p.eng = .m) && p.names.any fun x => vis.contains x then .error .wait
    else
      if !clr then goTiles t a b vis outl
      let lim (st : Stream) := !st.blks || decide (st.sbase < spaceLimit st.wspace)
      inRange (lim a && lim b)
      let rs := goRanges a b nest (rowsOf a) b.cols a.cols outl
      if rs.any fun r => r.w && s.wNotReady r.lo r.hi then .error .wait
      else
        rs.foldlM (fun _ x => s.checkMRange c x) ()
        .ok (s, r.2.accept h .m t.m.track (s.withTiles t (s.withSidebands t (spadFoot c rs))) []
          (.mGo a b nest z clr outl t.m.tol MGoProg.zero))) s

/-! ### The other launch words and m.stat -/

/-- m.zero (R220). -/
def execMZero (z : ZReg) (s : State) : Out :=
  engWord .m 1 none (fun _ h s t => .ok (s, t.accept h .m t.m.track [] [] (.mZero z))) s

/-- m.load (R221): the offset is the origin of an FP32 or INT32 tile, checked once earlier commands that write there are
complete. -/
def execMLoad (heal : Bool) (z : ZReg) (s : State) : Out :=
  engWord .m 1 none (fun c h s t => do
    let r ← t.popWords .m 1
    let off := popped r.1 0
    let pa := spadPa c off
    if laybyBase ≤ off then illegalOp 12
    else if t.blocked pa (16384 + 512) false then .error .wait
    else
      match tileAt s.tiles pa with
      | none => illegalOp 12
      | some tl =>
        if tl.fmt ≠ 0x00 ∧ tl.fmt ≠ 0x08 then illegalOp 12
        else do
          checkSpad off (off + tileSize tl.fmt + 512 : Nat)
          .ok (s, r.2.accept h .m t.m.track [⟨pa, pa + tileSize tl.fmt + 512, true, true⟩] []
            (.mLoad off z heal t.m.tol))) s

/-- m.store (R223): offset, then output descriptor. The rounding mode and the dithered-store count are taken at the
word. -/
def execMStore (z : ZReg) (s : State) : Out :=
  engWord .m 1 none (fun c h s t => do
    let r ← t.popWords .m 2
    let off := popped r.1 0
    let d := popped r.1 1
    let fmt : BitVec 5 := BitVec.ofNat 5 d
    let size := tileSize fmt
    need (decide (off % 512 = 0) && decide (off + size + 512 ≤ laybyBase)) (illegalOp 12)
    inRange (decide (d < 1024) && decide (bitsAt d 0 5 < 0x14) && decide (bitsAt d 5 3 ≠ 5) && decide (bitsAt d 5 3 ≠ 6))
    let m := if bitsAt d 5 3 = 7 then t.sys.rndm.toNat % 8 else bitsAt d 5 3
    let di := decide (m = 4) && bitAt d 8
    let t' := if di then { r.2 with m := { t.m with dcount := t.m.dcount + 1 } } else r.2
    .ok (s, t'.accept h .m t.m.track (s.withSidebands t [⟨spadPa c off, spadPa c (off + size + 512), true, true⟩]) []
      (.mStore off z fmt m (if di then some (t.m.dbase, t.m.dstep, t.m.dcount) else none) (bitAt d 9))
      [⟨spadPa c off, spadPa c (off + size), true, true⟩])) s

/-- The code of a tile's type (R222). -/
def ZType.code : ZType → Nat
  | .unset => 0
  | .fp32 => 1
  | .int32 => 2

/-- m.stat (R222). -/
def execMStat (sel : BitVec 8) (s : State) : Out :=
  let n := sel.toNat
  queryWord .m (fun _ => need (decide (n ≤ 5) || (decide (0x10 ≤ n) && decide (n ≤ 0x17))) (illegalOp 22))
    (fun _ t => BitVec.ofNat 64 (match n with
      | 0 => t.mstats.cmds
      | 1 => t.mstats.blocks
      | 2 => t.mstats.corr
      | 3 => t.mstats.grange
      | 4 => t.m.dcount
      | 5 => t.m.tol.toNat
      | _ =>
        let z := t.z[n % 8]'(Nat.mod_lt _ (by decide))
        z.typ.code + 4 * bitNat z.poison)) s

end Machine

end Sys2Proof
end

