-- ==== Sys2Proof/Machine/VFloat.lean ====
section
/-!
DEFINITION. Machine/VFloat.lean: floating arithmetic, approximations, square root and division (R154, R155, R70 to R75),
each lane rounded once by RNDM with dithered read as nearest-even (R59).
-/

namespace Sys2Proof

namespace Machine

/-- An exact result rounded, with its flags (R154, R41). -/
def roundLane (f : FF) (mode : Mode) (x : Fp × Nat) : Nat × Nat :=
  let r := f.round mode x.1
  (r.1, x.2 ||| r.2)

/-- A rounded floating instruction (R154). -/
def floatBody (f : VF) (n : Nat) (op : Mode → Fp → Fp → Fp → Fp × Nat) : Body :=
  laneBody f n fun t a b c =>
    let ff := etFF f.et
    roundLane ff t.arithMode (op t.arithMode (ff.value a) (ff.value b) (ff.value c))

/-- The sign bit of a lane of an element type. -/
def signBit (et : BitVec 4) : Nat := 2 ^ (etWidth et - 1)

/-- VFADD (R154). -/
def execVfadd (f : VF) (s : State) : Out := vWord f none (floatBody f 2 fun m a b _ => fpAdd m a b) s
/-- VFSUB (R154): a + (−b), a NaN keeping its kind. -/
def execVfsub (f : VF) (s : State) : Out := vWord f none (floatBody f 2 fun m a b _ => fpAdd m a b.neg) s
/-- VFMUL (R154). -/
def execVfmul (f : VF) (s : State) : Out := vWord f none (floatBody f 2 fun _ a b _ => fpMul a b) s
/-- VFMIN (R154). -/
def execVfmin (f : VF) (s : State) : Out := vWord f none (laneBody f 2 fun _ a b _ => fpMin (etFF f.et) a b) s
/-- VFMAX (R154). -/
def execVfmax (f : VF) (s : State) : Out := vWord f none (laneBody f 2 fun _ a b _ => fpMax (etFF f.et) a b) s
/-- VFABS: sign cleared, NaN bits unchanged (R154). -/
def execVfabs (f : VF) (s : State) : Out :=
  vWord f none (laneBody f 1 fun _ a _ _ => noFlags (a % signBit f.et)) s
/-- VFNEG: sign inverted (R154). -/
def execVfneg (f : VF) (s : State) : Out :=
  vWord f none (laneBody f 1 fun _ a _ _ => noFlags (a ^^^ signBit f.et)) s
/-- VFSGN: magnitude of a, sign of b (R154). -/
def execVfsgn (f : VF) (s : State) : Out :=
  vWord f none (laneBody f 2 fun _ a b _ => noFlags (a % signBit f.et + b / signBit f.et * signBit f.et)) s
/-- VFMA: a·b + c (R154). -/
def execVfma (f : VF) (s : State) : Out := vWord f none (floatBody f 3 fun m a b c => fpFma m false false a b c) s
/-- VFMS: a·b − c (R154). -/
def execVfms (f : VF) (s : State) : Out := vWord f none (floatBody f 3 fun m a b c => fpFma m false true a b c) s
/-- VFNMA: −(a·b) + c (R154). -/
def execVfnma (f : VF) (s : State) : Out := vWord f none (floatBody f 3 fun m a b c => fpFma m true false a b c) s
/-- VFNMS: −(a·b) − c (R154). -/
def execVfnms (f : VF) (s : State) : Out := vWord f none (floatBody f 3 fun m a b c => fpFma m true true a b c) s
/-- VRSQA (R71, R155). -/
def execVrsqa (f : VF) (s : State) : Out := vWord f none (laneBody f 1 fun _ a _ _ => vrsqa a) s
/-- VRCPA (R72, R155). -/
def execVrcpa (f : VF) (s : State) : Out := vWord f none (laneBody f 1 fun _ a _ _ => vrcpa a) s
/-- VEXPA (R73, R155). -/
def execVexpa (f : VF) (s : State) : Out := vWord f none (laneBody f 1 fun _ a _ _ => vexpa a) s
/-- VLOGA (R74, R155). -/
def execVloga (f : VF) (s : State) : Out := vWord f none (laneBody f 1 fun _ a _ _ => vloga a) s
/-- VSQRT (R155). -/
def execVsqrt (f : VF) (s : State) : Out := vWord f none (floatBody f 1 fun _ a _ _ => fpSqrt a) s
/-- VFDIV (R155). -/
def execVfdiv (f : VF) (s : State) : Out := vWord f none (floatBody f 2 fun _ a b _ => fpDiv a b) s

end Machine

end Sys2Proof
end

