-- ==== Sys2Proof/Machine/VInt.lean ====
section
/-!
DEFINITION. Machine/VInt.lean: integer, logic and bit operations of the V strand (R153), modulo the lane width.
-/

namespace Sys2Proof

namespace Machine

/-- Reading of a lane: unsigned when u = 1, else two's complement (R138). -/
def laneInt (u : Bool) (w a : Nat) : Int := if u then (a : Int) else toSigned w a

/-- An integer clamped to the range of a lane (R153). -/
def clampLane (u : Bool) (w : Nat) (v : Int) : Nat :=
  let lo : Int := if u then 0 else -(2 ^ (w - 1))
  let hi : Int := if u then 2 ^ w - 1 else 2 ^ (w - 1) - 1
  ofInt w (if v < lo then lo else if hi < v then hi else v)

/-- Leading zeros of a w-bit number; w for 0 (R153). -/
def leadZeros (w a : Nat) : Nat := if a = 0 then w else w - 1 - Nat.log2 a
/-- Trailing zeros of a w-bit number; w for 0. -/
def trailZeros (w a : Nat) : Nat := ((List.range w).find? fun i => bitAt a i).getD w
/-- One bits of a w-bit number. -/
def oneBits (w a : Nat) : Nat := ((List.range w).filter fun i => bitAt a i).length
/-- The bits of a w-bit number reversed. -/
def revBits (w a : Nat) : Nat := (List.range w).foldl (fun acc i => acc + bitNat (bitAt a i) * 2 ^ (w - 1 - i)) 0

/-- An integer instruction of two operands (R153). -/
def intBody2 (f : VF) (op : Nat → Nat → Nat → Nat) : Body :=
  laneBody f 2 fun _ a b _ => noFlags (op (etWidth f.et) a b)
/-- An integer instruction of one operand (R153). -/
def intBody1 (f : VF) (op : Nat → Nat → Nat) : Body :=
  laneBody f 1 fun _ a _ _ => noFlags (op (etWidth f.et) a)

/-- VADD (R153). -/
def execVadd (f : VF) (s : State) : Out := vWord f none (intBody2 f fun w a b => (a + b) % 2 ^ w) s
/-- VSUB (R153). -/
def execVsub (f : VF) (s : State) : Out := vWord f none (intBody2 f fun w a b => ofInt w ((a : Int) - b)) s
/-- VMUL (R153). -/
def execVmul (f : VF) (s : State) : Out := vWord f none (intBody2 f fun w a b => a * b % 2 ^ w) s
/-- VMULH: high half of the product (R153). -/
def execVmulh (f : VF) (s : State) : Out :=
  vWord f none (intBody2 f fun w a b => ofInt w (laneInt f.u w a * laneInt f.u w b / 2 ^ w)) s
/-- VMIN (R153). -/
def execVmin (f : VF) (s : State) : Out :=
  vWord f none (intBody2 f fun w a b => if laneInt f.u w b < laneInt f.u w a then b else a) s
/-- VMAX (R153). -/
def execVmax (f : VF) (s : State) : Out :=
  vWord f none (intBody2 f fun w a b => if laneInt f.u w a < laneInt f.u w b then b else a) s
/-- VABS: the most negative value stays itself (R153). -/
def execVabs (f : VF) (s : State) : Out :=
  vWord f none (intBody1 f fun w a => ofInt w (toSigned w a).natAbs) s
/-- VNEG (R153). -/
def execVneg (f : VF) (s : State) : Out := vWord f none (intBody1 f fun w a => ofInt w (-(a : Int))) s
/-- VMAD: low bits of a·b + c, merged from vc (R153, R139). -/
def execVmad (f : VF) (s : State) : Out :=
  vWord f none (laneBody f 3 fun _ a b c => noFlags ((a * b + c) % 2 ^ etWidth f.et)) s
/-- VMSUB (R153). -/
def execVmsub (f : VF) (s : State) : Out :=
  vWord f none (laneBody f 3 fun _ a b c => noFlags (ofInt (etWidth f.et) ((a * b : Nat) - (c : Int)))) s
/-- VADDSAT (R153). -/
def execVaddsat (f : VF) (s : State) : Out :=
  vWord f none (intBody2 f fun w a b => clampLane f.u w (laneInt f.u w a + laneInt f.u w b)) s
/-- VSUBSAT (R153). -/
def execVsubsat (f : VF) (s : State) : Out :=
  vWord f none (intBody2 f fun w a b => clampLane f.u w (laneInt f.u w a - laneInt f.u w b)) s
/-- VAND (R153). -/
def execVand (f : VF) (s : State) : Out := vWord f none (intBody2 f fun _ a b => a &&& b) s
/-- VOR (R153). -/
def execVor (f : VF) (s : State) : Out := vWord f none (intBody2 f fun _ a b => a ||| b) s
/-- VXOR (R153). -/
def execVxor (f : VF) (s : State) : Out := vWord f none (intBody2 f fun _ a b => a ^^^ b) s
/-- VANDN: a AND NOT b (R153). -/
def execVandn (f : VF) (s : State) : Out := vWord f none (intBody2 f fun w a b => a &&& (2 ^ w - 1 - b)) s
/-- VNOT (R153). -/
def execVnot (f : VF) (s : State) : Out := vWord f none (intBody1 f fun w a => 2 ^ w - 1 - a) s
/-- VSHL (R153). -/
def execVshl (f : VF) (s : State) : Out := vWord f none (intBody2 f fun w a b => a * 2 ^ (b % w) % 2 ^ w) s
/-- VSHR (R153). -/
def execVshr (f : VF) (s : State) : Out := vWord f none (intBody2 f fun w a b => a / 2 ^ (b % w)) s
/-- VSRA (R153). -/
def execVsra (f : VF) (s : State) : Out :=
  vWord f none (intBody2 f fun w a b => ofInt w (toSigned w a / 2 ^ (b % w))) s
/-- VPOPC (R153). -/
def execVpopc (f : VF) (s : State) : Out := vWord f none (intBody1 f oneBits) s
/-- VCLZ (R153). -/
def execVclz (f : VF) (s : State) : Out := vWord f none (intBody1 f leadZeros) s
/-- VCTZ (R153). -/
def execVctz (f : VF) (s : State) : Out := vWord f none (intBody1 f trailZeros) s
/-- VBREV (R153). -/
def execVbrev (f : VF) (s : State) : Out := vWord f none (intBody1 f revBits) s

end Machine

end Sys2Proof
end

