-- ==== Sys2Proof/Machine/VMove.lean ====
section
/-!
DEFINITION. Machine/VMove.lean: compares, selects, moves and permutes (R157 to R159), reductions (R160, R161), widening
and narrowing (R162 to R164).
-/

namespace Sys2Proof

namespace Machine

/-! ### Compares (R157) -/

/-- One lane of VCMP: the truth of the condition, and the flags. -/
def cmpLane (c : VCond) (et : BitVec 4) (u : Bool) (a b : Nat) : Bool × Nat :=
  if etIsInt et then (intCond c (laneInt u (etWidth et) a) (laneInt u (etWidth et) b), 0)
  else
    let x := (etFF et).value a
    let y := (etFF et).value b
    let anyNan := match c with
      | .lt | .le | .gt | .ge => x.isNan || y.isNan
      | _ => false
    (floatCond c x y, invalidIf (anyNan || x.isSig || y.isSig))

/-- The mask that VCMP writes: computed where active, 0 or the old bit elsewhere, 0 from lane n (R157). -/
def cmpMask (m old : MaskBits) (kz : Bool) (n : Nat) (op : Nat → Bool) : Nat :=
  packLanes 1 ((List.range n).map fun i => bitNat (if activeAt m i then op i else !kz && old.getLsbD i))

/-- VCMP (R157). -/
def execVcmp (c : VCond) (f : VF) (s : State) : Out :=
  vWord f none
    (let w := etWidth f.et
     let kd : KReg := Fin.ofNat 8 f.vd.val
     queueBody (vfSrcs f 2) [] true fun t =>
       let a := t.headBits f.va
       let b := t.headBits f.vb
       let m := t.getK f.k
       let r (i : Nat) := cmpLane c f.et f.u (laneAt w a i) (laneAt w b i)
       let fl := (List.range (lanesIn w)).foldl (fun acc i => if activeAt m i then acc ||| (r i).2 else acc) 0
       ([], fun p => (p.setK kd (BitVec.ofNat 1024 (cmpMask m (t.getK kd) f.kz (lanesIn w) fun i => (r i).1))).flag fl)) s

/-! ### Moves (R158) -/

/-- A move or permute of one result entry: element j from a function of the sources' data, merged from va where asked. -/
def moveBody (f : VF) (srcs : Srcs) (form merge : Bool) (op : Task → Nat → Nat) : Body :=
  let w := etWidth f.et
  queueBody srcs [f.vd] form fun t =>
    let a := t.headBits f.va
    let ls := maskLanes (t.getK f.k) f.kz 0 (lanesIn w) (if merge then some (laneAt w a) else none)
      fun j => noFlags (op t j)
    ([mkEntry (etFmt f.et) (laneBits w ls)], id)

/-- VSEL: the mask selects va or vb (R158). -/
def execVsel (f : VF) (s : State) : Out :=
  vWord f none
    (let w := etWidth f.et
     queueBody (vfSrcs f 2) [f.vd] true fun t =>
       let a := t.headBits f.va
       let b := t.headBits f.vb
       let ls := (List.range (lanesIn w)).map fun j => laneAt w (if activeAt (t.getK f.k) j then a else b) j
       ([mkEntry (etFmt f.et) (packLanes w ls)], id)) s
/-- VMOV (R158). -/
def execVmov (f : VF) (s : State) : Out :=
  vWord f none (moveBody f (vfSrcs f 1) true true fun t => laneAt (etWidth f.et) (t.headBits f.va)) s
/-- VIOTA: integer element types only (R158). -/
def execViota (f : VF) (s : State) : Out :=
  vWord f none (moveBody f [] (etIsInt f.et) false fun _ j => j % 2 ^ etWidth f.et) s
/-- VBCAST: the low bits of an x register (R158). -/
def execVbcast (f : VF) (s : State) : Out :=
  vWord f none (moveBody f [] true false fun t _ => (t.getX f.va).toNat % 2 ^ etWidth f.et) s
/-- VPOP (R158). -/
def execVpop (f : VF) (s : State) : Out := vWord f none (queueBody (vfSrcs f 1) [] true fun _ => ([], id)) s

/-! ### Permutes (R159) -/

/-- VPERM (R159). -/
def execVperm (f : VF) (s : State) : Out :=
  vWord f none (moveBody f (vfSrcs f 2) true true fun t j =>
    let w := etWidth f.et
    laneAt w (t.headBits f.va) (laneAt w (t.headBits f.vb) j % lanesIn w)) s

/-- The slide count: the literal, or an x register (R159). -/
def slideCount (f : VF) (t : Task) : Nat :=
  match f.lit with
  | some l => l.toNat
  | none => (t.getX f.vb).toNat

/-- VSLIDEUP (R159). -/
def execVslideup (f : VF) (s : State) : Out :=
  vWord f none (moveBody f (vfSrcs f 1) true true fun t j =>
    if slideCount f t ≤ j then laneAt (etWidth f.et) (t.headBits f.va) (j - slideCount f t) else 0) s
/-- VSLIDEDN (R159). -/
def execVslidedn (f : VF) (s : State) : Out :=
  vWord f none (moveBody f (vfSrcs f 1) true true fun t j =>
    if j + slideCount f t < lanesIn (etWidth f.et) then
      laneAt (etWidth f.et) (t.headBits f.va) (j + slideCount f t) else 0) s
/-- VREV (R159). -/
def execVrev (f : VF) (s : State) : Out :=
  vWord f none (moveBody f (vfSrcs f 1) true true fun t j =>
    laneAt (etWidth f.et) (t.headBits f.va) (lanesIn (etWidth f.et) - 1 - j)) s

/-- A permute into a pair of registers, without a merge source (R159, R139). -/
def pairBody (f : VF) (op : Nat → Nat → Nat → Nat) : Body :=
  let w := etWidth f.et
  queueBody (vfSrcs f 2) (groupRegs f.vd 2) true fun t =>
    let ls := maskLanes (t.getK f.k) f.kz 0 (2 * lanesIn w) none
      fun j => noFlags (op (t.headBits f.va) (t.headBits f.vb) j)
    (splitGroup (etFmt f.et) 2 (laneBits w ls), id)

/-- VZIP (R159). -/
def execVzip (f : VF) (s : State) : Out :=
  vWord f none (pairBody f fun a b j => laneAt (etWidth f.et) (if j % 2 = 0 then a else b) (j / 2)) s
/-- VUNZIP (R159). -/
def execVunzip (f : VF) (s : State) : Out :=
  vWord f none (pairBody f fun a b j =>
    let n := lanesIn (etWidth f.et)
    let i := if j < n then 2 * j else 2 * (j - n) + 1
    laneAt (etWidth f.et) (if i < n then a else b) (i % n)) s

/-! ### Reductions (R160, R161) -/

/-- A reduction of one lane's worth: the result stands in lane 0, zero elsewhere. -/
def reduceBody (f : VF) (form : Bool) (op : Task → List Nat → Nat × Nat) (id_ : Nat) : Body :=
  let w := etWidth f.et
  queueBody (vfSrcs f 1) [f.vd] form fun t =>
    let ls := (List.range (lanesIn w)).map fun i =>
      if activeAt (t.getK f.k) i then laneAt w (t.headBits f.va) i else id_
    let r := op t ls
    ([mkEntry (etFmt f.et) (r.1 % 2 ^ w)], fun p => p.flag r.2)

/-- An integer reduction by a fold (R160). -/
def intReduce (f : VF) (op : Nat → Nat → Nat) (id_ : Nat) : Body :=
  reduceBody f (etIsInt f.et) (fun _ ls => noFlags (ls.foldl op id_)) id_

/-- The greatest value of a lane (R160). -/
def topLane (u : Bool) (w : Nat) : Nat := if u then 2 ^ w - 1 else 2 ^ (w - 1) - 1
/-- The least value of a lane (R160). -/
def bottomLane (u : Bool) (w : Nat) : Nat := if u then 0 else 2 ^ (w - 1)

/-- One level of the pairwise tree (R161). -/
def treeLevel (op : Nat → Nat → Nat × Nat) : List Nat → List Nat × Nat
  | a :: b :: rest =>
    let r := op a b
    let (ls, fl) := treeLevel op rest
    (r.1 :: ls, r.2 ||| fl)
  | ls => (ls, 0)

/-- The pairwise tree over 2^k lanes (R161): result and flags. -/
def treeReduce (op : Nat → Nat → Nat × Nat) : Nat → List Nat → Nat × Nat
  | 0, ls => (ls.headD 0, 0)
  | k + 1, ls =>
    let (l, f1) := treeLevel op ls
    let (r, f2) := treeReduce op k l
    (r, f1 ||| f2)

/-- A floating reduction (R161). -/
def floatReduce (f : VF) (op : Task → Nat → Nat → Nat × Nat) (id_ : Nat) : Body :=
  reduceBody f (etIsFloat f.et) (fun t ls => treeReduce (op t) (Nat.log2 (lanesIn (etWidth f.et))) ls) id_

/-- VRSUM (R160). -/
def execVrsum (f : VF) (s : State) : Out := vWord f none (intReduce f (fun a b => (a + b) % 2 ^ etWidth f.et) 0) s
/-- VRMIN (R160). -/
def execVrmin (f : VF) (s : State) : Out :=
  vWord f none (intReduce f
    (fun a b => if laneInt f.u (etWidth f.et) b < laneInt f.u (etWidth f.et) a then b else a)
    (topLane f.u (etWidth f.et))) s
/-- VRMAX (R160). -/
def execVrmax (f : VF) (s : State) : Out :=
  vWord f none (intReduce f
    (fun a b => if laneInt f.u (etWidth f.et) a < laneInt f.u (etWidth f.et) b then b else a)
    (bottomLane f.u (etWidth f.et))) s
/-- VRAND (R160). -/
def execVrand (f : VF) (s : State) : Out :=
  vWord f none (intReduce f (fun a b => a &&& b) (2 ^ etWidth f.et - 1)) s
/-- VROR (R160). -/
def execVror (f : VF) (s : State) : Out := vWord f none (intReduce f (fun a b => a ||| b) 0) s
/-- VFRSUM: a fixed pairwise tree, each addition rounded; an inactive lane is −0 (R161). -/
def execVfrsum (f : VF) (s : State) : Out :=
  vWord f none (floatReduce f (fun t a b =>
    roundLane (etFF f.et) t.arithMode (fpAdd t.arithMode ((etFF f.et).value a) ((etFF f.et).value b)))
    (2 ^ (etWidth f.et - 1))) s
/-- VFRMIN (R161). -/
def execVfrmin (f : VF) (s : State) : Out :=
  vWord f none (floatReduce f (fun _ => fpMin (etFF f.et)) (etFF f.et).nanBits) s
/-- VFRMAX (R161). -/
def execVfrmax (f : VF) (s : State) : Out :=
  vWord f none (floatReduce f (fun _ => fpMax (etFF f.et)) (etFF f.et).nanBits) s

/-! ### Widening and narrowing (R162 to R164) -/

/-- The pair type of a source type (R162). -/
def pairEt (et : BitVec 4) : Option (BitVec 4) :=
  match et.toNat with
  | 0 => some 1
  | 1 => some 2
  | 3 => some 0
  | 6 => some 8
  | 7 => some 8
  | _ => none

/-- The quad type of a source type (R162). -/
def quadEt (et : BitVec 4) : Option (BitVec 4) :=
  match et.toNat with
  | 0 => some 2
  | 3 => some 1
  | _ => none

/-- A widening instruction: group size, wide type, sources, merge from the vc group for VWMAD (R163, R139). -/
def wideBody (f : VF) (g : Nat) (wide : Option (BitVec 4)) (srcs : Srcs) (merge : Bool)
    (op : Task → Nat → Nat × Nat) : Body :=
  let we := wide.getD 2
  let w := etWidth we
  queueBody srcs (groupRegs f.vd g) wide.isSome fun t =>
    let ls := maskLanes (t.getK f.k) f.kz 0 (lanesIn (etWidth f.et))
      (if merge then some (laneAt w (t.groupBits f.vc g)) else none) (op t)
    (splitGroup (etFmt we) g (laneBits w ls), fun p => p.noteLanes ls)

/-- An exact wide result rounded to FP32, or wrapped to the wide width. -/
def wideResult (f : VF) (we : BitVec 4) (t : Task) (i : Int) (x : Fp × Nat) : Nat × Nat :=
  if etIsInt f.et then noFlags (ofInt (etWidth we) i)
  else roundLane ff32 t.arithMode x

/-- Element j of a source queue, as an integer and as a floating value. -/
def srcElem (f : VF) (t : Task) (q : VReg) (j : Nat) : Int × Fp :=
  let a := laneAt (etWidth f.et) (t.headBits q) j
  (laneInt f.u (etWidth f.et) a, (etFF f.et).value a)

/-- VWADD (R163). -/
def execVwadd (f : VF) (s : State) : Out :=
  vWord f none (wideBody f 2 (pairEt f.et) (vfSrcs f 2) false fun t j =>
    let a := srcElem f t f.va j
    let b := srcElem f t f.vb j
    wideResult f ((pairEt f.et).getD 2) t (a.1 + b.1) (fpAdd t.arithMode a.2 b.2)) s
/-- VWMUL (R163). -/
def execVwmul (f : VF) (s : State) : Out :=
  vWord f none (wideBody f 2 (pairEt f.et) (vfSrcs f 2) false fun t j =>
    let a := srcElem f t f.va j
    let b := srcElem f t f.vb j
    wideResult f ((pairEt f.et).getD 2) t (a.1 * b.1) (fpMul a.2 b.2)) s
/-- VWMAD: a·b + c with c of the wide group (R163). -/
def execVwmad (f : VF) (s : State) : Out :=
  vWord f none (wideBody f 2 (pairEt f.et) (vfSrcs f 2 ++ groupSrcs f.vc 2 f.qc) true fun t j =>
    let we := (pairEt f.et).getD 2
    let a := srcElem f t f.va j
    let b := srcElem f t f.vb j
    let c := laneAt (etWidth we) (t.groupBits f.vc 2) j
    wideResult f we t (a.1 * b.1 + c) (fpFma t.arithMode false false a.2 b.2 (ff32.value c))) s

/-- The conversion of VWCVT (R163): exact; a NaN becomes canonical, a signalling one sets invalid. -/
def cvtWide (f : VF) (we : BitVec 4) (t : Task) (j : Nat) : Nat × Nat :=
  let a := srcElem f t f.va j
  wideResult f we t a.1 (a.2, invalidIf a.2.isSig)

/-- VWCVT (R163). -/
def execVwcvt (f : VF) (s : State) : Out :=
  vWord f none (wideBody f 2 (pairEt f.et) (vfSrcs f 1) false (cvtWide f ((pairEt f.et).getD 2))) s
/-- VWCVT to the quad type (R163). -/
def execVwcvt4 (f : VF) (s : State) : Out :=
  vWord f none (wideBody f 4 (quadEt f.et) (vfSrcs f 1) false (cvtWide f ((quadEt f.et).getD 2))) s

/-- A narrowing instruction (R164): element j of the va pair to lane j. -/
def narrowBody (f : VF) (op : Task → Nat → Nat × Nat) : Body :=
  let w := etWidth f.et
  queueBody (groupSrcs f.va 2 f.qa) [f.vd] (pairEt f.et).isSome fun t =>
    let d := t.groupBits f.va 2
    let ls := maskLanes (t.getK f.k) f.kz 0 (lanesIn w) none fun j => op t (laneAt (2 * w) d j)
    ([mkEntry (etFmt f.et) (laneBits w ls)], fun p => p.noteLanes ls)

/-- VNSAT: integers clamp, a clamped lane counts; floating values convert by RNDM (R164). With u = 1 the source is still read
as signed, and only the range it is clamped to is unsigned: the model's choice (log 16). -/
def execVnsat (f : VF) (s : State) : Out :=
  vWord f none (narrowBody f fun t a =>
    let w := etWidth f.et
    if etIsInt f.et then
      let v := toSigned (2 * w) a
      let r := clampLane f.u w v
      (r, if laneInt f.u w r = v then 0 else flSat)
    else
      let c := convert (etFmt f.et).toNat t.arithMode (ff32.value a)
      (c.bits, c.flags)) s
/-- VNTRUNC: low bits, or IEEE 754 rounding toward zero (R164). -/
def execVntrunc (f : VF) (s : State) : Out :=
  vWord f none (narrowBody f fun _ a =>
    if etIsInt f.et then noFlags (a % 2 ^ etWidth f.et)
    else
      let x := ff32.value a
      let r := (etFF f.et).round .tz x
      (r.1, r.2 ||| invalidIf x.isSig)) s

end Machine

end Sys2Proof
end

