-- ==== Sys2Proof/Machine/VCvt.lean ====
section
/-!
DEFINITION. Machine/VCvt.lean: conversions (R165 to R168) with block scales (R51, R66), dither (R61) and statistics (R67).
-/

namespace Sys2Proof

namespace Machine

/-- Exponent of the largest value of a target format (R66). -/
def emaxOf (fmt : Nat) : Nat :=
  match fmt with
  | 0x00 => 127
  | 0x01 => 127
  | 0x02 => 15
  | 0x03 => 8
  | 0x04 => 15
  | 0x05 => 2
  | 0x06 => 4
  | 0x07 => 2
  | 0x08 => 30
  | 0x09 => 14
  | 0x0A => 6
  | 0x0B => 7
  | 0x0C => 2
  | 0x0D => 3
  | 0x11 => 8
  | 0x12 => 4
  | 0x13 => 7
  | _ => 0

/-- A finite value times a power of two (R51). -/
def Fp.scale (x : Fp) (k : Int) : Fp :=
  match x with
  | .fin n m e => .fin n m (e + k)
  | x => x

/-- Magnitude order of finite values. -/
def magLt (a b : Fp) : Bool :=
  match a, b with
  | .fin _ ma ea, .fin _ mb eb => fpLt (.fin false ma ea) (.fin false mb eb)
  | _, _ => false

/-- The block scale derived from a block's active elements (R66). -/
def deriveScale (fmt : Nat) (xs : List Fp) : Nat :=
  if xs.any Fp.isNan then 0xFF
  else
    match xs.foldl (fun a x => if magLt a x then x else a) (.fin false 0 0) with
    | .fin _ m e => if m = 0 then 127 else (max 0 (min 254 (topExp m e - (emaxOf fmt : Int) + 127))).toNat
    | _ => 127

/-- What the literal of a VCVT selects (R165): target, rounding mode, whether it dithers, statistics. -/
structure CvtSel where
  fmt    : Nat
  mode   : Mode
  dither : Bool
  stat   : Bool
  deriving DecidableEq, Repr

/-- The fields of the literal, with mode 7 taken from RNDM (R165, R59). -/
def cvtSel (t : Task) (lit : Nat) : CvtSel :=
  let m := if bitsAt lit 5 3 = 7 then t.sys.rndm.toNat % 8 else bitsAt lit 5 3
  { fmt := bitsAt lit 0 5, stat := bitAt lit 9, dither := decide (m = 4) && bitAt lit 8,
    mode := match m with
      | 1 => .tz
      | 2 => .dn
      | 3 => .up
      | _ => .ne }

/-- The rounding mode of an element by its position (R61, R167). -/
def CvtSel.modeAt (c : CvtSel) (dith : Word64) (i : Nat) : Mode :=
  if c.dither then .dith (ditherOf (dithBase dith) (dithStep dith) (dithCount dith) i) else c.mode

/-- One converted element: bits and flags, and for the statistics x and y, when it is counted (R67). -/
structure CvtElem where
  bits  : Nat
  flags : Nat
  stat  : Option (Fp × Fp)
  deriving DecidableEq, Repr

/-- An element converted: `x` the value, `up` the scale applied before rounding, `down` the scale applied to the value
written for the statistics, `nan` whether its block's scale is 0xFF (R66, R67, R167, R168). -/
def cvtElem (fmt : Nat) (mode : Mode) (x : Fp) (up down : Int) (nan : Bool) : CvtElem :=
  let z := if nan && !x.isNan then .nan false else x.scale up
  let c := convert fmt mode z
  let y := (elemValue fmt c.bits).1
  let xs := if down = 0 then z else x
  { bits := c.bits, flags := c.flags,
    stat := match z with
      | .fin .. => some (xs, y.scale down)
      | _ => none }

/-- The exact sum of squared errors of a block's finite active elements under a scale (R168). -/
def blockError (fmt : Nat) (xs : List (Fp × Mode)) (v : Nat) : Int × Int :=
  xs.foldl (fun acc p =>
    match p.1 with
    | .fin n m e =>
      match ((elemValue fmt (convert fmt p.2 (p.1.scale (127 - (v : Int)))).bits).1).scale ((v : Int) - 127) with
      | .fin n' m' e' =>
        let d := addDy (signed n m, e) (- signed n' m', e')
        addDy acc (d.1 * d.1, 2 * d.2)
      | _ => acc
    | _ => acc) (0, 0)

/-- The scale sub 3 keeps (R168). -/
def bestScale (fmt : Nat) (xs : List (Fp × Mode)) : Nat :=
  let v := deriveScale fmt (xs.map Prod.fst)
  if v = 0 ∨ v = 0xFF then v
  else
    let a := blockError fmt xs v
    let b := blockError fmt xs (v - 1)
    if (addDy b (-a.1, a.2)).1 < 0 then v - 1 else v

/-- Every element with statistics counted, in element order (R67, R68). -/
def Task.addStats (t : Task) (l : List (Fp × Fp)) : Task :=
  let m := l.foldl (fun a p => addError a p.1 p.2) (t.sys.cvmse.toNat % 2 ^ 32)
  { t with sys := { t.sys with cvmse := BitVec.ofNat 64 m, cvcnt := t.sys.cvcnt + BitVec.ofNat 64 l.length } }

/-- DITH.tcount advanced (R61). -/
def Task.stepDither (t : Task) : Task :=
  let d := t.sys.dith.toNat
  { t with sys := { t.sys with dith := BitVec.ofNat 64 (d % 2 ^ 16 + (dithCount t.sys.dith + 1) % 2 ^ 16 * 2 ^ 16) } }

/-- Where the scales of a VCVT come from: none, the vb entry, derived, or the better of two candidates. -/
inductive ScaleFrom where
  | none | given | derived | best
  deriving DecidableEq, Repr

/-- The scale bytes of the blocks (R167, R168). -/
def scalesOf (f : VF) (from_ : ScaleFrom) (t : Task) (c : CvtSel) (x : Nat → Fp) : List Nat :=
  let n := lanesIn (etWidth f.et)
  (List.range (n / 32)).map fun b =>
    let act := ((List.range 32).map fun i => 32 * b + i).filter (activeAt (t.getK f.k))
    match from_ with
    | .none => 127
    | .given => laneAt 8 (t.headBits f.vb) b
    | .derived => deriveScale c.fmt (act.map x)
    | .best => bestScale c.fmt (act.map fun i => (x i, c.modeAt t.sys.dith i))

/-- The body of the VCVT forms (R165 to R168). An active element advances DITH.tcount (R61, R140). Segment words cover the
unused bits of an entry as they stand, and where g is above 4 the overflow of vd alone is looked at before ETFORM (the
model's choices, log 16). -/
def cvtBody (f : VF) (from_ : ScaleFrom) : Body :=
  let lit := (f.lit.getD 0).toNat
  let w := etWidth f.et
  let n := lanesIn w
  let fmt := bitsAt lit 0 5
  let wt := fmtWidth (BitVec.ofNat 5 fmt)
  let g := cvtGroup f.et (f.lit.getD 0)
  let two := decide (from_ = .derived) || decide (from_ = .best)
  let form := decide (g ≠ 0) && !(decide (wt = 6) && decide (w = 4)) && (!two || decide (g = 1))
  let dsts := if two then [f.vd, groupReg f.vd 1] else if g = 0 then [f.vd] else groupRegs f.vd g
  queueBody (vfSrcs f (if from_ = .given then 2 else 1)) dsts form fun t =>
    let c := cvtSel t lit
    let a := t.headBits f.va
    let x (j : Nat) : Fp := (elemValue (etFmt f.et).toNat (laneAt w a j)).1
    let vs := scalesOf f from_ t c x
    let es : List (Option CvtElem) := (List.range n).map fun j =>
      if activeAt (t.getK f.k) j then
        let v := vs.getD (j / 32) 127
        let k : Int := (v : Int) - 127
        some (cvtElem fmt (c.modeAt t.sys.dith j) (x j)
          (if from_ = .given then k else if two then -k else 0) (if two then k else 0)
          (decide (from_ ≠ .none) && decide (v = 0xFF)))
      else none
    let ls := es.map fun e => match e with
      | some e => (e.bits, e.flags)
      | none => (zeroOf fmt, 0)
    let stats := es.filterMap fun e => e.bind CvtElem.stat
    (if two then [mkEntry (BitVec.ofNat 5 fmt) (laneBits wt ls), mkEntry (etFmt 0) (packLanes 8 vs)]
     else splitGroup (BitVec.ofNat 5 fmt) g (laneBits wt ls),
     fun p =>
      let p := p.noteLanes ls
      let p := if c.stat then p.addStats stats else p
      if c.dither && es.any Option.isSome then p.stepDither else p)

/-- Whether an earlier m.store that keeps statistics is pending (R68). -/
def Task.statsPending (t : Task) : Bool :=
  t.cmds.any fun c => match c.kind with
    | .mStore _ _ _ _ _ st => st
    | _ => false

/-- A conversion with statistics follows the m.stores before it (R68). -/
def cvtWord (f : VF) (from_ : ScaleFrom) (s : State) : Out :=
  vWord f none (fun c h s t =>
    if bitAt (f.lit.getD 0).toNat 9 && t.statsPending then .error .wait else cvtBody f from_ c h s t) s

/-- VCVT sub 0 (R165 to R167). -/
def execVcvt (f : VF) (s : State) : Out := cvtWord f .none s
/-- VCVTS: block scales from vb (R167). -/
def execVcvts (f : VF) (s : State) : Out := cvtWord f .given s
/-- VCVTD: derived scales pushed to vd + 1 (R168). -/
def execVcvtd (f : VF) (s : State) : Out := cvtWord f .derived s
/-- VCVTQ: the better of two scales, target DS8 (R168). -/
def execVcvtq (f : VF) (s : State) : Out := cvtWord f .best s

end Machine

end Sys2Proof
end

