-- ==== Sys2Proof/Machine/VMem.lean ====
section
/-!
DEFINITION. Machine/VMem.lean: the memory forms of the V strand (R144 to R152): lane addresses, the checks of R141 lane by
lane before anything takes effect, loads, stores, tile rows and VAMO.
-/

namespace Sys2Proof

namespace Machine

/-! ### Lanes and their addresses (R145) -/

/-- Base address (R145). -/
def vBase (f : VF) (t : Task) (r : XReg) : Nat := (t.getX r + ((f.lit.getD 0).signExtend 64)).toNat

/-- One access of a V instruction: lane, address, bytes. -/
structure LaneAcc where
  lane : Nat
  va   : Nat
  n    : Nat
  deriving DecidableEq, Repr

/-- Bytes of one access of an element type. -/
def accSize (et : BitVec 4) : Nat := max 1 (etWidth et / 8)

/-- Bytes accessed by a contiguous INT4 form: a byte of which a lane is active. -/
def nibbleAccs (m : MaskBits) (base : Nat) : List LaneAcc :=
  ((List.range 512).filter fun b => activeAt m (2 * b) || activeAt m (2 * b + 1)).map fun b =>
    ⟨if activeAt m (2 * b) then 2 * b else 2 * b + 1, (base + b) % 2 ^ 64, 1⟩

/-- The accesses of a unit form. -/
def unitAccs (f : VF) (m : MaskBits) (base : Nat) : List LaneAcc :=
  if etWidth f.et = 4 then nibbleAccs m base
  else ((List.range (lanesIn (etWidth f.et))).filter (activeAt m)).map fun i =>
    ⟨i, (base + i * accSize f.et) % 2 ^ 64, accSize f.et⟩

/-- The accesses of a strided form. -/
def stridedAccs (f : VF) (m : MaskBits) (base stride : Nat) : List LaneAcc :=
  ((List.range (lanesIn (etWidth f.et))).filter (activeAt m)).map fun i =>
    ⟨i, (base + i * stride) % 2 ^ 64, accSize f.et⟩

/-- The accesses of an indexed form: offsets are INT32 lanes, for lanes 0 to 127. -/
def indexedAccs (f : VF) (m : MaskBits) (base offs : Nat) : List LaneAcc :=
  ((List.range 128).filter (activeAt m)).map fun i =>
    ⟨i, (((base : Int) + toSigned 32 (laneAt 32 offs i)) % 2 ^ 64).toNat, accSize f.et⟩

/-! ### The checks of a lane (R141 step 5) -/

/-- The lane put into a trap's record (R141). -/
def atLane {α : Type} (lane : Nat) (r : Res α) : Res α :=
  match r with
  | .error (.trap x) => .error (.trap { x with lane := lane })
  | r => r

/-- The checks of one loading lane. -/
def State.probeLaneLoad (s : State) (c : CoreId) (t : Task) (cls : BitVec 2) (a : LaneAcc) : Res Xlate :=
  atLane a.lane do
    if a.va % a.n ≠ 0 then raise 7 0 a.va
    else
      let x ← s.translate c t.rs.rc.job a.va .read
      if x.typ = .mmio then raise 2 9 a.va else s.probeLoad c t ⟨a.va, a.n, cls, false⟩

/-- The checks of one storing lane: illegal-operation conditions before the W-store fault. -/
def State.probeLaneStore (s : State) (c : CoreId) (t : Task) (cls : BitVec 2) (nt : Bool) (a : LaneAcc) : Res Xlate :=
  atLane a.lane do
    if a.va % a.n ≠ 0 then raise 7 0 a.va
    else
      let x ← s.translate c t.rs.rc.job a.va .write
      if nt ∧ t.rs.rc.nt = false then raise 2 0 a.va
      else if nt ∧ (x.typ ≠ .lpddr ∨ t.rs.rc.commit = true) then raise 2 1 a.va
      else if x.typ = .mmio then raise 2 9 a.va
      else s.probeStore c t ⟨a.va, a.n, cls, nt⟩ false

/-- The checks of every lane in ascending order, each seeing the stamps the lanes before it leave. -/
def probeLanes (t : Task) (cls : BitVec 2) (write : Bool) (one : State → LaneAcc → Res Xlate) :
    List LaneAcc → State → Res (List (LaneAcc × Xlate))
  | [], _ => .ok []
  | a :: rest, s => do
    let x ← one s a
    let more ← probeLanes t cls write one rest (s.touched t x a.n write false cls)
    .ok ((a, x) :: more)

/-! ### Loads (R144 to R146) -/

/-- The lanes read in ascending order: what each gives. -/
def readLanes (t : Task) (cls : BitVec 2) : List (LaneAcc × Xlate) → State → Res (State × List (Nat × Nat))
  | [], s => .ok (s, [])
  | (a, x) :: rest, s => do
    let r ← s.doLoad t x ⟨a.va, a.n, cls, false⟩
    let more ← readLanes t cls rest r.1
    .ok (more.1, (a.lane, leNat r.2) :: more.2)

/-- Lanes not read hold the zero of the type (R139, R325). -/
def fillZero (f : VF) (live : Nat → Bool) : Nat :=
  packLanes (etWidth f.et) ((List.range (lanesIn (etWidth f.et))).map fun i => if live i then 0 else zeroOf (etFmt f.et).toNat)

/-- The bits a read access contributes: a lane, or the active nibbles of a byte. -/
def laneContrib (f : VF) (m : MaskBits) (v : Nat × Nat) : Nat :=
  if etWidth f.et = 4 then
    let b := v.1 / 2
    ((if activeAt m (2 * b) then v.2 % 16 else 0) + (if activeAt m (2 * b + 1) then v.2 / 16 * 16 else 0)) * 2 ^ (8 * b)
  else v.2 * 2 ^ (etWidth f.et * v.1)

/-- A load whose lanes each hold their own access. `accs` gives the accesses from the task, `live` which lanes they
fill. -/
def loadLanes (f : VF) (srcs : Srcs) (form : Bool) (accs : Task → List LaneAcc) (live : Task → Nat → Bool) : Body :=
  fun c _ s t => do
    let p ← t.takeSources srcs [f.vd]
    if !form then illegalOp 13
    else
      let cls := BitVec.ofNat 2 f.vc.val
      let xs ← probeLanes t cls false (fun s a => s.probeLaneLoad c t cls a) (accs t) s
      let r ← readLanes t cls xs s
      let d := (r.2.map (laneContrib f (t.getK f.k))).foldl (· + ·) (fillZero f (live t))
      .ok (r.1, p.pushQ f.vd (mkEntry (etFmt f.et) d))

/-- VLD (R144, R145). -/
def execVld (f : VF) (s : State) : Out :=
  vWord f none (loadLanes f [] true (fun t => unitAccs f (t.getK f.k) (vBase f t f.va)) fun t => activeAt (t.getK f.k)) s
/-- VLDS: the stride in xb (R144, R145). -/
def execVlds (f : VF) (s : State) : Out :=
  vWord f none (loadLanes f [] (decide (etWidth f.et ≠ 4))
    (fun t => stridedAccs f (t.getK f.k) (vBase f t f.va) (t.getX f.vb).toNat) fun t => activeAt (t.getK f.k)) s
/-- VLDG: INT32 offsets in vb, lanes above 127 zero (R144, R145). -/
def execVldg (f : VF) (s : State) : Out :=
  vWord f none (loadLanes f [(f.vb, f.qb)] (decide (etWidth f.et ≠ 4))
    (fun t => indexedAccs f (t.getK f.k) (vBase f t f.va) (t.headBits f.vb))
    fun t i => activeAt (t.getK f.k) i && decide (i < 128)) s

/-- VLDB: one element copied to every active lane (R145). -/
def execVldb (f : VF) (s : State) : Out :=
  vWord f none (fun c _ s t => do
    let p ← t.takeSources [] [f.vd]
    let w := etWidth f.et
    let m := t.getK f.k
    let zr := zeroOf (etFmt f.et).toNat
    match (List.range (lanesIn w)).find? (activeAt m) with
    | none => .ok (s, p.pushQ f.vd (mkEntry (etFmt f.et) (fillZero f fun _ => false)))
    | some i =>
      let cls := BitVec.ofNat 2 f.vc.val
      let a : LaneAcc := ⟨i, vBase f t f.va, accSize f.et⟩
      let x ← s.probeLaneLoad c t cls a
      let r ← s.doLoad t x ⟨a.va, a.n, cls, false⟩
      let v := leNat r.2 % 2 ^ w
      let d := packLanes w ((List.range (lanesIn w)).map fun j => if activeAt m j then v else zr)
      .ok (r.1, p.pushQ f.vd (mkEntry (etFmt f.et) d))) s

/-! ### Stores (R146, R147, R150) -/

/-- The bytes a storing lane writes: its element, or the active nibbles of its byte over what it holds (R145). -/
def laneBytes (f : VF) (m : MaskBits) (d : Nat) (a : LaneAcc) (old : Nat) : List Byte :=
  if etWidth f.et = 4 then
    let b := a.lane / 2
    let lo := if activeAt m (2 * b) then laneAt 4 d (2 * b) else old % 16
    let hi := if activeAt m (2 * b + 1) then laneAt 4 d (2 * b + 1) else old / 16 % 16
    bytesOf 1 (lo + 16 * hi)
  else bytesOf a.n (laneAt (etWidth f.et) d a.lane)

/-- The lanes written in ascending order. -/
def writeLanes (c : CoreId) (cls : BitVec 2) (nt : Bool) (bytes : LaneAcc → Nat → List Byte) :
    List (LaneAcc × Xlate) → State → Task → Res (State × Task)
  | [], s, t => .ok (s, t)
  | (a, x) :: rest, s, t => do
    let r ← s.doStore c t x ⟨a.va, a.n, cls, nt⟩ (bytes a ((s.viewOf t).readNat x.pa a.n)) false
    writeLanes c cls nt bytes rest r.1 r.2

/-- The ECC words that lanes cover whole together: place and length of each (R282). -/
def lanesCover (l : List (Nat × Nat)) : List Nat :=
  ((l.flatMap fun e => eccWords e.1 e.2).dedup).filter fun w =>
    (List.range (eccSize w)).all fun i => l.any fun e => decide (e.1 ≤ w + i) && decide (w + i < e.1 + e.2)

/-- Words that a vector store covers whole: their poison goes, in the commit buffer where its bytes are. -/
def State.coverWords (s : State) (c : CoreId) (t : Task) (ws : List Nat) : State × Task :=
  let held (w : Nat) : Bool := t.rs.rc.commit && !ownSpad c w
  (s.clearWords (ws.filter fun w => !held w), { t with commit := t.commit ++ (ws.filter held).map .whole })

/-- Non-temporal stores of one instruction, each clearing the words of which it is the last part. -/
def ntClears (ws : List Nat) : List NtStore → List NtStore
  | [] => []
  | x :: rest =>
    { x with clears := ws.filter fun w => x.meets w (eccSize w) && !(rest.any fun y => y.meets w (eccSize w)) } ::
      ntClears ws rest

/-- Of an INT4 byte of which a storing lane writes one nibble, whether that is the upper one (R145). -/
def halfLane (f : VF) (m : MaskBits) (a : LaneAcc) : Option Bool :=
  if etWidth f.et ≠ 4 ∨ (activeAt m (a.lane / 2 * 2) = true ∧ activeAt m (a.lane / 2 * 2 + 1) = true) then none
  else some (activeAt m (a.lane / 2 * 2 + 1))

/-- What a vector store does once its lanes are written, `n` non-temporal stores having stood before it: to the poison of words
that its whole bytes cover (R282); its own non-temporal stores each keep the nibble they do not write (R145). -/
def coverLanes (c : CoreId) (nt : Bool) (n : Nat) (half : LaneAcc → Option Bool) (xs : List (LaneAcc × Xlate)) (s : State)
    (t : Task) : State × Task :=
  let ws := lanesCover ((xs.filter fun e => (half e.1).isNone).map fun e => (e.2.pa, e.1.n))
  if nt then
    let mine := ((t.nt.drop n).zip xs).map fun e => { e.1 with half := half e.2.1 }
    (s, { t with nt := t.nt.take n ++ ntClears ws mine })
  else s.coverWords c t ws

/-- A store of a data entry (R141, R147). -/
def storeLanes (f : VF) (srcs : Srcs) (form nt : Bool) (accs : Task → List LaneAcc) : Body := fun c h s t => do
  let p ← t.takeSources srcs []
  if !form then illegalOp 13
  else
    let cls := BitVec.ofNat 2 f.vc.val
    let xs ← probeLanes t cls true (fun s a => s.probeLaneStore c t cls nt a) (accs t) s
    checkEntry (t.head f.vb) (etFmt f.et) h
    let r ← writeLanes c cls nt (laneBytes f (t.getK f.k) (t.headBits f.vb)) xs s p
    .ok (coverLanes c nt p.nt.length (halfLane f (t.getK f.k)) xs r.1 r.2)

/-- VST (R144, R147). -/
def execVst (f : VF) (s : State) : Out :=
  vWord f (some 0) (storeLanes f [(f.vb, f.qb)] true false
    fun t => unitAccs f (t.getK f.k) (vBase f t f.va)) s
/-- VSTS: the stride in the x register that vd names (R144, R145). -/
def execVsts (f : VF) (s : State) : Out :=
  vWord f (some 0) (storeLanes f [(f.vb, f.qb)] (decide (etWidth f.et ≠ 4)) false
    fun t => stridedAccs f (t.getK f.k) (vBase f t f.va) (t.getX f.vd).toNat) s
/-- VSTX: offsets in the queue that vd names, popped (R144, R145). -/
def execVstx (f : VF) (s : State) : Out :=
  vWord f (some 0) (storeLanes f [(f.vb, f.qb), (f.vd, false)] (decide (etWidth f.et ≠ 4)) false
    fun t => indexedAccs f (t.getK f.k) (vBase f t f.va) (t.headBits f.vd)) s
/-- VSTN: the non-temporal store (R150, R114). -/
def execVstn (f : VF) (s : State) : Out :=
  vWord f (some 0) (storeLanes f [(f.vb, f.qb)] true true
    fun t => unitAccs f (t.getK f.k) (vBase f t f.va)) s

/-! ### Tile rows (R148, R149, R258) -/

/-- The tile that a tile-row access at an address meets, and the block of its data area: none where R142's TILE holds. -/
def State.rowTile (s : State) (t : Task) (pa : Nat) (et : BitVec 4) : Option (Nat × Tile × Nat) :=
  match (tilesIn (s.viewOf t).tiles pa 1).head? with
  | none => none
  | some (o, tl) =>
    if pa < o ∨ (pa - o) % 512 ≠ 0 ∨ tileSize tl.fmt ≤ pa - o ∨ tl.fmt ≠ etFmt et then none
    else some (o, tl, (pa - o) / 512)

/-- The stamps of the 512 data bytes of a row group, granule by granule, with the lane of the first conflict. -/
def State.touchRows (s : State) (t : Task) (pa base : Nat) (w : Nat) (how : Touch) (cls : BitVec 2) : Res State :=
  (List.range 8).foldlM (fun s i =>
    match s.touchRange t (pa + 64 * i) 64 how (some cls) with
    | some s' => .ok s'
    | none => atLane (512 * i / w) (raise 12 0 (base + 64 * i))) s

/-- The checks of a tile-row access up to the stamps: translation and tile of lane 0, then the rows, then the sideband as
R258 counts it, whose conflict is recorded with the base address and lane 0 (the model's choice, log 79). -/
def State.probeRows (s : State) (c : CoreId) (t : Task) (f : VF) (write : Bool) :
    Res (Nat × Nat × Tile × Nat × State) := do
  let base := vBase f t f.va
  let cls : BitVec 2 := BitVec.ofNat 2 f.vc.val
  if base % accSize f.et ≠ 0 then raise 7 0 base
  else
    let x ← s.translate c t.rs.rc.job base (if write then .write else .read)
    if x.typ = .mmio then raise 2 9 base
    else if x.typ = .sram ∧ t.blocked x.pa 512 write then .error .wait
    else
      match (if x.typ = .sram then s.rowTile t x.pa f.et else none) with
      | none => raise 2 12 base
      | some (o, tl, g) =>
        let side := o + tileSize tl.fmt
        let sw := write || (tl.stale && f.u)
        if t.blocked side 512 sw then .error .wait
        else
          let s1 ← s.touchRows t x.pa base (etWidth f.et) (if write then .write else .read) cls
          match s1.touchRange t side 512 (if sw then .write else .read) (some cls) with
          | none => raise 12 0 base
          | some s2 => .ok (x.pa, o, tl, g, s2)

/-- Poisoned data consumed by an operation named in D-space: `va` stands for physical address `pa`. -/
def State.consumes (s : State) (t : Task) (tl : Tile) (o pa n va : Nat) : Res Unit :=
  if tl.poison then contain 1 (va + o - pa) []
  else
    match ((s.viewOf t).checkMacs pa n).poisonedAt pa n with
    | some w => contain 1 (va + w - pa) [(pa, n)]
    | none => .ok ()

/-- The physical bytes of a tile refreshed: its sideband rewritten, FRESH (R148, R260). -/
def State.healTile (s : State) (c : CoreId) (t : Task) (o : Nat) (tl : Tile) : Res (State × Task) := do
  let v := s.viewOf t
  let rows := tileRows tl.fmt (v.readNat o (tileSize tl.fmt))
  let r ← flagged (tileFlags tl.fmt rows)
    (s.taskWrite c (t.flag (tileFlags tl.fmt rows)) (o + tileSize tl.fmt) (sidebandOf tl.fmt rows) false)
  if r.2.rs.rc.commit && !ownSpad c o then
    match r.2.buffer [.tile o tl.fmt false] with
    | .ok t' => .ok (r.1, t')
    | .error e => .error e
  else .ok ({ r.1 with tiles := markTile r.1.tiles o false }, r.2)

/-- The tile-row load (R148): the fault of a STALE tile under STRICT and the compare of the row words before poison is
consumed, that of the tile's descriptor too (R141, R256). -/
def rowLoadBody (f : VF) : Body := fun c _ s t => do
  let p ← t.takeSources [] [f.vd]
  let (pa, o, tl, g, s2) ← s.probeRows c t f false
  let base := vBase f t f.va
  let rb := rowBytes tl.fmt
  let nr := 512 / rb
  let size := tileSize tl.fmt
  let v := s.viewOf t
  let rows := (List.range nr).map fun i => tileRow tl.fmt (v.readNat pa 512) i
  let got := sumsOf tl.fmt rows
  let org : CkFault := ⟨0, false, 0, 0, 0, tl.fmt.toNat, 1, base - 512 * g, 0, 0⟩
  if tl.stale && !f.u then ckStop org
  else
    let side := wordsOf 4 64 (v.readPa (o + size) 256)
    let carried := (side.drop (g * nr)).take nr
    match (if tl.stale then none else firstDiff (g * nr) carried got) with
    | some (i, a, b) =>
      ckStop { org with kind := 5, index := i, nrow := countDiff carried got, carried := a, computed := b }
    | none =>
      s.consumes t tl o pa 512 base
      (if tl.stale then s.consumes t tl o o size (base - 512 * g)
       else s.consumes t tl o (o + size + 4 * g * nr) (4 * nr) (base - 512 * g + size + 4 * g * nr))
      let r ← if tl.stale then s2.healTile c t o tl else .ok (s2, t)
      let e : Entry := { fmt := etFmt f.et, data := BitVec.ofNat 4096 (leNat (v.readPa pa 512)),
                         segs := got.map fun n => BitVec.ofNat 32 n }
      .ok (r.1, ({ p with nt := r.2.nt, commit := r.2.commit } : Task).pushQ f.vd e)

/-- VLDT: STRICT (R148). -/
def execVldt (f : VF) (s : State) : Out := vWord f none (rowLoadBody f) s
/-- VLDTH: HEAL (R148). -/
def execVldth (f : VF) (s : State) : Out := vWord f none (rowLoadBody f) s

/-- The column words after new rows (R149): by the difference of integer elements, or from whole floating columns. -/
def newColumns (fmt : BitVec 5) (colW : List Nat) (old new : List (List Nat)) (whole : List (List Nat)) : List Nat :=
  if isFloatFmt fmt.toNat then sumsOf fmt (columnsOf whole)
  else
    colW.zipIdx.map fun p =>
      let sum (rows : List (List Nat)) := intSum (rows.map fun r => (elemValue fmt.toNat (r.getD p.2 0)).1)
      (p.1 + sum new + (2 ^ 32 - sum old)) % 2 ^ 32

/-- VSTT: the tile-row store (R149): rows, their row words, every column word; the tile's state stays. It reads, and so
consumes the poison of, what the new words are computed from: for integer elements the old rows and the column words, for
floating ones the other rows. -/
def execVstt (f : VF) (s : State) : Out :=
  vWord f (some 0) (fun c h s t => do
    let p ← t.takeSources [(f.vb, f.qb)] []
    let (pa, o, tl, g, s2) ← s.probeRows c t f true
    let e := (t.head f.vb).under (etFmt f.et)
    checkEntry e (etFmt f.et) h
    let base := vBase f t f.va
    let rb := rowBytes tl.fmt
    let nr := 512 / rb
    let size := tileSize tl.fmt
    let v := s.viewOf t
    if isFloatFmt tl.fmt.toNat then do
      s.consumes t tl o o (512 * g) (base - 512 * g)
      s.consumes t tl o (pa + 512) (size - 512 * g - 512) (base + 512)
    else do
      s.consumes t tl o pa 512 base
      s.consumes t tl o (o + size + 256) 256 (base - 512 * g + size + 256)
    let bs := bytesOf 512 e.data.toNat
    let new := (List.range nr).map fun i => tileRow tl.fmt e.data.toNat i
    let all := tileRows tl.fmt (v.readNat o size)
    let whole := all.take (g * nr) ++ new ++ all.drop (g * nr + nr)
    let words := wordsOfSideband (v.readPa (o + size) 512)
    let side (l : List Nat) : List Byte := l.flatMap fun w => bytesOf 4 w
    let colW := newColumns tl.fmt words.2 ((all.drop (g * nr)).take nr) new whole
    let r ← s2.taskWrite c p pa bs false
    let r ← r.1.taskWrite c r.2 (o + size + 4 * g * nr) (side (e.segs.map BitVec.toNat)) false
    r.1.taskWrite c r.2 (o + size + 256) (side colW) false) s

/-! ### VAMO (R151, R152) -/

/-- The checks of every lane of a VAMO, each seeing the stamps the lanes before it leave. -/
def probeAmo (c : CoreId) (t : Task) (n : Nat) : List LaneAcc → State → Res (List (LaneAcc × Xlate))
  | [], _ => .ok []
  | a :: rest, s => do
    let x ← atLane a.lane (s.probeAtomic c t a.va n)
    let s' := if x.typ = .sram then (s.touchAtomic t x.pa n).getD s else s
    let more ← probeAmo c t n rest s'
    .ok ((a, x) :: more)

/-- The poison that the lanes of a VAMO consume (R141 step 7): looked for in every lane before the first has an effect. -/
def poisonLanes (n : Nat) (s : State) (t : Task) (xs : List (LaneAcc × Xlate)) : Res Unit :=
  xs.foldlM (fun _ e => s.atomicPoison t e.2 e.1.va n) ()

/-- The lanes in ascending order (R152): old values, and the flags of an FP32 minimum or maximum. Poison was looked for
before the first; what arises later is not consumed (log 18). -/
def amoLanes (n : Nat) (op : Nat → Nat → Nat × Nat) (d : Nat) :
    List (LaneAcc × Xlate) → State → Task → State × Task × List (Nat × Nat)
  | [], s, t => (s, t, [])
  | (a, x) :: rest, s, t =>
    let b := laneAt (8 * n) d a.lane
    let r := s.applyAtomic t x n fun old => (op old b).1
    let more := amoLanes n op d rest r.1 (r.2.1.flag (op r.2.2 b).2)
    (more.1, more.2.1, (a.lane, r.2.2) :: more.2.2)

/-- One lane's operation (R151): the old value, then the operand. -/
def amoOp (o : VAmoOp) (et : BitVec 4) (old b : Nat) : Nat × Nat :=
  let w := etWidth et
  match o with
  | .add => noFlags ((old + b) % 2 ^ w)
  | .or => noFlags (old ||| b)
  | .and => noFlags (old &&& b)
  | .xor => noFlags (old ^^^ b)
  | .min => if etIsFloat et then fpMin (etFF et) old b else noFlags (sminNat w old b)
  | .max => if etIsFloat et then fpMax (etFF et) old b else noFlags (smaxNat w old b)

/-- The accesses of a VAMO. -/
def amoAccs (f : VF) (t : Task) : List LaneAcc := indexedAccs f (t.getK f.k) (vBase f t f.vc) (t.headBits f.va)

/-- What a VAMO takes from the queues, with room for its old values. -/
def amoSources (f : VF) (t : Task) : Res Task := t.takeSources [(f.va, f.qa), (f.vb, f.qb)] (if f.u then [f.vd] else [])

/-- A VAMO whose lanes are all done: the entry of old values pushed. -/
def Task.amoDone (t : Task) (f : VF) (olds : List (Nat × Nat)) : Task :=
  if f.u then
    t.pushQ f.vd (mkEntry (etFmt f.et) ((olds.map fun v => v.2 * 2 ^ (etWidth f.et * v.1)).foldl (· + ·) 0))
  else t

/-- VAMO (R151, R152): every lane at once. -/
def execVamo (op : VAmoOp) (f : VF) (s : State) : Out :=
  vWord f (some 1) (fun c _ s t => do
    let p ← amoSources f t
    let n := accSize f.et
    let xs ← probeAmo c t n (amoAccs f t) s
    poisonLanes n s t xs
    let r := amoLanes n (amoOp op f.et) (t.headBits f.vb) xs s p
    .ok (r.1, r.2.1.amoDone f r.2.2)) s

/-- A lane as an access of its physical address. -/
def AmoLane.acc (n : Nat) (l : AmoLane) : LaneAcc × Xlate :=
  (⟨l.lane, l.va, n⟩, { pa := l.pa, typ := if (homeOf l.pa).isSram then .sram else .lpddr, page := 0, size := 0 })

/-- The part of a VAMO that falls to one engine, in one request (R152, R304). The first part checks every lane; with the
last the instruction completes, and until then it stands at its pc. -/
def execVamoPart (k : ClusterId) (op : VAmoOp) (f : VF) (s : State) : Out :=
  vWord f (some 1) (fun c _ s t => do
    let p ← amoSources f t
    let n := accSize f.et
    let prog ← (match t.amo with
      | some a => .ok a
      | none => do
        let xs ← probeAmo c t n (amoAccs f t) s
        poisonLanes n s t xs
        .ok ⟨xs.map fun e => ⟨e.1.lane, e.1.va, e.2.pa⟩, []⟩)
    let mine (l : AmoLane) : Bool := decide (engineOf l.pa = k)
    let r := amoLanes n (amoOp op f.et) (t.headBits f.vb) ((prog.todo.filter mine).map (AmoLane.acc n)) s p
    let rest := prog.todo.filter fun l => !mine l
    let olds := prog.olds ++ r.2.2
    if rest.isEmpty then .ok (r.1, { r.2.1.amoDone f olds with amo := none })
    else
      match s.taskOf c with
      | some old => .ok (r.1, { old with sys := r.2.1.sys, nt := r.2.1.nt, amo := some ⟨rest, olds⟩ })
      | none => .error .wait) s

end Machine

end Sys2Proof
end

