-- ==== Sys2Proof/Machine/MWalk.lean ====
section
/-!
DEFINITION. Machine/MWalk.lean: the commands of the matrix engine as they run (R204 to R214, R220 to R223): MATRIX_BLOCK
and M_COMMAND_COMPLETE.
-/

namespace Sys2Proof

namespace Machine

/-! ### Verifying tiles (R207) -/

/-- One correction made by an M command (R222, R267). -/
def Task.countFix (t : Task) : Task :=
  { t.countCorr with mstats := { t.mstats with corr := t.mstats.corr + 1 } }

/-- A tile of the scratchpad verified for a command (R207, R260, R262). -/
def State.verifySpad (s : State) (k : CoreId) (t : Task) (off : Nat) (tl : Tile) (heal : Bool) (tol : Nat) : Unit_ := do
  let o := spadPa k off
  let size := tileSize tl.fmt
  let org : CkFault := ⟨0, false, 0, 0, 0, tl.fmt.toNat, 0, off, 0, 0⟩
  if tl.poison then contain 1 (memInfo 1 off) []
  else if tl.stale && !heal then ckStop org
  else
    let r ← s.readSpad k t off size
    let rows := tileRows tl.fmt (leNat r.2)
    let t := t.flag (tileFlags tl.fmt rows)
    flagged (tileFlags tl.fmt rows) <| if tl.stale then do
      let s ← r.1.cmdTouch t (o + size) 512 .write (off + size)
      s.healTile k t o tl
    else do
      let q ← r.1.readSpad k t (off + size) 512
      let ws := wordsOfSideband q.2
      match judgeTile tl.fmt rows ws.1 ws.2 true heal tol with
      | .pass => .ok (q.1, t)
      | .fixed i j v =>
        .ok (q.1.writePa (o + rowBytes tl.fmt * i)
          (bytesOf (rowBytes tl.fmt) (packLanes (fmtWidth tl.fmt) ((rows.getD i []).set j v))), t.countFix)
      | v => ckStop (v.fault 1 tl.fmt.toNat 0 off)

/-- Cells put over others. -/
def overlay (cells : List Host.Cell) (a : Nat) (bs : List Byte) : List Host.Cell :=
  bs.zipIdx.foldl (fun l e => insertKey (a + e.2) e.1 l) cells

/-- A tile of W-space verified: HEAL acts as STRICT, and a correction stands in the operand latch alone (R201, R207).
Beats delivered and cells of the latch come back. -/
def State.verifyW (s : State) (t : Task) (wa : Nat) (tl : Tile) : Res (Task × Nat × List Host.Cell) := do
  let size := tileSize tl.fmt
  let beats := size / 512 + 1
  if tl.poison then contain 1 (memInfo 2 wa) []
  else
    let bs ← s.readWs wa (size + 512)
    let rows := tileRows tl.fmt (leNat (bs.take size))
    let t := t.flag (tileFlags tl.fmt rows)
    let ws := wordsOfSideband (bs.drop size)
    match judgeTile tl.fmt rows ws.1 ws.2 true false 0 with
    | .pass => .ok (t, beats, [])
    | .fixed i j v =>
      .ok (t.countFix, beats, overlay [] (wa + rowBytes tl.fmt * i)
        (bytesOf (rowBytes tl.fmt) (packLanes (fmtWidth tl.fmt) ((rows.getD i []).set j v))))
    | v => flagged (tileFlags tl.fmt rows) (ckStop (v.fault 1 tl.fmt.toNat 2 wa))

/-! ### The walk (R203, R204) -/

/-- Offset of a step in one of the three strides. -/
def stepOffset (nest : Vector NestLevel 6) (idx : List Nat) (str : NestLevel → Int) : Int :=
  ((nestLevels nest).drop 1).zip idx |>.foldl (fun a p => a + (p.2 : Int) * str p.1) 0

/-- The z tile of a step. -/
def stepTile (nest : Vector NestLevel 6) (z : ZReg) (idx : List Nat) : Fin 8 :=
  Fin.ofNat 8 ((((z.val : Nat) : Int) + stepOffset nest idx NestLevel.strC) % 8).toNat

/-- The next indices, level 1 innermost; none after the last. -/
def nextIdx : List Nat → List Nat → Option (List Nat)
  | n :: ns, i :: is =>
    if i + 1 < n then some ((i + 1) :: is) else (nextIdx ns is).map fun l => 0 :: l
  | _, _ => none

/-- Byte ranges of the elements a stream reads in a block whose data base is `d` (R197): rows of A, or K rows of B. -/
def blockRanges (st : Stream) (isA : Bool) (rows : List (Option Nat)) (n kb : Nat) (d : Nat) : List (Nat × Nat) :=
  if isA then rows.filterMap fun r => r.map fun i => (d + i * st.pitch, (kb * st.width + 7) / 8)
  else (List.range kb).map fun k => (d + k * st.pitch, (n * st.width + 7) / 8)

/-- The same over the whole walk. -/
def walkRanges (st : Stream) (nest : Vector NestLevel 6) (isA : Bool) (rows : List (Option Nat)) (n kk : Nat) :
    List (Nat × Nat) :=
  let ls := stridesOf nest isA
  (offsets (ls.drop 1)).flatMap fun o => (List.range (nestBlocks nest)).flatMap fun (b : Nat) =>
    blockRanges st isA rows n (blockWidth kk b) ((st.base : Int) + o + (b : Int) * (ls.getD 0 (1, 0)).2).toNat

/-- The tiles to verify for a stream, ascending: origin by its space's address, and the tile, of which the sideband is a
part (R207, R255). -/
def State.streamTiles (s : State) (k : CoreId) (st : Stream) (rs : List (Nat × Nat)) : List (Nat × Tile) :=
  let hit (o : Nat) (tl : Tile) := rs.any fun r => decide (r.1 < o + tileSize tl.fmt + 512) && decide (o < r.1 + r.2)
  if st.policy = 2 then []
  else if st.wspace then s.wtiles.filter fun e => hit e.1 e.2
  else
    s.tiles.filterMap fun e =>
      if spadPa k 0 ≤ e.1 ∧ e.1 < spadPa k laybyBase ∧ hit (e.1 - spadPa k 0) e.2 = true then some (e.1 - spadPa k 0, e.2)
      else none

/-- A matrix product's command with its progress changed. -/
def Task.setGo (t : Task) (c : Cmd) (f : MGoProg → MGoProg) : Task :=
  match c.kind with
  | .mGo a b nest z clr outl tol p => t.setCmd c.seq (.mGo a b nest z clr outl tol (f p))
  | _ => t

/-- Whether a matrix product has yet to begin. -/
def State.goFresh (s : State) (k : CoreId) (seq : Nat) : Bool :=
  match s.taskOf k with
  | some t => t.cmds.any fun c => decide (c.seq = seq) && (match c.kind with
    | .mGo _ _ _ _ _ _ _ p => !p.started
    | _ => false)
  | none => false

/-- The start of a walk: the gather index is read once (R199). -/
def goBegin (k : CoreId) (s : State) (t : Task) (c : Cmd) : Unit_ :=
  match c.kind with
  | .mGo a _ _ _ _ _ _ p =>
    if p.started then .ok (s, t)
    else if a.gath then do
      let r ← s.readSpad k t a.ibase (4 * a.icount)
      let map := (wordsOf 4 a.icount r.2).map fun w =>
        let i := toSigned 32 w
        if 0 ≤ i ∧ i < a.rows then some i.toNat else none
      let out := (map.filter Option.isNone).length
      .ok (r.1, ({ t with mstats := { t.mstats with grange := t.mstats.grange + out } } : Task).setGo c fun p =>
        { p with started := true, rowMap := map })
    else .ok (s, t.setGo c fun p => { p with started := true, rowMap := (List.range a.rows).map some })
  | _ => .error .wait

/-- The tiles that a walk just begun verifies, each once: whether A or B names them, origin, tile. One that both streams
read is verified under A's policy (log 29). -/
def State.goVerify (s : State) (k : CoreId) (seq : Nat) : List (Bool × Nat × Tile) :=
  match s.taskOf k with
  | some t =>
    match t.cmds.find? fun c => decide (c.seq = seq) with
    | some c =>
      match c.kind with
      | .mGo a b nest _ _ _ _ p =>
        let va := s.streamTiles k a (walkRanges a nest true p.rowMap b.cols a.cols)
        let vb := s.streamTiles k b (walkRanges b nest false p.rowMap b.cols a.cols)
        let twice (o : Nat) : Bool := decide (a.wspace = b.wspace) && va.any fun e => decide (e.1 = o)
        va.map (fun e => (true, e)) ++ (vb.filter fun e => !twice e.1).map fun e => (false, e)
      | _ => []
    | none => []
  | none => []

/-- One tile verified before its first element enters the array (R207): its state as the command now finds it. -/
def goVerifyUnit (k : CoreId) (v : Bool × Nat × Tile) (s : State) (t : Task) (c : Cmd) : Unit_ :=
  match c.kind with
  | .mGo a b _ _ _ _ tol _ =>
    let st := if v.1 then a else b
    if st.wspace then do
      let r ← s.verifyW t v.2.1 v.2.2
      .ok (s, r.1.setGo c fun p => { p with beats := p.beats + r.2.1, latch := r.2.2 ++ p.latch })
    else
      let tl := (tileAt s.tiles (spadPa k v.2.1)).getD v.2.2
      s.verifySpad k t v.2.1 tl (decide (st.policy = 1)) tol.toNat
  | _ => .error .wait

/-- A z tile of a task changed. -/
def Task.setZ (t : Task) (z : Fin 8) (v : ZTile) : Task := { t with z := t.z.set z.val v }

/-- The start of a step (R204): a first visit clears the tile or consumes its poison, sets its type and scales, and starts
the predicted sums; a return to a tile after another starts them from its words (R208, R214). -/
def goEnter (s : State) (t : Task) (c : Cmd) : Unit_ :=
  match c.kind with
  | .mGo a b nest z clr outl _ p =>
    let i := stepTile nest z p.idx
    let zt := t.z[i.val]
    if p.blk ≠ 0 ∨ p.finished = true then .ok (s, t)
    else if !p.visited.contains i.val then
      if !clr && zt.poison then contain 2 i.val []
      else
        let zt := if clr then ZTile.zero else zt
        .ok (s, (t.setZ i { zt with typ := accType a b outl, tA := a.tscale, tB := b.tscale }).setGo c fun p =>
          { p with visited := p.visited ++ [i.val], inUse := some i, rowP := zt.rowW, colP := zt.colW })
    else if p.inUse ≠ some i then
      .ok (s, t.setGo c fun p => { p with inUse := some i, rowP := zt.rowW, colP := zt.colW })
    else .ok (s, t)
  | _ => .error .wait

/-! ### A block (R55, R56, R197 to R199, R208) -/

/-- Bytes that a stream reads: W-space with the operand latch over it, or the scratchpad. -/
def State.readStream (s : State) (k : CoreId) (t : Task) (st : Stream) (latch : List Host.Cell) (a n : Nat) :
    Res (State × List Byte) :=
  if st.wspace then do
    let bs ← s.readWs a n
    .ok (s, bs.zipIdx.map fun e => (lookupKey (a + e.2) latch).getD e.1)
  else s.readSpad k t a n

/-- Several ranges of a stream. -/
def readRanges (k : CoreId) (t : Task) (st : Stream) (latch : List Host.Cell) :
    List (Nat × Nat) → State → Res (State × List (List Byte))
  | [], s => .ok (s, [])
  | r :: rs, s => do
    let x ← s.readStream k t st latch r.1 r.2
    let y ← readRanges k t st latch rs x.1
    .ok (y.1, x.2 :: y.2)

/-- A block scale as a value: 0xFF is NaN, and sets invalid (R51, R56). -/
def scaleValue (b : Nat) : Fp := if b = 255 then .nan true else .fin false 1 ((b : Int) - 127)

/-- The exact sum of values with the flags of their addition (R56): infinities of both signs make it NaN and set invalid
whatever the order. -/
def exactSum (l : List (Fp × Nat)) : Fp × Nat :=
  let r := l.foldl (fun a v => let r := fpAdd .ne a.1 v.1; (r.1, a.2 ||| v.2 ||| r.2)) (Fp.fin false 0 0, 0)
  let has (neg : Bool) : Bool := l.any fun v => decide (v.1 = .inf neg)
  if has false && has true then (.nan false, r.2 ||| flInvalid) else r

/-- The exact sum of products. -/
def exactDot (a b : List Fp) : Fp × Nat := exactSum ((a.zip b).map fun p => fpMul p.1 p.2)

/-- The exact integer of a finite integer value. -/
def Fp.int : Fp → Int
  | .fin n m e => signed n m * 2 ^ e.toNat
  | _ => 0

/-- One accumulation in FP32 (R55): one rounding, nearest-even. -/
def accFp (acc : Word32) (x : Fp) : Word32 × Nat :=
  let r := fpAdd .ne (ff32.value acc.toNat) x
  let w := ff32.round .ne r.1
  (BitVec.ofNat 32 w.1, r.2 ||| w.2)

/-- One accumulation (R55): FP32, or INT32 with its overflow flag. -/
def accumulate (int : Bool) (acc : Word32) (x : Fp) : Word32 × Nat :=
  if int then
    let v := acc.toInt + x.int
    (BitVec.ofInt 32 v, if v < -(2 ^ 31) ∨ 2 ^ 31 ≤ v then flIov else 0)
  else accFp acc x

/-- A block's operands: rows of A with their scales (none for a row that takes no part), rows of B, column scales. -/
structure BlockOps where
  a  : List (Option (List Fp × Fp))
  b  : List (List Fp)
  sb : List Fp
  deriving DecidableEq, Repr

/-- Elements of packed bits, at the places asked for. -/
def elemsOf (st : Stream) (d : Nat) (is : List Nat) : List (Fp × Nat) :=
  is.map fun i => elemValue st.fmt.toNat (d / 2 ^ (st.width * i) % 2 ^ st.width)

/-- The runs of consecutive numbers of an ascending list: first number and length. -/
def numRuns : List Nat → List (Nat × Nat)
  | [] => []
  | k :: ks =>
    match numRuns ks with
    | (a, n) :: more => if a = k + 1 then (k, n + 1) :: more else (k, 1) :: (a, n) :: more
    | [] => [(k, 1)]

/-- The byte ranges of a row's elements at the places that are read; the row begins at `d`. -/
def placeRanges (st : Stream) (ks : List Nat) (d : Nat) : List (Nat × Nat) :=
  (numRuns ks).map fun r => (d + r.1 * st.width / 8, ((r.1 + r.2) * st.width + 7) / 8 - r.1 * st.width / 8)

/-- A row's elements at the places asked for: no byte of another element is read, so an outlier position consumes no
poison (R55, R57, R212). -/
def readPlaces (k : CoreId) (t : Task) (st : Stream) (latch : List Host.Cell) (ks : List Nat) (d : Nat) (s : State) :
    Res (State × List (Fp × Nat)) := do
  let rs := placeRanges st ks d
  let x ← readRanges k t st latch rs s
  .ok (x.1, elemsOf st ((rs.zip x.2).foldl (fun a e => a ||| leNat e.2 * 2 ^ (8 * (e.1.1 - d))) 0) ks)

/-- The same for rows that begin at the places of a list. -/
def readRows (k : CoreId) (t : Task) (st : Stream) (latch : List Host.Cell) (ks : List Nat) :
    List Nat → State → Res (State × List (List (Fp × Nat)))
  | [], s => .ok (s, [])
  | d :: ds, s => do
    let x ← readPlaces k t st latch ks d s
    let y ← readRows k t st latch ks ds x.1
    .ok (y.1, x.2 :: y.2)

/-- The flags of elements read (R47). -/
def elemFlags (l : List (List (Fp × Nat))) : Nat := l.foldl (fun a r => r.foldl (fun a e => a ||| e.2) a) 0

/-- What the rows that take part gave, put at their places. -/
def placeRows {α : Type} : List (Option Nat) → List α → List (Option α)
  | [], _ => []
  | none :: ms, l => none :: placeRows ms l
  | some _ :: ms, x :: l => some x :: placeRows ms l
  | some _ :: ms, [] => none :: placeRows ms []

/-- The K-indices of an outlier table (R200). -/
def readOutliers (k : CoreId) (s : State) (t : Task) (a : Stream) (outl : Bool) : Res (State × List Int) :=
  if outl then do
    let r ← s.readSpad k t a.obase (4 * a.ocount)
    .ok (r.1, (wordsOf 4 a.ocount r.2).map (toSigned 32))
  else .ok (s, [])

/-- What a block reads. -/
structure BlockRead where
  st    : State
  ops   : BlockOps
  flags : Nat
  beats : Nat
  deriving DecidableEq, Repr

/-- The reads of a block: elements but for outlier positions, and scale bytes. -/
def readBlock (k : CoreId) (s : State) (t : Task) (a b : Stream) (nest : Vector NestLevel 6) (outl : Bool)
    (p : MGoProg) : Res BlockRead := do
  let off (isA : Bool) : Int :=
    stepOffset nest p.idx (if isA then NestLevel.strA else NestLevel.strB) +
      (p.blk : Int) * (if isA then nest[0].strA else nest[0].strB)
  let dA := off true
  let dB := off false
  let kb := blockWidth a.cols p.blk
  let n := b.cols
  let o ← readOutliers k s t a outl
  let ks := (List.range kb).filter fun i => !(o.2.contains ((32 * p.blk + i : Nat) : Int))
  let baseA := ((a.base : Int) + dA).toNat
  let baseB := ((b.base : Int) + dB).toNat
  let rowsOfA := p.rowMap.filterMap fun r => r.map fun i => baseA + i * a.pitch
  let rowsOfB := ks.map fun i => baseB + i * b.pitch
  let qA : List (Nat × Nat) :=
    if a.blks then p.rowMap.filterMap fun r => r.map fun i => (a.sbase + scaleOff a true dA.toNat + i * a.sstride, 1)
    else []
  let qB : List (Nat × Nat) :=
    if b.blks then (List.range n).map fun j => (b.sbase + scaleOff b false dB.toNat + j * b.sstride, 1) else []
  let xA ← readRows k t a p.latch ks rowsOfA o.1
  let xB ← readRows k t b p.latch (List.range n) rowsOfB xA.1
  let yA ← readRanges k t a p.latch qA xB.1
  let yB ← readRanges k t b p.latch qB yA.1
  let one : Fp := .fin false 1 0
  let sA := if a.blks then yA.2.map fun bs => scaleValue (leNat bs) else rowsOfA.map fun _ => one
  let sB := if b.blks then yB.2.map fun bs => scaleValue (leNat bs) else (List.range n).map fun _ => one
  let rowsA := (xA.2.zip sA).map fun e => (e.1.map Prod.fst, e.2)
  let wW (st : Stream) (l : List (Nat × Nat)) := if st.wspace then l.flatMap fun r => blocksOf 512 r.1 r.2 else []
  .ok { st := yB.1, ops := { a := placeRows p.rowMap rowsA, b := xB.2.map fun r => r.map Prod.fst, sb := sB },
        flags := elemFlags xA.2 ||| elemFlags xB.2,
        beats := ((wW a (rowsOfA.flatMap (placeRanges a ks) ++ qA)) ++
          (wW b (rowsOfB.flatMap (placeRanges b (List.range n)) ++ qB))).dedup.length }

/-- Column j of B in a block. -/
def BlockOps.col (o : BlockOps) (j : Nat) : List Fp := o.b.map fun r => r.getD j (.fin false 0 0)

/-- The element of row i and column j after a block, with flags (R55, R56). -/
def blockElem (int : Bool) (o : BlockOps) (i j : Nat) (acc : Word32) : Word32 × Nat :=
  match o.a.getD i none with
  | none => (acc, 0)
  | some (row, sa) =>
    let s := exactDot row (o.col j)
    let x := fpMul s.1 sa
    let y := fpMul x.1 (o.sb.getD j (.fin false 1 0))
    let r := accumulate int acc y.1
    (r.1, if int then r.2 else s.2 ||| x.2 ||| y.2 ||| r.2)

/-- The tile's elements after a block, with flags. -/
def blockData (int : Bool) (o : BlockOps) (n : Nat) (data : List Word32) : List (Word32 × Nat) :=
  data.zipIdx.map fun e => if e.2 % 64 < n then blockElem int o (e.2 / 64) (e.2 % 64) e.1 else (e.1, 0)

/-- Predicted row words after a block (R208). -/
def predictRows (int : Bool) (o : BlockOps) (rowP : List Word32) : List Word32 :=
  let bsum := o.b.map fun r => (exactSum ((r.zip o.sb).map fun p => fpMul p.2 p.1)).1
  rowP.zipIdx.map fun e =>
    match o.a.getD e.2 none with
    | none => e.1
    | some (row, sa) => (accumulate int e.1 (fpMul sa (exactDot row bsum).1).1).1

/-- Predicted column words after a block (R208). -/
def predictCols (int : Bool) (o : BlockOps) (n : Nat) (colP : List Word32) : List Word32 :=
  let asum := (List.range o.b.length).map fun kk =>
    (exactSum (o.a.filterMap fun r => r.map fun x => fpMul x.2 (x.1.getD kk (.fin false 0 0)))).1
  colP.zipIdx.map fun e =>
    if e.2 < n then
      (accumulate int e.1 (fpMul (exactDot asum (o.col e.2)).1 (o.sb.getD e.2 (.fin false 1 0))).1).1
    else e.1

/-- The flags of a list of results. -/
def allFlags (l : List (Word32 × Nat)) : Nat := l.foldl (fun a e => a ||| e.2) 0

/-- One block accumulated and predicted (R204). -/
def goBlock (k : CoreId) (s : State) (t : Task) (c : Cmd) : Unit_ :=
  match c.kind with
  | .mGo a b nest z _ outl _ p =>
    if p.finished then .error .wait
    else do
      let r ← readBlock k s t a b nest outl p
      let int := accInt a b outl
      let i := stepTile nest z p.idx
      let zt := t.z[i.val]
      let out := blockData int r.ops b.cols zt.data
      let t := (t.setZ i { zt with data := out.map Prod.fst }).flag (r.flags ||| allFlags out)
      .ok (r.st, ({ t with mstats := { t.mstats with blocks := t.mstats.blocks + 1 } } : Task).setGo c fun p =>
        { p with blk := p.blk + 1, beats := p.beats + r.beats, rowP := predictRows int r.ops p.rowP,
                 colP := predictCols int r.ops b.cols p.colP })
  | _ => .error .wait

/-! ### The end of a step: outlier pass (R57, R200) and tile-end compare (R209) -/

/-- Outliers below K in the order of R57: their place in the table, ascending by index. -/
def outlierOrder (idx : List Int) (kk : Nat) : List Nat :=
  ((idx.zipIdx.filter fun e => decide (0 ≤ e.1) && decide (e.1 < (kk : Int))).insertionSort
    fun (x y : Int × Nat) => x.1 ≤ y.1).map Prod.snd

/-- One outlier index: values of A by row (none where a row takes no part), values of B by column. -/
def outlierStep (z : List Word32 × List Word32 × List Word32 × Nat) (v : List (Option Fp) × List Fp) :
    List Word32 × List Word32 × List Word32 × Nat :=
  let out := z.1.zipIdx.map fun e =>
    match v.1.getD (e.2 / 64) none, v.2[e.2 % 64]? with
    | some x, some y =>
      let q := fpMul x y
      let r := accFp e.1 q.1
      (r.1, q.2 ||| r.2)
    | _, _ => (e.1, 0)
  let bs := (exactSum (v.2.map fun y => (y, 0))).1
  let as_ := (exactSum (v.1.filterMap fun x => x.map fun y => (y, 0))).1
  let rows := z.2.1.zipIdx.map fun e =>
    match v.1.getD e.2 none with
    | some x => (accFp e.1 (fpMul x bs).1).1
    | none => e.1
  let cols := z.2.2.1.zipIdx.map fun e =>
    match v.2[e.2]? with
    | some y => (accFp e.1 (fpMul as_ y).1).1
    | none => e.1
  (out.map Prod.fst, rows, cols, z.2.2.2 ||| allFlags out)

/-- BF16 values. -/
def bf16s (n : Nat) (bs : List Byte) : List Fp := (wordsOf 2 n bs).map fun w => ffBf16.value w

/-- The outlier pass of a step. -/
def outlierPass (k : CoreId) (s : State) (t : Task) (a b : Stream) (p : MGoProg) (data : List Word32) :
    Res (State × (List Word32 × List Word32 × List Word32 × Nat)) := do
  let o ← readOutliers k s t a true
  let m := p.rowMap.length
  (outlierOrder o.2 a.cols).foldlM (fun z (i : Nat) => do
    let x ← z.1.readSpad k t (a.obase + 4 * a.ocount + 128 * i) (2 * m)
    let y ← x.1.readSpad k t (b.obase + 128 * i) (2 * b.cols)
    let av := (p.rowMap.zip (bf16s m x.2)).map fun e => e.1.map fun _ => e.2
    .ok (y.1, outlierStep z.2 (av, bf16s b.cols y.2))) (o.1, (data, p.rowP, p.colP, 0))

/-- Rows of a z tile. -/
def zRows (data : List Word32) : List (List Nat) := (List.range 64).map fun i => ((data.drop (64 * i)).take 64).map BitVec.toNat

/-- Indices whose predicted and actual sums fail the compare of R209. -/
def failing (int : Bool) (s : Nat) (pred act : List Nat) (ls : List (List Nat)) : List Nat :=
  (List.range 64).filter fun i =>
    let x := pred.getD i 0
    let y := act.getD i 0
    if int then decide (x ≠ y)
    else
      match (ff32.value x).dy, (ff32.value y).dy with
      | some a, some b => dyAbsGt (subDy a b) (tolerance s (absSum 0x00 (ls.getD i [])) (0, 0))
      | _, _ => false

/-- The tile-end compare (R209, R262). -/
def judgeEnd (int strict : Bool) (s : Nat) (rows : List (List Nat)) (rowP colP : List Nat) : Verdict :=
  let fmt : BitVec 5 := if int then 0x08 else 0x00
  let cols := columnsOf rows
  let rs := sumsOf fmt rows
  let cs := sumsOf fmt cols
  let fr := failing int s rowP rs rows
  let fc := failing int s colP cs cols
  let bad : Verdict :=
    match fr with
    | i :: _ => .bad false i fr.length fc.length (rowP.getD i 0) (rs.getD i 0)
    | [] => .bad true (fc.headD 0) 0 fc.length (colP.getD (fc.headD 0) 0) (cs.getD (fc.headD 0) 0)
  match fr, fc with
  | [], [] => .pass
  | [i], [j] =>
    let old := (rows.getD i []).getD j 0
    let a := rowP.getD i 0
    let b := rs.getD i 0
    let c := colP.getD j 0
    let d := cs.getD j 0
    if int then
      match fixInt 0x08 old (ofInt 32 ((a : Int) - b)) (ofInt 32 ((c : Int) - d)) with
      | some v => .fixed i j v
      | none => bad
    else if strict then bad
    else
      match fixFloat 0x00 old a b c d s (absSum 0x00 (rows.getD i [])) (absSum 0x00 (cols.getD j [])) with
      | some v => .fixed i j v
      | none => bad
  | _, _ => bad

/-- The words of a z tile made the sums of its data (R194). -/
def ZTile.seal (z : ZTile) : ZTile :=
  let fmt : BitVec 5 := if z.typ = .fp32 then 0x00 else 0x08
  let rows := zRows z.data
  { z with rowW := (sumsOf fmt rows).map (BitVec.ofNat 32), colW := (sumsOf fmt (columnsOf rows)).map (BitVec.ofNat 32) }

/-- A z tile with one element changed. -/
def ZTile.put (z : ZTile) (i j v : Nat) : ZTile := { z with data := z.data.set (64 * i + j) (BitVec.ofNat 32 v) }

/-- The outlier pass of a step after its last block (R204). -/
def goOutliers (k : CoreId) (s : State) (t : Task) (c : Cmd) : Unit_ :=
  match c.kind with
  | .mGo a b nest z _ outl _ p =>
    if p.finished ∨ p.blk < nestBlocks nest ∨ outl = false then .ok (s, t)
    else do
      let i := stepTile nest z p.idx
      let zt := t.z[i.val]
      let r ← outlierPass k s t a b p zt.data
      .ok (r.1, ((t.setZ i { zt with data := r.2.1 }).flag r.2.2.2.2).setGo c fun p =>
        { p with rowP := r.2.2.1, colP := r.2.2.2.1 })
  | _ => .error .wait

/-- The end of a step after its last block and its outlier pass: the compare. -/
def goEnd (s : State) (t : Task) (c : Cmd) : Unit_ :=
  match c.kind with
  | .mGo a b nest z _ outl tol p =>
    if p.finished ∨ p.blk < nestBlocks nest then .ok (s, t)
    else
      let i := stepTile nest z p.idx
      let zt := t.z[i.val]
      let int := accInt a b outl
      let off := decide (a.policy = 2) && decide (b.policy = 2)
      let strict := decide (a.policy = 0) || decide (b.policy = 0)
      let v := if off then Verdict.pass
        else judgeEnd int strict tol.toNat (zRows zt.data) (p.rowP.map BitVec.toNat)
          (p.colP.map BitVec.toNat)
      let next := nextIdx (((nestLevels nest).drop 1).map NestLevel.count) p.idx
      let go (t : Task) : Task := t.setGo c fun p =>
        { p with blk := 0, idx := next.getD p.idx, finished := next.isNone }
      match v with
      | .pass => .ok (s, go (t.setZ i zt.seal))
      | .fixed x y e => .ok (s, go ((t.setZ i (zt.put x y e).seal).countFix))
      | v => ckStop (v.fault 2 (if int then 0x08 else 0x00) 3 i.val)
  | _ => .error .wait

/-- MATRIX_BLOCK (R204): one block of a matrix product, with what its start and the end of its step do. What is done in
this order stands when what follows in the same event fails (R210, R212). -/
def execMatrixBlock (c : CoreId) (seq : Nat) (s : State) : Out :=
  let s1 := s.unit c seq none (goBegin c s)
  let s2 := s1.unit c seq none (goEnter s1)
  let s3 := (if s.goFresh c seq then s2.goVerify c seq else []).foldl
    (fun s v => s.unit c seq none (goVerifyUnit c v s)) s2
  let s4 := s3.unit c seq none (goBlock c s3)
  let s5 := s4.unit c seq none (goOutliers c s4)
  .next (s5.unit c seq none (goEnd s5))

/-! ### Completion (R220 to R223) -/

/-- The tile that m.load named, as it stands now; a tile that is gone is no tile to verify (R257). -/
def State.loadTile (s : State) (k : CoreId) (off : Nat) : Res Tile :=
  match tileAt s.tiles (spadPa k off) with
  | some tl => .ok tl
  | none => ckStop ⟨0, false, 0, 0, 0, 0, 0, off, 0, 0⟩

/-- m.load verifies its tile (R221). -/
def loadVerify (k : CoreId) (s : State) (t : Task) (c : Cmd) : Unit_ :=
  match c.kind with
  | .mLoad off _ heal tol => do
    let tl ← s.loadTile k off
    s.verifySpad k t off tl heal tol.toNat
  | _ => .ok (s, t)

/-- A command that has completed (R222). -/
def Task.complete (t : Task) (c : Cmd) : Task :=
  ({ t with mstats := { t.mstats with cmds := t.mstats.cmds + 1 } } : Task).dropCmd c.seq

/-- The z tile of m.store compared with its words (R223, R261): corrections of integers alone. -/
def storeVerify (s : State) (t : Task) (c : Cmd) : Unit_ :=
  match c.kind with
  | .mStore _ z _ _ _ _ =>
    let zt := t.z[z.val]
    let fmt : BitVec 5 := if zt.typ = .fp32 then 0x00 else 0x08
    match judgeTile fmt (zRows zt.data) (zt.rowW.map BitVec.toNat) (zt.colW.map BitVec.toNat) true false 0 with
    | .pass => .ok (s, t)
    | .fixed i j v => .ok (s, (t.setZ z (zt.put i j v)).countFix)
    | v => ckStop (v.fault 3 fmt.toNat 3 z.val)
  | _ => .ok (s, t)

/-- The rounding mode of an element of m.store by its column (R62, R223). -/
def storeMode (mode : Nat) (dith : Option (BitVec 5 × BitVec 5 × Nat)) (j : Nat) : Mode :=
  match dith with
  | some (base, step, n) => .dith (ditherOf base.toNat step.toNat n j)
  | none =>
    match mode with
    | 1 => .tz
    | 2 => .dn
    | 3 => .up
    | _ => .ne

/-- The exact value of an element times the tensor scales (R53). -/
def scaledValue (zt : ZTile) (w : Word32) : Fp :=
  let x := (elemValue (if zt.typ = .fp32 then 0x00 else 0x08) w.toNat).1
  if x.isNan then x else (fpMul (fpMul x (ff32.value zt.tA.toNat)).1 (ff32.value zt.tB.toNat)).1

/-- m.store (R223). -/
def storeTile (k : CoreId) (s : State) (t : Task) (c : Cmd) (off : Nat) (z : ZReg) (fmt : BitVec 5) (mode : Nat)
    (dith : Option (BitVec 5 × BitVec 5 × Nat)) (stat : Bool) : Unit_ := do
  let zt := t.z[z.val]
  if zt.poison then contain 2 z.val []
  let es := zt.data.zipIdx.map fun e =>
    cvtElem fmt.toNat (storeMode mode dith (e.2 % 64)) (scaledValue zt e.1) 0 0 false
  let rows := (List.range 64).map fun i => ((es.drop (64 * i)).take 64).map CvtElem.bits
  let r ← s.writeSpad k t off (packTile fmt rows ++ sidebandOf fmt rows) true
  let t := (r.2.noteLanes (es.map fun e => (e.bits, e.flags))).flag (tileFlags fmt rows)
  let t := if stat then t.addStats (es.filterMap CvtElem.stat) else t
  .ok ({ r.1 with tiles := newTile r.1.tiles (spadPa k off) { fmt := fmt, stale := false, poison := false } },
    t.complete c)

/-- What completes a command of the matrix engine. -/
def mComplete (k : CoreId) (s : State) (t : Task) (c : Cmd) : Unit_ :=
  match c.kind with
  | .mGo a b _ _ _ _ _ p =>
    if p.finished then
      .ok (s, (if a.wspace || b.wspace then t.countCmd c else t).complete c)
    else .error .wait
  | .mZero z => .ok (s, (t.setZ z ZTile.zero).complete c)
  | .mLoad off z _ _ => do
    let tl ← s.loadTile k off
    let r ← s.readSpad k t off (tileSize tl.fmt + 512)
    let ws := wordsOf 4 (4096 + 128) r.2
    let w32 := ws.map (BitVec.ofNat 32)
    .ok (r.1, (t.setZ z { data := w32.take 4096, rowW := (w32.drop 4096).take 64, colW := w32.drop 4160,
                          typ := if tl.fmt = 0x00 then .fp32 else .int32, tA := 0x3F800000, tB := 0x3F800000,
                          poison := false }).complete c)
  | .mStore off z fmt mode dith stat => storeTile k s t c off z fmt mode dith stat
  | _ => .error .wait

/-- M_COMMAND_COMPLETE. -/
def execMCommandComplete (c : CoreId) (seq : Nat) (s : State) : Out :=
  let s1 := s.unit c seq none (loadVerify c s)
  let s2 := s1.unit c seq none (storeVerify s1)
  .next (s2.unit c seq none (mComplete c s2))

end Machine

end Sys2Proof
end

