-- ==== Sys2Proof/Machine/Aes.lean ====
section
/-!
DEFINITION. Machine/Aes.lean: AES-256 in the Galois/Counter Mode that seals flits and SPDM sessions (R361, R378, R381), as
FIPS 197 and NIST SP 800-38D define it, over numbers whose highest byte comes first.
-/

namespace Sys2Proof

namespace Machine

/-! ### The cipher -/

/-- The substitution box, 32 entries a number, the first lowest. -/
def sboxRows : List Nat :=
  [0xC072A49CAFA2D4ADF04759FA7DC982CA76ABD7FE2B670130C56F6BF27B777C63,
   0x75B227EBE28012079A059618C323C7041531D871F1E5A534CCF73F362693FDB7,
   0xCF584C4A39BECB6A5BB1FC20ED00D153842FE329B3D63B52A05A6E1B1A2C8309,
   0xD2F3FF1021DAB6BCF5389D928F40A351A89F3C507F02F94585334D43FBAAEFD0,
   0xDB0B5EDE14B8EE4688902A22DC4F816073195D643D7EA7C41744975FEC130CCD,
   0x08AE7A65EAF4566CA94ED58D6D37C8E779E4959162ACD3C25C2406490A3A32E0,
   0x9E1DC186B95735610EF6034866B53E708A8BBD4B1F74DDE8C6B4A61C2E2578BA,
   0x16BB54B00F2D99416842E6BF0D89A18CDF2855CEE9871E9B948ED9691198F8E1]

/-- One byte substituted. -/
def subByte (b : Nat) : Nat := bitsAt (sboxRows.getD (b / 32) 0) (8 * (b % 32)) 8

/-- Byte r of a word, the highest first. -/
def byteOf (w r : Nat) : Nat := bitsAt w (8 * (3 - r)) 8

/-- A word of four bytes. -/
def wordOf (b0 b1 b2 b3 : Nat) : Nat := b0 * 2 ^ 24 + b1 * 2 ^ 16 + b2 * 2 ^ 8 + b3

/-- A word with its bytes substituted. -/
def subWord (w : Nat) : Nat :=
  wordOf (subByte (byteOf w 0)) (subByte (byteOf w 1)) (subByte (byteOf w 2)) (subByte (byteOf w 3))

/-- Twice a byte in GF(2^8). -/
def xtime (b : Nat) : Nat := if b < 128 then 2 * b else (2 * b) ^^^ 0x11B

/-- The first byte of a round constant. -/
def rcon (n : Nat) : Nat := (List.range (n - 1)).foldl (fun b _ => xtime b) 1

/-- `n` more words of a key schedule, from number `i` on, the newest first. -/
def keyWords : Nat → Nat → List Nat → List Nat
  | 0, _, ws => ws
  | n + 1, i, ws =>
    let p := ws.headD 0
    let f := if i % 8 = 0 then subWord (bitsAt p 0 24 * 256 + byteOf p 0) ^^^ (rcon (i / 8) * 2 ^ 24)
      else if i % 8 = 4 then subWord p else p
    keyWords n (i + 1) ((ws.getD 7 0 ^^^ f) :: ws)

/-- The four words of 16 bytes. -/
def fourWords (bs : List Byte) : List Nat := (List.range 4).map fun i => beNat ((bs.drop (4 * i)).take 4)

/-- Four words at a time. -/
def byFour : Nat → List Nat → List (List Nat)
  | 0, _ => []
  | n + 1, l => l.take 4 :: byFour n (l.drop 4)

/-- The fifteen round keys of a key of 32 bytes. -/
def roundKeys (key : List Byte) : List (List Nat) :=
  byFour 15 (keyWords 52 8 (fourWords key ++ fourWords (key.drop 16)).reverse).reverse

/-- A column after substitution and the shift of the rows. -/
def shifted (cols : List Nat) (c : Nat) : Nat :=
  let b (r : Nat) : Nat := subByte (byteOf (cols.getD ((c + r) % 4) 0) r)
  wordOf (b 0) (b 1) (b 2) (b 3)

/-- A column mixed. -/
def mixed (w : Nat) : Nat :=
  let b (r : Nat) : Nat := byteOf w (r % 4)
  let m (r : Nat) : Nat := xtime (b r) ^^^ (xtime (b (r + 1)) ^^^ b (r + 1)) ^^^ b (r + 2) ^^^ b (r + 3)
  wordOf (m 0) (m 1) (m 2) (m 3)

/-- Columns with a round key added. -/
def keyed (cols k : List Nat) : List Nat := cols.zipWith (fun a b => a ^^^ b) k

/-- One round; the last mixes no column. -/
def aesRound (cols : List Nat) (k : List Nat) (last : Bool) : List Nat :=
  keyed ((List.range 4).map fun c => if last then shifted cols c else mixed (shifted cols c)) k

/-- The rounds under the round keys left. -/
def aesRounds : List (List Nat) → List Nat → List Nat
  | [], cols => cols
  | [k], cols => aesRound cols k true
  | k :: rest, cols => aesRounds rest (aesRound cols k false)

/-- A block of 16 bytes enciphered under round keys. -/
def aesBlock (ks : List (List Nat)) (b : List Byte) : List Byte :=
  (aesRounds (ks.drop 1) (keyed (fourWords b) (ks.headD []))).flatMap (beBytes 4)

/-! ### Galois/Counter Mode -/

/-- A product in GF(2^128), the first bit of a block the highest: `n` bits of x are left. -/
def gfMul : Nat → Nat → Nat → Nat → Nat
  | 0, _, _, z => z
  | n + 1, x, v, z =>
    gfMul n x (if bitAt v 0 then (v / 2) ^^^ (0xE1 * 2 ^ 120) else v / 2) (if bitAt x n then z ^^^ v else z)

/-- Bytes padded with zeros to whole blocks, as numbers. -/
def blocks16 (bs : List Byte) : List Nat :=
  (List.range ((bs.length + 15) / 16)).map fun i =>
    let b := (bs.drop (16 * i)).take 16
    beNat b * 2 ^ (8 * (16 - b.length))

/-- GHASH under a hash key. -/
def ghash (h : Nat) (l : List Nat) : Nat := l.foldl (fun y b => gfMul 128 (y ^^^ b) h 0) 0

/-- Bytes under the key stream of a 12-byte initialisation vector: counter blocks from 2 on. -/
def gcmCrypt (ks : List (List Nat)) (iv bs : List Byte) : List Byte :=
  let stream := (List.range ((bs.length + 15) / 16)).flatMap fun i => aesBlock ks (iv ++ beBytes 4 (i + 2))
  bs.zipWith (fun a b => a ^^^ b) stream

/-- The 16-byte tag over additional data and ciphertext. -/
def gcmTag (ks : List (List Nat)) (iv aad c : List Byte) : List Byte :=
  let h := beNat (aesBlock ks (List.replicate 16 0))
  let y := ghash h (blocks16 aad ++ blocks16 c ++ [8 * aad.length * 2 ^ 64 + 8 * c.length])
  (aesBlock ks (iv ++ beBytes 4 1)).zipWith (fun a b => a ^^^ b) (beBytes 16 y)

/-- AES-256-GCM: ciphertext and tag of a plain text, by key, initialisation vector and additional data. -/
def gcmSeal (key iv aad plain : List Byte) : List Byte × List Byte :=
  let ks := roundKeys key
  let c := gcmCrypt ks iv plain
  (c, gcmTag ks iv aad c)

end Machine

end Sys2Proof
end

