-- ==== Sys2Proof/Machine/Puts.lean ====
section
/-!
DEFINITION. Machine/Puts.lean: what a port sends (R376 to R383), and how this module receives a put (R384 to R386).
-/

namespace Sys2Proof

namespace Machine

/-! ### Sending (R377, R380 to R383) -/

/-- The port of a destination module (R377). -/
def State.portOf (s : State) (m : Nat) : PortId := Fin.ofNat 16 (bitsAt s.frtab.toNat (4 * (m % 16)) 4)

/-- Whether a port carries flits (R376, R383). -/
def Port.alive (p : Port) : Bool := p.up && !p.down

/-- The invocation value at which the sender switches keys (R382). -/
def Port.switchAt (p : Port) : Nat := min p.warn.toNat (p.limit.toNat - 1)

/-- Whether the key switch-over must come before the next flit (R382): the switch point is reached. -/
def Port.mustSwitch (p : Port) : Bool := decide (p.switchAt ≤ p.tx.inv)

/-- Whether a port has stopped: its old key has reached LIMIT while its CAIRN is still unacknowledged (R382). -/
def Port.stopped (p : Port) : Bool := p.tx.cairn.isSome && decide (p.limit.toNat ≤ p.tx.oldInv)

/-- Whether a port may seal one more flit under its present key (R381, R382). -/
def Port.maySeal (p : Port) : Bool :=
  p.alive && !p.stopped && !p.mustSwitch && decide (p.tx.inv < p.limit.toNat)

/-! ### A flit on the wire (R378 to R381) -/

/-- The code of a flit type (R380). -/
def flitCode : FlitType → Nat
  | .data => 1
  | .end_ => 2
  | .pdone => 3
  | .ack => 4
  | .nak => 5
  | .cairn => 6
  | .reserved t => t.toNat

/-- The header of a flit (R379). -/
def flitHeader (f : Flit) : Nat :=
  f.dst.toNat + f.src.toNat * 2 ^ 20 + f.seq.toNat * 2 ^ 40 + flitCode f.typ * 2 ^ 64 + bitNat f.slot * 2 ^ 68 +
  f.core.toNat * 2 ^ 69 + (if f.typ = .data then f.body.length else 0) * 2 ^ 78 + f.offset.toNat * 2 ^ 86

/-- The invocation word of a flit (R378). -/
def flitInvocation (f : Flit) : Nat := f.inv.toNat + f.srcCore.toNat * 2 ^ 48 + f.tag.toNat * 2 ^ 57

/-- The additional authenticated data of a flit (R378). -/
def flitAad (f : Flit) : List Byte := bytesOf 16 (flitHeader f) ++ bytesOf 8 (flitInvocation f)

/-- The direction byte of a port's sending side, or of its receiving side (R381). -/
def State.direction (s : State) (p : PortId) (sending : Bool) : Nat :=
  let q := s.ports[p.val]
  let first := if q.isSwitch then true else decide (s.modid.toNat % 2 ^ 20 < q.peer.toNat)
  if first = sending then 0 else 1

/-- The key of an epoch of one direction of a link (R381): "FY4L", the epoch, the direction byte. -/
def State.linkKey (s : State) (p : PortId) (sending : Bool) (epoch : Nat) : List Byte :=
  let q := s.ports[p.val]
  (hmac384 (if sending then q.secretTx else q.secretRx)
    (bytesOf 4 0x4C345946 ++ bytesOf 8 epoch ++ bytesOf 1 (s.direction p sending))).take 32

/-- The initialisation vector of a flit (R381). -/
def flitIv (f : Flit) (salt : Word32) : List Byte := beBytes 4 salt.toNat ++ beBytes 8 f.inv.toNat

/-- The encrypted body of a flit and its GCM tag, in a direction of a link under a key epoch (R378, R381). -/
def State.flitSeal (s : State) (p : PortId) (sending : Bool) (epoch : Nat) (f : Flit) : List Byte × List Byte :=
  let q := s.ports[p.val]
  gcmSeal (s.linkKey p sending epoch) (flitIv f (if sending then q.saltTx else q.saltRx)) (flitAad f) (fixLen 216 f.body)

/-- The 256 bytes of a flit that a port sends under a key epoch (R378). -/
def State.wire (s : State) (p : PortId) (epoch : Nat) (f : Flit) : List Byte :=
  let sealed := s.flitSeal p true epoch f
  flitAad f ++ sealed.1 ++ sealed.2

/-- A flit sealed under the present key and handed to the link. -/
def State.emit (s : State) (p : PortId) (f : Flit) : State :=
  let q := s.ports[p.val]
  let f := { f with slot := decide (q.tx.epoch % 2 = 1), inv := BitVec.ofNat 48 q.tx.inv }
  let s := s.setPort p fun q => { q with tx := { q.tx with inv := q.tx.inv + 1 } }
  { s with notices := s.notices ++ [.flit p f (s.wire p q.tx.epoch f)] }

/-- A sequenced flit sent: none while the replay buffer is full or no key may seal it (R380, R383). -/
def State.sendSeq (s : State) (p : PortId) (f : Flit) : Option State :=
  let q := s.ports[p.val]
  if q.maySeal && decide (q.tx.buf.length < 256) then
    let f := { f with seq := q.tx.seq }
    some ((s.setPort p fun q => { q with tx := { q.tx with seq := q.tx.seq + 1, buf := q.tx.buf ++ [f] } }).emit p f)
  else none

/-- An ACK or NAK sent; a port that may not seal drops it (R380, R383). -/
def State.sendCtl (s : State) (p : PortId) (f : Flit) : State :=
  if (s.ports[p.val]).maySeal then s.emit p f else s

/-- A flit of this module to another, unused fields zero (R379). -/
def State.flitTo (s : State) (typ : FlitType) (dst : BitVec 20) (core srcCore : BitVec 9) (tag : BitVec 6)
    (off : Nat) (body : List Byte) : Flit :=
  { typ := typ, dst := dst, src := s.modid.setWidth 20, seq := 0, slot := false, inv := 0, core := core,
    srcCore := srcCore, tag := tag, offset := BitVec.ofNat 40 off, body := body, mac := [] }

/-! ### Running values (R230) -/

/-- A running value continued over bytes. -/
def runValue (k : CkKind) (v : Word32) (bs : List Byte) : Word32 :=
  match k with
  | .none => v
  | .sum32 => (wordsOf 4 bs.length bs).foldl (fun a w => a + BitVec.ofNat 32 w) v
  | .crc32c => ~~~(crcBytes (~~~v) bs)

/-- The code of a check kind (R380). -/
def CkKind.code : CkKind → Nat
  | .none => 0
  | .sum32 => 1
  | .crc32c => 2

/-- The check kind of a code. -/
def ckKindOf (n : Nat) : CkKind :=
  match n with
  | 1 => .sum32
  | 2 => .crc32c
  | _ => .none

/-! ### Receiving (R384 to R386) -/

/-- A receive window (R385). -/
structure RxWindow where
  ena  : Bool
  tag  : BitVec 12
  base : Nat
  len  : Nat
  mask : BitVec 20
  src  : BitVec 20
  deriving DecidableEq, Repr

/-- The receive window of a core. -/
def Core.window (k : Core) : RxWindow :=
  { ena := k.rxwin[2].getLsbD 63, tag := BitVec.ofNat 12 (bitsAt k.rxwin[0].toNat 52 12),
    base := bitsAt k.rxwin[0].toNat 0 52, len := bitsAt k.rxwin[1].toNat 0 41,
    mask := BitVec.ofNat 20 (bitsAt k.rxwin[2].toNat 20 20), src := BitVec.ofNat 20 (bitsAt k.rxwin[2].toNat 0 20) }

/-- The reason that closes a window to a source module (R386). -/
def RxWindow.shut (w : RxWindow) (src : BitVec 20) : Option Byte :=
  if !w.ena then some 1 else if (src ^^^ w.src) &&& w.mask ≠ 0 then some 2 else none

/-- The core of a number. -/
def coreAt (n : BitVec 9) : CoreId := Fin.ofNat 512 n.toNat

/-- Whether an arriving put is the one a flit names. -/
def InPut.is (x : InPut) (port : Option PortId) (src : BitVec 20) (srcCore : BitVec 9) (tag : BitVec 6) : Bool :=
  decide (x.port = port) && decide (x.src = src) && decide (x.srcCore = srcCore) && decide (x.tag = tag)

/-- The arriving put of a flit, new when none is open. -/
def State.inputOf (s : State) (port : Option PortId) (src : BitVec 20) (srcCore : BitVec 9) (tag : BitVec 6)
    (core : BitVec 9) : InPut :=
  (s.inputs.find? fun x => x.is port src srcCore tag).getD
    { port := port, src := src, srcCore := srcCore, tag := tag, core := core, bytes := [], refused := none }

/-- An arriving put put back. -/
def State.setInput (s : State) (x : InPut) : State :=
  { s with inputs := (s.inputs.filter fun y => !(y.is x.port x.src x.srcCore x.tag)) ++ [x] }

/-- Whether a write meets a frame whose attribute is changing (R354). -/
def State.changingAt (s : State) (pa n : Nat) : Bool :=
  (homeOf pa).isLpddr && (blocksOf 65536 pa n).any fun b => (s.fatOf b).changing

/-- A DATA of a put (R384): checked against the window; its bytes are written, their stamps emptied, tiles they touch
STALE. A put once refused writes nothing more (R386). -/
def State.putData (s : State) (port : Option PortId) (src : BitVec 20) (srcCore : BitVec 9) (tag : BitVec 6)
    (core : BitVec 9) (off : Nat) (bs : List Byte) : State :=
  let x := s.inputOf port src srcCore tag core
  let w := (s.core (coreAt core)).window
  if x.refused.isSome then s
  else
    match w.shut src with
    | some r => s.setInput { x with refused := some r }
    | none =>
      let pa := w.base + off
      if w.len < off + bs.length ∨ !((homeOf pa).isSram || (homeOf pa).isLpddr) then s.setInput { x with refused := some 3 }
      else if s.changingAt pa bs.length then s.setInput { x with refused := some 5 }
      else
        let s := s.writePa pa bs
        let s := if (homeOf pa).isSram then (s.arriveStamps pa bs.length).staleTiles pa bs.length else s
        s.setInput { x with bytes := x.bytes ++ bs }

/-- What the END of a put carries (R380). -/
structure PutEnd where
  count  : Nat
  seed   : Word32
  expect : Word32
  kind   : CkKind
  armed  : Bool
  signal : Bool
  cc     : Fin 16
  deriving DecidableEq, Repr

/-- The body of an END (R380). -/
def PutEnd.body (e : PutEnd) : List Byte :=
  bytesOf 8 e.count ++ bytesOf 4 e.seed.toNat ++ bytesOf 4 e.expect.toNat ++
  bytesOf 1 (e.kind.code + bitNat e.armed * 4 + bitNat e.signal * 8 + e.cc.val * 16)

/-- The END that a body holds. -/
def putEndOf (bs : List Byte) : PutEnd :=
  let f := leNat ((bs.drop 16).take 1)
  { count := leNat (bs.take 8), seed := BitVec.ofNat 32 (leNat ((bs.drop 8).take 4)),
    expect := BitVec.ofNat 32 (leNat ((bs.drop 12).take 4)), kind := ckKindOf (f % 4), armed := bitAt f 2,
    signal := bitAt f 3, cc := Fin.ofNat 16 (f / 16) }

/-- How a put ended: bytes written, running value, status (0 DONE, 1 MISMATCH, 2 REFUSED), reason (R380). -/
structure PutDone where
  bytes  : Nat
  value  : Word32
  status : BitVec 8
  reason : BitVec 8
  deriving DecidableEq, Repr

/-- The body of a PDONE (R380). -/
def PutDone.body (d : PutDone) : List Byte :=
  bytesOf 8 d.bytes ++ bytesOf 4 d.value.toNat ++ [d.status, d.reason]

/-- The PDONE that a body holds. -/
def putDoneOf (bs : List Byte) : PutDone :=
  { bytes := leNat (bs.take 8), value := BitVec.ofNat 32 (leNat ((bs.drop 8).take 4)), status := bs.getD 12 0,
    reason := bs.getD 13 0 }

/-- Whether a task belongs to the job of a tag. -/
def State.hasTag (s : State) (t : Task) (tag : BitVec 12) : Bool :=
  ((s.jobOf t.rs.rc.job).map fun j => decide (j.tag = tag)).getD false

/-- The counter advance of a put (R386): the task of the window's job on the core, or one parked from it, of a
pair from either core; none when there is no such task. -/
def State.advanceCc (s : State) (core : CoreId) (tag : BitVec 12) (cc : Fin 16) : Option State :=
  let h := s.hostOf core
  match s.taskOf h with
  | some t =>
    if s.hasTag t tag then some (s.setTask h (t.countCc cc)) else parkedCc
  | none => parkedCc
where
  /-- The advance in the saved counters of a parked task. -/
  parkedCc : Option State :=
    let k := clusterOf core
    match (s.clusters[k.val]).parked.findIdx? fun p => decide (p.origin = core ∨
        p.task.rs.rc.paired = true ∧ partnerOf p.origin = core) && s.hasTag p.task tag with
    | some i =>
      some (s.setCluster k fun c => { c with parked := c.parked.modify i fun p => { p with task := p.task.countCc cc } })
    | none => none

/-- The END of a put at its destination (R384, R386): refusals before the armed compare. -/
def State.putEnd (s : State) (port : Option PortId) (src : BitVec 20) (srcCore : BitVec 9) (tag : BitVec 6)
    (core : BitVec 9) (e : PutEnd) : State × PutDone :=
  let x := s.inputOf port src srcCore tag core
  let s1 : State := { s with inputs := s.inputs.filter fun y => !(y.is port src srcCore tag) }
  let c := coreAt core
  let w := (s.core c).window
  let refuse (r : Byte) : State × PutDone := (s1, { bytes := x.bytes.length, value := 0, status := 2, reason := r })
  match x.refused with
  | some r => refuse r
  | none =>
    match w.shut src with
    | some r => refuse r
    | none =>
      let v := runValue e.kind e.seed x.bytes
      let value := if e.kind = .none then 0 else v
      let done (st : BitVec 8) : PutDone := { bytes := x.bytes.length, value := value, status := st, reason := 0 }
      if e.signal then
        match s1.advanceCc c w.tag e.cc with
        | none => refuse 4
        | some s2 => if e.armed && decide (v ≠ e.expect) then (s1, done 1) else (s2, done 0)
      else (s1, done (if e.armed && decide (v ≠ e.expect) then 1 else 0))

end Machine

end Sys2Proof
end

