-- ==== Sys2Proof/Machine/Copy.lean ====
section
/-!
DEFINITION. Machine/Copy.lean: the copy engine (R224 to R243, R393): its words, and X_CHUNK and X_COMMAND_COMPLETE.
-/

namespace Sys2Proof

namespace Machine

/-! ### Setup words (R239) -/

/-- The limit of an address in a space (R224). -/
def XSpace.limit : XSpace → Nat
  | .spad => 2 ^ 20
  | .dspace => 2 ^ 48
  | .wspace => 2 ^ 39
  | .remote => 2 ^ 40

/-- The space of a selector (R224). -/
def xspaceOf (n : Nat) : XSpace :=
  match n with
  | 0 => .spad
  | 1 => .dspace
  | 2 => .wspace
  | _ => .remote

/-- x.src (R239). -/
def execXSrc (space : BitVec 8) (s : State) : Out :=
  setupWord .x none 1 (fun l t => do
    inRange (decide (space.toNat ≤ 2) && decide (popped l 0 < (xspaceOf space.toNat).limit))
    .ok { t with xc := { t.xc with sspace := xspaceOf space.toNat, sbase := popped l 0 } }) s

/-- x.dst (R239). -/
def execXDst (space : BitVec 8) (s : State) : Out :=
  setupWord .x none 1 (fun l t => do
    inRange (decide (space.toNat ≤ 3) && decide (popped l 0 < (xspaceOf space.toNat).limit))
    .ok { t with xc := { t.xc with dspace := xspaceOf space.toNat, dbase := popped l 0 } }) s

/-- x.len (R239). -/
def execXLen (s : State) : Out :=
  setupWord .x none 1 (fun l t => do
    inRange (decide (1 ≤ popped l 0) && decide (popped l 0 ≤ 2 ^ 24))
    .ok { t with xc := { t.xc with len := popped l 0 } }) s

/-- x.str (R239). -/
def execXStr (s : State) : Out :=
  setupWord .x none 3 (fun l t => do
    let i32 (v : Int) := decide (-(2 ^ 31) ≤ v) && decide (v < 2 ^ 31)
    inRange (decide (1 ≤ popped l 0) && decide (popped l 0 ≤ 2 ^ 20) && i32 (poppedInt l 1) && i32 (poppedInt l 2))
    .ok { t with xc := { t.xc with rows := popped l 0, sstr := poppedInt l 1, dstr := poppedInt l 2 } }) s

/-- x.ck (R239). -/
def execXCk (kind : BitVec 8) (s : State) : Out :=
  setupWord .x none 1 (fun l t => do
    inRange (decide (kind.toNat ≤ 2) && decide (popped l 0 < 2 ^ 32))
    .ok { t with xc := { t.xc with ck := ckKindOf kind.toNat, seed := BitVec.ofNat 32 (popped l 0) } }) s

/-- x.cke (R232, R239). -/
def execXCke (s : State) : Out :=
  setupWord .x none 1 (fun l t => do
    inRange (decide (popped l 0 < 2 ^ 32))
    .ok { t with xc := { t.xc with armed := some (BitVec.ofNat 32 (popped l 0)) } }) s

/-- x.mod (R237, R239). -/
def execXMod (s : State) : Out :=
  setupWord .x none 1 (fun l t => do
    inRange (decide (bitsAt (popped l 0) 37 27 = 0) && decide (bitsAt (popped l 0) 29 3 = 0))
    .ok { t with xc := { t.xc with remote := some (l.getD 0 0) } }) s

/-- x.ckget (R242). -/
def execXCkget (s : State) : Out :=
  queryWord .x (fun _ => .ok ()) (fun _ t => match t.xlast with
    | some x => x.value.setWidth 64
    | none => 0) s

/-! ### Acceptance (R228) -/

/-- Rows of a command: 0 counts as 1 (R227). -/
def XCfg.nrows (x : XCfg) : Nat := max 1 x.rows

/-- Bounds of the rows of one side. -/
def rowBounds (base : Nat) (rows len : Nat) (str : Int) : Int × Int :=
  let last : Int := ((rows : Int) - 1) * str
  ((base : Int) + min 0 last, (base : Int) + max 0 last + len)

/-- Step 3 of R228: the space combination (R224, R236). `commit` says that the command's effect must be withdrawable. -/
def spacesOk (x : XCfg) (isFill isW commit : Bool) : Res Unit :=
  if isW then need (decide (x.sspace = .spad) && decide (x.dspace = .wspace) && !commit) (illegalOp 24)
  else if isFill then need (decide (x.dspace = .spad) || decide (x.dspace = .dspace)) (illegalOp 24)
  else if x.dspace = .wspace then raise 10 0 x.dbase
  else need (decide (x.dspace ≠ .remote) || (x.remote.isSome && !commit)) (illegalOp 24)

/-- Step 4: geometry (R228, R243). -/
def xGeometry (x : XCfg) (isW : Bool) : Res Unit := do
  need (decide (1 ≤ x.len) && decide (x.len ≤ 2 ^ 24) && (decide (x.ck ≠ .sum32) || decide (x.len % 4 = 0))) (illegalOp 18)
  need (!isW || (decide (x.dbase % 4096 = 0) && decide (x.len % 4096 = 0) && decide (x.rows ≤ 1))) (illegalOp 27)

/-- Step 5: the seed, and the predecessor a chained command still waits for (R231, R393). -/
def xSeed (t : Task) (x : XCfg) (chain : Bool) : Res (Word32 × Option Nat) :=
  if chain then
    match t.xlast with
    | some p => if p.chain && decide (p.kind = x.ck) then .ok (if p.done then (p.value, none) else (0, some p.seq))
      else illegalOp 25
    | none => illegalOp 25
  else .ok (x.seed, none)

/-- The D-space ranges of a command: source, destination, each row `more` bytes longer. -/
def XCfg.dranges (x : XCfg) (isFill : Bool) (more : Nat) : List DRange × List DRange :=
  (if x.sspace = .dspace && !isFill then [⟨x.sbase, x.len + more, x.nrows, x.sstr, false⟩] else [],
   if x.dspace = .dspace then [⟨x.dbase, x.len + more, x.nrows, x.dstr, true⟩] else [])

/-- The scratchpad side of a footprint. -/
def spadSide (c : CoreId) (space : XSpace) (base rows len : Nat) (str : Int) (write : Bool) : List Foot :=
  if space = .spad then
    let b := rowBounds base rows len str
    [⟨spadPa c b.1.toNat, spadPa c b.2.toNat, write, true⟩]
  else []

/-- Range checks of a scratchpad or W-space side (R178). -/
def State.checkSide (s : State) (c : CoreId) (space : XSpace) (base rows len : Nat) (str : Int) : Res Unit :=
  match space with
  | .spad => let b := rowBounds base rows len str; checkSpad b.1 b.2
  | .wspace => (List.range rows).foldlM (fun _ (i : Nat) =>
      let a : Int := (base : Int) + (i : Int) * str
      s.checkW c a (a + len)) ()
  | _ => .ok ()

/-- Whether a W-space side must wait (R331). -/
def State.sideNotReady (s : State) (space : XSpace) (base rows len : Nat) (str : Int) : Bool :=
  decide (space = .wspace) && s.wNotReady (rowBounds base rows len str).1 (rowBounds base rows len str).2

/-- The parts of a run of bytes that 64 KiB boundaries cut it into: offset and length. -/
def cutAt (a n : Nat) : List (Nat × Nat) := (blocksOf 65536 a n).map fun b => (max a b - a, min (a + n) (b + 65536) - max a b)

/-- The physical origin of an address that a command names, under pages. -/
def physOf (c : CoreId) (pages : List PageUse) (space : XSpace) (a : Nat) : Option (Nat × Bool) :=
  match space with
  | .spad => some (spadPa c a, false)
  | .wspace => some (a, true)
  | .dspace => (pages.find? fun p => decide (p.va ≤ a) && decide (a < p.va + p.size)).map fun p => (p.pa + (a - p.va), p.wap)
  | .remote => none

/-- The physical ranges, first and end address, of a run of bytes that a command names, W-space left out. -/
def physRanges (c : CoreId) (pages : List PageUse) (space : XSpace) (a n : Nat) : List (Nat × Nat) :=
  match space with
  | .spad => [(spadPa c a, spadPa c a + n)]
  | .dspace =>
    (pages.filter fun p => !p.wap && decide (max a p.va < min (a + n) (p.va + p.size))).map fun p =>
      (p.pa + (max a p.va - p.va), p.pa + (min (a + n) (p.va + p.size) - p.va))
  | _ => []

/-- Whether physical ranges hold every byte of one. -/
def rangesHold (l : List (Nat × Nat)) (o n : Nat) : Bool :=
  (List.range n).all fun i => l.any fun r => decide (r.1 ≤ o + i) && decide (o + i < r.2)

/-- Where the destination of a command lies, when all its bytes lie behind each other in SRAM (R234). -/
def destInSram (c : CoreId) (pages : List PageUse) (x : XCfg) : Option Nat :=
  match physOf c pages x.dspace x.dbase with
  | some (d, false) =>
    if (homeOf d).isSram && (homeOf (d + x.len - 1)).isSram &&
        ((cutAt x.dbase x.len).all fun r => decide (physOf c pages x.dspace (x.dbase + r.1) = some (d + r.1, false))) then some d
    else none
  | _ => none

/-- The tile that a command would copy as a tile (R234): whether it lies in W-space, its origin, the tile, and the
destination, all of whose bytes lie in SRAM. -/
def State.tileCopyOf (s : State) (c : CoreId) (t : Task) (pages : List PageUse) (x : XCfg) :
    Option (Bool × Nat × Tile × Nat) :=
  match physOf c pages x.sspace x.sbase, destInSram c pages x with
  | some (o, w), some d =>
    match tileAt (if w then s.wtiles else (s.viewOf t).tiles) o with
    | some tl => if x.rows ≤ 1 ∧ x.len = tileSize tl.fmt ∧ x.dbase % 512 = 0 then some (w, o, tl, d) else none
    | none => none
  | _, _ => none

/-- Whether a command may prove a tile copy: its footprint takes in both sidebands. -/
def XCfg.mayTile (x : XCfg) : Bool := decide (x.rows ≤ 1) && decide (x.dbase % 512 = 0) && decide (x.dspace ≠ .remote)

/-- A command not begun. -/
def XCmd.new (x : XCfg) (fill : Option Word64) (adv : Bool) (seed : Word32) (chain : Option Nat) : XCmd :=
  { cfg := x, fill := fill, adv := adv, chain := chain, value := seed, begun := false, next := 0,
    sent := false, tileCopy := false, putTag := none, outcome := none, differ := 0, firstDiffer := none, beats := 0, port := none,
    source := none, checked := 0 }

/-- Whether a task may program the weight tier (R243). -/
def State.wPriv (s : State) (t : Task) : Bool := ((s.launchOf t.rs.rc.job t.rs.rc.launch).map Launch.wpriv).getD false

/-- The data area of a tile that a command would make by a tile copy (R234, R257): none for one that cannot. -/
def XCfg.made (x : XCfg) (c : CoreId) (pages : List PageUse) : List Foot :=
  match destInSram c pages x with
  | some d =>
    if x.mayTile && (List.range 32).any (fun f => decide (tileSize (BitVec.ofNat 5 f) = x.len)) then
      [⟨d, d + x.len, true, decide (x.dspace = .spad)⟩]
    else []
  | none => []

/-- Whether the source of a command is, or will be once the commands before it complete, the origin of a tile that the
command copies as a tile (R234). -/
def State.copiesTile (s : State) (c : CoreId) (t : Task) (pages : List PageUse) (x : XCfg) : Bool :=
  (s.tileCopyOf c t pages x).isSome ||
  (match physOf c pages x.sspace x.sbase with
   | some (o, false) => !(x.made c pages).isEmpty &&
       (t.cmds.flatMap Cmd.makes).any fun m => decide (m.lo = o) && decide (m.hi = o + x.len)
   | _ => false)

/-- The checks of R228, and the command's pages and footprint. A tile copy reads and writes a sideband behind its data. -/
def State.moveRanges (s : State) (c : CoreId) (t : Task) (x : XCfg) (isFill isW : Bool) : Res (List PageUse × List Foot) := do
  let n := x.nrows
  let data := x.dranges isFill 0
  let sp := if isFill then XSpace.remote else x.sspace
  let side (more : Nat) (d : List DRange × List DRange) (far : List Piece) : List Foot × List Foot :=
    (spadSide c sp x.sbase n (x.len + more) x.sstr isW ++ footOf far d.1,
     spadSide c x.dspace x.dbase n (x.len + more) x.dstr true ++ footOf far d.2)
  let f0 := side 0 data (s.pieces c t (data.1 ++ data.2) (2 ^ 29) 0)
  need (isFill || isW || !(f0.1.any fun a => f0.2.any fun b => b.meets a)) (illegalOp 26)
  let first := pagesOf s t (s.pieces c t (data.1 ++ data.2) 65 0)
  let more := if !isFill && !isW && s.copiesTile c t first x then 512 else 0
  if s.sideNotReady sp x.sbase n (x.len + more) x.sstr || s.sideNotReady x.dspace x.dbase n x.len x.dstr then .error .wait
  s.checkSide c sp x.sbase n (x.len + more) x.sstr
  s.checkSide c x.dspace x.dbase n (x.len + more) x.dstr
  let d := x.dranges isFill more
  let ps := s.pieces c t (d.1 ++ d.2) 65 0
  s.checkPieces c t (d.1 ++ d.2) 0 ps
  let fs := side more d (s.pieces c t (d.1 ++ d.2) (2 ^ 29) 0)
  let foot := s.withSidebands t (fs.1 ++ fs.2)
  .ok (pagesOf s t ps, if isW then s.withTiles t foot else foot)

/-- A launch word of the copy engine (R225 to R228). -/
def xLaunch (kind : XCmd → CmdKind) (isFill isW prog adv chain : Bool) (track : Fin 16) (s : State) : Out :=
  engWord .x 1 none (fun c h s t => do
    if 64 ≤ (t.cmds.filter fun p => decide (p.eng = .x) && !p.waits).length then .error .wait
    let r ← t.popWords .x (if isFill then 1 else 0)
    let x := t.xc
    need (!isW || s.wPriv t) (illegalOp 0)
    inRange (x.armed.isNone || decide (x.ck ≠ .none))
    spacesOk x isFill isW (t.rs.rc.commit && (prog || !isW))
    xGeometry x isW
    let sd ← xSeed t x chain
    let a ← s.moveRanges c t x isFill isW
    let cmd := XCmd.new x (if isFill then some (r.1.getD 0 0) else none) adv sd.1 sd.2
    let last : Option XLast :=
      if x.ck = .none then t.xlast
      else some { seq := t.nextSeq, kind := x.ck, value := 0, chain := true, done := false }
    let t1 : Task := { r.2 with xc := { x with armed := none }, xlast := last }
    .ok (s, t1.accept h .x track a.2 a.1 (kind cmd) (if isFill || isW then [] else x.made c a.1))) s

/-- x.go (R240). -/
def execXGo (adv b4 : Bool) (track : Fin 16) (s : State) : Out := xLaunch .xMove false false false adv b4 track s
/-- x.fill (R241). -/
def execXFill (adv b4 : Bool) (track : Fin 16) (s : State) : Out := xLaunch .xMove true false false adv b4 track s
/-- x.wprog (R243). -/
def execXWprog (adv : Bool) (track : Fin 16) (s : State) : Out := xLaunch .xProg false true true adv false track s
/-- x.wverify (R243). -/
def execXWverify (adv : Bool) (track : Fin 16) (s : State) : Out := xLaunch .xVerify false true false adv false track s

/-! ### Moving bytes (R227, R230, R235) -/

/-- Bytes of a command. -/
def XCmd.total (x : XCmd) : Nat := x.cfg.nrows * x.cfg.len

/-- A run of adjacent bytes: its place in flattened order, its address, its length. -/
structure XRun where
  flat : Nat
  a    : Nat
  n    : Nat
  deriving DecidableEq, Repr

/-- The runs of flattened bytes `p` to `stop − 1` on one side. -/
def runsFrom (base len : Nat) (str : Int) : Nat → Nat → Nat → List XRun
  | 0, _, _ => []
  | k + 1, p, stop =>
    if stop ≤ p then []
    else
      let r := p / len
      let b := p % len
      let n := min (len - b) (stop - p)
      ⟨p, addr64 ((base : Int) + (r : Int) * str + (b : Int)), n⟩ :: runsFrom base len str k (p + n) stop

/-- Runs cut where a page may end. -/
def cutRuns (l : List XRun) : List XRun :=
  l.flatMap fun r =>
    let m := 65536 - r.a % 65536
    if r.n ≤ m then [r] else [⟨r.flat, r.a, m⟩, ⟨r.flat + m, r.a + m, r.n - m⟩]

/-- The source runs of a part of the stream. -/
def XCmd.srcRuns (x : XCmd) (p stop : Nat) : List XRun := cutRuns (runsFrom x.cfg.sbase x.cfg.len x.cfg.sstr (stop - p) p stop)
/-- The destination runs of a part of the stream. -/
def XCmd.dstRuns (x : XCmd) (p stop : Nat) : List XRun := cutRuns (runsFrom x.cfg.dbase x.cfg.len x.cfg.dstr (stop - p) p stop)

/-- The code of a space in CTINFO (R281). -/
def XSpace.infoCode : XSpace → Nat
  | .spad => 1
  | .wspace => 2
  | _ => 0

/-- What reading a run gives: state, bytes, the flattened ranges that came poisoned, beats of W-space. -/
structure XRead where
  st    : State
  bytes : List Byte
  marks : List (Nat × Nat)
  beats : Nat
  deriving DecidableEq, Repr

/-- A run read (R235): its poison is consumed, or marked. -/
def readRun (c : CoreId) (t : Task) (pages : List PageUse) (space : XSpace) (consume : Bool) (s : State) (r : XRun) :
    Res XRead :=
  match physOf c pages space r.a with
  | none => modelStop r.a
  | some (wa, true) =>
    match s.poisonedRow wa r.n with
    | some w => contain 1 (memInfo space.infoCode (r.a + (max w wa - wa))) []
    | none => .ok ⟨s, s.readW wa r.n, [], (blocksOf 512 wa r.n).length⟩
  | some (pa, false) => do
    let v := s.viewOf t
    let ws := (eccWords pa r.n).filter fun w => (v.checkMacs pa r.n).poison.contains w
    if consume && !ws.isEmpty then
      contain 1 (memInfo space.infoCode (r.a + ws.headD 0 - pa)) [(pa, r.n)]
    else
      let s := (s.checkMacs pa r.n)
      let s ← s.cmdTouch t pa r.n .read r.a
      .ok ⟨s, v.readPa pa r.n,
        ws.map fun w => (r.flat + (max w pa - pa), r.flat + (min (w + eccSize pa) (pa + r.n) - pa)), 0⟩

/-- Several runs. -/
def readRuns (c : CoreId) (t : Task) (pages : List PageUse) (space : XSpace) (consume : Bool) :
    List XRun → State → Res XRead
  | [], s => .ok ⟨s, [], [], 0⟩
  | r :: rs, s => do
    let a ← readRun c t pages space consume s r
    let b ← readRuns c t pages space consume rs a.st
    .ok ⟨b.st, a.bytes ++ b.bytes, a.marks ++ b.marks, a.beats + b.beats⟩

/-- Physical bytes that a command writes, with the poison it moves there (R235, R236, R259). -/
def writePhys (c : CoreId) (pa name : Nat) (bs : List Byte) (words : List Nat) (s : State) (t : Task) : Res (State × Task) := do
  let s ← s.cmdTouch t pa bs.length .write name
  let s ← (if (homeOf pa).isSram then (s.viewOf t).sideGranules pa bs.length else []).foldlM (fun s g =>
    match s.touchGranule t g .write none with
    | some s' => .ok s'
    | none => modelStop name) s
  let r ← s.taskWrite c t pa bs (homeOf pa).isSram
  if t.rs.rc.commit && !ownSpad c pa then
    let t' ← r.2.buffer (words.map .poison)
    .ok (r.1, t')
  else .ok (r.1.addPoison words, r.2)

/-- The ECC words of a run that marked bytes of the stream reach. -/
def markedWords (pa : Nat) (r : XRun) (marks : List (Nat × Nat)) : List Nat :=
  marks.flatMap fun m =>
    let lo := max m.1 r.flat
    let hi := min m.2 (r.flat + r.n)
    if lo < hi then eccWords (pa + (lo - r.flat)) (hi - lo) else []

/-- Runs written in flattened order. -/
def writeRuns (c : CoreId) (pages : List PageUse) (space : XSpace) (from_ : Nat) (bs : List Byte) (marks : List (Nat × Nat)) :
    List XRun → State → Task → Res (State × Task)
  | [], s, t => .ok (s, t)
  | r :: rs, s, t =>
    match physOf c pages space r.a with
    | some (pa, false) => do
      let x ← writePhys c pa r.a ((bs.drop (r.flat - from_)).take r.n) (markedWords pa r marks) s t
      writeRuns c pages space from_ bs marks rs x.1 x.2
    | _ => modelStop r.a

/-- A command's progress put back, with the value x.ckget reports (R242). -/
def Task.setMove (t : Task) (seq : Nat) (kind : CmdKind) (x : XCmd) : Task :=
  let t := t.setCmd seq kind
  { t with xlast := t.xlast.map fun l => if l.seq = seq then { l with value := x.value } else l }

/-- Whether a command writes to host memory (R235). -/
def Cmd.writesHost (q : Cmd) : Bool := q.foot.any fun f => f.write && decide (homeOf f.lo = .host)

/-- The bytes of a fill (R241). -/
def fillBytes (pat : Word64) (len p stop : Nat) : List Byte :=
  (List.range (stop - p)).map fun i => BitVec.ofNat 8 (pat.toNat / 2 ^ (8 * ((p + i) % len % 8)))

/-- The next part of the stream, at most to a chunk's end. -/
def XCmd.stop (x : XCmd) : Nat := min x.total ((x.next / 4096 + 1) * 4096)

/-- The bytes of a part of the stream as the command reads them. -/
def xBytes (c : CoreId) (s : State) (t : Task) (cmd : Cmd) (x : XCmd) (stop : Nat) (consume : Bool) : Res XRead :=
  match x.fill with
  | some pat => .ok ⟨s, fillBytes pat x.cfg.len x.next stop, [], 0⟩
  | none => readRuns c t cmd.pages x.cfg.sspace consume (x.srcRuns x.next stop) s

/-- A chunk of a copy inside the module (R227). A tile copy finds the poison of the sideband it carries before it writes
its first chunk (R235; the order is log 76's). -/
def moveChunk (c : CoreId) (s : State) (t : Task) (cmd : Cmd) (x : XCmd) : Unit_ := do
  let stop := x.stop
  let tc := if x.begun then x.tileCopy else x.fill.isNone && (s.tileCopyOf c t cmd.pages x.cfg).isSome
  let poisonedTile :=
    match (if tc then s.tileCopyOf c t cmd.pages x.cfg else none) with
    | some (_, _, tl, _) => tl.poison
    | none => false
  if poisonedTile then contain 1 (memInfo x.cfg.sspace.infoCode x.cfg.sbase) []
  let dst := x.dstRuns x.next stop
  let consume := decide (x.cfg.ck ≠ .none) || tc || cmd.writesHost
  let r ← xBytes c s t cmd x stop consume
  let _ ← (if tc && !x.begun then
      readRun c t cmd.pages x.cfg.sspace true s ⟨0, x.cfg.sbase + x.total, 512⟩
    else .ok ⟨s, [], [], 0⟩)
  let w ← writeRuns c cmd.pages x.cfg.dspace x.next r.bytes r.marks dst r.st t
  let x' := { x with begun := true, tileCopy := tc, next := stop, beats := x.beats + r.beats,
                     value := runValue x.cfg.ck x.value r.bytes }
  .ok (w.1, w.2.setMove cmd.seq (.xMove x') x')

/-! ### Puts (R237, R384) -/

/-- The fields of x.mod's target. -/
def XCfg.target (x : XCfg) : Nat := (x.remote.getD 0).toNat
/-- The destination module of a put. -/
def XCfg.dstModule (x : XCfg) : Nat := bitsAt x.target 0 20
/-- The destination core of a put. -/
def XCfg.dstCore (x : XCfg) : BitVec 9 := BitVec.ofNat 9 (bitsAt x.target 20 9)

/-- The END of a put. -/
def XCmd.putEnd (x : XCmd) : PutEnd :=
  { count := x.total, seed := if x.cfg.ck = .none then 0 else x.value, expect := x.cfg.armed.getD 0, kind := x.cfg.ck,
    armed := x.cfg.armed.isSome, signal := bitAt x.cfg.target 36, cc := Fin.ofNat 16 (bitsAt x.cfg.target 32 4) }

/-- The core by which a put names itself to its destination: the one that it was begun on (R384). -/
def XCmd.sourceOr (x : XCmd) (c : CoreId) : BitVec 9 := x.source.getD (BitVec.ofNat 9 c.val)

/-- Put tags in use by puts begun on a core, wherever their tasks are now (R238, R273). -/
def State.putTags (s : State) (src : BitVec 9) : List Nat :=
  s.allTasks.flatMap fun t => t.cmds.filterMap fun cmd => match cmd.kind with
    | .xMove x => if x.source = some src then x.putTag.map BitVec.toNat else none
    | _ => none

/-- The puts that a core has begun toward a module, no PDONE having answered them. -/
def State.putsTo (s : State) (src : BitVec 9) (dst : BitVec 20) : List SentPut :=
  (s.core (coreAt src)).puts.filter fun e => decide (e.dst = dst)

/-- A core's list of unanswered puts changed. -/
def State.setPuts (s : State) (src : BitVec 9) (f : List SentPut → List SentPut) : State :=
  s.setCore (coreAt src) fun k => { k with puts := f k.puts }

/-- What a put does about its tag: it takes one, or first ends a put that an unwind has left open under one. -/
inductive PutTag where
  | take (n : BitVec 6)
  | close (e : SentPut)
  deriving DecidableEq, Repr

/-- A put tag: the command's own, or from its number on, in cyclic order, the next that no live put of the core has and under
which its destination holds no put of the core open and owes it no PDONE (R384, R386). Where there is none, an open put whose
command is gone is ended first, and last a tag comes round whose PDONE is still owed; none when live puts have all 64
(log 26). -/
def State.tagFor (s : State) (src : BitVec 9) (seq : Nat) (x : XCmd) : Option PutTag :=
  match x.putTag with
  | some g => some (.take g)
  | none =>
    let spare := ((List.range 64).map fun (i : Nat) => (seq + i) % 64).filter fun n => !(s.putTags src).contains n
    let under (n : Nat) : List SentPut :=
      (s.putsTo src (BitVec.ofNat 20 x.cfg.dstModule)).filter fun e => decide (e.tag.toNat = n)
    let can (e : SentPut) : Bool := !e.ended && e.port.all fun p => (s.ports[p.val]).alive
    match spare.find? fun n => (under n).isEmpty with
    | some n => some (.take (BitVec.ofNat 6 n))
    | none =>
      match (spare.flatMap under).find? can with
      | some e => some (.close e)
      | none => (spare.find? fun n => (under n).all fun e => e.ended).map fun n => .take (BitVec.ofNat 6 n)

/-- The END of a put whose command is gone: it advances no counter and compares nothing. -/
def PutEnd.closing : PutEnd := { count := 0, seed := 0, expect := 0, kind := .none, armed := false, signal := false, cc := 0 }

/-- An open put whose command is gone ended at its destination, in the module at once, else by an END on its link, which its
PDONE answers (log 26). -/
def State.closePut (s : State) (src : BitVec 9) (e : SentPut) : Option State :=
  match e.port with
  | none =>
    some (({ s with inputs := s.inputs.filter fun y => !(y.is none (s.modid.setWidth 20) src e.tag) } : State).setPuts src
      fun l => l.erase e)
  | some p => (s.sendSeq p (s.flitTo .end_ e.dst e.core src e.tag 0 PutEnd.closing.body)).map fun s =>
      s.setPuts src fun l => l.map fun y => if y = e then { y with ended := true } else y

/-- A put's END sent, noted in the list of its core: inside the module it is answered at once. -/
def State.endedPut (s : State) (src : BitVec 9) (dst : BitVec 20) (tag : BitVec 6) (port : Option PortId) : State :=
  let mine (e : SentPut) : Bool := decide (e.dst = dst) && decide (e.tag = tag) && decide (e.port = port)
  s.setPuts src fun l =>
    if port.isNone then l.filter fun e => !mine e else l.map fun e => if mine e then { e with ended := true } else e

/-- The parts of a chunk of a put: at most 216 bytes each, none across a destination row (R384). -/
def putParts (len : Nat) : Nat → Nat → Nat → List (Nat × Nat)
  | 0, _, _ => []
  | k + 1, p, stop =>
    if stop ≤ p then []
    else
      let n := min 216 (min (len - p % len) (stop - p))
      (p, n) :: putParts len k (p + n) stop

/-- Window offset of a flattened byte, in the 40 bits a flit has for it: one below the window's base lies beyond its end. -/
def XCmd.putOff (x : XCmd) (p : Nat) : Nat :=
  (((x.cfg.dbase : Int) + ((p / x.cfg.len : Nat) : Int) * x.cfg.dstr + ((p % x.cfg.len : Nat) : Int)) % 2 ^ 40).toNat

/-- Parts handed to a port, or inside the module to its own window, while the port takes them: state and next position. -/
def sendParts (src : BitVec 9) (port : Option PortId) (x : XCmd) (tag : BitVec 6) (bs : List Byte) (from_ : Nat) :
    List (Nat × Nat) → State → State × Nat
  | [], s => (s, from_ + bs.length)
  | (q, n) :: rest, s =>
    let part := (bs.drop (q - from_)).take n
    match port with
    | none =>
      sendParts src port x tag bs from_ rest
        (s.putData none (s.modid.setWidth 20) src tag x.cfg.dstCore (x.putOff q) part)
    | some p =>
      match s.sendSeq p (s.flitTo .data (BitVec.ofNat 20 x.cfg.dstModule) x.cfg.dstCore src tag (x.putOff q) part) with
      | some s' => sendParts src port x tag bs from_ rest s'
      | none => (s, q)

/-- A put inside the module advanced a counter of its own task: that is no release of a waiting word before it (R175). -/
def Task.ownAdvance (t : Task) (before : Task) (cmd : Cmd) (cc : Fin 16) : Task :=
  if t.cc[cc.val] = before.cc[cc.val] then t else { t with cmds := t.cmds.map ({ cmd with track := cc }).notReleased }

/-- The link of a put (R377, R384): none for one that stays inside the module; later flits take the link of the first. -/
def State.putPort (s : State) (x : XCmd) : Option PortId :=
  if x.putTag.isSome then x.port
  else if x.cfg.dstModule = s.modid.toNat % 2 ^ 20 then none
  else some (s.portOf x.cfg.dstModule)

/-- A chunk of a put, and with the last byte its END, all on the link that its first flit took and from the core that it was
begun on (R238, R384). A port that does not carry flits refuses it (R376). Until the destination has answered, the value that
x.ckget gives is 0, also of a put that ends in a fault before that (log 80). -/
def putChunk (c : CoreId) (s : State) (t : Task) (cmd : Cmd) (x : XCmd) : Unit_ := do
  let port := s.putPort x
  let src := x.sourceOr c
  if x.sent then .error .wait
  else if port.any fun p => !(s.ports[p.val]).alive then contain 11 6 []
  else
    let dst : BitVec 20 := BitVec.ofNat 20 x.cfg.dstModule
    match s.tagFor src cmd.seq x with
    | none => .error .wait
    | some (.close e) =>
      match s.closePut src e with
      | some s' => .ok (s', t)
      | none => .error .wait
    | some (.take tag) => do
      let stop := x.stop
      let s := if x.putTag.isSome then s else s.setPuts src fun l => l ++ [⟨tag, dst, x.cfg.dstCore, port, false⟩]
      let r ← xBytes c s t cmd x stop true
      let q := sendParts src port x tag r.bytes x.next (putParts x.cfg.len (stop - x.next) x.next stop) r.st
      let x1 := { x with begun := true, next := q.2, putTag := some tag, beats := x.beats + r.beats, port := port,
                         source := some src }
      let put := t.setMove cmd.seq (.xMove x1) { x1 with value := 0 }
      if q.2 < x.total then .ok (q.1, put)
      else
        match port with
        | none =>
          -- the counter advance may fall to a task of this core, so the command is put back first
          let e := (q.1.setTask c put).putEnd none (s.modid.setWidth 20) src tag x.cfg.dstCore x1.putEnd
          let t1 := ((e.1.taskOf c).getD t).ownAdvance put cmd x1.putEnd.cc
          let x2 := { x1 with sent := true, value := e.2.value, outcome := some (e.2.status, e.2.reason) }
          .ok (e.1.endedPut src dst tag none, t1.setMove cmd.seq (.xMove x2) x2)
        | some p =>
          match q.1.sendSeq p (s.flitTo .end_ dst x.cfg.dstCore src tag 0 x1.putEnd.body) with
          | some s' =>
            let x2 := { x1 with sent := true }
            .ok (s'.endedPut src dst tag (some p), t.setMove cmd.seq (.xMove x2) { x2 with value := 0 })
          | none => .ok (q.1, put)

/-! ### Weight words (R243) -/

/-- The tiles of the scratchpad that a source range meets. -/
def State.rangeTiles (s : State) (c : CoreId) (a n : Nat) : List (Nat × Tile) :=
  (tilesIn s.tiles (spadPa c a) n).map fun e => (e.1 - spadPa c 0, e.2)

/-- x.wprog verifies every tile of its source range under STRICT before it hands over a row, the next tile at a time: what
an earlier one counted stands when a later one fails (R261, log 29). Its running value has not begun (R242). -/
def progVerify (c : CoreId) (s : State) (t : Task) (cmd : Cmd) (x : XCmd) : Unit_ :=
  if x.begun then .error .wait
  else
    match (s.rangeTiles c x.cfg.sbase x.cfg.len).filter fun e => decide (x.checked ≤ e.1) with
    | [] =>
      let x' := { x with begun := true }
      .ok (s, t.setCmd cmd.seq (.xProg x'))
    | e :: rest => do
      let r ← s.verifySpad c t e.1 e.2 false 0
      let x' := { x with begun := rest.isEmpty, checked := e.1 + 1 }
      .ok (r.1, ({ r.2 with mstats := t.mstats } : Task).setCmd cmd.seq (.xProg x'))

/-- x.wverify compares the next row with its source, word by word. -/
def verifyRow (c : CoreId) (s : State) (t : Task) (cmd : Cmd) (x : XCmd) : Unit_ :=
  if x.total ≤ x.next then .error .wait
  else do
    let r ← s.readSpad c t (x.cfg.sbase + x.next) 4096
    let bad := (List.range 8).filter fun i =>
      decide ((r.2.drop (512 * i)).take 512 ≠ s.readW (x.cfg.dbase + x.next + 512 * i) 512)
    let first := match x.firstDiffer with
      | some a => some a
      | none => (bad.head?).map fun i => x.cfg.dbase + x.next + 512 * i
    let x' := { x with begun := true, next := x.next + 4096, differ := x.differ + bad.length, firstDiffer := first,
                       value := runValue x.cfg.ck x.value r.2 }
    .ok (r.1, t.setMove cmd.seq (.xVerify x') x')

/-- One chunk of an X command. -/
def xUnit (c : CoreId) (s : State) (t : Task) (cmd : Cmd) : Unit_ :=
  match cmd.kind with
  | .xMove x =>
    if x.cfg.dspace = .remote then putChunk c s t cmd x
    else if x.total ≤ x.next then .error .wait
    else moveChunk c s t cmd x
  | .xProg x => progVerify c s t cmd x
  | .xVerify x => verifyRow c s t cmd x
  | _ => .error .wait

/-- Whether a command sends requests out of its core, which a pair compares (R186). -/
def Cmd.leaves (cmd : Cmd) : Bool :=
  match cmd.kind with
  | .xMove x => decide (x.cfg.dspace ≠ .spad) || (x.fill.isNone && decide (x.cfg.sspace ≠ .spad))
  | .xProg _ => true
  | .xVerify _ => true
  | .sAbs .. => true
  | _ => false

/-- The effect of a command's unit. -/
def State.cmdEffect (s : State) (c : CoreId) (seq : Nat) (code : Fin 6) : Effect :=
  match s.taskOf c with
  | some t => if t.cmds.any fun q => decide (q.seq = seq) && q.leaves then some code else none
  | none => none

/-- X_CHUNK (R227). -/
def execXChunk (c : CoreId) (seq : Nat) (s : State) : Out := .next (s.unit c seq (s.cmdEffect c seq 2) (xUnit c s))

/-! ### Completion (R232 to R234) -/

/-- The space code of CKADDR for a destination (R265, R266). -/
def XSpace.ckCode : XSpace → Nat
  | .spad => 0
  | .dspace => 1
  | .wspace => 2
  | .remote => 3

/-- A tile put in place of whatever lay there (R234, R257). -/
def placeTile (c : CoreId) (s : State) (t : Task) (o : Nat) (fmt : BitVec 5) (stale : Bool) : Res (State × Task) :=
  if t.rs.rc.commit && !ownSpad c o then do
    let t' ← t.buffer [.tile o fmt stale]
    .ok (s, t')
  else .ok ({ s with tiles := newTile s.tiles o { fmt := fmt, stale := stale, poison := false } }, t)

/-- Whether a fill's rows write every byte of a physical range (R234). -/
def XCmd.covers (x : XCmd) (c : CoreId) (pages : List PageUse) (o n : Nat) : Bool :=
  rangesHold ((List.range x.cfg.nrows).flatMap fun (r : Nat) =>
    physRanges c pages x.cfg.dspace (addr64 ((x.cfg.dbase : Int) + (r : Int) * x.cfg.dstr)) x.cfg.len) o n

/-- A copy whose bytes are all written: a tile copy carries sideband and state; a fill over a tile's whole data makes it
FRESH (R234). -/
def moveArrive (c : CoreId) (s : State) (t : Task) (cmd : Cmd) : Unit_ :=
  match cmd.kind with
  | .xMove x =>
    if x.cfg.dspace = .remote ∨ x.next < x.total ∨ x.sent = true then .ok (s, t)
    else
      let x' := { x with sent := true }
      let done (s : State) (t : Task) : State × Task := (s, t.setMove cmd.seq (.xMove x') x')
      match x.fill, physOf c cmd.pages x.cfg.dspace x.cfg.dbase with
      | some _, some (o, false) =>
        match tileAt (s.viewOf t).tiles o with
        | some tl =>
          if x.covers c cmd.pages o (tileSize tl.fmt) then do
            let s1 ← s.cmdTouch t (o + tileSize tl.fmt) 512 .write (x.cfg.dbase + tileSize tl.fmt)
            let r ← s1.healTile c t o tl
            .ok (done r.1 r.2)
          else .ok (done s t)
        | none => .ok (done s t)
      | none, _ =>
        match (if x.tileCopy then s.tileCopyOf c t cmd.pages x.cfg else none) with
        | some (_, _, tl, d) => do
          let size := tileSize tl.fmt
          let q ← readRun c t cmd.pages x.cfg.sspace true s ⟨0, x.cfg.sbase + size, 512⟩
          let w ← writePhys c (d + size) (x.cfg.dbase + size) q.bytes [] q.st t
          let r ← placeTile c w.1 w.2 d tl.fmt tl.stale
          let x' := { x' with beats := x.beats + q.beats }
          .ok (r.1, r.2.setMove cmd.seq (.xMove x') x')
        | none => .ok (done s t)
      | _, _ => .ok (done s t)
  | _ => .ok (s, t)

/-- A tile copy's data compared on arrival with the words it carries, when FRESH (R234, R261). -/
def moveVerify (c : CoreId) (s : State) (t : Task) (cmd : Cmd) : Unit_ :=
  match cmd.kind with
  | .xMove x =>
    if !(x.tileCopy && x.sent) then .ok (s, t)
    else
      match physOf c cmd.pages x.cfg.dspace x.cfg.dbase with
      | some (o, false) =>
        let v := s.viewOf t
        match tileAt v.tiles o with
        | some tl =>
          if tl.stale then .ok (s, t)
          else
            let size := tileSize tl.fmt
            let rows := tileRows tl.fmt (v.readNat o size)
            let ws := wordsOfSideband (v.readPa (o + size) 512)
            let t := t.flag (tileFlags tl.fmt rows)
            match judgeTile tl.fmt rows ws.1 ws.2 true false 0 with
            | .pass => .ok (s, t)
            | .fixed i j e => do
              let r ← s.taskWrite c t (o + rowBytes tl.fmt * i)
                (bytesOf (rowBytes tl.fmt) (packLanes (fmtWidth tl.fmt) ((rows.getD i []).set j e))) false
              .ok (r.1, r.2.countCorr)
            | b => flagged (tileFlags tl.fmt rows) (ckStop (b.fault 1 tl.fmt.toNat x.cfg.dspace.ckCode x.cfg.dbase))
        | none => .ok (s, t)
      | _ => .ok (s, t)
  | _ => .ok (s, t)

/-- The end compare (R232). -/
def endCompare (x : XCmd) (value : Word32) : Res Unit :=
  match x.cfg.armed with
  | some e =>
    if e = value then .ok ()
    else ckStop ⟨6, false, 0, 0, 0, 0, x.cfg.dspace.ckCode, x.cfg.dbase, e.toNat, value.toNat⟩
  | none => .ok ()

/-- A chained command that takes its seed from its predecessor's final value (R231). -/
def Cmd.seeded (pred : Nat) (v : Word32) (q : Cmd) : Cmd :=
  match q.kind with
  | .xMove y => if y.chain = some pred then { q with kind := .xMove { y with value := v, chain := none } } else q
  | _ => q

/-- A command that completes: its counter (R233), its value for a chained command and for x.ckget (R231, R242). -/
def xFinish (t : Task) (cmd : Cmd) (x : XCmd) (vertical : Bool) : Task :=
  let t := if x.adv || vertical then t.countCmd cmd else t
  let note (l : XLast) : XLast := if l.seq = cmd.seq then { l with value := x.value, done := true } else l
  let t : Task := { t with xlast := t.xlast.map note, cmds := t.cmds.map (Cmd.seeded cmd.seq x.value) }
  t.dropCmd cmd.seq

/-- Whether a copy read W-space, by the engine's own space or through the aperture: a vertical transfer (R233). -/
def XCmd.vertical (x : XCmd) : Bool := (x.fill.isNone && decide (x.cfg.sspace = .wspace)) || decide (0 < x.beats)

/-- The end of an X command. -/
def xEnd (s : State) (t : Task) (cmd : Cmd) : Unit_ :=
  match cmd.kind with
  | .xMove x =>
    if x.cfg.dspace = .remote then
      match x.outcome with
      | none => .error .wait
      | some (st, why) =>
        if st = 2 then contain 11 why.toNat []
        else do
          if st = 1 then endCompare x x.value
          .ok (s, xFinish t cmd x x.vertical)
    else if x.next < x.total ∨ x.sent = false then .error .wait
    else do
      endCompare x x.value
      .ok (s, xFinish t cmd x x.vertical)
  | .xProg x =>
    if x.next < x.total ∨ x.begun = false then .error .wait
    else do
      endCompare x x.value
      .ok (s, xFinish t cmd x true)
  | .xVerify x =>
    if x.next < x.total then .error .wait
    else
      match x.firstDiffer with
      | some a => contain 10 (min x.differ (2 ^ 24 - 1) * 2 ^ 40 + a) []
      | none => do
        endCompare x x.value
        .ok (s, xFinish t cmd x true)
  | _ => .error .wait

/-- The request that the sideband of a tile copy or of a whole fill still is once the data are over (R186, R234). -/
def State.arriveEffect (s : State) (c : CoreId) (seq : Nat) : Effect :=
  match s.taskOf c with
  | none => none
  | some t =>
    match t.cmds.find? fun q => decide (q.seq = seq) with
    | none => none
    | some q =>
      match q.kind with
      | .xMove x =>
        let fills := x.fill.isSome && (match physOf c q.pages x.cfg.dspace x.cfg.dbase with
          | some (o, false) => (tileAt (s.viewOf t).tiles o).any fun tl => x.covers c q.pages o (tileSize tl.fmt)
          | _ => false)
        if x.total ≤ x.next ∧ x.sent = false ∧ (x.tileCopy || fills) = true then s.cmdEffect c seq 2 else none
      | _ => none

/-- A PROGRAM-WEIGHTS changed by a task of one of its launches (R365). -/
def State.noteWeights (s : State) (t : Task) (f : Program → Program) : State :=
  { s with program := s.program.map fun p => if p.job = t.rs.rc.job then f p else p }

/-- The first row of a PROGRAM-WEIGHTS that failed: the status it ends with, and the W address. -/
def Program.fail (status wa : Nat) (p : Program) : Program :=
  { p with failed := match p.failed with
    | some x => some x
    | none => some (status, wa) }

/-- What an x.wverify that is about to end has found, noted for the PROGRAM-WEIGHTS that it runs for (R365, R366): the first
word that differs, or its rows as compared. -/
def State.noteVerified (s : State) (c : CoreId) (seq : Nat) : State :=
  match s.engineTask c with
  | none => s
  | some t =>
    match t.cmds.find? fun q => decide (q.seq = seq) with
    | none => s
    | some q =>
      match q.kind with
      | .xVerify x =>
        if x.total ≤ x.next ∧ t.ready q = true then
          s.noteWeights t fun p => match x.firstDiffer with
            | some a => p.fail 7 a
            | none => { p with checked := p.checked + x.cfg.len / 4096 }
        else s
      | _ => s

/-- X_COMMAND_COMPLETE (R225, R232 to R234). -/
def execXCommandComplete (c : CoreId) (seq : Nat) (s : State) : Out :=
  let s := s.noteVerified c seq
  let s1 := s.unit c seq (s.arriveEffect c seq) (moveArrive c s)
  let s2 := s1.unit c seq none (moveVerify c s1)
  .next (s2.unit c seq none (xEnd s2))

end Machine

end Sys2Proof
end

