-- ==== Sys2Proof/Machine/Seal.lean ====
section
/-!
DEFINITION. Machine/Seal.lean: the seal port's words (R313 to R323), and S_ABSORB_BLOCK and SIGNATURE_COMPLETE.
-/

namespace Sys2Proof

namespace Machine

/-- The open session of a number that no accepted s.fin or s.abt is closing. -/
def Task.openSession (t : Task) (n : BitVec 6) : Option Session :=
  t.sessions.find? fun x => decide (x.num = n) && !x.closing

/-- A session with a number changed. -/
def Task.setSession (t : Task) (n : BitVec 6) (f : Session → Session) : Task :=
  { t with sessions := t.sessions.map fun x => if x.num = n then f x else x }

/-- Sessions that hold one of a cluster's 64 live contexts (R313): those of tasks on its cores, and those of parked tasks
whose signature is in progress: an absorb of a parked task has stopped and saved its digest state (R323). -/
def State.liveSessions (s : State) (k : ClusterId) : Nat :=
  let onCores := (List.finRange 512).filterMap fun c => if clusterOf c = k then s.taskOf c else none
  (onCores.map fun t => t.sessions.length).sum +
  (((s.clusters[k.val]).parked.map Parked.task).map fun t => (t.sessions.filter Session.closing).length).sum

/-- s.open (R313 to R315, R318). -/
def execSOpen (sel : BitVec 8) (s : State) : Out :=
  engWord .s 1 none (fun c _ s t => do
    let r ← t.popWords .s 2
    let num : BitVec 6 := BitVec.ofNat 6 (sel.toNat / 4)
    let alg : BitVec 2 := BitVec.ofNat 2 sel.toNat
    inRange (decide (alg.toNat < 2))
    let live := t.sessions.filter fun x => !x.closing
    need ((t.openSession num).isNone && decide (live.length < 4)) (illegalOp 32)
    let h := popped r.1 0
    let keys := ((s.jobOf t.rs.rc.job).map fun j => j.args.keys).getD []
    need (keys.any fun k => decide (h = k.slot.toNat + 2 ^ 16 * k.gen.toNat) && decide (k.alg = alg)) (illegalOp 33)
    if (t.sessions.any fun x => decide (x.num = num)) || decide (4 ≤ t.sessions.length) ||
        decide (64 ≤ s.liveSessions (clusterOf c)) then .error .wait
    else
      let x : Session := { num := num, key := BitVec.ofNat 32 h, frame := r.1.getD 1 0, alg := alg, count := 0,
                           sha := ShaState.init, depth := t.regions.length, closing := false }
      .ok (s, { r.2 with sessions := t.sessions ++ [x] })) s

/-- Bytes that accepted absorbs of a session will count. -/
def Task.pendingAbs (t : Task) (n : BitVec 6) : Nat :=
  (t.cmds.map fun q => match q.kind with
    | .sAbs m _ len .. => if m = n then len else 0
    | _ => 0).sum

/-- The session a word names, or SESSION (R315). -/
def needSession (t : Task) (n : BitVec 6) : Res Session :=
  match t.openSession n with
  | some x => .ok x
  | none => illegalOp 32

/-- A D-space range of an S word accepted (R178, R319). -/
def sealRange (s : State) (c : CoreId) (t : Task) (a n : Nat) (write : Bool) : Res (List PageUse × List Foot) := do
  let rs : List DRange := if n = 0 then [] else [⟨a, n, 1, 0, write⟩]
  let ps := s.pieces c t rs 65 0
  s.checkPieces c t rs 0 ps
  .ok (pagesOf s t ps, s.withSidebands t (footOf ps rs))

/-- The illegal-operation trap of a check, ahead of conditions with a higher detail code (R100). -/
def illegalFirst {α : Type} (r : Res α) : Res Unit :=
  match r with
  | .error (.trap x) => if x.cause = 2 then .error (.trap x) else .ok ()
  | _ => .ok ()

/-- s.abs (R318, R319). -/
def execSAbs (n : BitVec 6) (s : State) : Out :=
  engWord .s 1 none (fun c h s t => do
    let r ← t.popWords .s 2
    let a := popped r.1 0
    let len := popped r.1 1
    let count := ((t.openSession n).map Session.count).getD 0
    illegalFirst (sealRange s c t a len false)
    inRange (decide (a < 2 ^ 48) && decide (len ≤ 2 ^ 24) && decide (count + t.pendingAbs n + len < 2 ^ 48))
    let x ← needSession t n
    let q ← sealRange s c t a len false
    if len = 0 then .ok (s, r.2)
    else .ok (s, r.2.accept h .s 0 q.2 q.1 (.sAbs n a len 0 x.count x.sha))) s

/-- s.meta (R318, R320). -/
def execSMeta (s : State) : Out :=
  setupWord .s none 1 (fun l t => do
    inRange (decide (t.metas.length < 8))
    .ok { t with metas := t.metas ++ [l.getD 0 0] }) s

/-- s.fin (R318 to R320). -/
def execSFin (n : BitVec 6) (s : State) : Out :=
  engWord .s 1 none (fun c h s t => do
    let r ← t.popWords .s 1
    let a := popped r.1 0
    let size := if (t.openSession n).any fun x => decide (x.alg ≠ 0) then 3584 else 256
    illegalFirst (sealRange s c t a size true)
    inRange (decide (a < 2 ^ 48) && decide (a % 256 = 0))
    let _ ← needSession t n
    let q ← sealRange s c t a size true
    let t1 : Task := { r.2 with metas := [] }
    .ok (s, (t1.setSession n fun y => { y with closing := true }).accept h .s 0 q.2 q.1 (.sFin n a t.metas))) s

/-- s.abt (R318, R320, R321). -/
def execSAbt (n : BitVec 6) (s : State) : Out :=
  engWord .s 1 none (fun _ h s t => do
    let r ← t.popWords .s 1
    inRange (decide (popped r.1 0 < 2 ^ 24))
    let _ ← needSession t n
    let t1 : Task := { r.2 with metas := [] }
    .ok (s, (t1.setSession n fun y => { y with closing := true }).accept h .s 0 [] []
      (.sAbt n (BitVec.ofNat 32 (popped r.1 0)) t.metas))) s

/-- The value of s.qry (R322). -/
def sessionState (t : Task) (n : BitVec 6) : Word64 :=
  let x := t.openSession n
  let last := ((t.closed.find? fun e => decide (e.1 = n)).map fun e => e.2.toNat).getD 0
  BitVec.ofNat 64 ((x.map Session.count).getD 0 * 2 ^ 8 + t.metas.length * 2 ^ 4 + last * 2 ^ 2 + bitNat x.isSome)

/-- s.qry (R315, R318, R322): a session of the task that is closed has a state to report; a number that it never opened names no
session (log 24). -/
def execSQry (n : BitVec 6) (s : State) : Out :=
  queryWord .s (fun t => need ((t.sessions.any fun x => decide (x.num = n)) || t.closed.any fun e => decide (e.1 = n))
    (illegalOp 32)) (fun _ t => sessionState t n) s

/-! ### The engine (R319, R323) -/

/-- The task whose seal commands run on a core: a freeze does not stop the seal engine (R184). -/
def State.sealTask (s : State) (c : CoreId) : Option Task := (s.setCore c fun k => { k with frozen := false }).engineTask c

/-- Whether a trap has parked a core. -/
def CoreStatus.parked (x : CoreStatus) : Bool :=
  match x with
  | .trapped .. => true
  | _ => false

/-- The task whose signatures go on on a core: neither a freeze, a trap that parks the core nor the monitor's stop ends one
in progress (R184, R323, R345). -/
def State.signTask (s : State) (c : CoreId) : Option Task :=
  if (s.core c).status.parked then (s.core c).task
  else (s.setDie (dieOf c) fun d => { d with frozen := false }).sealTask c

/-- S_ABSORB_BLOCK: the next 4 KiB of an s.abs, read now; the bytes count when the last is in (R319). -/
def execSAbsorbBlock (c : CoreId) (seq : Nat) (s : State) : Out :=
  match s.sealTask c with
  | none => .next s
  | some t =>
    match t.cmds.find? fun q => decide (q.seq = seq) with
    | none => .next s
    | some q =>
      match q.kind with
      | .sAbs n a len next count sha =>
        if !t.ready q then .next s
        else
          let stop := min len (next + 4096)
          match readRuns c t q.pages .dspace true (cutRuns [⟨next, a + next, stop - next⟩]) s with
          | .ok r =>
            let x := (t.sessions.find? fun y => decide (y.num = n)).getD
              { num := n, key := 0, frame := 0, alg := 0, count := count, sha := sha, depth := 0, closing := false }
            let sha' := (if next = 0 then x.sha else sha).absorb r.bytes
            let count' := (if next = 0 then x.count else count) + r.bytes.length
            let t' := if len ≤ stop then (t.setSession n fun y => { y with count := count', sha := sha' }).dropCmd seq
              else t.setCmd seq (.sAbs n a len stop count' sha')
            .next (r.st.setTask c t')
          | .error (.event e) => .next (s.failCmd c t e q)
          | .error _ => .next s
      | _ => .next s

/-- A record written at its destination (R316, R319). -/
def writeRecord (c : CoreId) (q : Cmd) (a : Nat) (bs : List Byte) (s : State) (t : Task) : Res (State × Task) :=
  writeRuns c q.pages .dspace 0 bs [] (cutRuns [⟨0, a, bs.length⟩]) s t

/-- The end of an s.fin or s.abt: its record is written, the session closed (R316, R317, R321). -/
def signUnit (c : CoreId) (q : Cmd) (s : State) (t : Task) : Unit_ :=
  let find (n : BitVec 6) : Option Session := t.sessions.find? fun y => decide (y.num = n)
  match q.kind with
  | .sFin n a metas =>
    match find n with
    | none => .ok (s, t.dropCmd q.seq)
    | some x => do
      let (rec_, unsigned) := sealRecord (clusterOf c) x 0 0 metas
      let r ← writeRecord c q a rec_ s t
      .ok (r.1, (r.2.closeSession n (if unsigned then 3 else 1)).dropCmd q.seq)
  | .sAbt n reason metas =>
    match find n with
    | none => .ok (s, t.dropCmd q.seq)
    | some x =>
      let (s', unsigned) := s.abortSession (clusterOf c) x reason.toNat metas (some t.slot)
      .ok (s', (t.closeSession n (if unsigned then 3 else 2)).dropCmd q.seq)
  | _ => .error .wait

/-! ### The scratchpad of a parked task (R294) -/

/-- Entries of a listing replaced within a range of keys. -/
def splice {α : Type} (lo hi : Nat) (mid l : List (Nat × α)) : List (Nat × α) :=
  (l.filter fun e => decide (e.1 < lo)) ++ mid ++ l.filter fun e => decide (hi ≤ e.1)

/-- Entries of a listing within a range, counted from its start. -/
def within {α : Type} (lo hi : Nat) (l : List (Nat × α)) : List (Nat × α) :=
  (l.filter fun e => decide (lo ≤ e.1) && decide (e.1 < hi)).map fun e => (e.1 - lo, e.2)

/-- Entries moved up by a base. -/
def rebased {α : Type} (lo : Nat) (l : List (Nat × α)) : List (Nat × α) := l.map fun e => (lo + e.1, e.2)

/-- What lies in a core's scratchpad below the lay-by. -/
def State.takeSpad (s : State) (c : CoreId) : SpadImage :=
  let lo := spadPa c 0
  let hi := lo + laybyBase
  { bytes := within lo hi s.mem, tiles := within lo hi s.tiles, stamps := within (lo / 64) (hi / 64) s.stamps,
    poison := (s.poison.filter fun w => decide (lo ≤ w) && decide (w < hi)).map fun w => w - lo }

/-- A core's scratchpad below the lay-by replaced. -/
def State.putSpad (s : State) (c : CoreId) (i : SpadImage) : State :=
  let lo := spadPa c 0
  let hi := lo + laybyBase
  { s with mem := splice lo hi (rebased lo i.bytes) s.mem, tiles := splice lo hi (rebased lo i.tiles) s.tiles,
           stamps := splice (lo / 64) (hi / 64) (rebased (lo / 64) i.stamps) s.stamps,
           poison := (s.poison.filter fun w => decide (w < lo)) ++ (i.poison.map fun w => lo + w) ++
             s.poison.filter fun w => decide (hi ≤ w) }

/-- A signature of a parked context on the core it was saved from: its scratchpad is the one its task last had there, in
the core or in its parking area (R294). -/
def State.signOn (s : State) (p : Parked) (q : Cmd) : Res (State × Parked) :=
  match p.spad with
  | none => do
    let r ← signUnit p.origin q s p.task
    .ok (r.1, { p with task := r.2 })
  | some i => do
    let cur := s.takeSpad p.origin
    let r ← signUnit p.origin q (s.putSpad p.origin i) p.task
    .ok (r.1.putSpad p.origin cur, { p with task := r.2, spad := some (r.1.takeSpad p.origin) })

/-- The signature of a parked context that runs on (R323): the s.fin or s.abt of a number, no longer behind another
command, whose record can be written. One whose record meets an event waits until the task resumes and consumes it. -/
def State.signing (s : State) (p : Parked) (q : Cmd) : Option (State × Parked) :=
  let sign : Bool := match q.kind with
    | .sFin .. => true
    | .sAbt .. => true
    | _ => false
  if sign && p.task.ready q then
    match s.signOn p q with
    | .ok r => some r
    | .error _ => none
  else none

/-- A signature of a task parked from a core completes (R323): of the first such task whose command of that number is one. -/
def State.signParked (s : State) (c : CoreId) (seq : Nat) : State :=
  let k := clusterOf c
  let of (p : Parked) : Option (State × Parked) :=
    if p.origin = c then (p.task.cmds.find? fun q => decide (q.seq = seq)).bind (s.signing p) else none
  match (s.clusters[k.val]).parked.zipIdx.findSome? fun e => (of e.1).map fun r => (e.2, r) with
  | none => s
  | some (i, s', p') => s'.setCluster k fun cl => { cl with parked := cl.parked.set i p' }

/-- SIGNATURE_COMPLETE (R316, R317, R323): for the task on the core, or for one parked from it. While a trap parks the core,
one whose record meets an event waits until the task goes on and consumes it. -/
def execSignatureComplete (c : CoreId) (seq : Nat) (s : State) : Out :=
  match s.signTask c with
  | some t =>
    match t.cmds.find? fun q => decide (q.seq = seq) with
    | some q =>
      if !t.ready q then .next s
      else
        match signUnit c q s t with
        | .ok (s', t') => .next (s'.setTask c t')
        | .error (.event e) => .next (if (s.core c).status.parked then s else s.failCmd c t e q)
        | .error _ => .next s
    | none => .next (s.signParked c seq)
  | none => .next (s.signParked c seq)

end Machine

end Sys2Proof
end

