-- ==== Sys2Proof/Machine/CoreEvents.lean ====
section
/-!
DEFINITION. Machine/CoreEvents.lean: what befalls a running task: waits that end or grow too long (R124, R174), the
milestone bound (R270), freezes (R184, R185), replays and self-tests (R283 to R285), pre-emption (R271 to R276). An event
whose conditions do not hold changes nothing.
-/

namespace Sys2Proof

namespace Machine

/-! ### Waits -/

/-- WAITC_SATISFIED: a waiting WAITC completes (R124). -/
def execWaitcSatisfied (c : CoreId) (s : State) : Out :=
  match s.engineTask c with
  | some t =>
    match t.wait with
    | .waitc cc target =>
      if t.counted cc target then .next (s.setTask c { t with wait := .none, pc := t.pc + 4, dist := t.dist + 2 }) else .next s
    | _ => .next s
  | none => .next s

/-- The counter and the target of a waiting word. -/
def Cmd.waitsFor (q : Cmd) : Option (Fin 16 × Word32) :=
  match q.kind with
  | .mWaitc cc target => some (cc, target)
  | .xWaitc cc target => some (cc, target)
  | _ => none

/-- The command with a number. -/
def Task.cmdOf (t : Task) (seq : Nat) : Option Cmd := t.cmds.find? fun q => decide (q.seq = seq)

/-- WAITING_WORD_SATISFIED: a waiting word releases its queue head (R174). -/
def execWaitingWordSatisfied (c : CoreId) (seq : Nat) (s : State) : Out :=
  match s.engineTask c with
  | some t =>
    match (t.cmdOf seq).bind Cmd.waitsFor with
    | some (cc, target) => .next (if t.counted cc target then s.setTask c (t.dropCmd seq) else s)
    | none => .next s
  | none => .next s

/-- A fatal fault reported against a command's launch word. -/
def State.fatalWord (s : State) (c : CoreId) (t : Task) (q : Cmd) (cause : Byte) : State :=
  s.stopCmd c t q (.trap ⟨2, cause, 0, 0, 0⟩)

/-- WAIT_OVERDUE: cause 16 at a waiting WAITC, or against a waiting word (R124, R174). -/
def execWaitOverdue (c : CoreId) (word : Option Nat) (s : State) : Out :=
  match s.engineTask c with
  | some t =>
    match word with
    | none =>
      match t.wait with
      | .waitc .. => .next (s.stopAt c t 0 (.trap ⟨2, 16, 0, 0, 0⟩))
      | _ => .next s
    | some seq =>
      match t.cmdOf seq with
      | some q => .next (if (q.waitsFor).isSome then s.fatalWord c t q 16 else s)
      | none => .next s
  | none => .next s

/-! ### The milestone bound (R270) -/

/-- The engine of the instruction at a task's pc; the C strand when it cannot be fetched. -/
def State.pcEngine (s : State) (c : CoreId) (t : Task) : Nat :=
  match s.fetchParcel c t t.pc.toNat with
  | .ok h => headEngine h
  | .error _ => 0

/-- Whether an instruction of `n` parcels would take a task's milestone distance above its limit. -/
def Task.overdue (t : Task) (n : Nat) : Bool := decide (t.limit < t.dist + n)

/-- The milestone-overdue trap at a task's pc. -/
def State.takeOverdue (s : State) (c : CoreId) (t : Task) : State :=
  s.stopAt c t (s.pcEngine c t) (.trap ⟨2, 15, 0, 0, 0⟩)

/-- MILESTONE_OVERDUE (R270). -/
def execMilestoneOverdue (c : CoreId) (s : State) : Out :=
  match s.engineTask c with
  | some t =>
    if t.wait = .none then
      match s.fetchParcel c t t.pc.toNat with
      | .ok h => .next (if t.overdue (headParcels h) then s.takeOverdue c t else s)
      | .error _ => .next s
    else .next s
  | none => .next s

/-! ### Freezes (R184, R185) -/

/-- A core and its partner frozen or let run. -/
def State.setFrozen (s : State) (c : CoreId) (b : Bool) : State :=
  (s.setCore c fun k => { k with frozen := b }).setCore (partnerOf c) fun k => { k with frozen := b }

/-- FREEZE: a core awaits a demand reply too long (R184). -/
def execFreeze (c : CoreId) (s : State) : Out :=
  .next (if (s.engineTask (s.hostOf c)).isSome then s.setFrozen c true else s)

/-- FREEZE_END (R184). -/
def execFreezeEnd (c : CoreId) (s : State) : Out := .next (if (s.core c).frozen then s.setFrozen c false else s)

/-- FREEZE_OVERDUE: cause 17 against the instruction that awaits the reply (R185), on a core whose clock runs (R345). -/
def execFreezeOverdue (c : CoreId) (s : State) : Out :=
  if !(s.core c).frozen || s.stopped c then .next s
  else
    let s := s.setFrozen c false
    let h := s.hostOf c
    match s.engineTask h with
    | some t => .next (s.stopAt h t (s.pcEngine h t) (.trap ⟨2, 17, 0, 0, 0⟩))
    | none => .next s

/-! ### Replays and tests (R283 to R285) -/

/-- An event of the datapath consumed by what a consumer names (R128): the instruction at the pc, or a command. -/
def State.datapathEvent (s : State) (c : CoreId) (e : Event) (w : Consumer) : State :=
  match s.engineTask c with
  | none => s
  | some t =>
    match w with
    | .instr => s.consume c t e ⟨s.pcEngine c t, 0, false, t.pc, t.regions.length⟩
    | .cmd seq =>
      match t.cmdOf seq with
      | some q => s.failCmd c t e q
      | none => s

/-- TIMING_REPLAY: counted; when the replayed cycle fails as well, an event of cause TIMING (R283). A stopped clock has no
cycle to replay (R345). -/
def execTimingReplay (c : CoreId) (again : Option Consumer) (s : State) : Out :=
  if s.stopped c then .next s
  else
    let s := s.setCore c fun k => { k with trep := satSucc k.trep }
    match again with
    | none => .next s
    | some w => .next (s.datapathEvent (s.hostOf c) ⟨7, 0, none, [], 0⟩ w)

/-- CTINFO of a lane-test fault (R281). -/
def laneInfo (matrix : Bool) (lane : BitVec 10) : Word64 :=
  BitVec.ofNat 64 ((if matrix then 2 else 1) * 2 ^ 12 + lane.toNat)

/-- The core withdrawn from its junction's set, and the pair of a paired task (R284). -/
def State.withdraw (s : State) (h : CoreId) (c : CoreId) : State :=
  let out (s : State) (c : CoreId) : State := s.setCore c fun k => { k with withdrawn := true }
  let paired := (s.taskOf h).any fun t => t.rs.rc.paired
  out (if paired then out s (partnerOf c) else s) c

/-- LANE_TEST: the fault is consumed by the oldest unfinished command of M, a waiting word among them, or by the next
instruction or command of the engine (R284). No test runs while the clock is stopped (R345). -/
def execLaneTest (c : CoreId) (matrix : Bool) (lane : BitVec 10) (s : State) : Out :=
  if s.stopped c then .next s
  else
    let h := s.hostOf c
    let s1 := s.withdraw h c
    let s : State := { s1 with notices := s1.notices ++ [.laneFail c] }
    let oldest : Option Cmd := if matrix then
        (s.engineTask h).bind fun t => t.cmds.find? fun q => decide (q.eng = .m)
      else none
    match oldest with
    | some q => .next (s.datapathEvent h ⟨6, laneInfo matrix lane, none, [], 0⟩ (.cmd q.seq))
    | none => .next (s.setCore h fun k => { k with laneFault := some (matrix, lane) })

/-- WAKE_TEST: a core leaves power gating; while WAKETEST.en is 1 it is tested first, and is not offered while its latest
wake failed the test (R285). A core whose clock the monitor has stopped does not wake (R345). -/
def execWakeTest (c : CoreId) (pass : Bool) (s : State) : Out :=
  let k := s.core c
  if k.status ≠ .idle ∨ s.stopped c = true then .next s
  else if k.waketest.getLsbD 0 = false then .next (s.setCore c fun k => { k with wakeOut := false })
  else if pass then .next (s.setCore c fun k => { k with wakeOut := false, waketest := k.waketest &&& 1 })
  else
    let s := s.setCore c fun k => { k with wakeOut := true, waketest := k.waketest ||| 2 }
    .next { s with notices := s.notices ++ [.wakeFail c] }

/-! ### Pre-emption (R271 to R276) -/

/-- Whether two tasks belong to one gang (R297). -/
def Task.gangWith (t u : Task) : Bool :=
  t.rs.rc.gang && u.rs.rc.gang && decide (t.rs.rc.job = u.rs.rc.job) && decide (t.rs.rc.launch = u.rs.rc.launch)

/-- The cores that pre-empt with a core: its gang's, or itself alone. -/
def State.gangCores (s : State) (c : CoreId) (t : Task) : List CoreId :=
  if t.rs.rc.gang then (List.finRange 512).filter fun k => (s.taskOf k).any fun u => t.gangWith u else [c]

/-- Whether a task is past pre-emption: draining or ending (R276). -/
def Wait.ending : Wait → Bool
  | .exiting => true
  | .ended _ => true
  | .aborted => true
  | _ => false

/-- Cores asked to pre-empt their tasks. -/
def State.askPreempt (s : State) (c : CoreId) : State :=
  match s.taskOf c with
  | some t =>
    if t.wait.ending then s
    else (s.gangCores c t).foldl (fun s k => s.setCore k fun x => { x with preempt := true }) s
  | none => s

/-- PREEMPTION_REQUEST (R271, R276). -/
def execPreemptionRequest (c : CoreId) (s : State) : Out := .next (s.askPreempt c)

/-- Whether the instruction at a task's pc is a MILE that executes (R271 case B). -/
def State.atMile (s : State) (c : CoreId) (t : Task) : Bool :=
  match s.fetchText c t t.pc with
  | .ok ps =>
    match decodeParcels ps with
    | .instr (.mile g _ _ _) => t.passes g
    | _ => false
  | .error _ => false

/-- Where a task may be saved: at a completed milestone, a waiting WAITC, a barrier for a gang, or before a MILE that
unfinished commands keep from completing. `true` for case B. -/
def State.parkable (s : State) (c : CoreId) : Option (Task × Bool) :=
  let k := s.core c
  if k.frozen || !k.preempt || (s.dies[(dieOf c).val]).frozen then none
  else
    match k.status, k.task with
    | .running, some t =>
      match t.wait with
      | .parking => some (t, false)
      | .waitc .. => some (t, !t.cmds.isEmpty)
      | .bar => some (t, false)
      | .none => if s.atMile c t && !t.cmds.isEmpty then some (t, true) else none
      | _ => none
    | _, _ => none

/-- Whether an element of `w` bits is the zero or sign extension of its lower `n` bits (R23). -/
def tagged (w n x : Nat) : Bool := decide (x < 2 ^ n) || decide (2 ^ w - 2 ^ (n - 1) ≤ x)

/-- Bytes of an entry's data without the upper bytes that its tag names (R23). -/
def Entry.keptBytes (e : Entry) : Nat :=
  let w := fmtWidth e.fmt
  if w ≤ 8 then 512
  else
    let n := 4096 / w
    let fit (b : Nat) : Bool := (List.range n).all fun i => tagged w (8 * b) (bitsAt e.data.toNat (w * i) w)
    n * (((List.range (w / 8)).find? fun b => fit (b + 1)).getD (w / 8 - 1) + 1)

/-- Bytes of a queue's section (R272): its entries' data as their tags shrink it, segment words, and 40 bytes (log 30). -/
def queueSection (l : List Entry) : Nat :=
  if l.isEmpty then 0 else 40 + (l.map fun e => e.keptBytes + 4 * e.segs.length).sum

/-- Whether the z tile of a number is saved under masks (R272): a live bit; in case B a saved M command that names it;
inside a WAITC or at a BAR, where no MILE follows, a tile not zero. -/
def Task.savesZ (t : Task) (m : MileMasks) (caseB : Bool) (i : Fin 8) : Bool :=
  m.zt.getLsbD i.val || (caseB && t.cmds.any fun q => decide (q.eng = .m) && q.names.contains i.val) ||
  (decide (t.wait ≠ .parking) && decide (t.wait ≠ .none) && decide (t.z[i.val] ≠ ZTile.zero))

/-- Bytes of the seal section, with the sessions that it holds (R272, R313). -/
def Task.sealSection (t : Task) (m : MileMasks) (sessions : Nat) : Nat :=
  if !t.sStack.isEmpty || m.ef.getLsbD 3 || !t.metas.isEmpty || decide (0 < sessions) then 1152 else 0

/-- Bytes of a context under the masks of its milestone (R272, log 30), in whole units of its alignment (R414), with the
sessions that need its seal section. -/
def Task.contextSize (t : Task) (m : MileMasks) (caseB : Bool) (sessions : Nat) : Nat :=
  let has (e : Eng) : Bool := t.cmds.any fun q => decide (q.eng = e)
  let n := 256 + 2048 + (t.v.toList.map queueSection).sum +
    16912 * ((List.finRange 8).filter (t.savesZ m caseB)).length +
    (if !t.mStack.isEmpty || m.ef.getLsbD 0 || has .m then 8192 else 0) +
    (if !t.xStack.isEmpty || m.ef.getLsbD 1 || has .x then 10240 else 0) +
    (if m.ef.getLsbD 4 || has .p then 3072 else 0) + t.sealSection m sessions + (if caseB then 4096 else 0)
  (n + 63) / 64 * 64

/-- Bytes of the save area of a core (R269). -/
def saveArea : Nat := 0x40000

/-- The parked contexts that a core's lay-by holds. -/
def State.layBy (s : State) (c : CoreId) : List Parked :=
  (s.clusters[(clusterOf c).val]).parked.filter fun p => decide (p.home = some c)

/-- Whether a context of a size fits a core's save area (R269, R271). -/
def State.fits (s : State) (c : CoreId) (size : Nat) : Bool :=
  decide ((s.layBy c).length < 4) && decide (size + ((s.layBy c).map Parked.size).sum ≤ saveArea)

/-- The sessions of a parking task that go to the cluster's save area, as slots are free (R313). -/
def State.savedBy (s : State) (c : CoreId) (t : Task) : List (BitVec 12 × BitVec 6) :=
  ((t.sessions.filter fun x => !x.closing).map fun x => (t.slot, x.num)).take
    (64 - (s.clusters[(clusterOf c).val]).saved.length)

/-- The masks that a save goes by (R272): of the MILE that the task has completed, or that it stops at in case B. -/
def State.parkMasks (s : State) (c : CoreId) (t : Task) : MileMasks :=
  if t.wait = .none then
    match s.fetchText c t t.pc with
    | .ok ps =>
      match decodeParcels ps with
      | .instr (.mile _ zt ef vq) => ⟨zt, ef, vq⟩
      | _ => t.masks
    | .error _ => t.masks
  else t.masks

/-- The size of the context of a task on a core. -/
def State.parkSize (s : State) (c : CoreId) (t : Task) (caseB : Bool) : Nat :=
  t.contextSize (s.parkMasks c t) caseB (t.sessions.length - (s.savedBy c t).length)

/-- A task as its context keeps it: a waiting WAITC executes again (R124). -/
def Task.forPark (t : Task) : Task :=
  { t with wait := match t.wait with
      | .bar => .bar
      | _ => .none }

/-- A context saved and its core free; the task is ready again at its level (R272, R295). -/
def State.park (s : State) (c : CoreId) (t : Task) (caseB : Bool) : State :=
  let saved := s.savedBy c t
  let p : Parked := { origin := c, home := some c, size := s.parkSize c t caseB, caseB := caseB, spad := none,
                      ready := s.readySeq, pcs := s.enginePcs c t, masks := s.parkMasks c t, sealed := none,
                      intact := true, task := t.forPark }
  let s := { s with readySeq := s.readySeq + 1 }
  let s := (s.freeCore c t.rs.rc.paired).setCore c fun k => { k with preempt := false }
  s.setCluster (clusterOf c) fun k => { k with parked := k.parked ++ [p], saved := k.saved ++ saved }

/-- A torn save (R274): the monitor's event; CONTEXT-LOST with a fatal record under DRAIN, a re-run under COMMIT. A pair that
differs in that record takes the pair's event outside any region, since a torn context is not resumed (R186, R187, log 73). -/
def State.tear (s : State) (c : CoreId) (t : Task) : State :=
  let r := trapRec s.tick (s.enginePcs c t) t ⟨2, 23, 0, 0, 0⟩ 0 t.pc (s.textAt c t t.pc) 0 0
  let m := s.coreRecord 2 c (r.bytes 1 (s.clusters[(clusterOf c).val]).trapSeq)
  let s := s.setCore c fun k => { k with preempt := false }
  let s : State := { s with notices := s.notices ++ [.lost c] }
  if t.rs.rc.commit then
    (s.setTask c (t.endFatal true)).monitorTake (dieOf c) m
  else
    match s.pairStop c t (some 5) with
    | some e =>
      ((s.setCore c fun k => { k with pairFault := false }).consume c t e ⟨0, 0, false, t.pc, 0⟩).monitorTake (dieOf c) m
    | none => ((s.setTask c { t with cmds := [], wait := .ended 3 }).postFatal c r).monitorTake (dieOf c) m

/-- NOROOM: the task runs on, and the request is over (R271, R276). -/
def State.noRoom (s : State) (c : CoreId) : State :=
  let on (t : Task) : Task := { t with wait := if t.wait = .parking then .none else t.wait }
  s.setCore c fun k => { k with preempt := false, task := k.task.map on }

/-- Contexts saved on several cores in turn, one of them perhaps torn. -/
def State.parkAll (torn : Option CoreId) : List (CoreId × Task × Bool) → State → State
  | [], s => s
  | (c, t, b) :: rest, s =>
    State.parkAll torn rest (if torn = some c then s.tear c t else s.park c t b)

/-- CONTEXT_SAVE: a core whose engines have stopped, or a whole gang, is saved (R271 to R274, R297). -/
def execContextSave (c : CoreId) (torn : Bool) (s : State) : Out :=
  match s.parkable c with
  | none => .next s
  | some (t, _) =>
    let cores := s.gangCores c t
    match cores.mapM fun k => (s.parkable k).map fun p => (k, p) with
    | none => .next s
    | some l =>
      if l.all fun e => s.fits e.1 (s.parkSize e.1 e.2.1 e.2.2) then
        .next (State.parkAll (if torn then some c else none) l s)
      else .next (cores.foldl State.noRoom s)

/-- A context that a core's lay-by holds given its parking area's content, unless it has one. -/
def Parked.keep (c : CoreId) (i : SpadImage) (p : Parked) : Parked :=
  if (decide (p.home = some c) && p.spad.isNone) = true then { p with spad := some i } else p

/-- The scratchpad of every context that a core's lay-by holds, copied to its parking area unless it lies there. -/
def State.clearSpad (s : State) (c : CoreId) : State :=
  let i := s.takeSpad c
  s.setCluster (clusterOf c) fun k => { k with parked := k.parked.map (Parked.keep c i) }

/-! ### Resuming (R273) -/

/-- Whether a core may take a task (R284, R285): idle, in its junction's set. -/
def State.offered (s : State) (c : CoreId) : Bool :=
  let k := s.core c
  decide (k.status = .idle) && !k.withdrawn && !k.wakeOut && !(s.dies[(dieOf c).val]).frozen

/-- Whether a context may resume on a core now: the core or pair free, no signature still running (R323). -/
def State.mayResume (s : State) (c : CoreId) (p : Parked) : Bool :=
  s.offered c && (!p.task.rs.rc.paired || s.offered (partnerOf c)) &&
  p.task.cmds.all fun q => (s.signing p q).isNone

/-- Whether contexts of a cluster may resume together, each on the core whose lay-by holds it, with a live context for
each of their sessions that has none (R313). -/
def State.mayResumeAll (s : State) (k : ClusterId) (l : List Parked) : Bool :=
  (l.all fun p => p.home.any fun c => s.mayResume c p) &&
  decide (s.liveSessions k + (l.map fun p => (p.task.sessions.filter fun x => !x.closing).length).sum ≤ 64)

/-- The weight window of a task (R327): its job's, or the range for which its launch holds the programming privilege. -/
def State.windowOf (s : State) (t : Task) : BitVec 39 × BitVec 39 :=
  match (s.launchOf t.rs.rc.job t.rs.rc.launch).bind Launch.window with
  | some w => w
  | none => ((s.jobOf t.rs.rc.job).map fun j => (j.args.wbase, j.args.wlim)).getD (0, 0)

/-- A task begins on a core, or goes on: the core, and its partner for a pair, take its weight window (R327). -/
def State.start (s : State) (c : CoreId) (t : Task) : State :=
  let win := s.windowOf t
  let load (k : Core) : Core := { k with wwbase := win.1.setWidth 64, wwlim := win.2.setWidth 64, vgroup := none }
  let s := { s with readySeq := s.readySeq + 1 }
  let s := s.setCore c fun k =>
    { load k with status := .running, task := some t, started := s.readySeq, preempt := false }
  if t.rs.rc.paired then s.setCore (partnerOf c) fun k => { load k with status := .mate } else s

/-- A command whose task moves from a core to another: what it holds of its own scratchpad moves with it (R273). -/
def Cmd.moved (old new : CoreId) (q : Cmd) : Cmd :=
  let move (f : Foot) : Foot :=
    if f.own then { f with lo := f.lo - spadPa old 0 + spadPa new 0, hi := f.hi - spadPa old 0 + spadPa new 0 } else f
  { q with foot := q.foot.map move, makes := q.makes.map move }

/-- A parked context of a core's cluster taken out and restored: its scratchpad, then its sections. A cancelled task
resumes only to retire (R299); a pending debug event comes before any instruction (R275). -/
def State.resumeOn (s : State) (c : CoreId) (idx : Nat) (p : Parked) : State :=
  let s := match p.spad with
    | some i => (s.clearSpad c).putSpad c i
    | none => s
  let s := s.setCluster (clusterOf c) fun k =>
    { k with parked := k.parked.eraseIdx idx, saved := k.saved.filter fun e => decide (e.1 ≠ p.task.slot) }
  let t := { p.task with limit := (s.core c).milemax.toNat, debugEv := false,
                         wait := if p.task.cancel then .ended 1 else p.task.wait,
                         cmds := p.task.cmds.map (Cmd.moved p.origin c) }
  let s := s.start c t
  if p.task.debugEv && !t.cancel then
    let r := trapRec s.tick (s.enginePcs c t) t ⟨0, 0, 0, 0, 0⟩ 0 t.pc 0 0 0
    let s := s.setCore c fun k => { k with status := .trapped r (some (264 + c.val)) }
    { s with notices := s.notices ++ [.breakpoint c 0] }
  else s

/-- The contexts of a cluster that resume with one of them: its gang, or itself alone. -/
def State.resumeSet (s : State) (k : ClusterId) (p : Parked) : List Parked :=
  if p.task.rs.rc.gang then (s.clusters[k.val]).parked.filter fun q => p.task.gangWith q.task else [p]

/-- Whether no member of a parked task's gang is left on a core (R297). -/
def State.gangWhole (s : State) (t : Task) : Bool :=
  !t.rs.rc.gang || (List.finRange 512).all fun c => !((s.taskOf c).any fun u => t.gangWith u && !u.wait.ending)

/-- Contexts resumed in turn, each on the core whose lay-by holds it. -/
def State.resumeAll (k : ClusterId) : List Parked → State → State
  | [], s => s
  | p :: rest, s =>
    match p.home, (s.clusters[k.val]).parked.findIdx? fun q => decide (q = p) with
    | some c, some i => State.resumeAll k rest (s.resumeOn c i p)
    | _, _ => State.resumeAll k rest s

/-- A move of a parked context by the resident kernel (R273): to LPDDR, or into a lay-by of the same cluster. Sessions
leave the session save area before an eviction (R313). In confidential mode an evicted context is sealed under a fresh
version, a debug event that hits in that window is noted, and seal and version are checked before it returns (R275). -/
def execParkedContextMove (c : CoreId) (idx : Nat) (dest : Option CoreId) (debugEvent : Bool) (s : State) : Out :=
  let k := clusterOf c
  match (s.clusters[k.val]).parked[idx]? with
  | none => .next s
  | some p =>
    let spad := match p.home, p.spad with
      | some h, none => some (s.takeSpad h)
      | _, i => i
    let evict := dest.isNone && p.home.isSome
    let saved := (s.clusters[k.val]).saved
    let all := p.task.sessions.length
    let kept := (saved.filter fun e => decide (e.1 = p.task.slot)).length
    let size := if evict then p.size - p.task.sealSection p.masks (all - kept) + p.task.sealSection p.masks all else p.size
    let sealed := evict && s.confidential
    let p' : Parked := { p with
      home := dest, spad := spad, size := size,
      sealed := if sealed then some s.sealSeq else if dest.isSome then none else p.sealed,
      task := { p.task with debugEv := p.task.debugEv || (debugEvent && sealed && p.task.attached) } }
    let moved : State := { s with sealSeq := if sealed then s.sealSeq + 1 else s.sealSeq }
    let moved := moved.setCluster k fun x =>
      { x with parked := x.parked.set idx p',
               saved := if evict then saved.filter fun e => decide (e.1 ≠ p.task.slot) else saved }
    match dest with
    | none => .next moved
    | some d =>
      if clusterOf d = k ∧ p.home = none ∧ s.fits d p.size = true ∧ (p.task.rs.rc.paired = false ∨ tierA d = true) ∧
          (p.sealed.isSome = true → p.intact = true) then .next moved
      else .next s

end Machine

end Sys2Proof
end

