-- ==== Sys2Proof/Machine/ScalarMem.lean ====
section
/-!
DEFINITION. Machine/ScalarMem.lean: the scalar loads and stores (R101, R111 to R114), by size and by displacement: disp6
counts in accesses of the size, a literal in bytes.
-/

namespace Sys2Proof

namespace Machine

/-- Effective address of a short form (R111). -/
def eaShort (n : Nat) (base : Word64) (disp : BitVec 6) : Word64 := base + disp.signExtend 64 * BitVec.ofNat 64 n

/-- Effective address of a literal form (R111). -/
def eaLit (base : Word64) (lit : Word32) : Word64 := base + lit.signExtend 64

/-- The register value of loaded bytes: sign-extended from the access, or zero-extended (R111). -/
def loadValue (n : Nat) (sx : Bool) (bs : List Byte) : Word64 :=
  if sx then BitVec.ofInt 64 (toSigned (8 * n) (leNat bs)) else BitVec.ofNat 64 (leNat bs)

/-- A load of n bytes (R111). -/
def loadBody (n : Nat) (cls : BitVec 2) (sx : Bool) (rd : XReg) (ea : Task → Word64) : Body := fun c _ s t => do
  let r ← s.load c t ⟨(ea t).toNat, n, cls, false⟩
  .ok (r.1, t.setX rd (loadValue n sx r.2))

/-- A store of n bytes (R111). -/
def storeBody (n : Nat) (cls : BitVec 2) (nt : Bool) (rs : XReg) (ea : Task → Word64) : Body := fun c _ s t =>
  s.store c t ⟨(ea t).toNat, n, cls, nt⟩ (bytesOf n (t.getX rs).toNat)

/-- LD.B (R111). -/
def execLdB (g : Guard) (cls : BitVec 2) (sx : Bool) (rd ra : XReg) (disp : BitVec 6) (s : State) : Out :=
  cWord 2 g none (loadBody 1 cls sx rd fun t => eaShort 1 (t.getX ra) disp) s
/-- LD.B with a literal (R111). -/
def execLdBLit (g : Guard) (cls : BitVec 2) (sx : Bool) (rd ra : XReg) (lit : Word32) (s : State) : Out :=
  cWord 4 g none (loadBody 1 cls sx rd fun t => eaLit (t.getX ra) lit) s
/-- ST.B (R111, R114). -/
def execStB (g : Guard) (cls : BitVec 2) (nt : Bool) (rs ra : XReg) (disp : BitVec 6) (s : State) : Out :=
  cWord 2 g (some 0) (storeBody 1 cls nt rs fun t => eaShort 1 (t.getX ra) disp) s
/-- ST.B with a literal (R111, R114). -/
def execStBLit (g : Guard) (cls : BitVec 2) (nt : Bool) (rs ra : XReg) (lit : Word32) (s : State) : Out :=
  cWord 4 g (some 0) (storeBody 1 cls nt rs fun t => eaLit (t.getX ra) lit) s

/-- LD.H (R111). -/
def execLdH (g : Guard) (cls : BitVec 2) (sx : Bool) (rd ra : XReg) (disp : BitVec 6) (s : State) : Out :=
  cWord 2 g none (loadBody 2 cls sx rd fun t => eaShort 2 (t.getX ra) disp) s
/-- LD.H with a literal (R111). -/
def execLdHLit (g : Guard) (cls : BitVec 2) (sx : Bool) (rd ra : XReg) (lit : Word32) (s : State) : Out :=
  cWord 4 g none (loadBody 2 cls sx rd fun t => eaLit (t.getX ra) lit) s
/-- ST.H (R111, R114). -/
def execStH (g : Guard) (cls : BitVec 2) (nt : Bool) (rs ra : XReg) (disp : BitVec 6) (s : State) : Out :=
  cWord 2 g (some 0) (storeBody 2 cls nt rs fun t => eaShort 2 (t.getX ra) disp) s
/-- ST.H with a literal (R111, R114). -/
def execStHLit (g : Guard) (cls : BitVec 2) (nt : Bool) (rs ra : XReg) (lit : Word32) (s : State) : Out :=
  cWord 4 g (some 0) (storeBody 2 cls nt rs fun t => eaLit (t.getX ra) lit) s

/-- LD.W (R111). -/
def execLdW (g : Guard) (cls : BitVec 2) (sx : Bool) (rd ra : XReg) (disp : BitVec 6) (s : State) : Out :=
  cWord 2 g none (loadBody 4 cls sx rd fun t => eaShort 4 (t.getX ra) disp) s
/-- LD.W with a literal (R111). -/
def execLdWLit (g : Guard) (cls : BitVec 2) (sx : Bool) (rd ra : XReg) (lit : Word32) (s : State) : Out :=
  cWord 4 g none (loadBody 4 cls sx rd fun t => eaLit (t.getX ra) lit) s
/-- ST.W (R111, R114). -/
def execStW (g : Guard) (cls : BitVec 2) (nt : Bool) (rs ra : XReg) (disp : BitVec 6) (s : State) : Out :=
  cWord 2 g (some 0) (storeBody 4 cls nt rs fun t => eaShort 4 (t.getX ra) disp) s
/-- ST.W with a literal (R111, R114). -/
def execStWLit (g : Guard) (cls : BitVec 2) (nt : Bool) (rs ra : XReg) (lit : Word32) (s : State) : Out :=
  cWord 4 g (some 0) (storeBody 4 cls nt rs fun t => eaLit (t.getX ra) lit) s

/-- LD.D (R111). -/
def execLdD (g : Guard) (cls : BitVec 2) (rd ra : XReg) (disp : BitVec 6) (s : State) : Out :=
  cWord 2 g none (loadBody 8 cls false rd fun t => eaShort 8 (t.getX ra) disp) s
/-- LD.D with a literal (R111). -/
def execLdDLit (g : Guard) (cls : BitVec 2) (rd ra : XReg) (lit : Word32) (s : State) : Out :=
  cWord 4 g none (loadBody 8 cls false rd fun t => eaLit (t.getX ra) lit) s
/-- ST.D (R111, R114). -/
def execStD (g : Guard) (cls : BitVec 2) (nt : Bool) (rs ra : XReg) (disp : BitVec 6) (s : State) : Out :=
  cWord 2 g (some 0) (storeBody 8 cls nt rs fun t => eaShort 8 (t.getX ra) disp) s
/-- ST.D with a literal (R111, R114). -/
def execStDLit (g : Guard) (cls : BitVec 2) (nt : Bool) (rs ra : XReg) (lit : Word32) (s : State) : Out :=
  cWord 4 g (some 0) (storeBody 8 cls nt rs fun t => eaLit (t.getX ra) lit) s

end Machine

end Sys2Proof
end

