-- ==== Sys2Proof/Machine/Fetch.lean ====
section
/-!
DEFINITION. Machine/Fetch.lean: the instruction that a task executes next: its text (R79), its decoding (R95, R96), the
stepped fields of a repetition (R33).
-/

namespace Sys2Proof

namespace Machine

/-- An illegal-instruction trap with its detail code (R96). -/
def illegalStop (d : IllDetail) : Stop := .trap ⟨0, 1, d.code, 0, 0⟩

/-- The queue registers that a V instruction reads, a peek counting as a read (R36); none for any other instruction. A
widened source of VZIP's and VCVT's kind reads each register of its group. Two source fields that name one queue count as
two reads of its bank, which the manual leaves open (log 5). -/
def vReads (i : Instr) : Option (List VReg) :=
  (vForm i).map fun x =>
    let src (sl : Slot) (r : VReg) (n : Nat) : List VReg :=
      if sl = .queue then (List.range n).map fun k => stepReg r true k else []
    (if x.1.op = 1 then src x.1.vd x.2.vd 1 else []) ++ src x.1.va x.2.va (if x.1.op = 15 then 2 else 1) ++
    src x.1.vb x.2.vb 1 ++ src x.1.vc x.2.vc (if x.1.op = 14 then 2 else 1)

/-- The next instruction of a task on a core and its parcels, or what stops the task there, with the engine it is
reported against. -/
def State.nextInstr (s : State) (c : CoreId) (t : Task) : Except (Nat × Stop) (Instr × Nat) :=
  match s.fetchText c t t.pc with
  | .error e => .error (s.pcEngine c t, e)
  | .ok ps =>
    let h := ps.headD 0
    match decodeParcels ps with
    | .instr i =>
      match t.stepped i with
      | .ok j => .ok (j, headParcels h)
      | .error d => .error (headEngine h, illegalStop d)
    | .illegal d => .error (headEngine h, illegalStop d)
    | .short => .error (headEngine h, illegalStop .opcode)

end Machine

end Sys2Proof
end

