-- ==== Sys2Proof/Machine/Dispatching.lean ====
section
/-!
DEFINITION. Machine/Dispatching.lean: the events of the junction: DISPATCH_DECISION (R295, R297), INPUT_STAGING (R268,
R293), DISPATCH (R18, R305), TASK_RETIRE (R137, R300 to R302), BARRIER_RELEASE (R125), GENERATION_SWEEP (R305).
-/

namespace Sys2Proof

namespace Machine

/-! ### Whose turn it is (R295) -/

/-- What a decision may pick: a ready record, or a parked context that is ready again. -/
inductive Turn where
  | fresh (r : RecSlot)
  | back (idx : Nat) (p : Parked)
  deriving DecidableEq, Repr

/-- The record. -/
def Turn.rc : Turn → Rec
  | .fresh r => r.rc
  | .back _ p => p.task.rs.rc

/-- Its place in the order of readiness. -/
def Turn.order : Turn → Nat
  | .fresh r => r.ready.getD 0
  | .back _ p => p.ready

/-- Its launch, as the cyclic order of R295 ranks it. -/
def Turn.key (x : Turn) : Nat × Nat := (x.rc.job, x.rc.launch)

/-- The order of pairs of job and launch numbers. -/
def keyBelow (a b : Nat × Nat) : Bool := decide (a.1 < b.1) || (decide (a.1 = b.1) && decide (a.2 < b.2))

/-- The cores of a cluster (R287). -/
def coresOf (k : ClusterId) : List CoreId := (List.finRange 512).filter fun c => decide (clusterOf c = k)

/-- The cores that a cluster's junction may give a task. -/
def State.freeCores (s : State) (k : ClusterId) : List CoreId := (coresOf k).filter s.offered

/-- Everything ready in a cluster. -/
def State.turns (s : State) (k : ClusterId) : List Turn :=
  ((s.clusters[k.val]).recs.filter fun r => r.ready.isSome && s.born r).map Turn.fresh ++
  (s.clusters[k.val]).parked.zipIdx.map fun e => Turn.back e.2 e.1

/-- The records of a gang that are not on a core. -/
def State.gangRecs (s : State) (k : ClusterId) (key : Nat × Nat) : List RecSlot :=
  (s.clusters[k.val]).recs.filter fun r => r.rc.gang && decide (r.rc.job = key.1) && decide (r.rc.launch = key.2)

/-- Whether a core can start a record: the core free, and its partner above it for a pair (R293). -/
def coreTakes (free : List CoreId) (paired : Bool) (c : CoreId) : Bool :=
  free.contains c && (!paired || (tierA c && free.contains (partnerOf c)))

/-- Whether a turn stands in the queues of R295: a gang's once all its tasks are ready, or whole in their lay-bys; a
parked context while the core that holds it, and its partner for a pair, is free, since it resumes nowhere else (log 31). -/
def State.suits (s : State) (k : ClusterId) : Turn → Bool
  | .fresh r => !r.rc.gang || (s.gangRecs k (r.rc.job, r.rc.launch)).all fun x => x.ready.isSome && s.born x
  | .back _ p =>
    if p.task.rs.rc.gang then s.gangWhole p.task
    else p.home.any fun c => s.offered c && (!p.task.rs.rc.paired || s.offered (partnerOf c))

/-- The launch after the last one served, in cyclic order. -/
def nextKey (last : Option (Nat × Nat)) (l : List Turn) : Option (Nat × Nat) :=
  let least (m : Option (Nat × Nat)) (x : Turn) : Option (Nat × Nat) :=
    match m with
    | none => some x.key
    | some a => if keyBelow x.key a then some x.key else some a
  match (l.filter fun x => last.all fun a => keyBelow a x.key).foldl least none with
  | some k => some k
  | none => l.foldl least none

/-- The highest level of a list. -/
def topLevel (l : List Turn) : Nat := l.foldl (fun m x => max m x.rc.level.toNat) 0

/-- The oldest of a list. -/
def oldest (l : List Turn) : Option Turn :=
  l.foldl (fun m x => match m with
    | none => some x
    | some y => if x.order < y.order then some x else some y) none

/-- The turn that R295 gives. -/
def State.turnOf (s : State) (k : ClusterId) (l : List Turn) : Option Turn :=
  let p := topLevel l
  let at_ := l.filter fun x => decide (x.rc.level.toNat = p)
  let last := (s.clusters[k.val]).served[p % 4]'(Nat.mod_lt _ (by decide))
  (nextKey last at_).bind fun key => oldest (at_.filter fun x => decide (x.key = key))

/-! ### Promotion (R295) -/

/-- A record passed over once more. -/
def Rec.passed (r : Rec) : Rec := if r.prom = 63 then { r with prom := 0, level := r.level + 1 } else { r with prom := r.prom + 1 }

/-- A place in the order of readiness after a decision at a level: a promoted record is appended, in readiness order. -/
def newOrder (seq : Nat) (promoted : List Nat) (n : Nat) : Nat :=
  if promoted.contains n then seq + (promoted.filter fun m => decide (m < n)).length else n

/-- Every ready record below a level passed over. -/
def State.promote (s : State) (k : ClusterId) (level : Nat) : State :=
  let low (r : Rec) : Bool := decide (r.level.toNat < level)
  let up := ((s.turns k).filter fun x => low x.rc && decide (x.rc.prom = 63)).map Turn.order
  let seq := s.readySeq
  let fresh (r : RecSlot) : RecSlot :=
    if (r.ready.isSome && low r.rc) = true then { r with rc := r.rc.passed, ready := r.ready.map (newOrder seq up) } else r
  let back (p : Parked) : Parked :=
    if low p.task.rs.rc = true then
      { p with ready := newOrder seq up p.ready, task := { p.task with rs := { p.task.rs with rc := p.task.rs.rc.passed } } }
    else p
  let s := s.setCluster k fun c => { c with recs := c.recs.map fresh, parked := c.parked.map back }
  { s with readySeq := seq + up.length }

/-! ### The decision (R295, R297) -/

/-- A core given a record: it leaves the store; the scratchpad of a parked context makes room (R294). -/
def State.give (s : State) (k : ClusterId) (c : CoreId) (r : RecSlot) : State :=
  let s := (s.clearSpad c).setCluster k fun x => { x with recs := x.recs.filter fun y => decide (y.slot ≠ r.slot) }
  let s := s.setCore c fun x => { x with status := .chosen r false none, preempt := false }
  if r.rc.paired then s.setCore (partnerOf c) fun x => { x with status := .mate } else s

/-- Records given to cores in turn. -/
def State.giveAll (k : ClusterId) : List (CoreId × RecSlot) → State → State
  | [], s => s
  | (c, r) :: rest, s => State.giveAll k rest (s.give k c r)

/-- The decision carried out for a turn: on the cores named; none when they do not suit it. A gang for which too few cores
are free reserves those that free (R297). -/
def State.carryOut (s : State) (k : ClusterId) (cores : List CoreId) (x : Turn) : Option State :=
  let free := s.freeCores k
  let reserve : State := s.setCluster k fun c => { c with gang := some x.key }
  let clear (s : State) : State := s.setCluster k fun c => { c with gang := none }
  match x with
  | .fresh r =>
    if r.rc.gang then
      let g := s.gangRecs k x.key
      if (free.filter (coreTakes free r.rc.paired)).length < g.length then some reserve
      else if decide (cores.length = g.length) && decide cores.Nodup && cores.all (coreTakes free r.rc.paired) then
        some (clear (State.giveAll k (cores.zip g) s))
      else none
    else
      match cores with
      | [c] => if coreTakes free r.rc.paired c then some (s.give k c r) else none
      | _ => none
  | .back _ p =>
    let l := s.resumeSet k p
    if s.mayResumeAll k l then some (clear (State.resumeAll k l s))
    else if p.task.rs.rc.gang then some reserve else none

/-- The running task that the junction asks to pre-empt: the lowest level below one, the latest dispatched (R295). -/
def State.victim (s : State) (k : ClusterId) (level : Nat) : Option CoreId :=
  let low := (coresOf k).filterMap fun c => match (s.core c).status, s.taskOf c with
    | .running, some t => some (c, t.rs.rc.level.toNat)
    | .trapped .., some t => some (c, t.rs.rc.level.toNat)
    | _, _ => none
  if (coresOf k).any fun c => (s.core c).preempt then none
  else
    ((low.filter fun e => decide (e.2 < level)).foldl (fun m e => match m with
      | none => some e
      | some b =>
        if e.2 < b.2 ∨ (e.2 = b.2 ∧ (s.core b.1).started < (s.core e.1).started) then some e else some b) none).map
      fun e => e.1

/-- The turn that is next in a cluster: of the gang that cores are reserved for, else the one R295 gives while a core is
free. One that cannot start yet, a pair or a session that waits, is not passed over (R296). -/
def State.nextTurn (s : State) (k : ClusterId) : Option Turn :=
  match (s.clusters[k.val]).gang with
  | some key => oldest ((s.turns k).filter fun x => decide (x.key = key) && x.rc.gang)
  | none => if (s.freeCores k).isEmpty then none else s.turnOf k ((s.turns k).filter (s.suits k))

/-- A turn taken on cores: the launch is served, and what is ready below its level passed over (R295). -/
def State.takeTurn (s : State) (k : ClusterId) (cores : List CoreId) (x : Turn) : State :=
  match s.carryOut k cores x with
  | none => s
  | some s' =>
    if (s.clusters[k.val]).gang.isSome then s'
    else
      let p := x.rc.level.toNat
      (s'.promote k p).setCluster k fun c =>
        { c with served := c.served.set (p % 4) (some x.key) (Nat.mod_lt _ (by decide)) }

/-- DISPATCH_DECISION (R295, R297): the cores are the junction's choice. -/
def execDispatchDecision (k : ClusterId) (cores : List CoreId) (s : State) : Out :=
  match s.nextTurn k with
  | some x => .next (s.takeTurn k cores x)
  | none =>
    if (s.clusters[k.val]).gang.isSome then .next (s.setCluster k fun c => { c with gang := none })
    else if (s.freeCores k).isEmpty && !(s.turns k).isEmpty then
      .next (match s.victim k (topLevel (s.turns k)) with
        | some c => s.askPreempt c
        | none => s)
    else .next s

/-- RESUME (R273, R297): the turn of a parked context, or of its gang, taken on the core whose lay-by holds it. -/
def execResume (c : CoreId) (idx : Nat) (s : State) : Out :=
  let k := clusterOf c
  match (s.clusters[k.val]).parked[idx]?, s.nextTurn k with
  | some p, some (.back i q) =>
    if decide (p.home = some c) && (decide (i = idx) || p.task.gangWith q.task) then .next (s.takeTurn k [] (.back i q))
    else .next s
  | _, _ => .next s

/-! ### Staging (R268, R293) -/

/-- What staging an input ends in: a fault of its source, of a checksum, or that it must wait. -/
inductive StageStop where
  | source (cause : Byte) (addr : Word64)
  | checksum (word addr : Word64)
  | wait
  deriving DecidableEq, Repr

/-- The source of an input, translated piece by piece: the first byte's place, the bytes, the poisoned ranges. -/
structure Staged where
  first : Nat
  inW   : Bool
  bytes : List Byte
  marks : List (Nat × Nat)
  deriving DecidableEq, Repr

/-- One piece of a source. -/
def State.stagePiece (s : State) (c : CoreId) (job va n : Nat) : Res (State × Staged) := do
  let x ← s.translate c job va .read
  match x.typ with
  | .mmio => raise 2 9 va
  | .wap =>
    if (s.dies[(wDie x.pa).val]).wready = false then .error .wait
    else
      let ws := (blocksOf 4096 x.pa n).filter fun w => s.wpoison.contains w
      .ok (s, ⟨x.pa, true, s.readW x.pa n,
        ws.map fun w => (max w x.pa - x.pa, min (w + 4096) (x.pa + n) - x.pa)⟩)
  | _ =>
    let s := s.checkMacs x.pa n
    let ws := (eccWords x.pa n).filter fun w => s.poison.contains w
    .ok (s, ⟨x.pa, false, s.readPa x.pa n,
      ws.map fun w => (max w x.pa - x.pa, min (w + eccSize x.pa) (x.pa + n) - x.pa)⟩)

/-- A whole source. -/
def State.stageSource (c : CoreId) (job : Nat) : List (Nat × Nat) → State → Res (State × Staged)
  | [], s => .ok (s, ⟨0, false, [], []⟩)
  | (va, n) :: rest, s => do
    let a ← s.stagePiece c job va n
    let b ← State.stageSource c job rest a.1
    .ok (b.1, ⟨a.2.first, a.2.inW, a.2.bytes ++ b.2.bytes, a.2.marks ++ b.2.marks.map fun m => (m.1 + n, m.2 + n)⟩)

/-- Bytes that the junction puts into a scratchpad: their stamps emptied (R307). -/
def State.stagePut (s : State) (pa : Nat) (bs : List Byte) : State := (s.emptyStamps pa bs.length).writePa pa bs

/-- A tile copy's data compared on arrival (R234, R260): corrected, or a fault that names the tile at its destination. -/
def State.stageVerify (s : State) (c : CoreId) (off : Nat) (fmt : BitVec 5) : State × Option StageStop :=
  let o := spadPa c off
  let rows := tileRows fmt (s.readNat o (tileSize fmt))
  let ws := wordsOfSideband (s.readPa (o + tileSize fmt) 512)
  match judgeTile fmt rows ws.1 ws.2 true false 0 with
  | .pass => (s, none)
  | .fixed i j e =>
    (s.writePa (o + rowBytes fmt * i) (bytesOf (rowBytes fmt) (packLanes (fmtWidth fmt) ((rows.getD i []).set j e))), none)
  | b =>
    let ev := (b.fault 1 fmt.toNat 0 off).event
    (s, some (.checksum (ev.ck.getD (0, 0)).1 (ev.ck.getD (0, 0)).2))

/-- The tile that an input copies as a tile (R234). -/
def State.stageTile (s : State) (e : InEntry) (x : Staged) : Option Tile :=
  match tileAt (if x.inW then s.wtiles else s.tiles) x.first with
  | some tl =>
    if (x.inW || (homeOf x.first).isSram) && decide (e.len = tileSize tl.fmt) && decide (e.off % 512 = 0) &&
        decide (e.off + e.len + 512 ≤ laybyBase) then some tl else none
  | none => none

/-- One input staged (R293): as a tile copy where R234 allows it, else as a plain copy that moves poison. A walk that meets a
line with a bad MAC marks and counts it (R356). -/
def State.stageOne (s : State) (c : CoreId) (job : Nat) (e : InEntry) : State × Option StageStop :=
  match State.stageSource c job (piecesOf e.src e.len) s with
  | .error (.trap t) => (s, some (.source t.cause t.addr))
  | .error (.event e) => (e.read.foldl (fun s r => s.checkMacs r.1 r.2) s, some (.checksum 0 0))
  | .error .wait => (s, some .wait)
  | .ok (s, x) =>
    let pa := spadPa c e.off
    match s.stageTile e x with
    | some tl =>
      let side := x.first + e.len
      let bad := tl.poison || !x.marks.isEmpty ||
        (if x.inW then (s.poisonedRow side 512).isSome else (s.poisonedAt side 512).isSome)
      if bad then (s, some (.checksum 0 0))
      else
        let words := if x.inW then s.readW side 512 else s.readPa side 512
        let s := s.stagePut pa (x.bytes ++ words)
        let s : State := { s with tiles := newTile s.tiles pa { fmt := tl.fmt, stale := tl.stale, poison := false } }
        if tl.stale then (s, none) else s.stageVerify c e.off tl.fmt
    | none =>
      let s := ((s.arriveStamps pa x.bytes.length).stagePut pa x.bytes).staleTiles pa x.bytes.length
      (s.addPoison (x.marks.flatMap fun m => eccWords (pa + m.1) (m.2 - m.1)), none)

/-- Inputs staged, in list order, or the number of the one that stops it; `n` is the number of the first. -/
def State.stageAll (c : CoreId) (job : Nat) : Nat → List InEntry → State → State × Option (Nat × StageStop)
  | _, [], s => (s, none)
  | n, e :: rest, s =>
    match s.stageOne c job e with
    | (s, none) => State.stageAll c job (n + 1) rest s
    | (s, some x) => (s, some (n, x))

/-- Whether no task holds a residency index of a core (R306). -/
def State.residOk (s : State) (c : CoreId) (n : Nat) : Bool :=
  (s.allTasks.all fun t => decide (t.slot ≠ slotOf c n)) && s.nt.all fun x => decide (x.slot ≠ slotOf c n)

/-- The fatal record of a staging fault (R268). -/
def stageRecord (s : State) (c : CoreId) (r : RecSlot) (detail : Byte) (addr info info2 : Word64) : TrapRec :=
  { kind := 2, cause := 21, detail := detail, engine := 3,
    slot := slotOf c (((List.range 7).find? (s.residOk c)).getD 0), pc := Config.openField s.tick 0x08,
    text := Config.openField s.tick 0x10, addr := addr, info := info, info2 := info2, launch := BitVec.ofNat 24 r.rc.launch,
    index := r.rc.index, lane := 0, pcs := [] }

/-- A record that is not dispatched retires FAULTED, with its fatal record (R268). -/
def State.stageFault (s : State) (c : CoreId) (r : RecSlot) (x : TrapRec) : State :=
  ((s.freeCore c r.rc.paired).retireRec r.rc 2).postFatal c x

/-- What a stop at an input does with the chosen record: none when it must wait (R268). Under COMMIT a tile whose checksum
faults is staged once more, and the inputs after it. -/
def State.stageEnd (s : State) (c : CoreId) (r : RecSlot) (again : Option Nat) (n : Nat) (x : StageStop) : Option State :=
  match x with
  | .wait => none
  | .source cause addr => some (s.stageFault c r (stageRecord s c r cause addr 0 0))
  | .checksum w a =>
    if r.rc.commit && decide (again ≠ some n) then some (s.setCore c fun k => { k with status := .chosen r false (some n) })
    else some (s.stageFault c r (stageRecord s c r 0 (Config.openField s.tick 0x18) w a))

/-- INPUT_STAGING (R268, R293), by the core's copy engine: not while the monitor has stopped its clock (R345). -/
def execInputStaging (c : CoreId) (s : State) : Out :=
  match (s.core c).status with
  | .chosen r false again =>
    if s.stopped c then .next s
    else match State.stageAll c r.rc.job (again.getD 0) (r.ins.drop (again.getD 0)) s with
    | (s', none) => .next (s'.setCore c fun k => { k with status := .chosen r true again })
    | (s', some (n, x)) => .next ((s'.stageEnd c r again n x).getD s)
  | _ => .next s

/-! ### Dispatch (R18, R305) -/

/-- A task in the state of R18. -/
def newTask (r : RecSlot) (slot : BitVec 12) (gen : BitVec 4) (limit : Nat) (attached : Bool) : Task :=
  { rs := r, slot := slot, gen := gen, pc := r.rc.code, rep := Repeat.zero,
    x := (Vector.replicate 32 0).set 2 r.rc.frame, p := (Vector.replicate 8 false).set 0 true,
    k := (Vector.replicate 8 0).set 0 (BitVec.allOnes 1024), v := Vector.replicate 32 [], sys := SysRegs.atDispatch,
    cc := Vector.replicate 16 0, regions := [], dist := 0, limit := limit, masks := ⟨BitVec.allOnes 8, 0x1F, BitVec.allOnes 32⟩,
    z := Vector.replicate 8 ZTile.zero, mStack := [], xStack := [], pStack := [], sStack := [],
    m := mcfgAt SysRegs.atDispatch.tolsh SysRegs.atDispatch.dith, mstats := ⟨0, 0, 0, 0⟩, xc := XCfg.zero, xlast := none,
    pcfg := { cfg := 0, spill := none }, metas := [], front := Front.empty, cmds := [], nextSeq := 0, nt := [],
    commit := [], held := [], sessions := [], closed := [], wait := .none, bars := 0, passed := 0, exited := false, amo := none, cancel := false,
    attached := attached, debugEv := false }

/-- Whether every member of a gang that a decision placed has its inputs (R297). -/
def State.gangStaged (s : State) (r : RecSlot) : Bool :=
  !r.rc.gang || s.cores.toList.all fun k => match k.status with
    | .chosen q staged _ => staged || !(q.rc.gang && decide (q.rc.job = r.rc.job) && decide (q.rc.launch = r.rc.launch))
    | _ => true

/-- Whether a debug session holds a task (R357). -/
def State.debugged (s : State) (r : Rec) : Bool :=
  s.sessions.any fun d => decide (d.job = r.job) && decide (d.launch = r.launch) && decide (d.index = r.index)

/-- The generation a dispatch takes (R305): the record's base generation, or its own advance. -/
def State.dispatchGen (s : State) (r : Rec) : Option (State × BitVec 4) :=
  if r.hasbgen then some (s, r.bgen) else s.advanceGen r.job

/-- DISPATCH (R18, R293, R305, R327), on a core whose clock runs (R345). -/
def execDispatch (c : CoreId) (resid : Fin 7) (s : State) : Out :=
  match (s.core c).status with
  | .chosen r true _ =>
    if s.stopped c || !s.residOk c resid.val || !s.gangStaged r then .next s
    else
      match s.dispatchGen r.rc with
      | none => .next s
      | some (s, gen) =>
        let t := newTask r (slotOf c resid.val) gen (s.core c).milemax.toNat (s.debugged r.rc)
        .next (s.start c t)
  | _ => .next s

/-! ### Retirement (R137, R300 to R302) -/

/-- Records of a list retired with CANCELLED, in turn. -/
def State.retireAll : List RecSlot → State → State
  | [], s => s
  | r :: rest, s => State.retireAll rest (s.retireRec r.rc 1)

/-- Work that a COMMIT task held, released in the order of creation (R301): what a cancel has reached retires with
CANCELLED (R299). -/
def State.release (t : Task) : List Held → State → State
  | [], s => s
  | .record k r gone :: rest, s =>
    if gone then State.release t rest ((s.addMember r.rc.job r.rc.launch).retireRec r.rc 1)
    else
      State.release t rest ((s.setCluster k fun c => { c with recs := c.recs ++ [r] }).addMember r.rc.job r.rc.launch)
  | .attach _ :: rest, s => State.release t rest s
  | .launch n recs gone :: rest, s =>
    let job := t.rs.rc.job
    let l := s.launchOf job n
    let k := (l.map Launch.cluster).getD 0
    let s := s.addToGraph job ((l.map Launch.graph).getD 0)
    if gone then State.release t rest (State.retireAll recs s)
    else State.release t rest (State.place k t.heldRecs recs s)

/-- Work that a COMMIT task held, gone without a trace (R302). -/
def State.forget (t : Task) : List Held → State → State
  | [], s => s
  | .record .. :: rest, s => State.forget t rest s
  | .attach h :: rest, s =>
    State.forget t rest (match s.recOf h with
      | some (k, r) => s.setRec k r.slot fun x => { x with rc := { x.rc with attached := x.rc.attached - 1 } }
      | none => s)
  | .launch n _ _ :: rest, s =>
    State.forget t rest (s.setJob t.rs.rc.job fun j => { j with launches := j.launches.filter fun l => decide (l.num ≠ n) })

/-- A task's registers, queues, sessions and stores as it leaves its core with a status: sessions are aborted (R321), its
non-temporal stores become visible in their own time (R115). -/
def State.leave (s : State) (c : CoreId) (t : Task) (status : Nat) : State :=
  let (s, _) := State.abortSessions (clusterOf c) (2 * 2 ^ 24 + status) (fun _ => true) none t.sessions s t
  let s := (s.disownRecords (clusterOf c) t.slot).setCluster (clusterOf c) fun k => { k with saved := k.saved.filter fun e => decide (e.1 ≠ t.slot) }
  { s with nt := s.nt ++ t.nt }

/-- A task retired with a status. -/
def State.retireTask (s : State) (c : CoreId) (t : Task) (status : BitVec 2) : State :=
  let s := s.leave c t status.toNat
  let s := if t.exited && t.rs.rc.gang then s.setLaunch t.rs.rc.job t.rs.rc.launch fun l => { l with exited := l.exited + 1 }
    else s
  let s := if t.rs.rc.commit then
      (if status = 0 then State.release t t.held (s.publish t.commit) else State.forget t t.held s)
    else s
  ((s.retireRec t.rs.rc status).freeCore c t.rs.rc.paired).setCore c fun k => { k with preempt := false }

/-- The record of an aborted COMMIT task, ready again for a new dispatch (R302, R305). -/
def State.rerun (s : State) (c : CoreId) (t : Task) : State :=
  let s := State.forget t t.held (s.leave c t 2)
  let k := clusterOf c
  let (s, sl, ten) := s.newSlot k t.heldRecs
  let rc := { t.rs.rc with reruns := t.rs.rc.reruns + 1, hasbgen := false, bgen := 0 }
  let r : RecSlot := { t.rs with slot := sl, tenure := ten, rc := rc, ready := some s.readySeq, due := 0 }
  let s := { s with readySeq := s.readySeq + 1 }
  let s := s.setCluster k fun x => { x with recs := x.recs ++ [r] }
  (s.freeCore c t.rs.rc.paired).setCore c fun k => { k with preempt := false }

/-- A retirement whose completion record leaves the core (R186): in a pair, a mismatch stops it (R187), an event of the
region that is open at `depth`. -/
def State.retireOr (s : State) (c : CoreId) (t : Task) (status : BitVec 2) (pc : Word64) (depth : Nat) : State :=
  match s.pairStop c t (some 5) with
  | some e => (s.setCore c fun k => { k with pairFault := false }).consume c t e ⟨0, 0, false, pc, depth⟩
  | none => s.retireTask c t status

/-- TASK_RETIRE (R137, R299 to R302): after the drain of an EXIT, under DRAIN with every record of the task written (R319);
at the end that a cancel has brought, or, even on a core whose clock has stopped (R274, R345), a fault or a torn save; or the
return of an aborted task's record. -/
def execTaskRetire (c : CoreId) (s : State) : Out :=
  let still := (s.core c).frozen || s.stopped c
  match (s.core c).status, s.taskOf c with
  | .running, some t =>
    match t.wait with
    | .exiting => .next (if still || !t.cmds.isEmpty || (!t.rs.rc.commit && s.recordKept (clusterOf c) t.slot) then s
        else s.retireOr c t 0 (t.pc - 4) 0)
    | .ended st => .next (if st = 1 && still then s else s.retireOr c t st t.pc (if st = 1 then t.regions.length else 0))
    | .aborted => .next (if t.cancel then s.retireOr c t 1 t.pc 0 else s.rerun c t)
    | _ => .next s
  | _, _ => .next s

/-! ### Barriers and generations -/

/-- The tasks of a gang on cores. -/
def State.gangTasks (s : State) (job launch : Nat) : List (CoreId × Task) :=
  (List.finRange 512).filterMap fun c => match s.taskOf c with
    | some t => if t.rs.rc.gang ∧ t.rs.rc.job = job ∧ t.rs.rc.launch = launch then some (c, t) else none
    | none => none

/-- BARRIER_RELEASE (R125, R305): every task of the gang waits at its next BAR or has executed EXIT; all go on in the
release's new generation. A re-run task passes barriers that were released before. -/
def execBarrierRelease (job launch : Nat) (s : State) : Out :=
  match s.launchOf job launch with
  | none => .next s
  | some l =>
    let ts := s.gangTasks job launch
    let waits := ts.filter fun e => decide (e.2.wait = .bar)
    let old := waits.filter fun e => decide (e.2.bars ≤ l.bars)
    let left := ts.filter fun e => e.2.exited && decide (e.2.wait ≠ .aborted)
    if !old.isEmpty then
      .next (old.foldl (fun s e => s.setTask e.1 { e.2 with wait := .none, passed := e.2.bars }) s)
    else if waits.isEmpty || decide (waits.length + left.length + l.exited < l.count) then .next s
    else
      match s.advanceGen job with
      | none => .next s
      | some (s, g) =>
        let on (s : State) (e : CoreId × Task) : State :=
          s.setTask e.1 (if e.2.wait = .bar then { e.2 with wait := .none, passed := e.2.bars, gen := g }
            else { e.2 with gen := g })
        .next ((ts.foldl on s).setLaunch job launch fun l => { l with bars := l.bars + 1 })

/-- GENERATION_SWEEP (R305): the stamps of a generation that nothing holds are emptied, and the advance to it that waited is
made. -/
def execGenerationSweep (job : Nat) (gen : BitVec 4) (s : State) : Out :=
  if s.genHeld job gen then .next s
  else if (s.jobOf job).any fun j => decide (j.made < j.asked) && decide (gen = j.gen + 1) then .next ((s.makeGen job).getD s)
  else .next (s.sweep job gen)

end Machine

end Sys2Proof
end

