-- ==== Sys2Proof/Machine/Traps.lean ====
section
/-!
DEFINITION. Machine/Traps.lean: TRAP_POST, TRAP_RESUME and TRAP_KILL (R35, R97, R135, R311, R312), and ATOMIC_GRANT (R304).
-/

namespace Sys2Proof

namespace Machine

/-! ### The trap queue -/

/-- TRAP_POST: a core parked without a record posts it once an ordinary slot is free (R312), while its clock runs (R345). -/
def execTrapPost (c : CoreId) (s : State) : Out :=
  match (s.core c).status with
  | .trapped r none => .next (if s.stopped c then s else s.postTrap c r)
  | _ => .next s

/-- The core whose posted record stands in a slot of a cluster's queue. A slot of 264 + c is the debugger's hold on core c
(R135). -/
def State.trapCore (s : State) (k : ClusterId) (slot : Nat) : Option (CoreId × TrapRec × Task) :=
  (coresOf k).findSome? fun c => match (s.core c).status, s.taskOf c with
    | .trapped r (some i), some t => if i = slot then some (c, r, t) else none
    | _, _ => none

/-- A register edit of a handler (R35, R40, R97): a queue holds four entries (R22); a new pc ends a repetition. A pc with
bit 0 set is taken as it is, since R76 does not say how such a resume fails (log 33). -/
def RegEdit.apply (t : Task) : RegEdit → Task
  | .setX r v => t.setX r v
  | .setP r v => t.setP r v
  | .setK r v => t.setK r v
  | .push q et d => if (t.queue q).length < 4 then t.pushQ q (mkEntry (etFmt et) d.toNat) else t
  | .setPc pc => { t with pc := pc, rep := if pc = t.pc then t.rep else Repeat.zero }

/-- Whether a list of edits sets the pc. -/
def setsPc (l : List RegEdit) : Bool := l.any fun e => match e with
  | .setPc _ => true
  | _ => false

/-- A record given back to the queue by the junction; the debugger's hold has none. -/
def State.release264 (s : State) (k : ClusterId) (slot : Nat) : State := if slot < 264 then s.freeTrap k slot else s

/-- TRAP_RESUME: the task goes on at its trapping instruction, after a TRAP or BRK behind it (R135, R312). -/
def execTrapResume (k : ClusterId) (slot : Nat) (edits : List RegEdit) (s : State) : Out :=
  match s.trapCore k slot with
  | none => .next s
  | some (c, r, t) =>
    let t := if r.cause = 18 ∨ r.cause = 19 then t.advance 2 else t
    let t := edits.foldl RegEdit.apply t
    .next ((s.release264 k slot).setCore c fun x => { x with status := .running, task := some t })

/-- TRAP_KILL: the task ends FAULTED (R312). -/
def execTrapKill (k : ClusterId) (slot : Nat) (s : State) : Out :=
  match s.trapCore k slot with
  | none => .next s
  | some (c, _, t) =>
    .next ((s.release264 k slot).setCore c fun x =>
      { x with status := .running, task := some { t with cmds := [], amo := none, wait := .ended 2 } })

/-! ### Atomic engines (R304) -/

/-- The meaning of an atomic; any other instruction changes nothing. -/
def execAtomicOp (i : Instr) (s : State) : Out :=
  match i with
  | .aadd g w rd ra rb => execAadd g w rd ra rb s
  | .aand g w rd ra rb => execAand g w rd ra rb s
  | .aor g w rd ra rb => execAor g w rd ra rb s
  | .axor g w rd ra rb => execAxor g w rd ra rb s
  | .amin g w rd ra rb => execAmin g w rd ra rb s
  | .amax g w rd ra rb => execAmax g w rd ra rb s
  | .aswap g w rd ra rb => execAswap g w rd ra rb s
  | .cas g w rd ra rb => execCas g w rd ra rb s
  | .vamo op f => execVamo op f s
  | _ => .next s

/-- The D-space addresses that an atomic names: one, or a VAMO's lanes; none for another instruction. -/
def atomicAddrs (t : Task) (i : Instr) : List Nat :=
  match i with
  | .aadd _ _ _ ra _ => [(t.getX ra).toNat]
  | .aand _ _ _ ra _ => [(t.getX ra).toNat]
  | .aor _ _ _ ra _ => [(t.getX ra).toNat]
  | .axor _ _ _ ra _ => [(t.getX ra).toNat]
  | .amin _ _ _ ra _ => [(t.getX ra).toNat]
  | .amax _ _ _ ra _ => [(t.getX ra).toNat]
  | .aswap _ _ _ ra _ => [(t.getX ra).toNat]
  | .cas _ _ _ ra _ => [(t.getX ra).toNat]
  | .vamo _ f => (amoAccs f t).map fun a => a.va
  | _ => []

/-- The engines that an atomic reaches, each once; none for one that is guarded off, or that has an address without a
translation and so traps before any request. -/
def State.enginesOf (s : State) (c : CoreId) (t : Task) (i : Instr) : List ClusterId :=
  if (guardOf i).all t.passes then
    match (atomicAddrs t i).mapM fun va => s.translate c t.rs.rc.job va .atomic with
    | .ok xs => (xs.map fun x => engineOf x.pa).dedup
    | .error _ => []
  else []

/-- Whether a core has a request waiting at some engine. -/
def State.waitsAtomic (s : State) (c : CoreId) : Bool := s.clusters.toList.any fun k => k.areqs.any fun r => decide (r.core = c)

/-- A core's atomic sent to its engines, one request to each, where it waits for its grants. -/
def State.request (s : State) (c : CoreId) (i : Instr) (ks : List ClusterId) : State :=
  ks.foldl (fun s k => s.setCluster k fun x => { x with areqs := x.areqs ++ [⟨c, i⟩] }) s

/-- A core's next instruction, an atomic, sent to its engines. -/
def State.issueAtomic (s : State) (c : CoreId) : State :=
  match ({ s with cur := c } : State).running with
  | none => s
  | some t =>
    match s.nextInstr c t with
    | .ok (i, _) => if s.waitsAtomic c then s else s.request c i (s.enginesOf c t i)
    | .error _ => s

/-- The core whose turn it is among those that wait: cyclic order, after the core last granted. -/
def grantOf (last : CoreId) (l : List CoreId) : Option CoreId :=
  let least (m : Option CoreId) (c : CoreId) : Option CoreId :=
    match m with
    | none => some c
    | some a => if c < a then some c else some a
  match (l.filter fun c => decide (last < c)).foldl least none with
  | some c => some c
  | none => l.foldl least none

/-- A V instruction that a core issues, with the registers it reads (R36): alone, or in one group with the one before it,
which is split where the two need a bank more than twice. The part fixes which pair (log 5). -/
def Core.issueV (tick : Nat) (reads : List VReg) (k : Core) : Core :=
  match k.vgroup with
  | some l =>
    if Config.sameGroup tick then
      let tight := (List.range 4).any fun b => decide (2 < ((l ++ reads).filter fun v => decide (v.val % 4 = b)).length)
      { k with vgroup := none, vbsplit := if tight then satSucc k.vbsplit else k.vbsplit }
    else { k with vgroup := some reads }
  | none => { k with vgroup := some reads }

/-- A V instruction's issue group noted on a core, and in a pair, which runs in lockstep, on both (R36, R186). -/
def State.issueV (s : State) (c : CoreId) (paired : Bool) (tick : Nat) (reads : List VReg) : State :=
  let s := s.setCore c (Core.issueV tick reads)
  if paired then s.setCore (partnerOf c) (Core.issueV tick reads) else s

/-- The outcome of an instruction that the current core's task executed, with its issue group noted: a V instruction that
its guard let run and that has moved the task on. -/
def noteGroup (s : State) (t : Task) (i : Instr) (o : Out) : Out :=
  match vReads i, o with
  | some reads, .next s' =>
    let went : Bool := (s'.taskOf s.cur).any fun t' => decide (t'.pc ≠ t.pc) || decide (t'.rep ≠ t.rep)
    if (guardOf i).all t.passes && went then .next (s'.issueV s.cur t.rs.rc.paired s.tick reads) else .next s'
  | _, o => o

/-- An instruction run on a core, the present one put back. -/
def State.onCore (s : State) (c : CoreId) (f : State → Out) : Out :=
  match f { s with cur := c } with
  | .next s' => .next { s' with cur := s.cur }
  | o => o

/-- What an engine's grant performs of an atomic: all of it, or an engine's own lanes of a VAMO that reaches several. -/
def State.serve (s : State) (k : ClusterId) (t : Task) (i : Instr) : Out :=
  match i with
  | .vamo op f =>
    if t.amo.isSome || decide (1 < (s.enginesOf s.cur t i).length) then execVamoPart k op f s else execVamo op f s
  | i => execAtomicOp i s

/-- A core's freeze lifted, and put back behind an outcome: the memory system goes on through it (R184). -/
def State.throughFreeze (s : State) (c : CoreId) (f : State → Out) : Out :=
  if (s.core c).frozen then
    match f (s.setFrozen c false) with
    | .next s' => .next (s'.setFrozen c true)
    | o => o
  else f s

/-- The oldest request of a core served by an engine. A request whose instruction no longer stands at its core's pc is
gone; one of a core whose die the monitor has stopped waits. -/
def State.grant (s : State) (k : ClusterId) (c : CoreId) (r : AtomReq) : Out :=
  let done := s.setCluster k fun x => { x with granted := c, areqs := x.areqs.erase r }
  if (s.dies[(dieOf c).val]).frozen then .next s
  else
    match ({ s with cur := c } : State).running with
    | none => .next done
    | some t =>
      match done.nextInstr c t with
      | .ok (i, n) =>
        if i = r.instr ∧ t.overdue n = false then done.onCore c (fun s => noteGroup s t i (s.serve k t i))
        else .next done
      | .error _ => .next done

/-- ATOMIC_GRANT: the engine serves the oldest request of the core whose turn it is (R304). -/
def execAtomicGrant (k : ClusterId) (s : State) : Out :=
  let q := (s.clusters[k.val]).areqs
  match grantOf (s.clusters[k.val]).granted (q.map fun r => r.core) with
  | none => .next s
  | some c =>
    match q.find? fun r => decide (r.core = c) with
    | none => .next s
    | some r => s.throughFreeze c fun s => s.grant k c r

/-- An instruction that a core executes in its turn: an atomic whose engines have no request waiting is granted at once,
else it waits there (R304). -/
def State.inTurn (s : State) (t : Task) (i : Instr) (run : State → Out) : Out :=
  let ks := s.enginesOf s.cur t i
  if ks.any fun k => !(s.clusters[k.val]).areqs.isEmpty then .next (s.request s.cur i ks)
  else run (ks.foldl (fun s k => s.setCluster k fun x => { x with granted := s.cur }) s)

end Machine

end Sys2Proof
end

