-- ==== Sys2Proof/Machine/Die.lean ====
section
/-!
DEFINITION. Machine/Die.lean: the weight tier (R329, R333 to R339): via repair, row programming, bank sensors, the
remapping step, measurement; the monitor (R345); the writes of device registers that have a row of their own (R343, R344,
R354, R407, R410).
-/

namespace Sys2Proof

namespace Machine

/-! ### Where a row lies (R329) -/

/-- The banks of a column that a map of banks holds, ascending. -/
def banksIn (m : BitVec 1024) (col : Nat) : List Nat := (List.range 16).filter fun b => m.getLsbD (16 * col + b)

/-- Columns from a number on, and the logical base of the first: the column of a logical row, and the row within it. -/
def columnOf (m : BitVec 1024) : Nat → Nat → Nat → Option (Nat × Nat)
  | 0, _, _ => none
  | n + 1, col, r =>
    let rows := 24576 * (banksIn m col).length
    if r < rows then some (col, r) else columnOf m n (col + 1) (r - rows)

/-- A bank row: die, column, bank, row. -/
structure BankRow where
  die  : DieId
  col  : Nat
  bank : Nat
  row  : Nat
  deriving DecidableEq, Repr

/-- The bank row of a W address (R329): rows go to the live banks of a column in turn. -/
def State.bankRow (s : State) (wa : Nat) : Option BankRow :=
  let d := wDie wa
  let m := (s.dies[d.val]).placed
  (columnOf m 64 0 (wLogical wa / 4096)).map fun x =>
    let l := banksIn m x.1
    { die := d, col := x.1, bank := l.getD (x.2 % l.length) 0, row := x.2 / l.length }

/-- The number of a bank in the module. -/
def BankRow.bankKey (b : BankRow) : Nat := b.die.val * 1024 + b.col * 16 + b.bank
/-- The number of a row in the module; spare rows follow the 24,576 logical ones. -/
def rowKey (bank row : Nat) : Nat := bank * 32768 + row
/-- The row that holds a bank row now: itself, or the spare it was remapped to (R336). -/
def State.heldBy (s : State) (b : BankRow) : Nat := (lookupKey (rowKey b.bankKey b.row) s.remap).getD b.row

/-! ### Programming a row (R336) -/

/-- What a row's programming ends in. -/
inductive RowEnd where
  | done
  | failed
  | noSpare
  deriving DecidableEq, Repr

/-- Up to `n` pulses of a row, each checked: the wear, the checks left, whether one passed. A check that is not listed
passes. -/
def pulses : Nat → Word32 → List Bool → Word32 × List Bool × Bool
  | 0, w, l => (w, l, false)
  | n + 1, w, l =>
    match l with
    | [] => (satSucc w, [], true)
    | true :: rest => (satSucc w, rest, true)
    | false :: rest => pulses n (satSucc w) rest

/-- The next spare row of a bank takes over a bank row (R336): none when all 983 are used. -/
def State.nextSpare (s : State) (b : BankRow) : Option State :=
  let used := (lookupKey b.bankKey s.spares).getD 0
  if 983 ≤ used then none
  else some { s with spares := insertKey b.bankKey (used + 1) s.spares,
                     remap := insertKey (rowKey b.bankKey b.row) (24576 + used) s.remap }

/-- The attempts of R336: the row, then up to three spare rows. -/
def State.attempts (b : BankRow) : Nat → List Bool → State → State × RowEnd
  | 0, _, s => (s, .failed)
  | n + 1, l, s =>
    let key := rowKey b.bankKey (s.heldBy b)
    let worn := (lookupKey key s.wear).getD 0
    if 1000000 ≤ worn.toNat then
      match s.nextSpare b with
      | some s => State.attempts b n l s
      | none => (s, .noSpare)
    else
      let (w, rest, ok) := pulses 8 worn l
      let s : State := { s with wear := insertKey key w s.wear }
      if ok then (s, .done)
      else
        match s.nextSpare b with
        | some s => State.attempts b n rest s
        | none => (s, .noSpare)

/-- A bank permanently retired (R336, R337). -/
def State.retireBank (s : State) (b : BankRow) : State :=
  let bit : BitVec 1024 := 1 <<< (16 * b.col + b.bank)
  s.setDie b.die fun d => { d with wbperm := d.wbperm ||| bit, wbam := d.wbam &&& ~~~bit }

/-- The programming of the row at a W address, but for its bytes: whether it was done. A bank that is not live takes
none (R337). -/
def State.pulseRow (s : State) (wa : Nat) (l : List Bool) : State × Bool :=
  match s.bankRow wa with
  | none => (s, false)
  | some b =>
    if !(s.dies[b.die.val]).wbam.getLsbD (16 * b.col + b.bank) then (s, false)
    else
      match State.attempts b 4 l s with
      | (s, .done) => (s, true)
      | (s, .failed) => (s, false)
      | (s, .noSpare) => (s.retireBank b, false)

/-- A row's bytes and tags committed (R256, R257): a tile comes into being with the row of its origin, whose tag holds its
state; other tiles that lay in the row are dissolved. -/
def State.commitRow (s : State) (wa : Nat) (bs : List Byte) (tiles : List (Nat × Tile)) : State :=
  let size (e : Nat × Tile) : Nat := tileSize e.2.fmt + 512
  let old := s.wtiles.filter fun e =>
    !(decide (e.1 < wa + 4096) && decide (wa < e.1 + size e)) || (decide (e.1 < wa) && tiles.any fun x => decide (x.1 = e.1))
  let new_ := tiles.filter fun e => decide (wa ≤ e.1) && decide (e.1 < wa + 4096)
  { s with wmem := Memory.write s.wmem wa bs, wpoison := s.wpoison.filter fun w => decide (w ≠ wa),
           wtiles := new_.foldl (fun ts e => newTile ts e.1 e.2) old }

/-- The tiles of a command's source, as they lie at its destination: those wholly in its range, at the block grid. -/
def State.progTiles (s : State) (c : CoreId) (x : XCmd) : List (Nat × Tile) :=
  (tilesIn s.tiles (spadPa c x.cfg.sbase) x.cfg.len).filterMap fun e =>
    let o := e.1 - spadPa c 0
    if x.cfg.sbase ≤ o ∧ o + tileSize e.2.fmt + 512 ≤ x.cfg.sbase + x.cfg.len ∧ (o - x.cfg.sbase) % 512 = 0 then
      some (x.cfg.dbase + (o - x.cfg.sbase), e.2)
    else none

/-- The x.wprog whose next row a core's engine would hand over. -/
def State.progCmd (s : State) (c : CoreId) : Option (Nat × XCmd) :=
  match s.engineTask c with
  | none => none
  | some t => t.cmds.findSome? fun q => match q.kind with
    | .xProg x => if x.begun && decide (x.next < x.total) && t.ready q then some (q.seq, x) else none
    | _ => none

/-- The requester whose turn it is (R336): the cores of a die by number, in cyclic order after the last one served. The rows
of PROGRAM-WEIGHTS come from the cores on which its launches run (R365). -/
def State.requester (s : State) (d : DieId) : Option CoreId :=
  let l := (List.finRange 512).filter fun c => decide (dieOf c = d) && (s.progCmd c).isSome
  let last := (s.dies[d.val]).lastReq
  match l.find? fun c => decide (last < c.val) with
  | some n => some n
  | none => l.head?

/-- The next row of an x.wprog (R243, R336). -/
def progRow (c : CoreId) (l : List Bool) (s : State) (t : Task) (cmd : Cmd) : Unit_ :=
  match cmd.kind with
  | .xProg x => do
    let r ← s.readSpad c t (x.cfg.sbase + x.next) 4096
    let wa := x.cfg.dbase + x.next
    match r.1.pulseRow wa l with
    | (s, true) =>
      let x' := { x with next := x.next + 4096, value := runValue x.cfg.ck x.value r.2 }
      .ok (s.commitRow wa r.2 (s.progTiles c x), t.setMove cmd.seq (.xProg x') x')
    | (_, false) => contain 9 wa []
  | _ => .error .wait

/-- The wear, the remaps and the retirement that a failing row leaves. -/
def State.wearOf (s : State) (c : CoreId) (l : List Bool) : State :=
  match s.progCmd c with
  | none => s
  | some (_, x) => (s.pulseRow (x.cfg.dbase + x.next) l).1

/-- Whether a core's x.wprog stands at a position of its stream. -/
def State.wrote (s : State) (c : CoreId) (seq next : Nat) : Bool :=
  match s.taskOf c with
  | none => false
  | some t => t.cmds.any fun q => decide (q.seq = seq) && (match q.kind with
    | .xProg x => decide (x.next = next)
    | _ => false)

/-- The next row of a core's x.wprog programmed, and counted for the PROGRAM-WEIGHTS that it runs for (R365). What a failing
row's pulses wore stands, though the command ends; in a pair whose requests differ the row is not programmed (R187). -/
def State.commandRow (s : State) (c : CoreId) (readBack : List Bool) : State :=
  match s.progCmd c with
  | none => s
  | some (seq, x) =>
    let wa := x.cfg.dbase + x.next
    let ok := (s.pulseRow wa readBack).2
    let poisoned := (s.poisonedAt (spadPa c (x.cfg.sbase + x.next)) 4096).isSome
    let note (s : State) (f : Program → Program) : State := match s.engineTask c with
      | some t => s.noteWeights t f
      | none => s
    let differs := (s.engineTask c).any fun t => (s.pairStop c t (some 2)).isSome
    if ok || poisoned || differs then
      let s1 := s.unit c seq (some 2) (progRow c readBack s)
      if s1.wrote c seq (x.next + 4096) then note s1 fun p => { p with next := p.next + 1 } else s1
    else
      let s1 := note (s.wearOf c readBack) (Program.fail 6 wa)
      s1.unit c seq (some 2) fun _ _ => contain 9 wa []

/-! ### Via repair (R333 to R335) -/

/-- The lowest entry of a column that is free. -/
def freeEntry (l : List WrepEntry) : Option Nat := (List.range 64).find? fun e => !(wrepEntry l e).valid

/-- An entry of a column set. -/
def setEntry (l : List WrepEntry) (e : Nat) (f : BitVec 13) : List WrepEntry :=
  (List.range 64).map fun i => if i = e then { valid := true, via := f } else wrepEntry l i

/-- Failing vias steered to spares, in turn, in WREP and in the three copies of the repair record; `false` when no entry
is left (R333, R335). -/
def State.steer (d : DieId) (col : Fin 64) : List (BitVec 13) → State → State × Bool
  | [], s => (s, true)
  | f :: rest, s =>
    let x := s.dies[d.val]
    match freeEntry (x.wrep[col.val]) with
    | none => (s, false)
    | some e =>
      let s := s.setDie d fun x =>
        { x with wrep := x.wrep.set col.val (setEntry (x.wrep[col.val]) e f),
                 repair := x.repair.set col.val ((x.repair[col.val]).map fun l => setEntry l e f),
                 repairOk := x.repairOk.set col.val (Vector.replicate 3 true) }
      State.steer d col rest s

/-- Beats of W-space that a command has delivered. -/
def Cmd.beats (q : Cmd) : Nat :=
  match q.kind with
  | .mGo _ _ _ _ _ _ _ p => p.beats
  | .xMove x => x.beats
  | _ => 0

/-- The W addresses that a column serves: first, and end (R329). -/
def State.columnRange (s : State) (d : DieId) (col : Fin 64) : Nat × Nat :=
  let m := (s.dies[d.val]).placed
  let base := d.val * 0x2000000000 + ((List.range col.val).map fun k => (banksIn m k).length).sum * bankSize
  (base, base + (banksIn m col.val).length * bankSize)

/-- Whether W ranges meet the bytes of a column. -/
def State.throughColumn (s : State) (d : DieId) (col : Fin 64) (l : List (Int × Int)) : Bool :=
  let r := s.columnRange d col
  l.any fun e => decide (e.1 < e.2) && decide (e.1 < (r.2 : Int)) && decide ((r.1 : Int) < e.2)

/-- The W ranges of D-space addresses that lie in aperture pages. -/
def State.apertures (s : State) (c : CoreId) (job : Nat) (how : Need) (l : List (Nat × Nat)) : List (Int × Int) :=
  (l.flatMap fun e => piecesOf e.1 e.2).filterMap fun e =>
    match s.translate c job e.1 how with
    | .ok x => if x.typ = .wap then some ((x.pa : Int), (x.pa : Int) + e.2) else none
    | .error _ => none

/-- The W ranges of the tiles, with their sidebands, that a stream's policy has verified (R207). -/
def State.verifiedW (s : State) (c : CoreId) (st : Stream) (rs : List (Nat × Nat)) : List (Int × Int) :=
  if st.wspace then (s.streamTiles c st rs).map fun e => ((e.1 : Int), ((e.1 + tileSize e.2.fmt + 512 : Nat) : Int)) else []

/-- The W ranges that a command reads through causeways: the streams of an m.go and the tiles that it verifies, the source of a
copy and the sideband of a tile copy, the aperture bytes of an s.abs (R319); x.wverify reads through the programming engine
(R336). -/
def State.causewayReads (s : State) (c : CoreId) (t : Task) (q : Cmd) : List (Int × Int) :=
  match q.kind with
  | .mGo a b nest _ _ outl _ p =>
    let rows := if p.started then p.rowMap else (List.range a.rows).map some
    (((goRanges a b nest (rowsOf a) b.cols a.cols outl).filter fun r => r.w).map fun r => (r.lo, r.hi)) ++
      s.verifiedW c a (walkRanges a nest true rows b.cols a.cols) ++
      s.verifiedW c b (walkRanges b nest false rows b.cols a.cols)
  | .xMove x =>
    let side := if x.fill.isNone && (s.tileCopyOf c t q.pages x.cfg).isSome then 512 else 0
    if x.fill.isSome then []
    else match x.cfg.sspace with
      | .wspace => [(rowBounds x.cfg.sbase x.cfg.nrows (x.cfg.len + side) x.cfg.sstr)]
      | .dspace => s.apertures c t.rs.rc.job .read ((List.range x.cfg.nrows).map fun (i : Nat) =>
          (addr64 ((x.cfg.sbase : Int) + (i : Int) * x.cfg.sstr), x.cfg.len + side))
      | _ => []
  | .sAbs _ a len next _ _ => s.apertures c t.rs.rc.job .read [(a + next, min (len - next) 4096)]
  | _ => []

/-- The D-space bytes that LAUNCH reads: its descriptor, and the footprint lists that this names (R119, R324). -/
def State.launchReads (s : State) (c : CoreId) (t : Task) (va : Nat) : List (Nat × Nat) :=
  (va, 64) ::
    (match readDesc c 8 va s t with
     | .ok r =>
       let d := parseDesc r.2
       if d.fplist = 0 then [] else (List.range d.count).map fun i => ((d.list i).toNat, 16 * (d.nin + d.nout))
     | .error _ => [])

/-- The D-space bytes that a load, or LAUNCH, reads; none for another instruction, or for one that is guarded off. -/
def State.loadReads (s : State) (c : CoreId) (t : Task) (i : Instr) : List (Nat × Nat) :=
  let lanes (l : List LaneAcc) : List (Nat × Nat) := l.map fun a => (a.va, a.n)
  let short (n : Nat) (ra : XReg) (disp : BitVec 6) : List (Nat × Nat) := [((eaShort n (t.getX ra) disp).toNat, n)]
  let wide (n : Nat) (ra : XReg) (lit : Word32) : List (Nat × Nat) := [((eaLit (t.getX ra) lit).toNat, n)]
  if (guardOf i).all t.passes then
    match i with
    | .ldB _ _ _ _ ra disp => short 1 ra disp
    | .ldH _ _ _ _ ra disp => short 2 ra disp
    | .ldW _ _ _ _ ra disp => short 4 ra disp
    | .ldD _ _ _ ra disp => short 8 ra disp
    | .ldBLit _ _ _ _ ra lit => wide 1 ra lit
    | .ldHLit _ _ _ _ ra lit => wide 2 ra lit
    | .ldWLit _ _ _ _ ra lit => wide 4 ra lit
    | .ldDLit _ _ _ ra lit => wide 8 ra lit
    | .vld f => lanes (unitAccs f (t.getK f.k) (vBase f t f.va))
    | .vlds f => lanes (stridedAccs f (t.getK f.k) (vBase f t f.va) (t.getX f.vb).toNat)
    | .vldg f => lanes (indexedAccs f (t.getK f.k) (vBase f t f.va) (t.headBits f.vb))
    | .vldb f => [(vBase f t f.va, accSize f.et)]
    | .launch _ _ ra => s.launchReads c t (t.getX ra).toNat
    | _ => []
  else []

/-- The W ranges that a task reads through causeways at its pc: its text, and what the instruction there loads. -/
def State.pcReads (s : State) (c : CoreId) (t : Task) : List (Int × Int) :=
  let n := match s.fetchText c t t.pc with
    | .ok ps => ps.length
    | .error _ => 1
  s.apertures c t.rs.rc.job .fetch [(t.pc.toNat, 2 * n)] ++
    (match s.nextInstr c t with
     | .ok (i, _) => s.apertures c t.rs.rc.job .read (s.loadReads c t i)
     | .error _ => [])

/-- The W ranges that staging an input reads through causeways: its source, and the sideband of a tile copy (R234, R293). -/
def State.stagingReads (s : State) (c : CoreId) (job : Nat) (e : InEntry) : List (Int × Int) :=
  s.apertures c job .read [(e.src, e.len)] ++
    (match State.stageSource c job (piecesOf e.src e.len) s with
     | .ok (s, x) =>
       if x.inW && (s.stageTile e x).isSome then [(((x.first + e.len : Nat) : Int), ((x.first + e.len + 512 : Nat) : Int))] else []
     | .error _ => [])

/-- FailRead for one read that met the beat (R334): a command's, an aperture read's at the pc, an input's staging, each of
which must read through the column. An s.abs reads the aperture as a load does, so its CTINFO is zero (log 70). The staging
of an input stops as at a tile that fails (R268). -/
def State.failRead (s : State) (d : DieId) (col : Fin 64) (r : BeatReader) : State :=
  match r with
  | .command c n since =>
    match s.sealTask c with
    | none => s
    | some t =>
      match t.cmdOf n with
      | some q =>
        if (decide (q.eng = .s) || (s.engineTask c).isSome) && s.throughColumn d col (s.causewayReads c t q) then
          s.failCmd c t ⟨5, BitVec.ofNat 64 (if q.eng = .s then 0 else (q.beats + since) % 2 ^ 32), none, [], 0⟩ q
        else s
      | none => s
  | .load c =>
    match ({ s with cur := c } : State).running with
    | none => s
    | some t =>
      if s.throughColumn d col (s.pcReads c t) then s.datapathEvent c ⟨5, 0, none, [], 0⟩ .instr else s
  | .staging c n =>
    match (s.core c).status with
    | .chosen r false again =>
      match r.ins[n]? with
      | some e =>
        if !s.stopped c && s.throughColumn d col (s.stagingReads c r.rc.job e) then (s.stageEnd c r again n (.checksum 0 0)).getD s
        else s
      | none => s
    | _ => s

/-- CAUSEWAY_REPAIR: an uncorrectable beat of a column's reads (R333): every read that met it ends when no spare is left. -/
def execCausewayRepair (d : DieId) (col : Fin 64) (failing : List (BitVec 13)) (met : List BeatReader) (s : State) : Out :=
  if s.boot = .off then .next s
  else
    let s := s.setDie d fun x => { x with repairing := if x.repairing.contains col then x.repairing else x.repairing ++ [col] }
    match State.steer d col failing s with
    | (s, true) => .next s
    | (s, false) =>
      .next (met.foldl (fun s r => s.failRead d col r)
        (s.setDie d fun x => { x with repairing := x.repairing.filter fun k => decide (k ≠ col) }))

/-- CAUSEWAY_REPAIR_COMPLETE: the stopped reads go on (R333). -/
def execCausewayRepairComplete (d : DieId) (col : Fin 64) (s : State) : Out :=
  .next (s.setDie d fun x => { x with repairing := x.repairing.filter fun k => decide (k ≠ col) })

/-- One entry of a repair record from its valid copies (R335): the single copy's, or the majority's. -/
def majority (l : List WrepEntry) : WrepEntry :=
  match l.find? fun e => decide (l.length < 2 * (l.filter fun f => decide (f = e)).length) with
  | some e => e
  | none => { valid := false, via := 0 }

/-- WREP of a column as the ROM replays it from the repair record (R335, R339). -/
def Die.replay (x : Die) (col : Fin 64) : List WrepEntry :=
  let copies := ((List.finRange 3).filter fun i => (x.repairOk[col.val])[i.val]).map fun i => (x.repair[col.val])[i.val]
  (List.range 64).map fun e => majority (copies.map fun l => wrepEntry l e)

/-! ### Sensors (R337) -/

/-- The bit of a bank. -/
def bankBit (bank : Fin 1024) : BitVec 1024 := 1 <<< bank.val

/-- BANK_TOO_HOT (R337). -/
def execBankTooHot (d : DieId) (bank : Fin 1024) (s : State) : Out :=
  .next (s.setDie d fun x => { x with wbam := x.wbam &&& ~~~(bankBit bank) })

/-- BANK_COOLED: a permanently retired bank stays retired (R337). -/
def execBankCooled (d : DieId) (bank : Fin 1024) (s : State) : Out :=
  .next (s.setDie d fun x => if x.wbperm.getLsbD bank.val then x else { x with wbam := x.wbam ||| bankBit bank })

/-! ### Measurement (R338, R339, R361, R362) -/

/-- Live banks of a map. -/
def liveCount (m : BitVec 1024) : Nat := ((List.range 64).map fun c => (banksIn m c).length).sum

/-- WCMAP of a map (R344). -/
def wcmapOf (m : BitVec 1024) : Vector (BitVec 16 × BitVec 5) 64 :=
  Vector.ofFn fun c : Fin 64 => (BitVec.ofNat 16 (((List.range c.val).map fun k => (banksIn m k).length).sum),
    BitVec.ofNat 5 (banksIn m c.val).length)

/-- The bytes of a column in ascending logical order, up to a number of them. -/
def State.columnBytes (s : State) (d : DieId) (col : Nat) (upTo : Option Nat) : List Byte :=
  let m := (s.dies[d.val]).placed
  let base := ((List.range col).map fun k => (banksIn m k).length).sum * bankSize
  let n := (banksIn m col).length * bankSize
  s.readW (d.val * 0x2000000000 + base) (match upTo with
    | some k => min k n
    | none => n)

/-- One level of the tree: the digests of pairs. -/
def pairUp : List (List Byte) → List (List Byte)
  | a :: b :: rest => sha384 (a ++ b) :: pairUp rest
  | l => l

/-- The root over 64 leaves (R339). -/
def rootOf (leaves : List (List Byte)) : List Byte := ((List.range 6).foldl (fun l _ => pairUp l) leaves).headD []

/-- A column that cannot be repaired: its banks marked in WBPERM (R339). -/
def State.loseColumn (s : State) (d : DieId) (col : Fin 64) : State :=
  s.setDie d fun x =>
    let bits : BitVec 1024 := 0xFFFF <<< (16 * col.val)
    { x with wbperm := x.wbperm ||| bits, wbam := x.wbam &&& ~~~bits }

/-- The repairs of a measurement (R333, R339): failing vias steered to spares, and the columns that cannot be repaired. -/
def State.mendColumns (d : DieId) : List ColumnFailure → State → State × List ColumnFailure
  | [], s => (s, [])
  | f :: rest, s =>
    let r := State.steer d f.col f.vias s
    let x := State.mendColumns d rest r.1
    (x.1, if r.2 && !f.lost then x.2 else f :: x.2)

/-- A die measured: the digests of its columns' bytes, those of a failing column up to the failure, and the root. -/
def State.measureDie (s : State) (d : DieId) (bad : List ColumnFailure) : State :=
  let (s, mine) := State.mendColumns d (bad.filter fun f => decide (f.die = d)) s
  let leaf (c : Nat) : List Byte :=
    sha384 (s.columnBytes d c ((mine.find? fun f => decide (f.col.val = c)).map fun f => f.read))
  let root := rootOf ((List.range 64).map leaf)
  (mine.foldl (fun s f => s.loseColumn d f.col) s).setDie d fun x => { x with root := root }

/-- Measurement 8: the digest of WSIZE, the WBPERM maps and the fuses. -/
def State.measure8 (s : State) : List Byte :=
  sha384 (bytesOf 8 s.wsizeReg.toNat ++
    ((List.finRange 4).flatMap fun d => bytesOf 128 (s.dies[d.val]).wbperm.toNat) ++ Config.fuses)

/-- A measurement recorded. -/
def State.record (s : State) (i : Fin 10) (v : List Byte) : State := { s with measured := s.measured.set i.val v }

/-- Measurements 4 to 8 as one step (R362). -/
def State.recordWeights (s : State) : State :=
  let s := (List.finRange 4).foldl (fun s d =>
    s.record (Fin.ofNat 10 (4 + d.val)) (s.dies[d.val]).root) s
  s.record 8 s.measure8

/-- The registers of a die as its configuration record gives them (R373). -/
def State.loadMap (s : State) (d : DieId) : State :=
  s.setDie d fun x => { x with wsize := BitVec.ofNat 16 (liveCount x.placed), wcmap := wcmapOf x.placed }

/-- What the boot ROM does for a die after power-good and after a warm reset (R339). -/
def State.startDie (bad : List ColumnFailure) (s : State) (d : DieId) : State :=
  let s := s.setDie d fun x => { x with wready := false, wrep := Vector.ofFn x.replay, repairing := [] }
  ((s.loadMap d).measureDie d bad).setDie d fun x => { x with wready := true }

/-- Rows caught by a reset in mid-program read as poisoned (R336): the next row of an x.wprog, whose task may have parked
behind it. -/
def State.catchRows (s : State) (caught : List Nat) : State :=
  let rows := s.allCmds.filterMap fun q => match q.kind with
    | .xProg x => if x.begun && decide (x.next < x.total) then some (x.cfg.dbase + x.next) else none
    | _ => none
  { s with wpoison := (caught.filter fun w => rows.contains w).foldl (fun l w => insertNat w l) s.wpoison }

/-- WARM_RESET (R339, R345): the ROM starts every die again; a die that the monitor stopped runs on. -/
def execWarmReset (bad : List ColumnFailure) (caught : List Nat) (s : State) : Out :=
  if s.boot = .off then .next s
  else
    let s := s.catchRows caught
    let s := (List.finRange 4).foldl (fun s d =>
      State.startDie bad (s.setDie d fun x => { x with frozen := false, escal := 0, monRec := none }) d) s
    .next s.recordWeights

/-- Whether a job holds a W window on a die (R338). -/
def State.windowOn (s : State) (d : DieId) : Bool :=
  s.jobs.any fun j => decide (j.args.wbase.toNat < j.args.wlim.toNat) &&
    decide (j.args.wbase.toNat < (d.val + 1) * 0x2000000000) && decide (d.val * 0x2000000000 < j.args.wlim.toNat)

/-- W-space entries of a die beyond a size, gone. -/
def beyond (d : DieId) (size : Nat) (a : Nat) : Bool := decide (wDie a = d) && decide (size ≤ wLogical a)

/-- REMAPPING_STEP (R338, R362). -/
def execRemappingStep (d : DieId) (bad : List ColumnFailure) (s : State) : Out :=
  if s.boot ≠ .open_ ∨ s.windowOn d = true then .next s
  else
    let s := s.setDie d fun x => { x with placed := ~~~x.wbperm }
    let s := s.loadMap d
    let size := s.wSize d
    let s := { s with
      wmem := s.wmem.filter fun e => !(beyond d size e.1),
      wpoison := s.wpoison.filter fun a => !(beyond d size a),
      wtiles := s.wtiles.filter fun e => !(beyond d size (e.1 + tileSize e.2.fmt + 511)) }
    let s := (s.measureDie d bad).setDie d fun x => { x with wready := true }
    .next s.recordWeights

/-! ### The monitor (R345) -/

/-- The trap record that a system core services: of the posted ones of its clusters, fatal ones too, the one posted first
(log 38). -/
def State.servicedRec (s : State) (d : DieId) (sys : Fin 4) : List Byte :=
  let posted := (List.finRange 32).flatMap fun k =>
    if dieOfCluster k = d ∧ k.val % 4 = sys.val then
      ((List.range 264).filter fun i => decide (s.trapState k i = 1)).map fun i => s.readPa (trapRecPa k i) 64
    else []
  let seq (bs : List Byte) : Nat := leNat ((bs.drop 0x38).take 8)
  (posted.foldl (fun m bs => match m with
    | some a => if seq bs < seq a then some bs else some a
    | none => some bs) none).getD []

/-- MONITOR_EVENT: a synchronous exception of a system core whose TQCTL.svc is 1 (R345); otherwise the kernel's own. -/
def execMonitorEvent (d : DieId) (sysCore : Fin 4) (mcause mepc mtval : Word64) (xs : List Word64) (s : State) : Out :=
  if (s.dies[d.val]).tqctl[sysCore.val] then
    .next (s.monitorTake d { case_ := 0, die := d, sysCore := sysCore, mcause := mcause, mepc := mepc, mtval := mtval,
                             xs := (xs.take 31), trap := s.servicedRec d sysCore })
  else .next s

/-! ### Writes of device registers -/

/-- TLBINV_WRITE (R343, R410). -/
def execTlbinvWrite (d : DieId) (v : Word64) (s : State) : Out := .next (s.tlbinvWrite d v)
/-- TLBINV_COMPLETE (R343). -/
def execTlbinvComplete (d : DieId) (s : State) : Out := .next (s.tlbinvComplete d)
/-- FATSET_WRITE (R354, R410). -/
def execFatsetWrite (d : DieId) (v : Word64) (s : State) : Out := .next (s.fatsetWrite d v)
/-- FATSET_COMPLETE (R354). -/
def execFatsetComplete (d : DieId) (s : State) : Out := .next (s.fatsetComplete d)
/-- MILEMAX_WRITE (R270, R407). -/
def execMilemaxWrite (c : CoreId) (v : Word64) (s : State) : Out := .next (s.milemaxWrite c v)
/-- SRTAIL_WRITE (R344). -/
def execSrtailWrite (k : ClusterId) (v : Word32) (s : State) : Out := .next (s.srtailWrite k v)

/-- Whether an access of a size stands in MMIO, aligned (R347, R408). -/
def inMmio (pa n : Nat) : Bool := decide (mmioBase ≤ pa) && decide (pa < 0x50010000) && decide (pa % n = 0)

/-- REGISTER_WRITE: a system core's write of a device register, in machine mode or by the kernel (R7, R8, R407 to R409). -/
def execRegisterWrite (pa : Nat) (doubleword : Bool) (v : Word64) (machineMode : Bool) (s : State) : Out :=
  let n := if doubleword then 8 else 4
  if inMmio pa n then .next ((s.mmioWrite pa n v machineMode).getD s) else .next s

end Machine

end Sys2Proof
end

