-- ==== Sys2Proof/Machine/Host.lean ====
section
/-!
DEFINITION. Machine/Host.lean: starting and losing power (R359, R360, R373, R374), the mailbox commands (R120, R364 to R369,
R372), RESET-SCRUB (R358), the PCIe window (R363), the SPDM responder (R361), and what befalls the module from outside:
soft errors, writes of system cores, the boot flash.
-/

namespace Sys2Proof

namespace Machine

/-! ### The boot flash (R359) -/

/-- Bytes of the boot flash. -/
def State.flashBytes (s : State) (a n : Nat) : List Byte := Memory.read s.flash a n

/-- Whether the ROM accepts the directory entry of a number, for an image type and a slot: signature, digest, version. The
image's digest, when it does. -/
def State.entryDigest (s : State) (typ : Nat) (slotB : Bool) (i : Nat) : Option (List Byte) :=
  let raw := s.flashBytes (8 + 160 * i) 64
  let e := Config.directoryEntry raw
  if e.1 = typ ∧ e.2.1 = slotB ∧ Config.vendorSignatureOk raw (s.flashBytes (8 + 160 * i + 64) 96) = true ∧
      sha384 (s.flashBytes e.2.2.1 e.2.2.2.1) = e.2.2.2.2.2 ∧ Config.minSecurityVersion typ ≤ e.2.2.2.2.1 then
    some e.2.2.2.2.2 else none

/-- The digest of the image of a type that the ROM loads: slot A, then slot B. -/
def State.image (s : State) (typ : Nat) : Option (List Byte) :=
  if leNat (s.flashBytes 0 4) ≠ 0x464C5359 then none
  else
    let n := leNat (s.flashBytes 4 4)
    match (List.range n).findSome? (s.entryDigest typ false) with
    | some d => some d
    | none => (List.range n).findSome? (s.entryDigest typ true)

/-! ### The boot sequence (R360, R374) -/

/-- Whether an address is one of host memory. -/
def isHostPa (pa : Nat) : Bool := decide (hostBase ≤ pa)

/-- SRAM, LPDDR and version stores zero, with fresh ECC and no poison; no tile, stamp or cached translation; every frame's
attribute that of the mode (R358, R373). Host memory is not the module's. -/
def State.zeroMemory (s : State) : State :=
  { s with mem := s.mem.filter fun e => isHostPa e.1, poison := s.poison.filter isHostPa, badMac := [], tiles := [],
           stamps := [], fat := [], minors := [], majors := [], tlb := [], nt := [] }

/-- Measurement 9: the mode and the scrub count (R361). -/
def State.measure9 (s : State) : List Byte := bytesOf 1 (bitNat s.confidential) ++ bytesOf 4 s.scrubs.toNat

/-- The boot sequence from its second step: firmware, weight tier, translation store, kernel, mailbox and DOE. A type
without an image leaves the module in recovery (R359). -/
def State.bootFrom (bad : List ColumnFailure) (s : State) : State :=
  match s.image 1 with
  | none => { s with boot := .recovery }
  | some fw =>
    let s := (List.finRange 4).foldl (State.startDie bad) (s.record 2 fw)
    let s := (List.finRange 4).foldl (fun s d => s.record (Fin.ofNat 10 (4 + d.val)) (s.dies[d.val]).root) s
    let s : State := { s with tstore := s.tstore.filter fun e => decide (e.meas2 = fw) }
    match s.image 2 with
    | none => { s with boot := .recovery }
    | some kernel =>
      let s := s.record 3 kernel
      let s := s.record 8 s.measure8
      { s.record 9 s.measure9 with boot := .open_ }

/-- WBAM of a die as power-good rebuilds it, from WBPERM and the sensors of banks that are too hot (R337, R373). -/
def rebuiltMap (hot : List (DieId × Fin 1024)) (d : DieId) (x : Die) : Die :=
  { x with wbam := (hot.filter fun e => decide (e.1 = d)).foldl (fun m e => m &&& ~~~(bankBit e.2)) (~~~x.wbperm) }

/-- POWER_GOOD (R352, R360, R363, R373, R374): the base of BAR 2's window is the firmware's to set. -/
def execPowerGood (bad : List ColumnFailure) (hot : List (DieId × Fin 1024)) (bar2 : Nat) (s : State) : Out :=
  if s.boot ≠ .off then .next s
  else
    let s : State := { s.zeroMemory with keyEpoch := s.keyEpoch + 1, bar2 := bar2 }
    let s := (List.finRange 4).foldl (fun s d => s.setDie d (rebuiltMap hot d)) s
    .next (State.bootFrom bad (s.record 1 Config.romDigest))

/-- What a die keeps without power (R373). -/
def Die.kept (x : Die) : Die :=
  { Die.reset with wbperm := x.wbperm, placed := x.placed, repair := x.repair, repairOk := x.repairOk }

/-- POWER_LOSS (R373): the non-volatile state stays, with the host's memory and the flash; rows caught in mid-program
read as poisoned. -/
def execPowerLoss (caught : List Nat) (s : State) : Out :=
  let s := s.catchRows caught
  let z := s.zeroMemory
  .next { State.reset with
    cur := s.cur, script := s.script, tick := s.tick, notices := s.notices, mem := z.mem, poison := z.poison,
    wmem := s.wmem, wpoison := s.wpoison, wtiles := s.wtiles, wear := s.wear, remap := s.remap, spares := s.spares,
    dies := s.dies.map Die.kept, confidential := s.confidential, scrubs := s.scrubs, keyEpoch := s.keyEpoch,
    tstore := s.tstore, flash := s.flash }

/-! ### The mailbox (R364, R366) -/

/-- A command as the host leaves it before it notifies: code, tag, and a payload. The event of a command stands for both, the
host's writes of the mailbox and its notify write. -/
def State.posted (s : State) (code : Nat) (tag : BitVec 16) (payload : List Byte) : State :=
  { s with mailbox := { s.mailbox with
      code := BitVec.ofNat 16 code, tag := tag, length := BitVec.ofNat 32 payload.length, payload := fixLen 4032 payload } }

/-- The payload of a command whose layout the manual does not give, of the length that its code has. -/
def State.somePayload (s : State) (code : Nat) : List Byte := fixLen (Config.payloadLength code) (Config.payload code s.tick)

/-- The 48 bytes of a result: its values, filled up with zeros, and in the last two the command's tag (R364, log 15). -/
def taggedResult (tag : BitVec 16) (result : List Byte) : List Byte := fixLen 46 result ++ bytesOf 2 tag.toNat

/-- A command's end: the result, which echoes the tag, and the final status, and MSI-X vector 0. -/
def State.finishCommand (s : State) (status : Nat) (result : List Byte) : State :=
  { s with mailbox := { s.mailbox with status := BitVec.ofNat 32 status, result := taggedResult s.mailbox.tag result },
           notices := s.notices ++ [.msix 0] }

/-- A command posted and ended in one step. -/
def State.answer (s : State) (code : Nat) (tag : BitVec 16) (status : Nat) (result : List Byte) : State :=
  (s.posted code tag (s.somePayload code)).finishCommand status result

/-- Why a command is refused: its status, and the reads of memory whose lines it found with a bad MAC (R356). -/
abbrev Refused := Nat × List (Nat × Nat)

/-- What a command does, or the status other than OK it ends with. -/
abbrev Command := Except Refused (State × List Byte)

/-- Whether firmware takes a notify write: with the mailbox open, and no command in progress (R364). -/
def State.takesCommand (s : State) : Bool := decide (s.boot = .open_) && s.program.isNone

/-- A command's notify write while firmware takes one: a command that is refused has no effect. -/
def State.command (s : State) (code : Nat) (tag : BitVec 16) (r : Command) : Out :=
  if !s.takesCommand then .next s
  else
    match r with
    | .ok (s', res) => .next (s'.answer code tag 0 res)
    | .error (st, read) => .next ((read.foldl (fun s r => s.checkMacs r.1 r.2) s).answer code tag st [])

/-- A condition, or the status of a refusal. -/
def demand (b : Bool) (status : Nat) : Except Refused Unit := if b then .ok () else .error (status, [])

/-- The value, or the status of a refusal. -/
def orStatus {α : Type} (x : Option α) (status : Nat) : Except Refused α :=
  match x with
  | some a => .ok a
  | none => .error (status, [])

/-- Whether a code and a payload length are those of a command (R365, R366): PROGRAM-WEIGHTS has 28 bytes (R372). -/
def knownCommand (code len : Nat) : Bool :=
  decide (1 ≤ code) && decide (code ≤ 8) && decide (len ≤ 4032) &&
  decide (len = if code = 6 then 28 else Config.payloadLength code)

/-- MAILBOX_BAD_COMMAND (R366): a notify write for a code and a length that are no command's. -/
def execMailboxBadCommand (tag code : BitVec 16) (len : Nat) (s : State) : Out :=
  if !s.takesCommand || knownCommand code.toNat len then .next s
  else
    let s := s.posted code.toNat tag (s.somePayload code.toNat)
    .next ({ s with mailbox := { s.mailbox with length := BitVec.ofNat 32 len } }.finishCommand 2 [])

/-! ### Portable blocks (R369) -/

/-- `n` bytes of a block at an offset, as a number. -/
def field (b : List Byte) (off n : Nat) : Nat := leNat ((b.drop off).take n)

/-- Operations of a block. -/
def blockOps (b : List Byte) : Nat := field b 3 1 + 1

/-- A record of a block. -/
def opRecord (b : List Byte) (j : Nat) : List Byte := (b.drop (32 + 16 * j)).take 16

/-- An operand's reserved bits are zero, and what it names exists below a value number. -/
def nameOk (ins limit w : Nat) : Bool :=
  decide (bitsAt w 9 6 = 0) &&
  (!bitAt w 15 || (let v := bitsAt w 0 9; if v < 32 then decide (v < ins) else decide (v < limit)))

/-- No guard, for the decoding of a block's heads. -/
def noGuard : Guard := { gp := 0, gn := false }

/-- The fields of a V form that a head leaves open, zero. -/
def bareV (et : Nat) : VF :=
  { et := BitVec.ofNat 4 et, vd := 0, va := 0, vb := 0, u := false, vc := 0, k := 0, kz := false, qa := false,
    qb := false, qc := false, g := noGuard, lit := none }

/-- Whether a head is one a block may hold: a C or V form with gp, gn and L zero, other than TASK, CSR, SYS but NOP, branches,
calls and returns. -/
def headOk (h : Nat) : Bool :=
  let op := bitsAt h 8 5
  match bitsAt h 13 3 with
  | 0 => decide (bitsAt h 3 5 = 0) && (cCand op (bitsAt h 0 3) noGuard false 0 0).isSome &&
      (decide (op ≠ 0) || decide (bitsAt h 0 3 = 0)) && !([0x0A, 0x0B, 0x16, 0x18].contains op)
  | 1 => !bitAt h 0 && (vCand op (bitsAt h 5 3) (bareV (bitsAt h 1 4))).isSome
  | _ => false

/-- Whether a head is a load or a store. -/
def headMem (h : Nat) : Bool :=
  let op := bitsAt h 8 5
  if bitsAt h 13 3 = 0 then decide (0x0C ≤ op) && decide (op ≤ 0x13) else decide (op ≤ 1)

/-- Whether an operation produces no value: a store, NOP, CTOPEN or CTCLOSE. -/
def headVoid (h : Nat) : Bool :=
  let op := bitsAt h 8 5
  if bitsAt h 13 3 = 0 then (decide (0x10 ≤ op) && decide (op ≤ 0x13)) || decide (op = 0) || decide (op = 0x17)
  else decide (op = 1)

/-- Whether a record is one that LOAD-IMAGE takes. -/
def recordOk (b : List Byte) (j : Nat) : Bool :=
  let r := opRecord b j
  let h := field r 0 2
  let key := field r 12 2
  headOk h && ([2, 4, 6].all fun o => nameOk (field b 4 1) (32 + j) (field r o 2)) &&
  (if headMem h then decide (key ≠ 0) else decide (key = 0)) && decide (field r 14 1 / 8 = 0) && decide (field r 15 1 = 0)

/-- The order keys of a block's loads and stores. -/
def orderKeys (b : List Byte) : List Nat :=
  (List.range (blockOps b)).filterMap fun j =>
    let r := opRecord b j
    if headMem (field r 0 2) then some (field r 12 2) else none

/-- Whether the selector or an output names a value that exists. -/
def valueOk (b : List Byte) (w : Nat) : Bool :=
  nameOk (field b 4 1) (32 + blockOps b) w &&
  (!bitAt w 15 || decide (bitsAt w 0 9 < 32) || !headVoid (field (opRecord b (bitsAt w 0 9 - 32)) 0 2))

/-- Whether a block is one that LOAD-IMAGE takes (R369). -/
def blockOk (b : List Byte) : Bool :=
  let ops := blockOps b
  let outs := field b 5 1
  let table := 32 + 16 * ops
  decide (field b 0 2 = 0x594E) && decide (field b 2 1 = 1) && decide (ops ≤ 160) && decide (field b 4 1 ≤ 32) &&
  decide (outs ≤ 32) && decide (field b 6 2 = 0) && decide (field b 14 2 = 0) && decide (field b 24 8 = 0) &&
  decide (b.length = table + (2 * outs + 15) / 16 * 16) && ((b.drop (table + 2 * outs)).all fun x => decide (x = 0)) &&
  (List.range ops).all (recordOk b) && decide (orderKeys b).Nodup && valueOk b (field b 12 2) &&
  (List.range outs).all fun k => valueOk b (field b (table + 2 * k) 2)

/-! ### LOAD-IMAGE (R257, R365, R402) -/

/-- Where firmware finds an address of a job: its walk of the job's tables. -/
def State.placeOf (s : State) (j : Job) (va : Nat) : Option (Nat × MType) :=
  if 2 ^ 48 ≤ va ∨ (s.badEntry j va).isSome = true then none
  else (s.walk j.args.root va).bind fun e =>
    (mtypeOf (bitsAt e.1 2 3)).map fun t => (bitsAt e.1 16 36 * 65536 + va % e.2, t)

/-- Where firmware places a byte of a job's D-space: nowhere in MMIO, in an aperture or in a page that is not mapped. -/
def State.placeFor (s : State) (j : Job) (va : Nat) : Option Nat :=
  (s.placeOf j va).bind fun x => if x.2 = .mmio ∨ x.2 = .wap then none else some x.1

/-- The entry with a bad MAC or poison that the firmware's walk for bytes of a job's D-space has read when it ends: it goes no
further than the first piece that it cannot place (R356). -/
def State.brokenEntries (s : State) (j : Job) (va n : Nat) : List (Nat × Nat) :=
  (((piecesOf va n).find? fun p => (s.placeFor j p.1).isNone).bind fun p => s.badEntry j p.1).toList.map fun a => (a, 8)

/-- The bytes of a section as it is placed: its part of the image, with the addresses of labels filled in (R400). -/
def sectionBytes (img : List Byte) (secs : List ImageSection) (x : ImageSection) : Option (List Byte) :=
  if img.length < x.off + x.len then none
  else x.relocs.foldlM (fun bs r =>
    match secs[r.target]? with
    | some y =>
      if x.len < r.off + 8 then none
      else some (bs.take r.off ++ bytesOf 8 ((BitVec.ofNat 64 y.va + r.add).toNat) ++ bs.drop (r.off + 8))
    | none => none) ((img.drop x.off).take x.len)

/-- The physical pieces of bytes placed in a job's D-space; none when some page is unmapped, MMIO or an aperture. -/
def State.layOut (s : State) (j : Job) (va : Nat) (bs : List Byte) : Option (List (Nat × List Byte)) :=
  (piecesOf va bs.length).mapM fun p => (s.placeFor j p.1).map fun pa => (pa, (bs.drop (p.1 - va)).take p.2)

/-- The sideband that belongs to a tile's data (R69, R255). -/
def sidebandFor (fmt : BitVec 5) (data : List Byte) : List Byte := sidebandOf fmt (tileRows fmt (leNat data))

/-- Whether pieces lie one after the other in SRAM from a tile's origin. -/
def inOneSram : List (Nat × List Byte) → Bool
  | [] => true
  | [(pa, _)] => (homeOf pa).isSram
  | (pa, bs) :: (pb, cs) :: rest => (homeOf pa).isSram && decide (pb = pa + bs.length) && inOneSram ((pb, cs) :: rest)

/-- Bytes that a system core writes to memory of one kind: tiles they meet become STALE (R259). -/
def State.systemWrite (s : State) (pa : Nat) (bs : List Byte) : State := (s.writePa pa bs).staleTiles pa bs.length

/-- The bytes that a section lays down: a .tile section has a tile's size and place, and its sideband behind it. -/
def laidBytes (va : Nat) (tile : Option (BitVec 5)) (data : List Byte) : Option (List Byte) :=
  match tile with
  | none => some data
  | some fmt =>
    if va % 512 ≠ 0 ∨ fmtWidth fmt = 0 ∨ data.length ≠ tileSize fmt then none else some (data ++ sidebandFor fmt data)

/-- One section placed (R365): a .tile section becomes a FRESH tile of SRAM. -/
def State.placeSection (s : State) (j : Job) (va : Nat) (tile : Option (BitVec 5)) (data : List Byte) : Option State :=
  ((laidBytes va tile data).bind (s.layOut j va)).bind fun l =>
    let t := l.foldl (fun s p => s.systemWrite p.1 p.2) s
    match tile with
    | none => some t
    | some fmt =>
      if inOneSram l then
        some { t with tiles := newTile t.tiles ((l.head?.map fun p => p.1).getD 0) { fmt := fmt, stale := false, poison := false } }
      else none

/-- The sections of an image placed in their order. At the first that cannot be placed the command ends, with the entry that
broke the walk for its bytes. -/
def State.placeSections (j : Job) (img : List Byte) (secs : List ImageSection) :
    List ImageSection → State → Except Refused State
  | [], s => .ok s
  | x :: rest, s =>
    match sectionBytes img secs x with
    | none => .error (3, [])
    | some data =>
      match s.placeSection j x.va x.tile data with
      | some s' => State.placeSections j img secs rest s'
      | none => .error (3, s.brokenEntries j x.va (((laidBytes x.va x.tile data).map fun bs => bs.length).getD 0))

/-- A block's translation entered in the store (R370). -/
def State.translateBlock (s : State) (b : List Byte) : State :=
  let e : TransEntry := { block := sha384 b, meas2 := s.measured[2], code := Config.translation b s.measured[2] }
  if s.tstore.contains e then s else { s with tstore := s.tstore ++ [e] }

/-- Whether a range lies in host memory. -/
def inHost (a n : Nat) : Bool := decide (a + n ≤ hostBase)

/-- LOAD-IMAGE (R365, R369, R400): sections and blocks, by offset and length, are parts of the image in host memory whose
digest the host gives. -/
def execLoadImage (tag : BitVec 16) (job hostAddr len : Nat) (sha : List Byte) (secs : List ImageSection)
    (blocks : List (Nat × Nat)) (s : State) : Out :=
  s.command 1 tag (do
    let j ← orStatus (s.jobOf job) 5
    let img := s.readPa (hostBase + hostAddr) len
    demand (inHost hostAddr len && decide (sha384 img = sha)) 3
    let bs := blocks.map fun b => (img.drop b.1).take b.2
    demand ((blocks.all fun b => decide (b.1 + b.2 ≤ len)) && bs.all blockOk) 3
    let s' ← State.placeSections j img secs secs s
    .ok (bs.foldl State.translateBlock s', []))

/-! ### CREATE-JOB, CANCEL, QUERY (R365, R367) -/

/-- The doublewords of a job's handle table. -/
def keyReads (a : JobArgs) : List (Nat × Nat) := a.keys.zipIdx.map fun e => (a.keyTable + 8 * e.2, 8)

/-- Whether the handle table of a job holds its keys: handles of R314 in doublewords from its address on (log 68), none of
them poisoned (R356). -/
def State.keysStand (s : State) (a : JobArgs) : Bool :=
  ((keyReads a).all fun r => ((s.checkMacs r.1 r.2).poisonedAt r.1 r.2).isNone) &&
  a.keys.zipIdx.all fun e => decide (s.readNat (a.keyTable + 8 * e.2) 8 = e.1.slot.toNat + 2 ^ 16 * e.1.gen.toNat)

/-- CREATE-JOB: the lowest free number, which is the tag as well (log 12). -/
def execCreateJob (tag : BitVec 16) (a : JobArgs) (s : State) : Out :=
  s.command 2 tag (do
    demand (decide (a.wbase ≤ a.wlim) && decide (a.root % 0x200000 = 0)) 3
    if !s.keysStand a then .error (3, keyReads a)
    let n := lowestFree (s.jobs.map fun j => j.num)
    demand (decide (n < 4096)) 6
    let j : Job := { num := n, tag := BitVec.ofNat 12 n, args := a, gen := 0, asked := 0, made := 0, launches := [],
                     graphs := [], phases := [], pending := 0, cancelled := false, freeing := false }
    .ok ({ s with jobs := s.jobs ++ [j] }, bytesOf 8 n ++ bytesOf 2 n))

/-- CANCEL's answers (R123). -/
def cancelAnswer (n : Nat) : List Byte := bytesOf 4 n

/-- CANCEL by the host (R123, R299, R367): only this frees a job. -/
def execMailboxCancel (tag : BitVec 16) (level : BitVec 2) (job number : Nat) (s : State) : Out :=
  match s.jobOf job with
  | none => s.command 4 tag (.error (5, []))
  | some j =>
    match s.work none job level.toNat number with
    | none => s.command 4 tag (.ok (s, cancelAnswer 2))
    | some ls =>
      if level = 3 ∧ j.pending = 0 then s.command 4 tag (.ok (s.freeJob job, cancelAnswer 1))
      else if level ≠ 3 ∧ (ls.all fun l => l.done) = true then s.command 4 tag (.ok (s, cancelAnswer 1))
      else
        let s1 := if level = 3 then s.setJob job fun j => { j with freeing := true, cancelled := true } else s
        s.command 4 tag (.ok (s1.cancelWork job (fun n => ls.any fun l => decide (l.num = n)), cancelAnswer 0))

/-- A group's counter as QUERY returns it. -/
def Group.value (g : Group) : List Byte := bytesOf 8 g.pending

/-- The value a selector names (R365): a counter, a launch's counter and its retirements by status, a device state. -/
def State.queried (s : State) (sel : QuerySel) : Except Refused (List Byte) :=
  match sel with
  | .launch job n => do
    demand (!s.hides none job n) 5
    let l ← orStatus (s.launchOf job n) 5
    .ok (bytesOf 8 l.pending ++ l.stats.toList.flatMap fun k => bytesOf 8 k)
  | .graph job n => do
    let j ← orStatus (s.jobOf job) 5
    let g ← orStatus (j.graphs.find? fun g => decide (g.num = n)) 5
    .ok g.value
  | .phase job n => do
    let j ← orStatus (s.jobOf job) 5
    let g ← orStatus (j.phases.find? fun g => decide (g.num = n)) 5
    .ok g.value
  | .job n => do
    let j ← orStatus (s.jobOf n) 5
    .ok (bytesOf 8 j.pending)
  | .wsize => .ok (bytesOf 8 s.wsizeReg.toNat)
  | .wbperm d i => .ok (bytesOf 8 (bitsAt (s.dies[d.val]).wbperm.toNat (64 * i.val) 64))
  | .monstat d => .ok (bytesOf 8 (s.dieRead d 0x200))
  | .bootState => .ok (bytesOf 1 (match s.boot with
      | .off => 0
      | .recovery => 1
      | .open_ => 2))

/-- QUERY, the one command that recovery answers (R359). -/
def execQuery (tag : BitVec 16) (sel : QuerySel) (s : State) : Out :=
  if s.boot = .off ∨ s.program.isSome = true then .next s
  else
    match s.queried sel with
    | .ok v => .next (s.answer 5 tag 0 v)
    | .error st => .next (s.answer 5 tag st.1 [])

/-! ### SUBMIT-PHASE (R118 to R120) -/

/-- A result of the walk and the checks of a read, for firmware: an event leaves what it found (R356). -/
def firmwareRes {α : Type} (r : Res α) : Except Refused α :=
  match r with
  | .ok a => .ok a
  | .error (.event e) => .error (3, e.read)
  | .error _ => .error (3, [])

/-- Bytes of a job's D-space as firmware reads them, through the job's tables. -/
def State.firmwareRead (s : State) (job va n : Nat) : Except Refused (List Byte) :=
  firmwareRes (({ s with tlb := [] } : State).readD 0 job none (piecesOf va n))

/-- A list of addresses in a job's D-space: their number, then the addresses, in doublewords (log 68). -/
def State.firmwareList (s : State) (job va : Nat) : Except Refused (List Nat) := do
  let n := leNat (← s.firmwareRead job va 8)
  demand (decide (n < 2 ^ 24)) 3
  .ok (wordsOf 8 n (← s.firmwareRead job (va + 8) (8 * n)))

/-- The status a refused descriptor ends with (R120). -/
def submitStatus (n : Nat) : Nat :=
  match n with
  | 0 => 0
  | 3 => 4
  | 4 => 6
  | _ => 3

/-- One launch of a submission, with the launches of its graph before it. -/
def State.submitLaunch (s : State) (job graph phase : Nat) (gen : BitVec 4 × Nat) (earlier : List Nat) (va : Nat) : Except Refused (State × Nat) := do
  let j ← orStatus (s.jobOf job) 5
  demand (decide (va % 64 = 0)) 3
  let d := parseDesc (← s.firmwareRead job va 64)
  demand (!(d.bad fun a => earlier.contains a) && decide (d.succ = 0)) 3
  match ← firmwareRes (readLists { s with tlb := [] } 0 job none d (List.range d.count)) with
  | none => .error (3, [])
  | some fps =>
    let st := submitStatus (d.status j.args.maxPrio j.args.ntOk)
    demand (decide (st = 0)) st
    let num ← orStatus j.freeLaunch 6
    let k := d.target.getD 0
    let s := s.setJob job fun j => { j with launches := j.launches ++ [launchObj num graph phase k d] }
    .ok (State.place k [] (launchRecs job num d fps gen.1 gen.2) s, num)

/-- The launches of a graph, in order. -/
def State.submitGraph (job graph phase : Nat) (gen : BitVec 4 × Nat) :
    List Nat → List Nat → State → Except Refused State
  | [], _, s => .ok s
  | va :: rest, earlier, s => do
    let r ← s.submitLaunch job graph phase gen earlier va
    State.submitGraph job graph phase gen rest (earlier ++ [r.2]) r.1

/-- The graphs of a phase, in order. -/
def State.submitGraphs (job phase : Nat) (gen : BitVec 4 × Nat) :
    List (List Nat) → State → Except Refused State
  | [], s => .ok s
  | g :: rest, s => do
    let j ← orStatus (s.jobOf job) 5
    let n := j.graphs.length
    demand (!g.isEmpty) 3
    let s := s.setJob job fun j => { j with graphs := j.graphs ++ [⟨n, phase, g.length, false, false⟩] }
    let s ← State.submitGraph job n phase gen g [] s
    State.submitGraphs job phase gen rest s

/-- A whole phase: its number. -/
def State.submit (s : State) (job : Nat) (gen : BitVec 4 × Nat) (graphs : List (List Nat)) : Command := do
  let j ← orStatus (s.jobOf job) 5
  demand (!graphs.isEmpty) 3
  let phase := j.phases.length
  let s := s.setJob job fun j =>
    { j with phases := j.phases ++ [⟨phase, 0, graphs.length, false, false⟩], pending := j.pending + 1 }
  let s ← State.submitGraphs job phase gen graphs s
  .ok (s.refresh, bytesOf 8 phase)

/-- A phase whose list of graphs stands at an address of the job's D-space, each graph a list of the addresses of its launch
descriptors. -/
def State.submitAt (s : State) (job addr : Nat) (gen : BitVec 4 × Nat) : Command := do
  let _ ← orStatus (s.jobOf job) 5
  let graphs ← (← s.firmwareList job addr).mapM fun a => s.firmwareList job a
  s.submit job gen graphs

/-- SUBMIT-PHASE (R120, R305, R375): one advance of the job's generation for the submission. -/
def execSubmitPhase (tag : BitVec 16) (job addr : Nat) (s : State) : Out :=
  s.command 3 tag ((s.askGen job).1.submitAt job addr (s.askGen job).2)

/-! ### PROGRAM-WEIGHTS (R365, R366, R372) -/

/-- The stride of a tile: its data and sideband, rounded up to rows. -/
def tileStride (fmt : BitVec 5) : Nat := (tileSize fmt + 512 + 4095) / 4096 * 4096

/-- One stride from a tile's data. -/
def strideBytes (fmt : BitVec 5) (data : List Byte) : List Byte :=
  fixLen (tileStride fmt) (data ++ sidebandFor fmt data)

/-- The tiles of a range. -/
def strideTiles (fmt : BitVec 5) (wa n : Nat) : List (Nat × Tile) :=
  (List.range n).map fun t => (wa + t * tileStride fmt, { fmt := fmt, stale := false, poison := false })

/-- The dies of a range measured again, and measurements 4 to 8 (R362). -/
def State.measureRange (s : State) (wa n : Nat) (bad : List ColumnFailure) : State :=
  ((blocksOf 0x2000000000 wa n).foldl (fun s b => s.measureDie (wDie b) bad) s).recordWeights

/-- Whether a range meets some job's W window. -/
def State.meetsWindow (s : State) (wa n : Nat) : Bool :=
  s.jobs.any fun j => decide (j.args.wbase.toNat < j.args.wlim.toNat) && decide (wa < j.args.wlim.toNat) &&
    decide (j.args.wbase.toNat < wa + n)

/-- The checks of PROGRAM-WEIGHTS: the bytes of the rows and the tiles. -/
def State.weightRows (s : State) (host wa len : Nat) (flags : Word32) :
    Except Refused (List Byte × List (Nat × Tile)) := do
  let fmt : BitVec 5 := BitVec.ofNat 5 (bitsAt flags.toNat 4 5)
  demand (decide (flags &&& ~~~(0x1F3 : Word32) = 0) && decide (fmtWidth fmt ≠ 0) && decide (wa % 4096 = 0) &&
    decide (len % 4096 = 0) && decide (len ≠ 0) && s.wValid wa len) 3
  if flags.getLsbD 1 then do
    let n := len / tileStride fmt
    demand (decide (len % tileStride fmt = 0) && inHost host (n * tileSize fmt)) 3
    let data (t : Nat) : List Byte := s.readPa (hostBase + host + t * tileSize fmt) (tileSize fmt)
    .ok ((List.range n).flatMap fun t => strideBytes fmt (data t), strideTiles fmt wa n)
  else do
    demand (inHost host len) 3
    .ok (s.readPa (hostBase + host) len, [])

/-- The result of PROGRAM-WEIGHTS: rows written, first failing W address. -/
def weightResult (rows first : Nat) : List Byte := bytesOf 8 rows ++ bytesOf 8 first

/-- The payload of PROGRAM-WEIGHTS (R372). -/
def weightPayload (hostAddr wAddr len : Word64) (flags : Word32) : List Byte :=
  bytesOf 8 hostAddr.toNat ++ bytesOf 8 wAddr.toNat ++ bytesOf 8 len.toNat ++ bytesOf 4 flags.toNat

/-- The job in which firmware creates the launches of PROGRAM-WEIGHTS, behind the numbers that CREATE-JOB gives: without a
window of its own and without D-space (log 65). -/
def firmwareJob (n : Nat) : Job :=
  { num := n, tag := BitVec.ofNat 12 n, gen := 0, asked := 0, made := 0, launches := [], graphs := [], phases := [], pending := 0,
    cancelled := false, freeing := false,
    args := { tenant := 0, root := 0, wbase := 0, wlim := 0, maxPrio := 3, ntOk := false, keyTable := 0, keys := [], debugKey := 0 } }

/-- The number of that job. -/
def State.firmwareNum (s : State) : Nat := s.jobs.foldl (fun m j => max m (j.num + 1)) 4096

/-- PROGRAM-WEIGHTS (R365, R366, R372): checked, and begun; it runs until its launches have written its rows. -/
def execProgramWeights (tag : BitVec 16) (hostAddr wAddr len : Word64) (flags : Word32) (place : Option (Nat × List Nat))
    (bad : List ColumnFailure) (s : State) : Out :=
  if !s.takesCommand then .next s
  else
    let wa := wAddr.toNat
    let n := len.toNat
    let p := s.posted 6 tag (weightPayload hostAddr wAddr len flags)
    match s.weightRows hostAddr.toNat wa n flags with
    | .error st => .next (p.finishCommand st.1 [])
    | .ok (bs, tiles) =>
      if s.meetsWindow wa n then .next (p.finishCommand 4 [])
      else
        .next { p with
          mailbox := { p.mailbox with status := 0xFFFFFFFF }, jobs := p.jobs ++ [firmwareJob s.firmwareNum],
          program := some { tag := tag, wa := wa, bytes := bs, tiles := tiles, verify := flags.getLsbD 0, next := 0, checked := 0,
                            bad := bad, place := place.getD (0, []), job := s.firmwareNum, failed := none } }

/-- The end of PROGRAM-WEIGHTS: the roots are formed, then the command answers (R362). -/
def State.endProgram (s : State) (x : Program) (status first : Nat) : State :=
  { (s.measureRange x.wa x.bytes.length x.bad).freeJob x.job with program := none }.finishCommand status
    (weightResult x.next first)

/-- The rows of a tile of PROGRAM-WEIGHTS, which one launch writes together. -/
def Program.stride (x : Program) : Nat := (x.tiles.head?.map fun e => tileStride e.2.fmt / 4096).getD 1

/-- What the next launch of PROGRAM-WEIGHTS has to do: its first row, the row behind its last, and whether it writes them. Under
the verify flag no row is written before those behind it are compared; a tile that stands in part is begun anew. -/
def Program.todo (x : Program) : Option (Nat × Nat × Bool) :=
  let first (n : Nat) : Nat := n / x.stride * x.stride
  if x.verify && decide (x.checked < x.next) then some (first x.checked, x.next, false)
  else if 4096 * x.next < x.bytes.length then some (first x.next, x.bytes.length / 4096, true)
  else none

/-- Where firmware lays the rows of a launch in a scratchpad: at the offset given, where a tile has room behind it. -/
def Program.base (x : Program) : Nat :=
  if x.place.1 % 512 = 0 ∧ x.place.1 + 4096 * x.stride ≤ laybyBase then x.place.1 else 0

/-- The rows of a launch: whole strides, as many as the scratchpad holds from the offset on. -/
def Program.part (x : Program) (first stop : Nat) : Nat :=
  min (stop - first) ((laybyBase - x.base) / 4096 / x.stride * x.stride)

/-- The core that runs a launch of PROGRAM-WEIGHTS: the first in firmware's order of preference, then by number, that its
junction may give a task, on the die of the rows, and in whose scratchpad no tile stands where the rows will be laid. -/
def State.weightCore (s : State) (x : Program) (d : DieId) (n : Nat) : Option CoreId :=
  (x.place.2.map (Fin.ofNat 512) ++ List.finRange 512).find? fun c =>
    s.offered c && decide (dieOf c = d) && (tilesIn s.tiles (spadPa c x.base) n).isEmpty

/-- A launch of one task that firmware creates, with the privilege for a range of W-space (R243), as a graph and a phase of its
own. Its task is at its EXIT from the start: it has given its commands, and no code (log 65). -/
def Job.weightLaunch (k : ClusterId) (wa n : Nat) (j : Job) : Job :=
  let l := j.launches.length
  let x : Launch :=
    { num := l, graph := l, phase := l, cluster := k, gang := false, paired := false, count := 1, after := none, succ := 0,
      wpriv := true, window := some (BitVec.ofNat 39 wa, BitVec.ofNat 39 (wa + n)), pending := 1,
      stats := Vector.replicate 4 0, done := false, cancelled := false, bars := 0, exited := 0 }
  { j with launches := j.launches ++ [x], graphs := j.graphs ++ [⟨l, l, 1, false, false⟩],
           phases := j.phases ++ [⟨l, 0, 1, false, false⟩], pending := j.pending + 1 }

/-- The record of its task. It has no code: an address beyond D-space, from which a re-run takes a fault (log 65). -/
def weightRec (job launch slot : Nat) (tenure : BitVec 16) (gen : BitVec 4) : RecSlot :=
  { slot := slot, tenure := tenure, deps := [], edge := false, ins := [], outs := [], wr := [], ready := none, due := 0,
    rc := { job := job, code := 0x8000000000000000, frame := 0, join := 0, launch := launch, prio := 3, commit := false,
            paired := false, gang := false, nt := false, origin := 0, fplist := 0, nin := 0, nout := 0, attached := 0, succ := 0,
            index := 0, prom := 0, level := 3, reruns := 0, bgen := gen, hasbgen := true, wrlist := 0 } }

/-- The x.wprog and the x.wverify of a launch, in this order on one track (R243, R365): the second under the verify flag. -/
def Program.commands (x : Program) (writes : Bool) (cfg : XCfg) (pages : List PageUse) (foot : List Foot) (t : Task) : Task :=
  let cmd := XCmd.new cfg none false 0 none
  let t := if writes then t.accept 0 .x 0 foot pages (.xProg cmd) else t
  if x.verify then t.accept 0 .x 0 foot pages (.xVerify cmd) else t

/-- PROGRAM-WEIGHTS as its next launch begins: what it writes or compares again does not count yet. -/
def Program.begins (x : Program) (first : Nat) (writes : Bool) : Program :=
  if writes then { x with next := first, checked := min x.checked first } else { x with checked := first }

/-- The next launch of PROGRAM-WEIGHTS begins: its rows, and the tiles in them, are laid in the scratchpad of a core, and the
commands are given. It waits for a core, and as a task's words do for W-space that is not ready (R331). -/
def State.startWeights (s : State) (x : Program) (first stop : Nat) (writes : Bool) : State :=
  let rows := x.part first stop
  let wa := x.wa + 4096 * first
  let n := 4096 * rows
  match s.weightCore x (wDie wa) n, s.advanceGen x.job with
  | some c, some (s1, gen) =>
    match (List.range 7).find? (s.residOk c) with
    | none => s
    | some resid =>
      let l := ((s.jobOf x.job).map fun j => j.launches.length).getD 0
      let s2 := (s1.clearSpad c).stagePut (spadPa c x.base) ((x.bytes.drop (4096 * first)).take n)
      let mine := x.tiles.filter fun e => decide (wa ≤ e.1) && decide (e.1 < wa + n)
      let (s3, slot, tenure) := ({ s2 with
        tiles := mine.foldl (fun ts e => newTile ts (spadPa c x.base + (e.1 - wa)) e.2) s2.tiles,
        program := some (x.begins first writes) } : State).newSlot (clusterOf c) []
      let t : Task := { newTask (weightRec x.job l slot tenure gen) (slotOf c resid) gen (s.core c).milemax.toNat false with
        wait := .exiting, exited := true }
      let cfg : XCfg := { XCfg.zero with sbase := x.base, dspace := .wspace, dbase := wa, len := n, rows := 1 }
      let s4 := (s3.setJob x.job (Job.weightLaunch (clusterOf c) wa n)).start c t
      match s4.moveRanges c t cfg false true with
      | .ok a => s4.setTask c (x.commands writes cfg a.1 a.2 t)
      | .error _ => s
  | _, _ => s

/-- PROGRAM-WEIGHTS goes on while no launch of it runs (R365, R366): it ends with the row that could not be programmed or the
word that differed, it begins its next launch, or it ends with all its rows written and, under the flag, compared. -/
def State.weightTurn (s : State) : State :=
  match s.program with
  | none => s
  | some x =>
    if (s.jobOf x.job).any fun j => j.launches.any fun l => !l.done then s
    else
      match x.failed, x.todo with
      | some (status, a), _ => s.endProgram x status a
      | none, some (first, stop, writes) => s.startWeights x first stop writes
      | none, none => s.endProgram x 0 0

/-- WEIGHT_ROW_PROGRAM: the engine takes the next row from its requesters, in their cyclic order (R336); with none, the
PROGRAM-WEIGHTS goes on. -/
def execWeightRowProgram (d : DieId) (readBack : List Bool) (s : State) : Out :=
  match s.requester d with
  | none => .next s.weightTurn
  | some c => .next ((s.setDie d fun k => { k with lastReq := c.val }).commandRow c readBack)

/-! ### RESET-SCRUB and DEBUG-ATTACH (R357, R358, R365) -/

/-- A core stopped by the scrub. -/
def Core.scrubbed (k : Core) : Core :=
  { k with status := .idle, task := none, preempt := false, frozen := false, laneFault := none, pairFault := false }

/-- A cluster whose work and trap queue are discarded. -/
def Cluster.scrubbed (k : Cluster) : Cluster :=
  { k with recs := [], parked := [], gang := none, areqs := [], held := [], saved := [] }

/-- A die whose WREP and pending invalidations are cleared. -/
def Die.scrubbed (x : Die) : Die :=
  { x with wrep := Vector.replicate 64 [], tlbPages := [], tlbWait := [], fatPages := [], tlbinv := x.tlbinv &&& ~~~(1 : Word64),
           fatset := x.fatset &&& ~~~(0x2000000000000000 : Word64) }

/-- Steps 1 to 5 of R358. -/
def State.scrub (s : State) (confidential : Bool) : State :=
  let z := s.zeroMemory
  { z with cores := z.cores.map Core.scrubbed, clusters := z.clusters.map Cluster.scrubbed,
           dies := z.dies.map Die.scrubbed, inputs := [], sessions := [], keyEpoch := z.keyEpoch + 1,
           scrubs := z.scrubs + 1, confidential := confidential }

/-- Whether some seal ring holds an unconsumed entry. -/
def State.ringsFull (s : State) : Bool := s.clusters.toList.any fun k => decide (k.srhead ≠ k.srtail)

/-- RESET-SCRUB (R358): the mailbox answers when the boot sequence has opened it again; without an image the module stays
in recovery. -/
def execResetScrub (tag : BitVec 16) (confidential : Bool) (bad : List ColumnFailure) (s : State) : Out :=
  if !s.takesCommand then .next s
  else if !s.jobs.isEmpty || s.ringsFull then .next (s.answer 7 tag 1 [])
  else .next ((State.bootFrom bad (s.scrub confidential)).answer 7 tag 0 [])

/-- A task of a launch and an index is attached to a debugger. -/
def Task.attachDebug (job launch : Nat) (index : Word32) (t : Task) : Task :=
  if t.rs.rc.job = job ∧ t.rs.rc.launch = launch ∧ t.rs.rc.index = index then { t with attached := true } else t

/-- DEBUG-ATTACH (R135, R357, R365): in confidential mode with a token that the tenant has signed. -/
def execDebugAttach (tag : BitVec 16) (job launch : Nat) (index : Word32) (token : Option (List Byte)) (s : State) : Out :=
  s.command 8 tag (do
    let j ← orStatus (s.jobOf job) 5
    demand (!s.hides none job launch) 5
    let l ← orStatus (s.launchOf job launch) 5
    demand (decide (index.toNat < l.count)) 5
    demand (!s.confidential || token.any fun k => Config.tokenOk j.args.debugKey k) 4
    let f := Task.attachDebug job launch index
    .ok ({ s with
      sessions := s.sessions ++ [⟨job, launch, index⟩],
      cores := s.cores.map fun k => { k with task := k.task.map f },
      clusters := s.clusters.map fun k => { k with parked := k.parked.map fun p => { p with task := f p.task } } },
      bytesOf 8 s.sessions.length))

/-! ### BAR 0 and BAR 2 (R357, R363, R364) -/

/-- The 4 KiB of the mailbox (R364). -/
def Mailbox.bytes (m : Mailbox) : List Byte :=
  bytesOf 2 m.code.toNat ++ bytesOf 2 m.tag.toNat ++ bytesOf 4 m.length.toNat ++ bytesOf 4 m.status.toNat ++
  bytesOf 4 0 ++ fixLen 48 m.result ++ fixLen 4032 m.payload

/-- The mailbox with the host's bytes from an offset on: it writes code, tag, length and payload; status, the reserved word and
the result are not its own. -/
def Mailbox.write (m : Mailbox) (off : Nat) (bs : List Byte) : Mailbox :=
  let x := fixLen 4096 (m.bytes.take off ++ bs ++ m.bytes.drop (off + bs.length))
  { m with code := BitVec.ofNat 16 (leNat (x.take 2)), tag := BitVec.ofNat 16 (leNat ((x.drop 2).take 2)),
           length := BitVec.ofNat 32 (leNat ((x.drop 4).take 4)), payload := x.drop 64 }

/-- A byte of BAR 0 as the host reads it (R363): mailbox, notify register, MSI-X table. -/
def State.bar0Byte (s : State) (a : Nat) : Byte :=
  if a < 0x1000 then s.mailbox.bytes.getD a 0
  else if a < 0x2000 then Config.viewByte s.tick a
  else Memory.get s.msixTable (a - 0x2000)

/-- A write of BAR 0, which lies in the mailbox or in the MSI-X table (log 67). -/
def State.bar0Write (s : State) (off : Nat) (bs : List Byte) : State :=
  if off + bs.length ≤ 0x1000 then (if s.program.isSome then s else { s with mailbox := s.mailbox.write off bs })
  else if 0x2000 ≤ off then { s with msixTable := Memory.write s.msixTable (off - 0x2000) bs }
  else s

/-- A request of BAR 0. -/
def State.bar0Request (s : State) (offset : Nat) (write : Option (List Byte)) (n : Nat) : State :=
  if s.boot = .off ∨ 0x4000 < offset + n ∨ n = 0 then { s with notices := s.notices ++ [.unsupported] }
  else
    match write with
    | some bs => { s.bar0Write offset bs with notices := s.notices ++ [.pcieDone] }
    | none => { s with notices := s.notices ++ [.pcieData ((List.range n).map fun i => s.bar0Byte (offset + i))] }

/-- A request of BAR 2: a read or a write of LPDDR through the 64 GiB window; any other request is unsupported. -/
def State.bar2Request (s : State) (offset : Nat) (write : Option (List Byte)) (n : Nat) : State :=
  let pa := s.bar2 + offset
  let note (s : State) (x : Notice) : State := { s with notices := s.notices ++ [x] }
  if s.boot ≠ .open_ ∨ s.confidential = true ∨ 2 ^ 36 < offset + n ∨ n = 0 ∨ (homeOf pa).isLpddr = false ∨
      (homeOf (pa + n - 1)).isLpddr = false then note s .unsupported
  else
    match write with
    | some bs => note (s.writePa pa bs) .pcieDone
    | none =>
      let s := s.checkMacs pa n
      note s (.pcieData (if (s.poisonedAt pa n).isSome then Config.poisonedRead s.tick else s.readPa pa n))

/-- A command that the host has posted, run with the tag it wrote (R364, R365). The fields of PROGRAM-WEIGHTS are those of the
payload (R372). -/
def State.runPosted (s : State) (tag : BitVec 16) (x : PostedCommand) : Out :=
  let field64 (o : Nat) : Word64 := BitVec.ofNat 64 (leNat ((s.mailbox.payload.drop o).take 8))
  match x with
  | .loadImage job host len sha secs blocks => execLoadImage tag job host len sha secs blocks s
  | .createJob a => execCreateJob tag a s
  | .submitPhase job addr => execSubmitPhase tag job addr s
  | .cancel level job n => execMailboxCancel tag level job n s
  | .query sel => execQuery tag sel s
  | .programWeights place bad =>
    execProgramWeights tag (field64 0) (field64 8) (field64 16)
      (BitVec.ofNat 32 (leNat ((s.mailbox.payload.drop 24).take 4))) place bad s
  | .resetScrub conf bad => execResetScrub tag conf bad s
  | .debugAttach job launch index token => execDebugAttach tag job launch index token s

/-- The code of a posted command (R365). -/
def postedCode (x : PostedCommand) : Nat :=
  match x with
  | .loadImage .. => 1
  | .createJob .. => 2
  | .submitPhase .. => 3
  | .cancel .. => 4
  | .query .. => 5
  | .programWeights .. => 6
  | .resetScrub .. => 7
  | .debugAttach .. => 8

/-- Whether firmware answers a command of a code: in recovery, QUERY alone (R359). -/
def State.answersCode (s : State) (code : Nat) : Bool := s.takesCommand || (decide (s.boot = .recovery) && decide (code = 5))

/-- The host's write of the notify register (R364): ignored while firmware takes no command. Otherwise status becomes
0xFFFF_FFFF and the command that stands in the mailbox is run: BAD-COMMAND for an unknown code or length, BAD-ARGUMENT for a
payload that is none of its code's. The host's payload stays. A write whose command must wait is not taken yet (log 67). -/
def State.notify (s : State) : Out :=
  let m := s.mailbox
  let done (x : State) : Out := .next { x with notices := x.notices ++ [.pcieDone] }
  if !s.answersCode m.code.toNat then done s
  else
    let s1 : State := { s with mailbox := { m with status := 0xFFFFFFFF } }
    if !knownCommand m.code.toNat m.length.toNat then done (s1.finishCommand 2 [])
    else
      match (Config.commandOf m.code.toNat (m.payload.take m.length.toNat) s.tick).filter fun x =>
          decide (postedCode x = m.code.toNat) with
      | none => done (s1.finishCommand 3 [])
      | some x =>
        match s1.runPosted m.tag x with
        | .next y =>
          if y.mailbox.status = 0xFFFFFFFF ∧ y.program = none then .next s
          else done { y with mailbox := { y.mailbox with length := m.length, payload := m.payload } }
        | o => o

/-- PCIE_MEMORY_REQUEST (R363, R364): a read or a write of the host through a base address register; a write of the notify
register starts the command in the mailbox. -/
def execPcieMemoryRequest (bar0 : Bool) (offset : Nat) (write : Option (List Byte)) (len : Nat) (s : State) : Out :=
  let n := match write with
    | some bs => bs.length
    | none => len
  if bar0 = true ∧ offset = 0x1000 ∧ write.isSome = true ∧ (n = 2 ∨ n = 4) ∧ s.boot ≠ .off then s.notify
  else .next (if bar0 then s.bar0Request offset write n else s.bar2Request offset write n)

/-! ### SPDM (R361) -/

/-- A response as DOE carries it: in a finished session sealed under the session key, by AES-256-GCM with the number of the
message as initialisation vector (log 45). -/
def Spdm.carried (x : Spdm) (resp : List Byte) : List Byte :=
  if x.session.isSome && x.finished then
    let r := gcmSeal (fixLen 32 x.key) (beBytes 12 x.sent) [] resp
    r.1 ++ r.2
  else resp

/-- A response, with request and response in the transcript. -/
def State.spdmReply (s : State) (req resp : List Byte) (stage : Nat) : State :=
  let x := s.spdm
  { s with spdm := { x with stage := stage, transcript := x.transcript ++ req ++ resp, sent := x.sent + bitNat x.finished },
           notices := s.notices ++ [.spdm (x.carried resp)] }

/-- A request refused. -/
def State.spdmRefuse (s : State) : State := { s with notices := s.notices ++ [.spdmError] }

/-- A request while DOE is open and the connection stands at a stage or beyond. -/
def State.spdmRequest (s : State) (stage : Nat) (ok : Bool) (f : State) : Out :=
  if s.boot ≠ .open_ then .next s
  else if decide (stage ≤ s.spdm.stage) && ok then .next f
  else .next s.spdmRefuse

/-- GET_VERSION starts a connection afresh: version 1.3. -/
def execGetVersion (s : State) : Out :=
  let fresh : State := { s with spdm := { s.spdm with transcript := [], session := none, finished := false, key := [], sent := 0 } }
  s.spdmRequest 0 true (fresh.spdmReply [0x84] [0x13] 1)

/-- GET_CAPABILITIES follows GET_VERSION. -/
def execGetCapabilities (s : State) : Out :=
  s.spdmRequest 1 (decide (s.spdm.stage = 1)) (s.spdmReply [0xE1] [0x61] 2)

/-- The algorithms that the responder supports, as SPDM 1.3 numbers them (log 45): ECDSA P-384, SHA-384, ECDHE over secp384r1,
AES-256-GCM. -/
def spdmAlgorithms : List Word32 := [0x80, 0x02, 0x10, 0x02]

/-- A list of words as bytes. -/
def wordBytes (l : List Word32) : List Byte := l.flatMap fun w => bytesOf 4 w.toNat

/-- NEGOTIATE_ALGORITHMS: the four that the responder supports must be offered. -/
def execNegotiateAlgorithms (asym hash dhe aead : Word32) (s : State) : Out :=
  let offered := [asym, hash, dhe, aead]
  s.spdmRequest 2 (decide (s.spdm.stage = 2) && (offered.zip spdmAlgorithms).all fun e => decide (e.1 &&& e.2 = e.2))
    (s.spdmReply (0xE3 :: wordBytes offered) (wordBytes spdmAlgorithms) 3)

/-- GET_DIGESTS: the digest of the chain in slot 0. -/
def execGetDigests (s : State) : Out := s.spdmRequest 3 true (s.spdmReply [0x81] (sha384 Config.certificateChain) s.spdm.stage)

/-- GET_CERTIFICATE: part of the chain in slot 0. -/
def execGetCertificate (slot : Fin 8) (offset len : Nat) (s : State) : Out :=
  s.spdmRequest 3 (decide (slot = 0))
    (s.spdmReply ([0x82] ++ bytesOf 4 offset ++ bytesOf 4 len) ((Config.certificateChain.drop offset).take len) s.spdm.stage)

/-- A body followed by the device identity key's signature over the transcript with it. -/
def State.spdmSigned (s : State) (req body : List Byte) : List Byte :=
  body ++ Config.identitySign (s.spdm.transcript ++ req ++ body)

/-- CHALLENGE against slot 0. -/
def execChallenge (slot : Fin 8) (nonce : List Byte) (s : State) : Out :=
  let req : List Byte := 0x83 :: nonce
  s.spdmRequest 3 (decide (slot = 0)) (s.spdmReply req (s.spdmSigned req (sha384 Config.certificateChain)) s.spdm.stage)

/-- The type of a measurement's value in its DMTF block (log 45): ROM, firmware, firmware configuration for the roots of the
weight tier, hardware configuration; bit 7 marks the raw form of index 9. -/
def measurementType (i : Nat) : Nat :=
  match i with
  | 1 => 0
  | 2 => 1
  | 3 => 1
  | 8 => 2
  | 9 => 0x83
  | _ => 3

/-- A DMTF measurement block: index, specification, size, then the type, size and bytes of the value. -/
def State.measurementBlock (s : State) (i : Fin 10) : List Byte :=
  let v := s.measured[i.val]
  bytesOf 1 i.val ++ [1] ++ bytesOf 2 (v.length + 3) ++ bytesOf 1 (measurementType i.val) ++ bytesOf 2 v.length ++ v

/-- The blocks that an index asks for: 0 for their number, 255 for all nine. -/
def State.measurementBody (s : State) (index : Fin 256) : Option (List Byte) :=
  if index.val = 0 then some [9]
  else if index.val = 255 then some (((List.finRange 10).drop 1).flatMap s.measurementBlock)
  else if h : index.val < 10 then some (s.measurementBlock ⟨index.val, h⟩)
  else none

/-- GET_MEASUREMENTS: the values as they stand, none half updated (R362). -/
def execGetMeasurements (index : Fin 256) (signed : Bool) (nonce : List Byte) (s : State) : Out :=
  let req : List Byte := [0xE0, BitVec.ofNat 8 index.val] ++ nonce
  match s.measurementBody index with
  | none => s.spdmRequest 3 false s
  | some body => s.spdmRequest 3 true (s.spdmReply req (if signed then s.spdmSigned req body else body) s.spdm.stage)

/-- KEY_EXCHANGE: a session opens, one at a time. -/
def execKeyExchange (share : List Byte) (s : State) : Out :=
  let n := s.spdm.sessions
  let x := Config.spdmExchange n share
  let req : List Byte := 0xE4 :: share
  let r := s.spdmReply req (s.spdmSigned req x.1) s.spdm.stage
  s.spdmRequest 3 s.spdm.session.isNone
    { r with spdm := { r.spdm with session := some n, finished := false, sessions := n + 1, key := x.2, sent := 0 } }

/-- FINISH: the requester proves the session key over the transcript. -/
def execFinish (verify : List Byte) (s : State) : Out :=
  let r := s.spdmReply (0xE5 :: verify) [0x65] s.spdm.stage
  s.spdmRequest 3 (s.spdm.session.isSome && !s.spdm.finished && decide (verify = hmac384 s.spdm.key s.spdm.transcript))
    { r with spdm := { r.spdm with finished := true } }

/-- END_SESSION. -/
def execEndSession (s : State) : Out :=
  let r := s.spdmReply [0xEC] [0x6C] s.spdm.stage
  s.spdmRequest 3 (s.spdm.session.isSome && s.spdm.finished)
    { r with spdm := { r.spdm with session := none, finished := false, key := [], sent := 0 } }

/-! ### Soft errors (R187, R256, R263, R282, R356) -/

/-- A byte with one bit flipped. -/
def flipBit (b : Byte) (bit : Nat) : Byte := b ^^^ BitVec.ofNat 8 (2 ^ bit)

/-- A task changed by a soft error, on a core. -/
def State.onTask (s : State) (c : CoreId) (f : Task → Task) : State :=
  match s.taskOf c with
  | some t => s.setTask c (f t)
  | none => s

/-- One bit of an accumulator element flipped. -/
def Task.flipZ (t : Task) (z : ZReg) (elem bit : Nat) : Task :=
  let x := t.z[z.val]
  { t with z := t.z.set z.val { x with data := x.data.modify elem fun w => w ^^^ BitVec.ofNat 32 (2 ^ bit) } }

/-- One bit of a queue's head flipped. -/
def Task.flipHead (t : Task) (q : VReg) (bit : Nat) : Task :=
  match t.queue q with
  | e :: rest => t.setQueue q ({ e with data := e.data ^^^ BitVec.ofNat 4096 (2 ^ bit) } :: rest)
  | [] => t

/-- The descriptor of the tile that holds a byte poisoned. -/
def poisonDesc (a : Nat) (e : Nat × Tile) : Nat × Tile :=
  if e.1 ≤ a ∧ a < e.1 + tileSize e.2.fmt + 512 then (e.1, { e.2 with poison := true }) else e

/-- Whether a line of memory bears a MAC (R352). -/
def State.sealedLine (s : State) (pa : Nat) : Bool := (homeOf pa).isLpddr && decide (2 ≤ (s.fatOf pa).attr.toNat)

/-- A line whose MAC fails at the next read. -/
def State.breakLine (s : State) (pa : Nat) : State := { s with badMac := insertNat (pa / 128 * 128) s.badMac }

/-- A parked context altered while it lies in LPDDR (R275). -/
def alterContext (p : Parked) : Parked := if p.home.isNone then { p with intact := false } else p

/-- SOFT_ERROR. Host memory has no ECC word of the part, but a read of it may complete poisoned (R282). A line whose bytes change
beneath its MAC fails it; an older line put back fails it only where the version enters it, under ENCIR (R352). -/
def execSoftError (e : SoftError) (s : State) : Out :=
  match e with
  | .flipMem pa bit =>
    let flipped : State := { s with mem := Memory.set s.mem pa (flipBit (Memory.get s.mem pa) bit.val) }
    .next (if !((homeOf pa).isSram || (homeOf pa).isLpddr) then s
      else if s.sealedLine pa then flipped.breakLine pa else flipped)
  | .poisonMem pa => .next (s.addPoison (eccWords pa 1))
  | .poisonTile pa => .next { s with tiles := s.tiles.map (poisonDesc pa) }
  | .poisonWTile wa => .next { s with wtiles := s.wtiles.map (poisonDesc wa) }
  | .replay pa bytes =>
    let line := pa / 128 * 128
    let old : State := { s with mem := Memory.write s.mem line (fixLen 128 bytes) }
    .next (if !(homeOf pa).isLpddr then s
      else if (s.fatOf pa).attr = 3 then old.breakLine pa else old)
  | .parkedContext k idx =>
    .next (s.setCluster k fun c => { c with parked := c.parked.modify idx alterContext })
  | .flipW wa bit =>
    .next (if s.wValid wa 1 then { s with wmem := Memory.set s.wmem wa (flipBit (Memory.get s.wmem wa) bit.val) } else s)
  | .flipZ c z elem bit => .next (s.onTask c fun t => t.flipZ z elem.val bit.val)
  | .flipEntry c q bit => .next (s.onTask c fun t => t.flipHead q bit.val)
  | .badMac pa => .next (if s.sealedLine pa then s.breakLine pa else s)
  | .pair c =>
    let h := s.hostOf c
    .next (if (s.taskOf h).any fun t => t.rs.rc.paired then s.setCore h fun k => { k with pairFault := true } else s)

/-! ### Other writers (R259, R359) -/

/-- Whether bytes at an address lie in one memory of the map. -/
def backed (pa n : Nat) : Bool :=
  match homeOf pa, homeOf (pa + n - 1) with
  | .spad c _, .spad d _ => decide (c = d)
  | .cmem .., .cmem .. => true
  | .lpddr _, .lpddr _ => true
  | .host, .host => true
  | _, _ => false

/-- The parts of a range that lie in memory: place and bytes. Each memory of the map begins and ends at a multiple of 128. -/
def backedParts (pa : Nat) (bs : List Byte) : List (Nat × List Byte) :=
  ((blocksOf 128 pa bs.length).filter fun b => backed b 128).map fun b =>
    let lo := max pa b
    (lo, (bs.drop (lo - pa)).take (min (pa + bs.length) (b + 128) - lo))

/-- SYSTEM_CORE_WRITE (R259): memory with its tiles, or a device register. Where no memory stands, nothing is written
(log 69). -/
def execSystemCoreWrite (pa : Nat) (bytes : List Byte) (s : State) : Out :=
  let n := bytes.length
  if n = 0 then .next s
  else if backed pa n then .next (s.systemWrite pa bytes)
  else if (n = 4 ∨ n = 8) ∧ inMmio pa n = true then
    .next ((s.mmioWrite pa n (BitVec.ofNat 64 (leNat bytes)) false).getD s)
  else .next ((backedParts pa bytes).foldl (fun s p => s.systemWrite p.1 p.2) s)

/-- FLASH_WRITE: the board management interface writes the 64 MiB boot flash. -/
def execFlashWrite (offset : Nat) (bytes : List Byte) (s : State) : Out :=
  .next (if offset + bytes.length ≤ 0x4000000 then { s with flash := Memory.write s.flash offset bytes } else s)

/-! ### What the resident kernel reads (R288, R295, R411 to R414) -/

/-- The 64 bytes of a continuation record (R288). -/
def Rec.bytes (r : Rec) : List Byte :=
  bytesOf 8 r.code.toNat ++ bytesOf 8 r.frame.toNat ++ bytesOf 4 r.join.toNat ++
  bytesOf 4 (r.launch % 2 ^ 24 + r.prio.toNat * 2 ^ 24 + bitNat r.commit * 2 ^ 26 + bitNat r.paired * 2 ^ 27 +
    bitNat r.gang * 2 ^ 28 + bitNat r.nt * 2 ^ 29 + r.origin.toNat * 2 ^ 30) ++
  bytesOf 8 r.fplist.toNat ++ bytesOf 2 r.nin ++ bytesOf 2 r.nout ++ bytesOf 4 r.attached.toNat ++
  bytesOf 8 r.succ.toNat ++ bytesOf 4 r.index.toNat ++
  bytesOf 4 (r.prom % 2 ^ 8 + r.level.toNat * 2 ^ 8 + r.reruns.toNat * 2 ^ 10 + r.bgen.toNat * 2 ^ 12 +
    bitNat r.hasbgen * 2 ^ 16) ++
  bytesOf 8 r.wrlist.toNat

/-- The bytes of an entry of a cluster's overflow rings (R295, R412): those of a record, or of none (log 61). -/
def State.ringEntry (s : State) (k : ClusterId) (i : Nat) : List Byte :=
  match (s.clusters[k.val]).recs[Config.ringRecord s.tick i]? with
  | some r => r.rc.bytes
  | none => List.replicate 64 0

/-- A byte of physical memory as a system core reads it: in the lay-by, the session save area and the overflow rings, what the
part keeps there beside memory (log 61); elsewhere the memory's. -/
def State.kernelByte (s : State) (pa : Nat) : Byte :=
  match homeOf pa with
  | .spad _ off => if laybyBase ≤ off then Config.viewByte s.tick pa else Memory.get s.mem pa
  | .cmem k off =>
    if 0x3C4400 ≤ off ∧ off < 0x3C8000 then Config.viewByte s.tick pa
    else if 0x3C8000 ≤ off ∧ off < 0x3E0000 then (s.ringEntry k ((off - 0x3C8000) / 64)).getD (off % 64) 0
    else Memory.get s.mem pa
  | _ => Memory.get s.mem pa

end Machine

end Sys2Proof
end

