-- ==== Sys2Proof/Machine/Fabric.lean ====
section
/-!
DEFINITION. Machine/Fabric.lean: the fabric (R376 to R387): a flit on the wire and its keys, what a port accepts, puts
that arrive, replays and timers, the key switch-over, links.
-/

namespace Sys2Proof

namespace Machine

/-! ### What a port accepts (R383) -/

/-- Whether a flit type is sequenced (R380). -/
def flitSequenced : FlitType → Bool
  | .data => true
  | .end_ => true
  | .pdone => true
  | .cairn => true
  | _ => false

/-- A dropped flit counted. -/
def State.dropFlit (s : State) (p : PortId) : State := s.setPort p fun q => { q with flbad := satSucc q.flbad }

/-- The key epoch that a slot holds, if it holds a key (R382). -/
def Rx.epochOf (r : Rx) (slot : Bool) : Option Nat := if slot then r.slot1 else r.slot0

/-- Whether a flit authenticates: the slot it names holds a key, and its GCM tag is that of its content under that key
(R381, R382). -/
def State.macOk (s : State) (p : PortId) (f : Flit) : Bool :=
  match (s.ports[p.val]).rx.epochOf f.slot with
  | some e => decide ((s.flitSeal p false e f).2 = f.mac)
  | none => false

/-- An ACK of everything accepted. -/
def State.sendAck (s : State) (p : PortId) : State :=
  let q := s.ports[p.val]
  if q.maySeal then
    (s.setPort p fun q => { q with rx := { q.rx with unacked := 0 } }).emit p
      { s.flitTo .ack q.peer 0 0 0 0 [] with seq := q.rx.expected - 1 }
  else s

/-- A NAK of the expected seq. -/
def State.sendNak (s : State) (p : PortId) : State :=
  let q := s.ports[p.val]
  (s.sendCtl p { s.flitTo .nak q.peer 0 0 0 0 [] with seq := q.rx.expected }).setPort p fun q =>
    { q with rx := { q.rx with nakSent := some q.rx.expected } }

/-- Whether a port reads a flit: in service, authentic under a key it holds, for this module, of a type in use. -/
def State.authentic (s : State) (p : PortId) (f : Flit) : Bool :=
  s.macOk p f && decide (f.dst.toNat = s.modid.toNat % 2 ^ 20) &&
  match f.typ with
  | .reserved _ => false
  | _ => true

/-- A sequenced flit accepted: the next seq is expected, and the 64th unacknowledged flit is answered at once. -/
def State.accepted (s : State) (p : PortId) : State :=
  let s := s.setPort p fun q =>
    { q with rx := { q.rx with expected := q.rx.expected + 1, nakSent := none, unacked := q.rx.unacked + 1 } }
  if 64 ≤ (s.ports[p.val]).rx.unacked then s.sendAck p else s

/-- A NAK of the expected seq, unless one has named it: the next waits for NAK_TIMER (R383). -/
def State.nakOnce (s : State) (p : PortId) : State :=
  let r := (s.ports[p.val]).rx
  if r.nakSent = some r.expected then s else s.sendNak p

/-- A flit that arrives at a port (R383): dropped and counted, a duplicate, behind a gap, or read. `full` says that the receive
buffer has no room for it, and it has none either where the effect of reading it is none: the port cannot answer it. -/
def State.receive (s : State) (p : PortId) (f : Flit) (typ : FlitType) (full : Bool) (eff : State → Option State) : Out :=
  if (s.ports[p.val]).up = false then .next s
  else if !s.authentic p f then .next (s.dropFlit p)
  else if f.typ ≠ typ then .next s
  else if !flitSequenced typ then .next ((eff s).getD s)
  else
    let x := (s.ports[p.val]).rx.expected
    if f.seq = x then
      match (if full then none else eff s) with
      | some s' => .next (s'.accepted p)
      | none => .next (s.nakOnce p)
    else if (x - f.seq).toNat ≤ 2 ^ 23 then .next (s.sendAck p)
    else .next (s.nakOnce p)

/-! ### Puts (R384 to R386) -/

/-- DATA (R384). -/
def execData (p : PortId) (f : Flit) (full : Bool) (s : State) : Out :=
  s.receive p f .data full fun s => some (s.putData (some p) f.src f.srcCore f.tag f.core f.offset.toNat f.body)

/-- END: the put ends here, and a PDONE goes back on the link (R384, R386). -/
def execEnd_ (p : PortId) (f : Flit) (full : Bool) (s : State) : Out :=
  s.receive p f .end_ full fun s =>
    let r := s.putEnd (some p) f.src f.srcCore f.tag f.core (putEndOf f.body)
    r.1.sendSeq p (r.1.flitTo .pdone f.src f.srcCore f.core f.tag 0 r.2.body)

/-- A put of a task that a condition picks, among those not yet answered, gets its outcome. -/
def Cmd.answered (pick : XCmd → Bool) (d : PutDone) (q : Cmd) : Cmd :=
  match q.kind with
  | .xMove x =>
    if x.cfg.dspace = .remote ∧ x.putTag.isSome = true ∧ x.outcome = none ∧ pick x = true then
      { q with kind := .xMove { x with outcome := some (d.status, d.reason), value := d.value } } else q
  | _ => q

/-- The puts of a task: with its outcome a put gets the running value that x.ckget reports (R242). -/
def Task.answerPuts (pick : XCmd → Bool) (d : PutDone) (t : Task) : Task :=
  let cmds := t.cmds.map (Cmd.answered pick d)
  let hit (n : Nat) : Bool := (t.cmds.zip cmds).any fun e => decide (e.1.seq = n) && decide (e.1 ≠ e.2)
  { t with cmds := cmds, xlast := t.xlast.map fun l => if hit l.seq = true then { l with value := d.value } else l }

/-- PDONE: the put of the core, the tag and the destination module ends, wherever its task is now; it answers the oldest put of
the core with that tag and module that none has answered, which may have ended without a reply or be gone (R237, R273, R386). -/
def execPdone (p : PortId) (f : Flit) (full : Bool) (s : State) : Out :=
  s.receive p f .pdone full fun s =>
    let mine (e : SentPut) : Bool := decide (e.tag = f.tag) && decide (e.dst = f.src)
    let s1 := s.setPuts f.core fun l => l.eraseP mine
    some (if 2 ≤ ((s.core (coreAt f.core)).puts.filter mine).length then s1
      else s1.mapTasks (Task.answerPuts (fun x => x.sent && decide (x.putTag = some f.tag) && decide (x.source = some f.core) &&
        decide (x.cfg.dstModule = f.src.toNat)) (putDoneOf f.body)))

/-- The puts among a task's commands that have a number. -/
def Task.putsOf (seq : Nat) (t : Task) : List XCmd :=
  t.cmds.filterMap fun q => match q.kind with
    | .xMove x => if q.seq = seq ∧ x.cfg.dspace = .remote then some x else none
    | _ => none

/-- The puts of a number that a core answers for: those of its task, and those begun on it whose task is parked or has
moved (R238, R273). -/
def State.putsAt (s : State) (c : CoreId) (seq : Nat) : List XCmd :=
  (s.taskOf c).toList.flatMap (Task.putsOf seq) ++
  (s.allTasks.flatMap (Task.putsOf seq)).filter fun x => decide (x.source = some (BitVec.ofNat 9 c.val))

/-- Whether a put waits for its PDONE, its END acknowledged on its link (R386). -/
def State.unanswered (s : State) (c : CoreId) (x : XCmd) : Bool :=
  x.sent && x.outcome.isNone && x.port.any fun p => !((s.ports[p.val]).tx.buf.any fun f =>
    decide (f.typ = .end_) && decide (f.srcCore = x.sourceOr c) && decide (some f.tag = x.putTag))

/-- NOREPLY: a put whose END is acknowledged and which no PDONE has answered (R386), also while its task is parked. -/
def execNoreply (c : CoreId) (seq : Nat) (s : State) : Out :=
  match (s.putsAt c seq).find? (s.unanswered c) with
  | none => .next s
  | some x =>
    .next (s.mapTasks (Task.answerPuts (fun y => decide (y.putTag = x.putTag) && decide (y.source = x.source))
      { bytes := 0, value := 0, status := 2, reason := 7 }))

/-! ### Replays (R382, R383) -/

/-- A link that fails: every put in flight on it ends with LINKDOWN. Whether its destination has received the END of one is not
known, so that its tag counts as open (log 26). -/
def State.linkDown (s : State) (p : PortId) : State :=
  let s := s.setPort p fun q => { q with down := true }
  let s : State := { s with cores := s.cores.map fun k =>
    { k with puts := k.puts.map fun e => if e.port = some p then { e with ended := false } else e } }
  let d : PutDone := { bytes := 0, value := 0, status := 2, reason := 6 }
  s.mapTasks (Task.answerPuts (fun x => decide (x.port = some p)) d)

/-- A flit sealed under the key before the present one. -/
def State.emitOld (s : State) (p : PortId) (f : Flit) : State :=
  let q := s.ports[p.val]
  let f := { f with slot := decide (q.tx.epoch % 2 = 0), inv := BitVec.ofNat 48 q.tx.oldInv }
  let s := s.setPort p fun q => { q with tx := { q.tx with oldInv := q.tx.oldInv + 1 } }
  { s with notices := s.notices ++ [.flit p f (s.wire p (q.tx.epoch - 1) f)] }

/-- A flit sent again with a fresh invocation value, under the old key up to the CAIRN and under the new one behind it;
none when no key may seal it. -/
def State.resend (s : State) (p : PortId) (old : Bool) (f : Flit) : Option State :=
  let q := s.ports[p.val]
  if old then (if q.alive && !q.stopped then some (s.emitOld p f) else none)
  else if q.maySeal then some (s.emit p f) else none

/-- Flits sent again in order; from the first that cannot be sealed on, the replay waits for the key switch-over. -/
def State.resendAll (p : PortId) (cairn : Option (BitVec 24)) : Bool → List Flit → State → State
  | _, [], s => s
  | old, f :: rest, s =>
    match s.resend p old f with
    | none => s.setPort p fun q => { q with tx := { q.tx with resume := some f.seq } }
    | some s' => State.resendAll p cairn (old && decide (some f.seq ≠ cairn)) rest s'

/-- The flits of the buffer from a seq on, sent again. -/
def State.resendFrom (s : State) (p : PortId) (seq : BitVec 24) : State :=
  let tx := (s.ports[p.val]).tx
  let todo := tx.buf.dropWhile fun f => decide (f.seq ≠ seq)
  State.resendAll p tx.cairn (todo.any fun f => decide (some f.seq = tx.cairn)) todo
    (s.setPort p fun q => { q with tx := { q.tx with resume := none } })

/-- A replay from a seq of the buffer, or the link's failure after sixteen without progress. -/
def State.replayFrom (s : State) (p : PortId) (seq : BitVec 24) : State :=
  let tx := (s.ports[p.val]).tx
  if (tx.buf.all fun f => decide (f.seq ≠ seq)) then s
  else if 16 ≤ tx.replays then s.linkDown p
  else (s.setPort p fun q => { q with tx := { q.tx with replays := q.tx.replays + 1 } }).resendFrom p seq

/-- ACK: every flit up to the one it names leaves the replay buffer; the old key's slot is freed with the CAIRN (R382). -/
def execAck (p : PortId) (f : Flit) (s : State) : Out :=
  s.receive p f .ack false fun s =>
    let tx := (s.ports[p.val]).tx
    if tx.buf.any fun g => decide (g.seq = f.seq) then
      let rest := (tx.buf.dropWhile fun g => decide (g.seq ≠ f.seq)).drop 1
      let kept := tx.cairn.filter fun c => rest.any fun g => decide (g.seq = c)
      some (s.setPort p fun q => { q with tx := { q.tx with buf := rest, cairn := kept, replays := 0 } })
    else some s

/-- NAK (R383). -/
def execNak (p : PortId) (f : Flit) (s : State) : Out := s.receive p f .nak false fun s => some (s.replayFrom p f.seq)

/-- REPLAY_TIMER: a replay from the oldest unacknowledged flit (R383). -/
def execReplayTimer (p : PortId) (s : State) : Out :=
  match (s.ports[p.val]).tx.buf with
  | [] => .next s
  | f :: _ => .next (if (s.ports[p.val]).alive then s.replayFrom p f.seq else s)

/-- NAK_TIMER: the NAK of an expected seq once more (R383). -/
def execNakTimer (p : PortId) (s : State) : Out :=
  let q := s.ports[p.val]
  .next (if q.up && decide (q.rx.nakSent = some q.rx.expected) then s.sendNak p else s)

/-- ACK_TIMER (R383). -/
def execAckTimer (p : PortId) (s : State) : Out :=
  let q := s.ports[p.val]
  .next (if q.up && decide (0 < q.rx.unacked) then s.sendAck p else s)

/-! ### Key switch-over and links (R376, R381, R382) -/

/-- The body of a CAIRN (R380). -/
def cairnBody (epoch : Nat) : List Byte := bytesOf 8 (epoch % 2) ++ bytesOf 8 epoch

/-- KEY_SWITCHOVER: a CAIRN under the present key at the switch point, then the key of the next epoch; a replay that waited for
it goes on. While the CAIRN before is unacknowledged the idle slot is not free, and the port waits (log 72). -/
def execKeySwitchover (p : PortId) (s : State) : Out :=
  let q := s.ports[p.val]
  if q.alive && q.mustSwitch && q.tx.cairn.isNone && decide (q.tx.inv < q.limit.toNat) && decide (q.tx.buf.length < 256) then
    let f := { s.flitTo .cairn q.peer 0 0 0 0 (cairnBody (q.tx.epoch + 1)) with seq := q.tx.seq }
    let s := s.emit p f
    let s := s.setPort p fun q => { q with tx :=
      { seq := q.tx.seq + 1, epoch := q.tx.epoch + 1, inv := 0, oldInv := q.tx.inv, cairn := some q.tx.seq,
        buf := q.tx.buf ++ [f], replays := q.tx.replays, resume := q.tx.resume } }
    .next (match q.tx.resume with
      | some n => s.resendFrom p n
      | none => s)
  else .next s

/-- CAIRN: the receiver takes the new key into the slot it names and frees the other (R382). -/
def execCairn (p : PortId) (f : Flit) (full : Bool) (s : State) : Out :=
  s.receive p f .cairn full fun s =>
    let epoch := leNat ((f.body.drop 8).take 8)
    let one := bitAt (leNat (f.body.take 1)) 0
    some (s.setPort p fun q => { q with rx :=
      { q.rx with slot0 := if one then none else some epoch, slot1 := if one then some epoch else none } })

/-- LINK_BRING_UP: firmware installs secrets and salts for a peer it has authenticated (R376); both directions start at
epoch 0. -/
def execLinkBringUp (p : PortId) (peer : BitVec 20) (peerIsSwitch : Bool) (secretTx secretRx : List Byte)
    (saltTx saltRx : Word32) (s : State) : Out :=
  if s.boot = .off then .next s
  else
    .next (s.setPort p fun q =>
      { q with up := true, peer := peer, isSwitch := peerIsSwitch, secretTx := secretTx, secretRx := secretRx,
               saltTx := saltTx, saltRx := saltRx, tx := Port.reset.tx,
               rx := { Port.reset.rx with slot0 := some 0 } })

end Machine

end Sys2Proof
end

