-- ==== Sys2Proof/Machine/Front.lean ====
section
/-!
DEFINITION. Machine/Front.lean: the Pareto front accumulator (R244 to R254): its words, and P_ARRIVAL.
-/

namespace Sys2Proof

namespace Machine

/-! ### The configuration word (R245) -/

/-- Key count. -/
def PCfg.nkeys (p : PCfg) : Nat := bitsAt p.cfg.toNat 0 3 + 1
/-- Maximised keys. -/
def PCfg.dir (p : PCfg) : Nat := bitsAt p.cfg.toNat 8 8
/-- Active keys. -/
def PCfg.active (p : PCfg) : Nat := bitsAt p.cfg.toNat 16 8
/-- FP32 keys. -/
def PCfg.fp (p : PCfg) : BitVec 8 := BitVec.ofNat 8 (bitsAt p.cfg.toNat 24 8)
/-- Capacity. -/
def PCfg.cap (p : PCfg) : Nat := bitsAt p.cfg.toNat 32 6 + 1
/-- Whether equal tuples are suppressed. -/
def PCfg.dup (p : PCfg) : Bool := bitAt p.cfg.toNat 40

/-- Whether a configuration word is free of what raises RANGE. -/
def pcfgOk (w : Word64) : Bool :=
  let p : PCfg := { cfg := w, spill := none }
  let top := 2 ^ p.nkeys
  decide (w.toNat < 2 ^ 41) && decide (bitsAt w.toNat 3 5 = 0) &&
  decide (p.dir < top) && decide (p.active < top) && decide (p.fp.toNat < top) && decide (p.active ≠ 0) &&
  (!(decide (p.policy = 1) || decide (p.policy = 2)) || bitAt p.active 0)

/-- p.cfg (R245, R254). -/
def execPCfg (s : State) : Out :=
  setupWord .p none 1 (fun l t => do
    inRange (pcfgOk (l.getD 0 0))
    .ok { t with pcfg := { t.pcfg with cfg := l.getD 0 0 } }) s

/-- p.spill (R252, R254). -/
def execPSpill (s : State) : Out :=
  setupWord .p none 2 (fun l t => do
    inRange (decide (popped l 0 % 8 = 0) && decide (1 ≤ popped l 1) && decide (popped l 1 ≤ 65535))
    .ok { t with pcfg := { t.pcfg with spill := some (popped l 0, popped l 1) } }) s

/-- p.cnt (R254). -/
def execPCnt (s : State) : Out := queryWord .p (fun _ => .ok ()) (fun _ t => BitVec.ofNat 64 t.front.tuples.length) s

/-- p.stat (R254). -/
def execPStat (sel : BitVec 8) (s : State) : Out :=
  queryWord .p (fun _ => need (decide (sel.toNat ≤ 5)) (illegalOp 22)) (fun _ t =>
    (match sel.toNat with
      | 0 => t.front.inserted
      | 1 => t.front.dominated
      | 2 => t.front.dups
      | 3 => t.front.evicted
      | 4 => t.front.overflow
      | _ => t.front.spilled).setWidth 64) s

/-! ### Order and insertion (R246, R247) -/

/-- A key as a number that orders as the key does: every NaN above every number (R246). -/
def keyRank (isFp : Bool) (k : Word32) : Int :=
  if isFp then
    let m : Nat := k.toNat % 2 ^ 31
    if 0x7F800000 < m then 2 ^ 31 else if k.msb then -(m : Int) else (m : Int)
  else k.toInt

/-- Key n of a tuple, ranked so that greater is better. -/
def PCfg.merit (p : PCfg) (a : Tuple) (n : Nat) : Int :=
  let r := keyRank (p.fp.getLsbD n) (a.keys.getD n 0)
  if bitAt p.dir n then r else -r

/-- The active keys. -/
def PCfg.keys (p : PCfg) : List Nat := (List.range p.nkeys).filter fun n => bitAt p.active n

/-- Whether a tuple dominates another. -/
def PCfg.dominates (p : PCfg) (a b : Tuple) : Bool :=
  (p.keys.all fun n => decide (p.merit b n ≤ p.merit a n)) && (p.keys.any fun n => decide (p.merit b n < p.merit a n))

/-- Whether tuples are equal. -/
def PCfg.same (p : PCfg) (a b : Tuple) : Bool := p.keys.all fun n => decide (p.merit a n = p.merit b n)

/-- The index of the worst tuple on key 0, ties to the oldest. -/
def PCfg.worst (p : PCfg) (l : List Tuple) : Nat :=
  (l.zipIdx.foldl (fun (m : Option (Int × Nat)) e =>
    let r := p.merit e.1 0
    match m with
    | some (q, i) => if r < q then some (r, e.2) else some (q, i)
    | none => some (r, e.2)) none |>.map Prod.snd).getD 0

/-- What an insertion ends in: the front, and a victim to spill; or a full front under FAULT. -/
inductive Inserted where
  | done (f : Front) (victim : Option Tuple)
  | full
  deriving DecidableEq, Repr

/-- Insert (R247). -/
def insertTuple (p : PCfg) (f : Front) (a : Tuple) : Inserted :=
  let add (f : Front) : Front :=
    { f with tuples := f.tuples ++ [a], shape := some (p.nkeys, p.fp), inserted := f.inserted + 1 }
  if f.tuples.any fun h => p.dominates h a then .done { f with dominated := f.dominated + 1 } none
  else if p.dup && f.tuples.any fun h => p.same h a then .done { f with dups := f.dups + 1 } none
  else
    let keep := f.tuples.filter fun h => !p.dominates a h
    let f := { f with tuples := keep, evicted := f.evicted + BitVec.ofNat 32 (f.tuples.length - keep.length) }
    if keep.length = p.cap then
      let f := { f with overflow := f.overflow + 1 }
      match p.policy with
      | 3 => .full
      | 0 => .done f none
      | pol =>
        let v := p.worst (keep ++ [a])
        let victim := if pol = 2 then some ((keep ++ [a]).getD v a) else none
        let f := if pol = 2 then { f with spilled := f.spilled + 1 } else f
        if v = keep.length then .done f victim else .done (add { f with tuples := keep.eraseIdx v }) victim
    else .done (add f) none

/-- Bytes of a record (R250). -/
def PCfg.recBytes (p : PCfg) : Nat := 4 * (p.nkeys + 1)

/-- A record's bytes. -/
def Tuple.bytes (a : Tuple) : List Byte := (a.keys ++ [a.payload]).flatMap fun w => bytesOf 4 w.toNat

/-- The record that bytes hold. -/
def tupleOf (nkeys : Nat) (bs : List Byte) : Tuple :=
  let ws := (wordsOf 4 (nkeys + 1) bs).map (BitVec.ofNat 32)
  { keys := ws.take nkeys, payload := ws.getD nkeys 0 }

/-- SpillWrite (R252). -/
def spillWrite (c : CoreId) (p : PCfg) (a : Tuple) (s : State) (t : Task) : Res (State × Task) :=
  match p.spill with
  | none => .ok (s, t)
  | some (base, cap) => do
    let r ← s.readSpad c t base 4
    let w := leNat r.2
    let x ← r.1.writeSpad c t (base + 8 + w % cap * p.recBytes) a.bytes true
    x.1.writeSpad c x.2 base (bytesOf 8 ((w + 1) % 2 ^ 32)) true

/-! ### Acceptance (R248, R251, R254) -/

/-- RANGE and SHAPE of R248. -/
def pChecks (t : Task) (p : PCfg) : Res Unit := do
  inRange (decide (p.active ≠ 0) && (decide (p.policy ≠ 2) || p.spill.isSome))
  need (t.front.tuples.isEmpty ||
    (decide (t.front.shape = some (p.nkeys, p.fp)) && decide (t.front.tuples.length ≤ p.cap))) (illegalOp 28)

/-- The ring's range, when the policy spills (R252). -/
def PCfg.ring (p : PCfg) : Option (Nat × Nat) :=
  if p.policy = 2 then p.spill.map fun r => (r.1, r.1 + 8 + r.2 * p.recBytes) else none

/-- The ring below the lay-by. -/
def checkRing (p : PCfg) : Res Unit :=
  match p.ring with
  | some (lo, hi) => checkSpad lo hi
  | none => .ok ()

/-- The footprint of an insertion. -/
def State.pFoot (s : State) (c : CoreId) (t : Task) (p : PCfg) (lo hi : Nat) : List Foot :=
  s.withSidebands t ((if lo < hi then [⟨spadPa c lo, spadPa c hi, false, true⟩] else []) ++
    (match p.ring with
     | some (a, b) => [⟨spadPa c a, spadPa c b, true, true⟩]
     | none => []))

/-- Whether an earlier P command is pending (R248). -/
def Task.pBusy (t : Task) : Bool := t.cmds.any fun q => decide (q.eng = .p)

/-- p.clr (R244, R254). -/
def execPClr (s : State) : Out :=
  engWord .p 1 none (fun _ _ s t => if t.pBusy then .error .wait else .ok (s, { t with front := t.front.clear })) s

/-- p.ins (R247, R254). -/
def execPIns (s : State) : Out :=
  engWord .p 1 none (fun c h s t => do
    let r ← t.popWords .p 2
    let off := popped r.1 0
    let n := popped r.1 1
    inRange (decide (off % 4 = 0) && decide (n ≤ 65535))
    if t.pBusy then .error .wait
    let p := t.pcfg
    pChecks t p
    checkSpad off (off + max 1 (n * p.recBytes) : Nat)
    checkRing p
    if n = 0 then .ok (s, r.2)
    else .ok (s, r.2.accept h .p 0 (s.pFoot c t p off (off + n * p.recBytes)) [] (.pIns off n 0 p t.front))) s

/-- Size of the image at an offset, by the count its header holds now (R251); a count above 64, which rejects the image, is
taken as 64 (log 27). -/
def State.imageSize (s : State) (c : CoreId) (p : PCfg) (off : Nat) : Nat :=
  8 + p.recBytes * min 64 (bitsAt (s.readNat (spadPa c off) 4) 16 7)

/-- The waits and range checks of a word that reads an image: commands before it that write there complete first (R181). -/
def imageChecks (s : State) (c : CoreId) (t : Task) (p : PCfg) (off : Nat) : Res Unit := do
  checkSpad off (off + 8 : Nat)
  if t.blocked (spadPa c off) 8 false then .error .wait
  let n := s.imageSize c p off
  checkSpad off (off + n : Nat)
  if t.blocked (spadPa c off) n false then .error .wait

/-- p.merge (R251, R254). -/
def execPMerge (s : State) : Out :=
  engWord .p 1 none (fun c h s t => do
    let r ← t.popWords .p 1
    let off := popped r.1 0
    inRange (decide (off % 8 = 0))
    if t.pBusy then .error .wait
    let p := t.pcfg
    pChecks t p
    imageChecks s c t p off
    checkRing p
    .ok (s, r.2.accept h .p 0 (s.pFoot c t p off (off + s.imageSize c p off)) [] (.pMerge off none p t.front))) s

/-- The header of an image (R251). -/
def imageHeader (count nkeys : Nat) (fp : BitVec 8) : Nat := 0xA7 * 2 ^ 24 + count * 2 ^ 16 + (nkeys - 1) * 2 ^ 8 + fp.toNat

/-- An image's bytes. -/
def imageBytes (ts : List Tuple) (nkeys : Nat) (fp : BitVec 8) : List Byte :=
  let w0 := imageHeader ts.length nkeys fp
  let body := ts.flatMap Tuple.bytes
  bytesOf 4 w0 ++ bytesOf 4 ((wordsOf 4 body.length body).foldl (fun a w => a + w) w0) ++ body

/-- The tuples of an image, or its rejection as a checksum fault (R251, R265, R266). CTINFO of an image that no compare rejects
holds its check word and its sum all the same (log 27). -/
def readImage (s : State) (c : CoreId) (t : Task) (p : PCfg) (off : Nat) (load : Bool) : Res (State × List Tuple) := do
  let r ← s.readSpad c t off (s.imageSize c p off)
  let w0 := leNat (r.2.take 4)
  let chk := leNat ((r.2.drop 4).take 4)
  let body := r.2.drop 8
  let got := ((wordsOf 4 body.length body).foldl (fun a w => a + w) w0) % 2 ^ 32
  let count := bitsAt w0 16 7
  if count ≤ 64 ∧ w0 = imageHeader count p.nkeys p.fp ∧ chk = got ∧ (load = false ∨ count ≤ p.cap) then
    .ok (r.1, (List.range count).map fun i => tupleOf p.nkeys (body.drop (i * p.recBytes)))
  else ckStop ⟨7, false, 0, 0, 0, 0, 0, off, chk, got⟩

/-- A front word that acts when it is accepted (R173): its checks are precise, what it meets after them is an event of a
command. -/
def pNow (checks : CoreId → State → Task → Res (Nat × Task)) (act : CoreId → Nat → State → Task → Res (State × Task))
    (s : State) : Out :=
  match s.running with
  | none => .next s
  | some t =>
    let c := s.cur
    match checks c s (t.advance 1) with
    | .error e => .next (s.stopAt c t 4 e)
    | .ok (off, t1) =>
      match act c off s t1 with
      | .ok (s', t') => .next (s'.setTask c t')
      | .error (.event e) => .next (s.consume c t1 e ⟨4, 0, true, t.pc, t.regions.length⟩)
      | .error e => .next (s.stopAt c t 4 e)

/-- p.save (R251, R254). -/
def execPSave (s : State) : Out :=
  pNow (fun c _ t => do
    let r ← t.popWords .p 1
    let off := popped r.1 0
    inRange (decide (off % 8 = 0))
    if t.pBusy then .error .wait
    let k := (t.front.shape.map Prod.fst).getD t.pcfg.nkeys
    let n := 8 + 4 * (k + 1) * t.front.tuples.length
    checkSpad off (off + n : Nat)
    if s.blocked t (spadPa c off) n true then .error .wait
    .ok (off, r.2))
  (fun c off s t =>
    let sh := t.front.shape.getD (t.pcfg.nkeys, t.pcfg.fp)
    s.writeSpad c t off (imageBytes t.front.tuples sh.1 sh.2) true) s

/-- p.load (R251, R254). -/
def execPLoad (s : State) : Out :=
  pNow (fun c s t => do
    let r ← t.popWords .p 1
    let off := popped r.1 0
    inRange (decide (off % 8 = 0))
    if t.pBusy then .error .wait
    inRange (decide (t.pcfg.active ≠ 0))
    imageChecks s c t t.pcfg off
    .ok (off, r.2))
  (fun c off s t => do
    let r ← readImage s c t t.pcfg off true
    .ok (r.1, { t with front := { t.front with tuples := r.2, shape := some (t.pcfg.nkeys, t.pcfg.fp) } })) s

/-! ### P_ARRIVAL (R247, R249) -/

/-- The task as it stood before a front word, for a trap at it (R249): its stack, its front, its distance. -/
def Task.beforeP (t : Task) (cmd : Cmd) (args : List Nat) (before : Front) : Task :=
  ({ t with pc := cmd.addr, dist := t.dist - 1, front := before,
            pStack := args.map (BitVec.ofNat 64) ++ t.pStack } : Task).dropCmd cmd.seq

/-- One arrival inserted. -/
def insertUnit (c : CoreId) (s : State) (t : Task) (p : PCfg) (a : Tuple) : Res (Option (State × Task)) :=
  match insertTuple p t.front a with
  | .full => .ok none
  | .done f v => do
    let t := { t with front := f }
    match v with
    | none => .ok (some (s, t))
    | some w =>
      let r ← spillWrite c p w s t
      .ok (some r)

/-- The next arrival of a front command: none for a full front under FAULT. -/
def arrivalUnit (c : CoreId) (s : State) (t : Task) (cmd : Cmd) : Res (Option (State × Task)) :=
  match cmd.kind with
  | .pIns off n i p before => do
    let r ← s.readSpad c t (off + i * p.recBytes) p.recBytes
    let x ← insertUnit c r.1 t p (tupleOf p.nkeys r.2)
    .ok (x.map fun y => (y.1, if n ≤ i + 1 then y.2.dropCmd cmd.seq else y.2.setCmd cmd.seq (.pIns off n (i + 1) p before)))
  | .pMerge off todo p before => do
    let r ← match todo with
      | some l => .ok (s, l)
      | none => readImage s c t p off false
    match r.2 with
    | [] => .ok (some (r.1, t.dropCmd cmd.seq))
    | a :: rest =>
      let x ← insertUnit c r.1 t p a
      .ok (x.map fun y => (y.1, if rest.isEmpty then y.2.dropCmd cmd.seq
        else y.2.setCmd cmd.seq (.pMerge off (some rest) p before)))
  | _ => .error .wait

/-- P_ARRIVAL: the front command of a core takes its next arrival; a full front under FAULT raises PFULL at the word. -/
def execPArrival (c : CoreId) (s : State) : Out :=
  match s.engineTask c with
  | none => .next s
  | some t =>
    match t.cmds.find? fun q => decide (q.eng = .p) with
    | none => .next s
    | some cmd =>
      if !t.ready cmd then .next s
      else
        match arrivalUnit c s t cmd with
        | .ok (some (s', t')) => .next (s'.setTask c t')
        | .ok none =>
          let args : List Nat × Front := match cmd.kind with
            | .pIns off n _ _ b => ([off, n], b)
            | .pMerge off _ _ b => ([off], b)
            | _ => ([], t.front)
          .next (match s.pairStop c t (some 5) with
            | some e => (s.setCore c fun k => { k with pairFault := false }).failCmd c t e cmd
            | none => s.stopCmd c (t.beforeP cmd args.1 args.2) cmd (.trap ⟨0, 2, 29, 0, 0⟩))
        | .error e => .next (s.stopCmd c t cmd e)

end Machine

end Sys2Proof
end

