-- ==== Sys2Proof/Machine/Scalar.lean ====
section
/-!
DEFINITION. Machine/Scalar.lean: the register instructions of the C strand: arithmetic (R102 to R104), fields and
addresses (R105, R106), compares and predicates (R107, R108), mask transfers (R133). None sets a flag (R99).
-/

namespace Sys2Proof

namespace Machine

/-! ### The operations of R102, on 64 bits and on 32 -/

/-- An operation of the mould `op rd, ra, rb` (R102). -/
def alu3 (g : Guard) (w : Bool) (rd ra rb : XReg) (f64 : Word64 → Word64 → Word64) (f32 : Word32 → Word32 → Word32)
    (s : State) : Out :=
  cWord 2 g none (pureRegs (aluReg w rd ra rb f64 f32).run) s

/-- ADD (R102). -/
def execAdd (g : Guard) (w : Bool) (rd ra rb : XReg) (s : State) : Out := alu3 g w rd ra rb (· + ·) (· + ·) s
/-- SUB (R102). -/
def execSub (g : Guard) (w : Bool) (rd ra rb : XReg) (s : State) : Out := alu3 g w rd ra rb (· - ·) (· - ·) s
/-- AND (R102). -/
def execAnd (g : Guard) (w : Bool) (rd ra rb : XReg) (s : State) : Out := alu3 g w rd ra rb (· &&& ·) (· &&& ·) s
/-- OR (R102). -/
def execOr (g : Guard) (w : Bool) (rd ra rb : XReg) (s : State) : Out := alu3 g w rd ra rb (· ||| ·) (· ||| ·) s
/-- XOR (R102). -/
def execXor (g : Guard) (w : Bool) (rd ra rb : XReg) (s : State) : Out := alu3 g w rd ra rb (· ^^^ ·) (· ^^^ ·) s
/-- SHL: by b[5:0], or b[4:0] in 32 bits (R102). -/
def execShl (g : Guard) (w : Bool) (rd ra rb : XReg) (s : State) : Out :=
  alu3 g w rd ra rb shlOf shlOf s
/-- SHR (R102). -/
def execShr (g : Guard) (w : Bool) (rd ra rb : XReg) (s : State) : Out :=
  alu3 g w rd ra rb shrOf shrOf s
/-- SRA (R102). -/
def execSra (g : Guard) (w : Bool) (rd ra rb : XReg) (s : State) : Out :=
  alu3 g w rd ra rb sraOf sraOf s
/-- MUL (R102). -/
def execMul (g : Guard) (w : Bool) (rd ra rb : XReg) (s : State) : Out := alu3 g w rd ra rb (· * ·) (· * ·) s
/-- MULH (R102). -/
def execMulh (g : Guard) (w : Bool) (rd ra rb : XReg) (s : State) : Out := alu3 g w rd ra rb mulhOf mulhOf s
/-- MULHU (R102). -/
def execMulhu (g : Guard) (w : Bool) (rd ra rb : XReg) (s : State) : Out := alu3 g w rd ra rb mulhuOf mulhuOf s
/-- DIV (R102, R103). -/
def execDiv (g : Guard) (w : Bool) (rd ra rb : XReg) (s : State) : Out := alu3 g w rd ra rb divOf divOf s
/-- DIVU (R102, R103). -/
def execDivu (g : Guard) (w : Bool) (rd ra rb : XReg) (s : State) : Out := alu3 g w rd ra rb divuOf divuOf s
/-- REM (R102, R103). -/
def execRem (g : Guard) (w : Bool) (rd ra rb : XReg) (s : State) : Out := alu3 g w rd ra rb remOf remOf s
/-- REMU (R102, R103). -/
def execRemu (g : Guard) (w : Bool) (rd ra rb : XReg) (s : State) : Out := alu3 g w rd ra rb remuOf remuOf s
/-- MIN (R102). -/
def execMin (g : Guard) (w : Bool) (rd ra rb : XReg) (s : State) : Out := alu3 g w rd ra rb minOf minOf s
/-- MAX (R102). -/
def execMax (g : Guard) (w : Bool) (rd ra rb : XReg) (s : State) : Out := alu3 g w rd ra rb maxOf maxOf s
/-- MINU (R102). -/
def execMinu (g : Guard) (w : Bool) (rd ra rb : XReg) (s : State) : Out := alu3 g w rd ra rb minuOf minuOf s
/-- MAXU (R102). -/
def execMaxu (g : Guard) (w : Bool) (rd ra rb : XReg) (s : State) : Out := alu3 g w rd ra rb maxuOf maxuOf s
/-- CLZ (R102). -/
def execClz (g : Guard) (w : Bool) (rd ra : XReg) (s : State) : Out :=
  alu3 g w rd ra 0 clzVal clzVal s
/-- CTZ (R102). -/
def execCtz (g : Guard) (w : Bool) (rd ra : XReg) (s : State) : Out :=
  alu3 g w rd ra 0 ctzVal ctzVal s
/-- POPC (R102). -/
def execPopc (g : Guard) (w : Bool) (rd ra : XReg) (s : State) : Out :=
  alu3 g w rd ra 0 popcVal popcVal s
/-- ROL (R102). -/
def execRol (g : Guard) (w : Bool) (rd ra rb : XReg) (s : State) : Out :=
  alu3 g w rd ra rb rolOf rolOf s

/-! ### Immediate forms (R104) -/

/-- An immediate form: 64 bits, with the sign-extended imm6 or literal as second operand. -/
def aluImm (n : Nat) (g : Guard) (rd ra : XReg) (i : Word64) (f : Word64 → Word64 → Word64) (s : State) : Out :=
  cWord n g none (pureRegs (immReg rd ra i f).run) s

/-- ADDI (R104). -/
def execAddi (g : Guard) (rd ra : XReg) (imm : BitVec 6) (s : State) : Out :=
  aluImm 2 g rd ra (imm.signExtend 64) (· + ·) s
/-- MOVI (R104). -/
def execMovi (g : Guard) (rd : XReg) (imm : BitVec 6) (s : State) : Out :=
  aluImm 2 g rd 0 (imm.signExtend 64) immOf s
/-- ANDI (R104). -/
def execAndi (g : Guard) (rd ra : XReg) (imm : BitVec 6) (s : State) : Out :=
  aluImm 2 g rd ra (imm.signExtend 64) (· &&& ·) s
/-- ORI (R104). -/
def execOri (g : Guard) (rd ra : XReg) (imm : BitVec 6) (s : State) : Out :=
  aluImm 2 g rd ra (imm.signExtend 64) (· ||| ·) s
/-- XORI (R104). -/
def execXori (g : Guard) (rd ra : XReg) (imm : BitVec 6) (s : State) : Out :=
  aluImm 2 g rd ra (imm.signExtend 64) (· ^^^ ·) s
/-- SHLI (R104). -/
def execShli (g : Guard) (rd ra : XReg) (imm : BitVec 6) (s : State) : Out :=
  aluImm 2 g rd ra (imm.signExtend 64) shlOf s
/-- SHRI (R104). -/
def execShri (g : Guard) (rd ra : XReg) (imm : BitVec 6) (s : State) : Out :=
  aluImm 2 g rd ra (imm.signExtend 64) shrOf s
/-- SRAI (R104). -/
def execSrai (g : Guard) (rd ra : XReg) (imm : BitVec 6) (s : State) : Out :=
  aluImm 2 g rd ra (imm.signExtend 64) sraOf s
/-- ADDI with a literal (R104). -/
def execAddiLit (g : Guard) (rd ra : XReg) (lit : Word32) (s : State) : Out :=
  aluImm 4 g rd ra (lit.signExtend 64) (· + ·) s
/-- MOVI with a literal (R104). -/
def execMoviLit (g : Guard) (rd : XReg) (lit : Word32) (s : State) : Out :=
  aluImm 4 g rd 0 (lit.signExtend 64) immOf s
/-- ANDI with a literal (R104). -/
def execAndiLit (g : Guard) (rd ra : XReg) (lit : Word32) (s : State) : Out :=
  aluImm 4 g rd ra (lit.signExtend 64) (· &&& ·) s
/-- ORI with a literal (R104). -/
def execOriLit (g : Guard) (rd ra : XReg) (lit : Word32) (s : State) : Out :=
  aluImm 4 g rd ra (lit.signExtend 64) (· ||| ·) s
/-- XORI with a literal (R104). -/
def execXoriLit (g : Guard) (rd ra : XReg) (lit : Word32) (s : State) : Out :=
  aluImm 4 g rd ra (lit.signExtend 64) (· ^^^ ·) s
/-- SHLI with a literal (R104). -/
def execShliLit (g : Guard) (rd ra : XReg) (lit : Word32) (s : State) : Out :=
  aluImm 4 g rd ra (lit.signExtend 64) shlOf s
/-- SHRI with a literal (R104). -/
def execShriLit (g : Guard) (rd ra : XReg) (lit : Word32) (s : State) : Out :=
  aluImm 4 g rd ra (lit.signExtend 64) shrOf s
/-- SRAI with a literal (R104). -/
def execSraiLit (g : Guard) (rd ra : XReg) (lit : Word32) (s : State) : Out :=
  aluImm 4 g rd ra (lit.signExtend 64) sraOf s

/-! ### Fields and addresses (R105, R106) -/

/-- SEXT (R105). -/
def execSext (g : Guard) (rd ra : XReg) (n : BitVec 6) (s : State) : Out :=
  cWord 2 g none (pureRegs (unReg rd ra (signLow n.toNat)).run) s
/-- ZEXT (R105). -/
def execZext (g : Guard) (rd ra : XReg) (n : BitVec 6) (s : State) : Out :=
  cWord 2 g none (pureRegs (unReg rd ra (zeroLow n.toNat)).run) s
/-- BFX (R105). -/
def execBfx (g : Guard) (rd ra : XReg) (pos : BitVec 6) (wid : BitVec 7) (s : State) : Out :=
  cWord 4 g none (pureRegs (unReg rd ra (fieldOf pos.toNat wid.toNat)).run) s
/-- BFI: rd is read and written (R105). -/
def execBfi (g : Guard) (rd ra : XReg) (pos : BitVec 6) (wid : BitVec 7) (s : State) : Out :=
  cWord 4 g none (pureRegs (binReg rd rd ra (insertField pos.toNat wid.toNat)).run) s
/-- LEA (R106). -/
def execLea (g : Guard) (sh : BitVec 3) (rd ra rb : XReg) (s : State) : Out :=
  cWord 2 g none (pureRegs (binReg rd ra rb (scaledSum sh)).run) s

/-! ### Compares and predicates (R107, R108) -/

/-- CMP (R107). -/
def execCmp (g : Guard) (c : Cond) (pd pe : PReg) (ra rb : XReg) (s : State) : Out :=
  cWord 2 g none (pureRegs (cmpReg c pd pe ra rb).run) s
/-- CMPI (R107). -/
def execCmpi (g : Guard) (c : Cond) (pd pe : PReg) (ra : XReg) (imm : BitVec 5) (s : State) : Out :=
  cWord 2 g none (pureRegs (cmpiReg c pd pe ra (cmpImm c imm)).run) s
/-- CMPI with a literal, sign-extended (R107). -/
def execCmpiLit (g : Guard) (c : Cond) (pd pe : PReg) (ra : XReg) (lit : Word32) (s : State) : Out :=
  cWord 4 g none (pureRegs (cmpiReg c pd pe ra (lit.signExtend 64)).run) s

/-- A predicate operation (R108). -/
def plog (g : Guard) (pd pa pb : PReg) (f : Bool → Bool → Bool) (s : State) : Out :=
  cWord 2 g none (pureRegs (plogReg pd pa pb f).run) s

/-- PAND (R108). -/
def execPand (g : Guard) (pd pa pb : PReg) (s : State) : Out := plog g pd pa pb (· && ·) s
/-- POR (R108). -/
def execPor (g : Guard) (pd pa pb : PReg) (s : State) : Out := plog g pd pa pb (· || ·) s
/-- PXOR (R108). -/
def execPxor (g : Guard) (pd pa pb : PReg) (s : State) : Out := plog g pd pa pb (· != ·) s
/-- PANDN (R108). -/
def execPandn (g : Guard) (pd pa pb : PReg) (s : State) : Out := plog g pd pa pb (fun a b => a && !b) s
/-- PNOT (R108). -/
def execPnot (g : Guard) (pd pa : PReg) (s : State) : Out := plog g pd pa 0 (fun a _ => !a) s
/-- PMOV (R108). -/
def execPmov (g : Guard) (pd pa : PReg) (s : State) : Out := plog g pd pa 0 (fun a _ => a) s
/-- PSET (R108). -/
def execPset (g : Guard) (pd : PReg) (s : State) : Out := plog g pd 0 0 (fun _ _ => true) s
/-- PCLR (R108). -/
def execPclr (g : Guard) (pd : PReg) (s : State) : Out := plog g pd 0 0 (fun _ _ => false) s

/-! ### Mask transfers and VGET (R132, R133) -/

/-- KPOPC (R133). -/
def execKpopc (g : Guard) (rd : XReg) (ka : KReg) (s : State) : Out :=
  cWord 2 g none (pureRegs (maskCount rd ka popcOf).run) s
/-- KFIRST (R133). -/
def execKfirst (g : Guard) (rd : XReg) (ka : KReg) (s : State) : Out :=
  cWord 2 g none (pureRegs (maskCount rd ka ctzOf).run) s
/-- KGETW (R133). -/
def execKgetw (g : Guard) (rd : XReg) (ka : KReg) (rb : XReg) (s : State) : Out :=
  cWord 2 g none (regs fun _ t =>
    let i := (t.getX rb).toNat
    if 15 < i then illegalOp 6 else .ok (t.setX rd (maskWord (t.getK ka) i))) s

/-- KSETW (R133). -/
def execKsetw (g : Guard) (kd : KReg) (ra rb : XReg) (s : State) : Out :=
  cWord 2 g none (regs fun _ t =>
    let i := (t.getX rb).toNat
    if 15 < i then illegalOp 6 else .ok (t.setK kd (setMaskWord (t.getK kd) i (t.getX ra)))) s

/-- VGET: the head entry's lane, sign-extended; the queue stays (R13, R132). -/
def execVget (g : Guard) (sz : LaneSize) (rd : XReg) (va : VReg) (rb : XReg) (s : State) : Out :=
  cWord 2 g none (regs fun _ t =>
    match t.queue va with
    | [] => raise 3 0 0
    | e :: _ =>
      let i := (t.getX rb).toNat
      if 4096 / laneSizeBits sz ≤ i then illegalOp 6 else .ok (t.setX rd (signedLane sz e i))) s

end Machine

end Sys2Proof
end

