-- ==== Sys2Proof/Machine/VChk.lean ====
section
/-!
DEFINITION. Machine/VChk.lean: the checksum instructions (R169) and mask logic (R170).
-/

namespace Sys2Proof

namespace Machine

/-- VCKS: the data with segment words recomputed (R169). -/
def execVcks (f : VF) (s : State) : Out :=
  vWord f none (queueBody (vfSrcs f 1) [f.vd] true fun t => ([mkEntry (etFmt f.et) (t.headBits f.va)], id)) s

/-- VCKV: the segment words compared with the data; a mismatch pops nothing (R169). -/
def execVckv (f : VF) (s : State) : Out :=
  vWord f none (fun _ h s t => do
    let p ← t.takeSources (vfSrcs f 1) []
    checkEntry (t.head f.va) (etFmt f.et) h
    .ok (s, p)) s

/-- VCKX: the segment words as INT32 lanes (R169). -/
def execVckx (f : VF) (s : State) : Out :=
  vWord f none (queueBody (vfSrcs f 1) [f.vd] true fun t =>
    ([mkEntry (etFmt 2) (packLanes 32 (((t.head f.va).under (etFmt f.et)).segs.map BitVec.toNat))], id)) s

/-- VCKI: data with segment words from the INT32 lanes of vb, unverified (R169). -/
def execVcki (f : VF) (s : State) : Out :=
  vWord f none (queueBody (vfSrcs f 2) [f.vd] true fun t =>
    let n := (lanesIn (etWidth f.et) + 63) / 64
    ([{ fmt := etFmt f.et, data := (t.head f.va).data,
        segs := (List.range n).map fun j => BitVec.ofNat 32 (laneAt 32 (t.headBits f.vb) j) }], id)) s

/-- A mask-logic instruction (R170, R19). -/
def maskBody (f : VF) (op : MaskBits → MaskBits → MaskBits) : Body :=
  pureRegs (maskReg3 f op).run

/-- KAND (R170). -/
def execKand (f : VF) (s : State) : Out := vWord f none (maskBody f (· &&& ·)) s
/-- KOR (R170). -/
def execKor (f : VF) (s : State) : Out := vWord f none (maskBody f (· ||| ·)) s
/-- KXOR (R170). -/
def execKxor (f : VF) (s : State) : Out := vWord f none (maskBody f (· ^^^ ·)) s
/-- KANDN (R170). -/
def execKandn (f : VF) (s : State) : Out := vWord f none (maskBody f fun a b => a &&& ~~~b) s
/-- KNOT (R170). -/
def execKnot (f : VF) (s : State) : Out := vWord f none (maskBody f fun a _ => ~~~a) s
/-- KMOV (R170). -/
def execKmov (f : VF) (s : State) : Out := vWord f none (maskBody f fun a _ => a) s
/-- KSET (R170). -/
def execKset (f : VF) (s : State) : Out := vWord f none (maskBody f fun _ _ => BitVec.allOnes 1024) s
/-- KCLR (R170). -/
def execKclr (f : VF) (s : State) : Out := vWord f none (maskBody f fun _ _ => 0) s

end Machine

end Sys2Proof
end

