-- ==== Sys2Proof/Machine/Dispatch.lean ====
section
/-!
DEFINITION. Machine/Dispatch.lean: one arm per constructor of `Instr`, each a direct call of its meaning.
-/

namespace Sys2Proof

namespace Machine

/-- What an instruction, engine word or event does to a state. -/
def exec (i : Instr) (s : State) : Host.Outcome State Fault Refusal :=
  match i with
  | .nop g => Sys2Proof.Machine.execNop g s
  | .trap g code => Sys2Proof.Machine.execTrap g code s
  | .brk g code => Sys2Proof.Machine.execBrk g code s
  | .mile g zt ef vq => Sys2Proof.Machine.execMile g zt ef vq s
  | .rep g cntLess1 d a b c => Sys2Proof.Machine.execRep g cntLess1 d a b c s
  | .ntdrain g => Sys2Proof.Machine.execNtdrain g s
  | .exit g => Sys2Proof.Machine.execExit g s
  | .add g w rd ra rb => Sys2Proof.Machine.execAdd g w rd ra rb s
  | .sub g w rd ra rb => Sys2Proof.Machine.execSub g w rd ra rb s
  | .and g w rd ra rb => Sys2Proof.Machine.execAnd g w rd ra rb s
  | .or g w rd ra rb => Sys2Proof.Machine.execOr g w rd ra rb s
  | .xor g w rd ra rb => Sys2Proof.Machine.execXor g w rd ra rb s
  | .shl g w rd ra rb => Sys2Proof.Machine.execShl g w rd ra rb s
  | .shr g w rd ra rb => Sys2Proof.Machine.execShr g w rd ra rb s
  | .sra g w rd ra rb => Sys2Proof.Machine.execSra g w rd ra rb s
  | .addi g rd ra imm => Sys2Proof.Machine.execAddi g rd ra imm s
  | .movi g rd imm => Sys2Proof.Machine.execMovi g rd imm s
  | .andi g rd ra imm => Sys2Proof.Machine.execAndi g rd ra imm s
  | .ori g rd ra imm => Sys2Proof.Machine.execOri g rd ra imm s
  | .xori g rd ra imm => Sys2Proof.Machine.execXori g rd ra imm s
  | .shli g rd ra imm => Sys2Proof.Machine.execShli g rd ra imm s
  | .shri g rd ra imm => Sys2Proof.Machine.execShri g rd ra imm s
  | .srai g rd ra imm => Sys2Proof.Machine.execSrai g rd ra imm s
  | .addiLit g rd ra lit => Sys2Proof.Machine.execAddiLit g rd ra lit s
  | .moviLit g rd lit => Sys2Proof.Machine.execMoviLit g rd lit s
  | .andiLit g rd ra lit => Sys2Proof.Machine.execAndiLit g rd ra lit s
  | .oriLit g rd ra lit => Sys2Proof.Machine.execOriLit g rd ra lit s
  | .xoriLit g rd ra lit => Sys2Proof.Machine.execXoriLit g rd ra lit s
  | .shliLit g rd ra lit => Sys2Proof.Machine.execShliLit g rd ra lit s
  | .shriLit g rd ra lit => Sys2Proof.Machine.execShriLit g rd ra lit s
  | .sraiLit g rd ra lit => Sys2Proof.Machine.execSraiLit g rd ra lit s
  | .mul g w rd ra rb => Sys2Proof.Machine.execMul g w rd ra rb s
  | .mulh g w rd ra rb => Sys2Proof.Machine.execMulh g w rd ra rb s
  | .mulhu g w rd ra rb => Sys2Proof.Machine.execMulhu g w rd ra rb s
  | .div g w rd ra rb => Sys2Proof.Machine.execDiv g w rd ra rb s
  | .divu g w rd ra rb => Sys2Proof.Machine.execDivu g w rd ra rb s
  | .rem g w rd ra rb => Sys2Proof.Machine.execRem g w rd ra rb s
  | .remu g w rd ra rb => Sys2Proof.Machine.execRemu g w rd ra rb s
  | .min g w rd ra rb => Sys2Proof.Machine.execMin g w rd ra rb s
  | .max g w rd ra rb => Sys2Proof.Machine.execMax g w rd ra rb s
  | .minu g w rd ra rb => Sys2Proof.Machine.execMinu g w rd ra rb s
  | .maxu g w rd ra rb => Sys2Proof.Machine.execMaxu g w rd ra rb s
  | .clz g w rd ra => Sys2Proof.Machine.execClz g w rd ra s
  | .ctz g w rd ra => Sys2Proof.Machine.execCtz g w rd ra s
  | .popc g w rd ra => Sys2Proof.Machine.execPopc g w rd ra s
  | .rol g w rd ra rb => Sys2Proof.Machine.execRol g w rd ra rb s
  | .sext g rd ra n => Sys2Proof.Machine.execSext g rd ra n s
  | .zext g rd ra n => Sys2Proof.Machine.execZext g rd ra n s
  | .bfx g rd ra pos wid => Sys2Proof.Machine.execBfx g rd ra pos wid s
  | .bfi g rd ra pos wid => Sys2Proof.Machine.execBfi g rd ra pos wid s
  | .lea g sh rd ra rb => Sys2Proof.Machine.execLea g sh rd ra rb s
  | .cmp g c pd pe ra rb => Sys2Proof.Machine.execCmp g c pd pe ra rb s
  | .cmpi g c pd pe ra imm => Sys2Proof.Machine.execCmpi g c pd pe ra imm s
  | .cmpiLit g c pd pe ra lit => Sys2Proof.Machine.execCmpiLit g c pd pe ra lit s
  | .pand g pd pa pb => Sys2Proof.Machine.execPand g pd pa pb s
  | .por g pd pa pb => Sys2Proof.Machine.execPor g pd pa pb s
  | .pxor g pd pa pb => Sys2Proof.Machine.execPxor g pd pa pb s
  | .pandn g pd pa pb => Sys2Proof.Machine.execPandn g pd pa pb s
  | .pnot g pd pa => Sys2Proof.Machine.execPnot g pd pa s
  | .pmov g pd pa => Sys2Proof.Machine.execPmov g pd pa s
  | .pset g pd => Sys2Proof.Machine.execPset g pd s
  | .pclr g pd => Sys2Proof.Machine.execPclr g pd s
  | .br g disp => Sys2Proof.Machine.execBr g disp s
  | .call g disp => Sys2Proof.Machine.execCall g disp s
  | .jmp g ra => Sys2Proof.Machine.execJmp g ra s
  | .callr g rd ra => Sys2Proof.Machine.execCallr g rd ra s
  | .ret g ra => Sys2Proof.Machine.execRet g ra s
  | .ldB g cls sx rd ra disp => Sys2Proof.Machine.execLdB g cls sx rd ra disp s
  | .ldH g cls sx rd ra disp => Sys2Proof.Machine.execLdH g cls sx rd ra disp s
  | .ldW g cls sx rd ra disp => Sys2Proof.Machine.execLdW g cls sx rd ra disp s
  | .ldD g cls rd ra disp => Sys2Proof.Machine.execLdD g cls rd ra disp s
  | .ldBLit g cls sx rd ra lit => Sys2Proof.Machine.execLdBLit g cls sx rd ra lit s
  | .ldHLit g cls sx rd ra lit => Sys2Proof.Machine.execLdHLit g cls sx rd ra lit s
  | .ldWLit g cls sx rd ra lit => Sys2Proof.Machine.execLdWLit g cls sx rd ra lit s
  | .ldDLit g cls rd ra lit => Sys2Proof.Machine.execLdDLit g cls rd ra lit s
  | .stB g cls nt rs ra disp => Sys2Proof.Machine.execStB g cls nt rs ra disp s
  | .stH g cls nt rs ra disp => Sys2Proof.Machine.execStH g cls nt rs ra disp s
  | .stW g cls nt rs ra disp => Sys2Proof.Machine.execStW g cls nt rs ra disp s
  | .stD g cls nt rs ra disp => Sys2Proof.Machine.execStD g cls nt rs ra disp s
  | .stBLit g cls nt rs ra lit => Sys2Proof.Machine.execStBLit g cls nt rs ra lit s
  | .stHLit g cls nt rs ra lit => Sys2Proof.Machine.execStHLit g cls nt rs ra lit s
  | .stWLit g cls nt rs ra lit => Sys2Proof.Machine.execStWLit g cls nt rs ra lit s
  | .stDLit g cls nt rs ra lit => Sys2Proof.Machine.execStDLit g cls nt rs ra lit s
  | .aadd g w rd ra rb => Sys2Proof.Machine.execAadd g w rd ra rb s
  | .aand g w rd ra rb => Sys2Proof.Machine.execAand g w rd ra rb s
  | .aor g w rd ra rb => Sys2Proof.Machine.execAor g w rd ra rb s
  | .axor g w rd ra rb => Sys2Proof.Machine.execAxor g w rd ra rb s
  | .amin g w rd ra rb => Sys2Proof.Machine.execAmin g w rd ra rb s
  | .amax g w rd ra rb => Sys2Proof.Machine.execAmax g w rd ra rb s
  | .aswap g w rd ra rb => Sys2Proof.Machine.execAswap g w rd ra rb s
  | .cas g w rd ra rb => Sys2Proof.Machine.execCas g w rd ra rb s
  | .spawn g rd ra rb => Sys2Proof.Machine.execSpawn g rd ra rb s
  | .launch g rd ra => Sys2Proof.Machine.execLaunch g rd ra s
  | .join g rd ra rb n => Sys2Proof.Machine.execJoin g rd ra rb n s
  | .cancel g rd ra => Sys2Proof.Machine.execCancel g rd ra s
  | .waitc g ra rb => Sys2Proof.Machine.execWaitc g ra rb s
  | .bar g => Sys2Proof.Machine.execBar g s
  | .tid g rd => Sys2Proof.Machine.execTid g rd s
  | .ctopen g ra => Sys2Proof.Machine.execCtopen g ra s
  | .ctclose g => Sys2Proof.Machine.execCtclose g s
  | .csrr g rd n => Sys2Proof.Machine.execCsrr g rd n s
  | .csrw g rs n => Sys2Proof.Machine.execCsrw g rs n s
  | .csrs g rs n => Sys2Proof.Machine.execCsrs g rs n s
  | .csrc g rs n => Sys2Proof.Machine.execCsrc g rs n s
  | .vget g sz rd va rb => Sys2Proof.Machine.execVget g sz rd va rb s
  | .kpopc g rd ka => Sys2Proof.Machine.execKpopc g rd ka s
  | .kfirst g rd ka => Sys2Proof.Machine.execKfirst g rd ka s
  | .kgetw g rd ka rb => Sys2Proof.Machine.execKgetw g rd ka rb s
  | .ksetw g kd ra rb => Sys2Proof.Machine.execKsetw g kd ra rb s
  | .future head rest => Sys2Proof.Machine.execFuture head rest s
  | .vld f => Sys2Proof.Machine.execVld f s
  | .vlds f => Sys2Proof.Machine.execVlds f s
  | .vldg f => Sys2Proof.Machine.execVldg f s
  | .vldt f => Sys2Proof.Machine.execVldt f s
  | .vldth f => Sys2Proof.Machine.execVldth f s
  | .vldb f => Sys2Proof.Machine.execVldb f s
  | .vst f => Sys2Proof.Machine.execVst f s
  | .vsts f => Sys2Proof.Machine.execVsts f s
  | .vstx f => Sys2Proof.Machine.execVstx f s
  | .vstt f => Sys2Proof.Machine.execVstt f s
  | .vstn f => Sys2Proof.Machine.execVstn f s
  | .vamo op f => Sys2Proof.Machine.execVamo op f s
  | .vadd f => Sys2Proof.Machine.execVadd f s
  | .vsub f => Sys2Proof.Machine.execVsub f s
  | .vmul f => Sys2Proof.Machine.execVmul f s
  | .vmulh f => Sys2Proof.Machine.execVmulh f s
  | .vmin f => Sys2Proof.Machine.execVmin f s
  | .vmax f => Sys2Proof.Machine.execVmax f s
  | .vabs f => Sys2Proof.Machine.execVabs f s
  | .vneg f => Sys2Proof.Machine.execVneg f s
  | .vmad f => Sys2Proof.Machine.execVmad f s
  | .vmsub f => Sys2Proof.Machine.execVmsub f s
  | .vaddsat f => Sys2Proof.Machine.execVaddsat f s
  | .vsubsat f => Sys2Proof.Machine.execVsubsat f s
  | .vand f => Sys2Proof.Machine.execVand f s
  | .vor f => Sys2Proof.Machine.execVor f s
  | .vxor f => Sys2Proof.Machine.execVxor f s
  | .vandn f => Sys2Proof.Machine.execVandn f s
  | .vnot f => Sys2Proof.Machine.execVnot f s
  | .vshl f => Sys2Proof.Machine.execVshl f s
  | .vshr f => Sys2Proof.Machine.execVshr f s
  | .vsra f => Sys2Proof.Machine.execVsra f s
  | .vpopc f => Sys2Proof.Machine.execVpopc f s
  | .vclz f => Sys2Proof.Machine.execVclz f s
  | .vctz f => Sys2Proof.Machine.execVctz f s
  | .vbrev f => Sys2Proof.Machine.execVbrev f s
  | .vfadd f => Sys2Proof.Machine.execVfadd f s
  | .vfsub f => Sys2Proof.Machine.execVfsub f s
  | .vfmul f => Sys2Proof.Machine.execVfmul f s
  | .vfmin f => Sys2Proof.Machine.execVfmin f s
  | .vfmax f => Sys2Proof.Machine.execVfmax f s
  | .vfabs f => Sys2Proof.Machine.execVfabs f s
  | .vfneg f => Sys2Proof.Machine.execVfneg f s
  | .vfsgn f => Sys2Proof.Machine.execVfsgn f s
  | .vfma f => Sys2Proof.Machine.execVfma f s
  | .vfms f => Sys2Proof.Machine.execVfms f s
  | .vfnma f => Sys2Proof.Machine.execVfnma f s
  | .vfnms f => Sys2Proof.Machine.execVfnms f s
  | .vrsqa f => Sys2Proof.Machine.execVrsqa f s
  | .vrcpa f => Sys2Proof.Machine.execVrcpa f s
  | .vexpa f => Sys2Proof.Machine.execVexpa f s
  | .vloga f => Sys2Proof.Machine.execVloga f s
  | .vsqrt f => Sys2Proof.Machine.execVsqrt f s
  | .vfdiv f => Sys2Proof.Machine.execVfdiv f s
  | .vcmp c f => Sys2Proof.Machine.execVcmp c f s
  | .vsel f => Sys2Proof.Machine.execVsel f s
  | .vmov f => Sys2Proof.Machine.execVmov f s
  | .viota f => Sys2Proof.Machine.execViota f s
  | .vbcast f => Sys2Proof.Machine.execVbcast f s
  | .vpop f => Sys2Proof.Machine.execVpop f s
  | .vperm f => Sys2Proof.Machine.execVperm f s
  | .vslideup f => Sys2Proof.Machine.execVslideup f s
  | .vslidedn f => Sys2Proof.Machine.execVslidedn f s
  | .vzip f => Sys2Proof.Machine.execVzip f s
  | .vunzip f => Sys2Proof.Machine.execVunzip f s
  | .vrev f => Sys2Proof.Machine.execVrev f s
  | .vrsum f => Sys2Proof.Machine.execVrsum f s
  | .vrmin f => Sys2Proof.Machine.execVrmin f s
  | .vrmax f => Sys2Proof.Machine.execVrmax f s
  | .vfrsum f => Sys2Proof.Machine.execVfrsum f s
  | .vfrmin f => Sys2Proof.Machine.execVfrmin f s
  | .vfrmax f => Sys2Proof.Machine.execVfrmax f s
  | .vrand f => Sys2Proof.Machine.execVrand f s
  | .vror f => Sys2Proof.Machine.execVror f s
  | .vwadd f => Sys2Proof.Machine.execVwadd f s
  | .vwmul f => Sys2Proof.Machine.execVwmul f s
  | .vwmad f => Sys2Proof.Machine.execVwmad f s
  | .vwcvt f => Sys2Proof.Machine.execVwcvt f s
  | .vwcvt4 f => Sys2Proof.Machine.execVwcvt4 f s
  | .vnsat f => Sys2Proof.Machine.execVnsat f s
  | .vntrunc f => Sys2Proof.Machine.execVntrunc f s
  | .vcvt f => Sys2Proof.Machine.execVcvt f s
  | .vcvts f => Sys2Proof.Machine.execVcvts f s
  | .vcvtd f => Sys2Proof.Machine.execVcvtd f s
  | .vcvtq f => Sys2Proof.Machine.execVcvtq f s
  | .vcks f => Sys2Proof.Machine.execVcks f s
  | .vckv f => Sys2Proof.Machine.execVckv f s
  | .vckx f => Sys2Proof.Machine.execVckx f s
  | .vcki f => Sys2Proof.Machine.execVcki f s
  | .kand f => Sys2Proof.Machine.execKand f s
  | .kor f => Sys2Proof.Machine.execKor f s
  | .kxor f => Sys2Proof.Machine.execKxor f s
  | .kandn f => Sys2Proof.Machine.execKandn f s
  | .knot f => Sys2Proof.Machine.execKnot f s
  | .kmov f => Sys2Proof.Machine.execKmov f s
  | .kset f => Sys2Proof.Machine.execKset f s
  | .kclr f => Sys2Proof.Machine.execKclr f s
  | .lit e n => Sys2Proof.Machine.execLit e n s
  | .lith e n => Sys2Proof.Machine.execLith e n s
  | .lit32 e n => Sys2Proof.Machine.execLit32 e n s
  | .dup e => Sys2Proof.Machine.execDup e s
  | .drop e => Sys2Proof.Machine.execDrop e s
  | .swap e => Sys2Proof.Machine.execSwap e s
  | .over e => Sys2Proof.Machine.execOver e s
  | .rot e => Sys2Proof.Machine.execRot e s
  | .mSbase wspace st => Sys2Proof.Machine.execMSbase wspace st s
  | .mSfmt st => Sys2Proof.Machine.execMSfmt st s
  | .mSgeo st => Sys2Proof.Machine.execMSgeo st s
  | .mSscl st => Sys2Proof.Machine.execMSscl st s
  | .mSidx st => Sys2Proof.Machine.execMSidx st s
  | .mSout st => Sys2Proof.Machine.execMSout st s
  | .mNest level => Sys2Proof.Machine.execMNest level s
  | .mTrack t => Sys2Proof.Machine.execMTrack t s
  | .mGo outl clr z => Sys2Proof.Machine.execMGo outl clr z s
  | .mZero z => Sys2Proof.Machine.execMZero z s
  | .mLoad heal z => Sys2Proof.Machine.execMLoad heal z s
  | .mStore z => Sys2Proof.Machine.execMStore z s
  | .mStat sel => Sys2Proof.Machine.execMStat sel s
  | .mTol n => Sys2Proof.Machine.execMTol n s
  | .xSrc space => Sys2Proof.Machine.execXSrc space s
  | .xDst space => Sys2Proof.Machine.execXDst space s
  | .xCk kind => Sys2Proof.Machine.execXCk kind s
  | .xGo adv b4 track => Sys2Proof.Machine.execXGo adv b4 track s
  | .xFill adv b4 track => Sys2Proof.Machine.execXFill adv b4 track s
  | .xWprog adv track => Sys2Proof.Machine.execXWprog adv track s
  | .xWverify adv track => Sys2Proof.Machine.execXWverify adv track s
  | .pStat sel => Sys2Proof.Machine.execPStat sel s
  | .sOpen sel => Sys2Proof.Machine.execSOpen sel s
  | .sAbs n => Sys2Proof.Machine.execSAbs n s
  | .sFin n => Sys2Proof.Machine.execSFin n s
  | .sAbt n => Sys2Proof.Machine.execSAbt n s
  | .sQry n => Sys2Proof.Machine.execSQry n s
  | .mNclr => Sys2Proof.Machine.execMNclr s
  | .mWaitc => Sys2Proof.Machine.execMWaitc s
  | .mDith => Sys2Proof.Machine.execMDith s
  | .xLen => Sys2Proof.Machine.execXLen s
  | .xStr => Sys2Proof.Machine.execXStr s
  | .xCke => Sys2Proof.Machine.execXCke s
  | .xMod => Sys2Proof.Machine.execXMod s
  | .xWaitc => Sys2Proof.Machine.execXWaitc s
  | .xCkget => Sys2Proof.Machine.execXCkget s
  | .pCfg => Sys2Proof.Machine.execPCfg s
  | .pClr => Sys2Proof.Machine.execPClr s
  | .pIns => Sys2Proof.Machine.execPIns s
  | .pMerge => Sys2Proof.Machine.execPMerge s
  | .pSave => Sys2Proof.Machine.execPSave s
  | .pLoad => Sys2Proof.Machine.execPLoad s
  | .pCnt => Sys2Proof.Machine.execPCnt s
  | .pSpill => Sys2Proof.Machine.execPSpill s
  | .sMeta => Sys2Proof.Machine.execSMeta s
  | .matrixBlock c seq => Sys2Proof.Machine.execMatrixBlock c seq s
  | .mCommandComplete c seq => Sys2Proof.Machine.execMCommandComplete c seq s
  | .xChunk c seq => Sys2Proof.Machine.execXChunk c seq s
  | .xCommandComplete c seq => Sys2Proof.Machine.execXCommandComplete c seq s
  | .pArrival c => Sys2Proof.Machine.execPArrival c s
  | .sAbsorbBlock c seq => Sys2Proof.Machine.execSAbsorbBlock c seq s
  | .signatureComplete c seq => Sys2Proof.Machine.execSignatureComplete c seq s
  | .waitcSatisfied c => Sys2Proof.Machine.execWaitcSatisfied c s
  | .waitingWordSatisfied c seq => Sys2Proof.Machine.execWaitingWordSatisfied c seq s
  | .waitOverdue c word => Sys2Proof.Machine.execWaitOverdue c word s
  | .milestoneOverdue c => Sys2Proof.Machine.execMilestoneOverdue c s
  | .freeze c => Sys2Proof.Machine.execFreeze c s
  | .freezeEnd c => Sys2Proof.Machine.execFreezeEnd c s
  | .freezeOverdue c => Sys2Proof.Machine.execFreezeOverdue c s
  | .timingReplay c again => Sys2Proof.Machine.execTimingReplay c again s
  | .laneTest c matrix lane => Sys2Proof.Machine.execLaneTest c matrix lane s
  | .wakeTest c pass => Sys2Proof.Machine.execWakeTest c pass s
  | .preemptionRequest c => Sys2Proof.Machine.execPreemptionRequest c s
  | .contextSave c torn => Sys2Proof.Machine.execContextSave c torn s
  | .resume c idx => Sys2Proof.Machine.execResume c idx s
  | .dispatchDecision k cores => Sys2Proof.Machine.execDispatchDecision k cores s
  | .inputStaging c => Sys2Proof.Machine.execInputStaging c s
  | .dispatch c resid => Sys2Proof.Machine.execDispatch c resid s
  | .taskRetire c => Sys2Proof.Machine.execTaskRetire c s
  | .barrierRelease job launch => Sys2Proof.Machine.execBarrierRelease job launch s
  | .generationSweep job gen => Sys2Proof.Machine.execGenerationSweep job gen s
  | .atomicGrant k => Sys2Proof.Machine.execAtomicGrant k s
  | .trapPost c => Sys2Proof.Machine.execTrapPost c s
  | .trapResume k slot edits => Sys2Proof.Machine.execTrapResume k slot edits s
  | .trapKill k slot => Sys2Proof.Machine.execTrapKill k slot s
  | .causewayRepair d col failing met => Sys2Proof.Machine.execCausewayRepair d col failing met s
  | .causewayRepairComplete d col => Sys2Proof.Machine.execCausewayRepairComplete d col s
  | .weightRowProgram d readBack => Sys2Proof.Machine.execWeightRowProgram d readBack s
  | .bankTooHot d bank => Sys2Proof.Machine.execBankTooHot d bank s
  | .bankCooled d bank => Sys2Proof.Machine.execBankCooled d bank s
  | .remappingStep d bad => Sys2Proof.Machine.execRemappingStep d bad s
  | .powerGood bad hot bar2 => Sys2Proof.Machine.execPowerGood bad hot bar2 s
  | .warmReset bad caught => Sys2Proof.Machine.execWarmReset bad caught s
  | .powerLoss caught => Sys2Proof.Machine.execPowerLoss caught s
  | .monitorEvent d sysCore mcause mepc mtval xs => Sys2Proof.Machine.execMonitorEvent d sysCore mcause mepc mtval xs s
  | .tlbinvWrite d v => Sys2Proof.Machine.execTlbinvWrite d v s
  | .tlbinvComplete d => Sys2Proof.Machine.execTlbinvComplete d s
  | .fatsetWrite d v => Sys2Proof.Machine.execFatsetWrite d v s
  | .fatsetComplete d => Sys2Proof.Machine.execFatsetComplete d s
  | .milemaxWrite c v => Sys2Proof.Machine.execMilemaxWrite c v s
  | .srtailWrite k v => Sys2Proof.Machine.execSrtailWrite k v s
  | .registerWrite pa doubleword v machineMode => Sys2Proof.Machine.execRegisterWrite pa doubleword v machineMode s
  | .pcieMemoryRequest bar0 offset write len => Sys2Proof.Machine.execPcieMemoryRequest bar0 offset write len s
  | .loadImage tag job hostAddr len sha secs blocks => Sys2Proof.Machine.execLoadImage tag job hostAddr len sha secs blocks s
  | .createJob tag a => Sys2Proof.Machine.execCreateJob tag a s
  | .submitPhase tag job addr => Sys2Proof.Machine.execSubmitPhase tag job addr s
  | .mailboxCancel tag level job number => Sys2Proof.Machine.execMailboxCancel tag level job number s
  | .query tag sel => Sys2Proof.Machine.execQuery tag sel s
  | .programWeights tag hostAddr wAddr len flags helpers bad => Sys2Proof.Machine.execProgramWeights tag hostAddr wAddr len flags helpers bad s
  | .resetScrub tag confidential bad => Sys2Proof.Machine.execResetScrub tag confidential bad s
  | .debugAttach tag job launch index token => Sys2Proof.Machine.execDebugAttach tag job launch index token s
  | .getVersion => Sys2Proof.Machine.execGetVersion s
  | .getCapabilities => Sys2Proof.Machine.execGetCapabilities s
  | .negotiateAlgorithms asym hash dhe aead => Sys2Proof.Machine.execNegotiateAlgorithms asym hash dhe aead s
  | .getDigests => Sys2Proof.Machine.execGetDigests s
  | .getCertificate slot offset len => Sys2Proof.Machine.execGetCertificate slot offset len s
  | .challenge slot nonce => Sys2Proof.Machine.execChallenge slot nonce s
  | .getMeasurements index signed nonce => Sys2Proof.Machine.execGetMeasurements index signed nonce s
  | .keyExchange share => Sys2Proof.Machine.execKeyExchange share s
  | .finish verify => Sys2Proof.Machine.execFinish verify s
  | .endSession => Sys2Proof.Machine.execEndSession s
  | .data p f full => Sys2Proof.Machine.execData p f full s
  | .end_ p f full => Sys2Proof.Machine.execEnd_ p f full s
  | .pdone p f full => Sys2Proof.Machine.execPdone p f full s
  | .ack p f => Sys2Proof.Machine.execAck p f s
  | .nak p f => Sys2Proof.Machine.execNak p f s
  | .cairn p f full => Sys2Proof.Machine.execCairn p f full s
  | .keySwitchover p => Sys2Proof.Machine.execKeySwitchover p s
  | .nakTimer p => Sys2Proof.Machine.execNakTimer p s
  | .ackTimer p => Sys2Proof.Machine.execAckTimer p s
  | .replayTimer p => Sys2Proof.Machine.execReplayTimer p s
  | .noreply c seq => Sys2Proof.Machine.execNoreply c seq s
  | .softError e => Sys2Proof.Machine.execSoftError e s
  | .systemCoreWrite pa bytes => Sys2Proof.Machine.execSystemCoreWrite pa bytes s
  | .parkedContextMove c idx dest debugEvent => Sys2Proof.Machine.execParkedContextMove c idx dest debugEvent s
  | .linkBringUp p peer peerIsSwitch secretTx secretRx saltTx saltRx => Sys2Proof.Machine.execLinkBringUp p peer peerIsSwitch secretTx secretRx saltTx saltRx s
  | .flashWrite offset bytes => Sys2Proof.Machine.execFlashWrite offset bytes s
  | .mailboxBadCommand tag code len => Sys2Proof.Machine.execMailboxBadCommand tag code len s

end Machine

end Sys2Proof
end

