-- ==== Sys2Proof/Machine/Run.lean ====
section
/-!
DEFINITION. Machine/Run.lean: what one step does (log 1): the next entry of the script, or, when it is empty, what the
current core does next; the counters of time (R406); and how a program's text is put where the machine fetches.
-/

namespace Sys2Proof

namespace Machine

/-! ### The strand of the current core -/

/-- The current core's next instruction: fetched, decoded, stepped and executed; or the trap it meets; or the
milestone-overdue fault that keeps it from executing (R79, R95, R270). A core whose atomic waits at an engine does
nothing (R304). -/
def State.strand (s : State) : Out :=
  match s.running with
  | none => .next s
  | some t =>
    if s.waitsAtomic s.cur then .next s
    else
      match s.nextInstr s.cur t with
      | .error (e, x) => .next (s.stopAt s.cur t e x)
      | .ok (i, n) =>
        if t.overdue n then .next (s.takeOverdue s.cur t) else noteGroup s t i (s.inTurn t i (exec i))

/-! ### What happens when the script names nothing -/

/-- The unit that the engine of a command does next, or its completion. -/
def State.cmdStep (s : State) (c : CoreId) (t : Task) (q : Cmd) : Out :=
  match q.kind with
  | .mGo _ _ _ _ _ _ _ prog => if prog.finished then execMCommandComplete c q.seq s else execMatrixBlock c q.seq s
  | .mZero _ => execMCommandComplete c q.seq s
  | .mLoad .. => execMCommandComplete c q.seq s
  | .mStore .. => execMCommandComplete c q.seq s
  | .mWaitc cc target => if t.counted cc target then execWaitingWordSatisfied c q.seq s else .next s
  | .xWaitc cc target => if t.counted cc target then execWaitingWordSatisfied c q.seq s else .next s
  | .xMove x =>
    if x.cfg.dspace = .remote then (if x.outcome.isSome then execXCommandComplete c q.seq s else execXChunk c q.seq s)
    else if x.next < x.total then execXChunk c q.seq s else execXCommandComplete c q.seq s
  | .xProg x =>
    if !x.begun then execXChunk c q.seq s
    else if x.next < x.total then execWeightRowProgram (dieOf c) [] s
    else execXCommandComplete c q.seq s
  | .xVerify x => if x.next < x.total then execXChunk c q.seq s else execXCommandComplete c q.seq s
  | .pIns .. => execPArrival c s
  | .pMerge .. => execPArrival c s
  | .sAbs .. => execSAbsorbBlock c q.seq s
  | .sFin .. => execSignatureComplete c q.seq s
  | .sAbt .. => execSignatureComplete c q.seq s

/-- A command's turn: the commands of a task take turns by the tick. -/
def State.cmdTurn (s : State) (c : CoreId) (t : Task) : Out :=
  match t.cmds[s.tick / 2 % t.cmds.length]? with
  | some q => s.cmdStep c t q
  | none => .next s

/-- What the strand's side does for a task that waits. -/
def State.waitTurn (s : State) (c : CoreId) (t : Task) : Out :=
  match t.wait with
  | .none => s.strand
  | .waitc .. => execWaitcSatisfied c s
  | .bar => execBarrierRelease t.rs.rc.job t.rs.rc.launch s
  | .parking => execContextSave c false s
  | .exiting => execTaskRetire c s
  | .ended _ => execTaskRetire c s
  | .aborted => execTaskRetire c s

/-- With an empty script the current core goes on: strand and commands in turn, by the tick. -/
def State.byDefault (s : State) : Out :=
  let c := s.cur
  match (s.core c).status, s.taskOf c with
  | .running, some t =>
    if decide (t.wait = .ended 2) || decide (t.wait = .ended 3) || decide (t.wait = .aborted) then execTaskRetire c s
    else if (s.dies[(dieOf c).val]).frozen then .fault (.clockStopped (dieOf c))
    else if !t.cmds.isEmpty && decide (s.tick % 2 = 1) then s.cmdTurn c t
    else s.waitTurn c t
  | .trapped _ none, _ => execTrapPost c s
  | _, _ => .next s

/-! ### Other actions of a script -/

/-- The first entry at a place of a list of non-temporal stores, unless an older one meets its bytes (R38). -/
def ntTake (n : Nat) (l : List NtStore) : Option NtStore :=
  l[n]?.bind fun x => if (l.take n).any fun y => y.meets x.pa x.bytes.length then none else some x

/-- A non-temporal store of a retired task, or of the current core's task, becomes visible (R114, R115). -/
def State.ntVisible (s : State) (n : Nat) : State :=
  if n < s.nt.length then
    match ntTake n s.nt with
    | some x => { s.applyNt x with nt := s.nt.eraseIdx n }
    | none => s
  else
    match s.taskOf s.cur with
    | none => s
    | some t =>
      let k := n - s.nt.length
      match ntTake k t.nt with
      | some x => (s.applyNt x).setTask s.cur { t with nt := t.nt.eraseIdx k }
      | none => s

/-- Entries that a place holds (R343). -/
def TlbPlace.size : TlbPlace → Nat
  | .core _ => 128
  | .die _ => 16384

/-- A translation enters a cache, an older entry leaving a full one (R343); a walk that meets an entry with a bad MAC only marks
and counts its line (R356). -/
def State.tlbFill (s : State) (place : TlbPlace) (job va : Nat) : State :=
  match s.jobOf job with
  | none => s
  | some j =>
    match s.badEntry j va, s.walk j.args.root va with
    | some a, _ => s.checkMacs a 8
    | none, none => s
    | none, some (e, size) =>
      let x : TlbEntry := { place := place, tag := j.tag, global := bitAt e 10, va := va / size * size, size := size,
                            leaf := BitVec.ofNat 64 e }
      let mine := s.tlb.filter fun y => decide (y.place = place) && decide (y ≠ x)
      let rest := s.tlb.filter fun y => decide (y.place ≠ place)
      { s with tlb := rest ++ mine.drop (mine.length + 1 - place.size) ++ [x] }

/-- One entry of the script. An instruction stands in a program's text, never in the script. -/
def State.act (s : State) (a : Action) : Out :=
  match a with
  | .event i => if isWord i then .next s else exec i s
  | .run c => State.strand { s with cur := c }
  | .issue c => .next (s.issueAtomic c)
  | .ntVisible n => .next (s.ntVisible n)
  | .tlbFill place job va => .next (s.tlbFill place job va)

/-! ### Time (R36, R406) -/

/-- What the energy counter of a core counts in a step: a free value (log 5). -/
def Core.passTime (tick : Nat) (c : CoreId) (k : Core) : Core := { k with energy := k.energy + Config.energy tick c.val }

/-- What the cycle counter of a die's cores counts in a step: nothing while the monitor holds their clocks (R345). -/
def Die.passTime (tick : Nat) (d : Die) : Die := if d.frozen then d else { d with cyc := d.cyc + Config.cycles tick }

/-- The time that a step takes: every core whose clock runs may spend energy, whichever the step is about. -/
def State.passTime (s : State) : State :=
  { s with tick := s.tick + 1, dies := s.dies.map (Die.passTime s.tick),
           cores := Vector.ofFn fun c =>
             if (s.dies[(dieOf c).val]).frozen then s.cores[c.val] else s.cores[c.val].passTime s.tick c }

/-- A step's outcome with its time passed. -/
def timed (o : Out) : Out :=
  match o with
  | .next s => .next s.passTime
  | .fault f => .fault f
  | .refused r => .refused r

/-- One step of the machine. -/
def State.stepOnce (s : State) : Out :=
  match s.script with
  | [] => timed s.byDefault
  | a :: rest => timed (({ s with script := rest } : State).act a)

/-! ### A program's text put where the machine fetches it -/

/-- The page table, the text and the page of a loaded program: LPDDR of die 0. -/
def loadRoot : Nat := 0x1000200000
/-- Where the text lies in D-space. -/
def loadPc : Nat := 0x400000
/-- A leaf that maps the first GiB of D-space onto the first of LPDDR, readable, writable, executable. -/
def loadLeaf : Nat := 0x10000000E7

/-- The arguments of a loaded program's job. -/
def loadArgs : JobArgs :=
  { tenant := 0, root := loadRoot, wbase := 0, wlim := 0, maxPrio := 3, ntOk := true, keyTable := 0, keys := [],
    debugKey := 0 }

/-- The job of a loaded program, with its one launch. -/
def loadJob : Job :=
  { num := 0, tag := 0, args := loadArgs, gen := 0, asked := 0, made := 0,
    launches := [{ num := 0, graph := 0, phase := 0, cluster := 0, gang := false, paired := false, count := 1,
                   after := none, succ := 0, wpriv := false, window := none, pending := 1, stats := Vector.replicate 4 0, done := false,
                   cancelled := false, bars := 0, exited := 0 }],
    graphs := [⟨0, 0, 1, false, false⟩], phases := [⟨0, 0, 1, false, false⟩], pending := 1, cancelled := false,
    freeing := false }

/-- The record of a loaded program's task. -/
def loadRec : RecSlot :=
  { slot := 0, tenure := 0, deps := [], edge := false, ins := [], outs := [], wr := [], ready := none, due := 0,
    rc := { job := 0, code := BitVec.ofNat 64 loadPc, frame := 0, join := 0, launch := 0, prio := 0, commit := false,
            paired := false, gang := false, nt := true, origin := 0, fplist := 0, nin := 0, nout := 0, attached := 0,
            succ := 0, index := 0, prom := 0, level := 0, reruns := 0, bgen := 0, hasbgen := true, wrlist := 0 } }

/-- A state in which the current core runs a fresh task whose pc points at text bytes: the load that CREATE-JOB,
LOAD-IMAGE, SUBMIT-PHASE and the junction stand for (log 2). -/
def State.placeText (s : State) (text : List Byte) : State :=
  let c := s.cur
  let s : State := { s with
    script := [], boot := .open_, jobs := loadJob :: s.jobs.filter (fun j => decide (j.num ≠ 0)), tlb := [],
    fat := insertKey (loadRoot / 65536) { attr := 0, changing := false }
      (insertKey ((loadPc + lpddrBase) / 65536) { attr := 0, changing := false } s.fat),
    clusters := s.clusters.map fun k => { k with areqs := k.areqs.filter fun r => decide (r.core ≠ c) } }
  let s := (s.writePa loadRoot (bytesOf 128 loadLeaf)).writePa (lpddrBase + loadPc) (fixLen 128 text)
  let s := s.setDie (dieOf c) fun d => { d with frozen := false }
  s.setCore c fun k =>
    { k with status := .running, task := some (newTask loadRec (slotOf c 0) 0 k.milemax.toNat false), frozen := false }

end Machine

end Sys2Proof
end

