-- ==== Sys2Proof/Machine/Step.lean ====
section
/-!
DEFINITION. Machine/Step.lean: the step of the machine, and a state whose next step runs one instruction.
-/

namespace Sys2Proof

namespace Machine

/-- One step of the module (log 1). -/
def step (s : State) : Host.Outcome State Fault Refusal := s.stepOnce

/-- The state with one instruction, given as spec/opcode_table.json numbers its bits, placed where the next step fetches:
parcels in order of address, the first holding bits 15:0, every bit above `nbits` zero (log 2). -/
def State.withFetchWord (s : State) (nbits w : Nat) : State :=
  s.placeText (bytesOf 10 (w % 2 ^ nbits))

end Machine

end Sys2Proof
end

