-- ==== Sys2Proof/Safety.lean ====
section
/-!
DEFINITION. Safety.lean: what the claims mean by a sound state, a safe run, an executing instruction and its outcome.
-/

namespace Sys2Proof

namespace Machine

/-- The scratchpad that a parked context carries is in canonical form, and lies below the lay-by (R269, R294). -/
def Parked.Canonical (p : Parked) : Prop :=
  ∀ i, p.spad = some i → Memory.wf i.bytes = true ∧ ∀ e ∈ i.bytes, e.1 < laybyBase

/-- Every memory of a state is in its canonical form: equal contents are equal data. -/
def State.Canonical (s : State) : Prop :=
  Memory.wf s.mem = true ∧ Memory.wf s.wmem = true ∧ Memory.wf s.flash = true ∧
    ∀ k : ClusterId, ∀ p ∈ (s.clusters[k.val]).parked, p.Canonical

/-- A state from which `n` steps go through without a fault or a refusal. -/
def SafeRun (n : Nat) (s : State) : Prop := ∃ s', Sys2Proof.core.run n s = .next s'

/-- An instruction with guard `g` executes now, for task `t` of the current core (R30). -/
def State.Executes (s : State) (g : Guard) (t : Task) : Prop := s.running = some t ∧ t.passes g = true

/-- No fault of the core's own datapath waits for an instruction: no pair fault (R187), no lane-test fault (R284). -/
def State.Sound (s : State) (c : CoreId) : Prop := (s.core c).pairFault = false ∧ (s.core c).laneFault = none

/-- The outcome in which the task of the current core becomes `t` and nothing else of the state changes. -/
def onlyTask (s : State) (t : Task) : Out := .next (s.setTask s.cur t)

/-- The outcome in which the instruction at the pc of task `t` takes a precise trap of a cause (R40, R100). -/
def trapsWith (s : State) (t : Task) (engine cause detail : Nat) (addr : Word64) : Out :=
  .next (s.takeTrap s.cur t ⟨0, BitVec.ofNat 8 cause, BitVec.ofNat 8 detail, addr, 0⟩ engine t.pc
    (s.textAt s.cur t t.pc) 0 0)

/-- Lane j of width w of an entry's data (R138). -/
def entryLane (d : EntryBits) (w j : Nat) : BitVec w := d.extractLsb' (w * j) w

/-- The queues of a task after an instruction's pops and pushes (R23, R24): a queue that some source field names without
its peek bit loses its head, once; then the entries pushed to it stand at its end. -/
def Task.queuesAfter (t : Task) (srcs : Srcs) (l : List (VReg × Entry)) : Vector (List Entry) 32 :=
  Vector.ofFn fun q =>
    (if srcs.any (fun x => decide (x.1 = q) && !x.2) then (t.queue q).tail else t.queue q) ++
      (l.filter fun e => decide (e.1 = q)).map Prod.snd

/-- A V instruction executes now and meets neither an empty source nor a full destination (R25, R30). -/
def State.VReady (s : State) (f : VF) (t : Task) (srcs : Srcs) (dsts : List VReg) : Prop :=
  s.Executes f.g t ∧ s.Sound s.cur ∧ (∀ x ∈ srcs, t.queue x.1 ≠ []) ∧
    ∀ d ∈ dsts, ((t.queuesAfter srcs [])[d.val]).length < 4

/-- The task after a V instruction that pops its sources, pushes entries and leaves the system registers as given. -/
def Task.vDone (t : Task) (f : VF) (srcs : Srcs) (l : List (VReg × Entry)) (sys : SysRegs) : Task :=
  { t.advance (if f.lit.isSome then 5 else 3) with v := t.queuesAfter srcs l, sys := sys }

/-- The instruction completes and its destination group of g registers from dst holds n elements of width w, element j
being `val j`, counted across the group (R26), every bit above them zero, under a format, with segment words from the
data (R140). Nothing else of the state changes but the queues, the pc and the system registers given. -/
def State.Yields (s : State) (i : Instr) (f : VF) (t : Task) (srcs : Srcs) (dst : VReg) (g : Nat)
    (fmt : BitVec 5) (w n : Nat) (val : Nat → BitVec w) (sys : SysRegs) : Prop :=
  ∃ d : Nat → EntryBits,
    exec i s = onlyTask s (t.vDone f srcs
      ((List.range g).map fun k => (groupReg dst k, mkEntry fmt (d k).toNat)) sys) ∧
    (∀ j, j < n → entryLane (d (j / (4096 / w))) w (j % (4096 / w)) = val j) ∧
    (g = 1 → (d 0).toNat < 2 ^ (w * n))

end Machine

end Sys2Proof
end

