-- ==== Sys2Proof/WellFormed.lean ====
section
/-!
DEFINITION. WellFormed.lean: the instructions the part executes. The types of Syntax.lean bound every field to the bits
the encoding gives it; what remains is the list of R96 (reserved values, unused fields, guards, alignment of groups,
element types), which Decode.lean computes.
-/

namespace Sys2Proof

/-- An instruction that meets no condition of R96: legal wherever it stands. An event is always well formed. -/
def WellFormed (i : Instr) : Prop := illegalOf i = none

end Sys2Proof
end

