-- ==== Sys2Proof/Certificates/Slice0/Obligations.lean ====
section
/-!
DEFINITION. Certificates/Slice0/Obligations.lean: the statements about the model, each named for what it says and traced
to rules of spec/. A statement whose outcome is a whole next state (`onlyTask`, `.next` of a named state) is that
instruction's completion and its frame at once: what the outcome does not name has not changed.
-/

open Sys2Proof Sys2Proof.Machine

/-! ### The control strand -/

/-- R102: the register instructions of ops 0x01, 0x03 and 0x04 in both widths, for every guard that holds. The outcome
is the whole next state, so it is their frame too. -/
def Obligations.ScalarArithmeticResults : Prop :=
  ∀ (s : State) (t : Task) (g : Guard) (rd ra rb : XReg), s.Executes g t →
    let a := t.getX ra
    let b := t.getX rb
    let a32 : Word32 := a.setWidth 32
    let b32 : Word32 := b.setWidth 32
    let out64 (v : Word64) := onlyTask s ((t.advance 2).setX rd v)
    let out32 (v : Word32) := onlyTask s ((t.advance 2).setX rd (v.signExtend 64))
    (exec (.add g false rd ra rb) s = out64 (a + b) ∧ exec (.add g true rd ra rb) s = out32 (a32 + b32)) ∧
    (exec (.sub g false rd ra rb) s = out64 (a - b) ∧ exec (.sub g true rd ra rb) s = out32 (a32 - b32)) ∧
    (exec (.and g false rd ra rb) s = out64 (a &&& b) ∧ exec (.and g true rd ra rb) s = out32 (a32 &&& b32)) ∧
    (exec (.or g false rd ra rb) s = out64 (a ||| b) ∧ exec (.or g true rd ra rb) s = out32 (a32 ||| b32)) ∧
    (exec (.xor g false rd ra rb) s = out64 (a ^^^ b) ∧ exec (.xor g true rd ra rb) s = out32 (a32 ^^^ b32)) ∧
    (exec (.shl g false rd ra rb) s = out64 (a <<< (b.setWidth 6).toNat) ∧
      exec (.shl g true rd ra rb) s = out32 (a32 <<< (b.setWidth 5).toNat)) ∧
    (exec (.shr g false rd ra rb) s = out64 (a >>> (b.setWidth 6).toNat) ∧
      exec (.shr g true rd ra rb) s = out32 (a32 >>> (b.setWidth 5).toNat)) ∧
    (exec (.sra g false rd ra rb) s = out64 (a.sshiftRight (b.setWidth 6).toNat) ∧
      exec (.sra g true rd ra rb) s = out32 (a32.sshiftRight (b.setWidth 5).toNat)) ∧
    (exec (.mul g false rd ra rb) s = out64 (a * b) ∧ exec (.mul g true rd ra rb) s = out32 (a32 * b32)) ∧
    (exec (.mulh g false rd ra rb) s = out64 ((a.signExtend 128 * b.signExtend 128).extractLsb' 64 64) ∧
      exec (.mulh g true rd ra rb) s = out32 ((a32.signExtend 64 * b32.signExtend 64).extractLsb' 32 32)) ∧
    (exec (.mulhu g false rd ra rb) s = out64 ((a.setWidth 128 * b.setWidth 128).extractLsb' 64 64) ∧
      exec (.mulhu g true rd ra rb) s = out32 ((a32.setWidth 64 * b32.setWidth 64).extractLsb' 32 32)) ∧
    (exec (.min g false rd ra rb) s = out64 (if a.toInt ≤ b.toInt then a else b) ∧
      exec (.min g true rd ra rb) s = out32 (if a32.toInt ≤ b32.toInt then a32 else b32)) ∧
    (exec (.max g false rd ra rb) s = out64 (if b.toInt ≤ a.toInt then a else b) ∧
      exec (.max g true rd ra rb) s = out32 (if b32.toInt ≤ a32.toInt then a32 else b32)) ∧
    (exec (.minu g false rd ra rb) s = out64 (if a ≤ b then a else b) ∧
      exec (.minu g true rd ra rb) s = out32 (if a32 ≤ b32 then a32 else b32)) ∧
    (exec (.maxu g false rd ra rb) s = out64 (if b ≤ a then a else b) ∧
      exec (.maxu g true rd ra rb) s = out32 (if b32 ≤ a32 then a32 else b32)) ∧
    (exec (.rol g false rd ra rb) s = out64 (a.rotateLeft (b.setWidth 6).toNat) ∧
      exec (.rol g true rd ra rb) s = out32 (a32.rotateLeft (b.setWidth 5).toNat))

/-- R102, R103: DIV, DIVU, REM and REMU never trap: they complete for every pair of operands, with the quotient
truncated toward zero and the remainder of the sign of a, and at the two borders with the values of R103's table. -/
def Obligations.DivisionNeverTraps : Prop :=
  ∀ (s : State) (t : Task) (g : Guard) (rd ra rb : XReg), s.Executes g t →
    let a := t.getX ra
    let b := t.getX rb
    let a32 : Word32 := a.setWidth 32
    let b32 : Word32 := b.setWidth 32
    let out64 (v : Word64) := onlyTask s ((t.advance 2).setX rd v)
    let out32 (v : Word32) := onlyTask s ((t.advance 2).setX rd (v.signExtend 64))
    (∃ q r : Word64, exec (.div g false rd ra rb) s = out64 q ∧ exec (.rem g false rd ra rb) s = out64 r ∧
      (b = 0 → q = -1 ∧ r = a) ∧ (a = BitVec.intMin 64 → b = -1 → q = BitVec.intMin 64 ∧ r = 0) ∧
      (b ≠ 0 → ¬(a = BitVec.intMin 64 ∧ b = -1) → q.toInt = a.toInt.tdiv b.toInt ∧ r.toInt = a.toInt.tmod b.toInt)) ∧
    (∃ q r : Word32, exec (.div g true rd ra rb) s = out32 q ∧ exec (.rem g true rd ra rb) s = out32 r ∧
      (b32 = 0 → q = -1 ∧ r = a32) ∧ (a32 = BitVec.intMin 32 → b32 = -1 → q = BitVec.intMin 32 ∧ r = 0) ∧
      (b32 ≠ 0 → ¬(a32 = BitVec.intMin 32 ∧ b32 = -1) →
        q.toInt = a32.toInt.tdiv b32.toInt ∧ r.toInt = a32.toInt.tmod b32.toInt)) ∧
    (∃ q r : Word64, exec (.divu g false rd ra rb) s = out64 q ∧ exec (.remu g false rd ra rb) s = out64 r ∧
      (b = 0 → q = BitVec.allOnes 64 ∧ r = a) ∧
      (b ≠ 0 → q.toNat = a.toNat / b.toNat ∧ r.toNat = a.toNat % b.toNat)) ∧
    (∃ q r : Word32, exec (.divu g true rd ra rb) s = out32 q ∧ exec (.remu g true rd ra rb) s = out32 r ∧
      (b32 = 0 → q = BitVec.allOnes 32 ∧ r = a32) ∧
      (b32 ≠ 0 → q.toNat = a32.toNat / b32.toNat ∧ r.toNat = a32.toNat % b32.toNat))

/-- R102: CLZ, CTZ and POPC count leading zeros, trailing zeros and one bits, 0 to the width. -/
def Obligations.BitCountResults : Prop :=
  ∀ (s : State) (t : Task) (g : Guard) (rd ra : XReg), s.Executes g t →
    let out (n : Nat) := onlyTask s ((t.advance 2).setX rd (BitVec.ofNat 64 n))
    ∀ w : Bool,
      let n := if w then 32 else 64
      let bit (i : Nat) := (t.getX ra).getLsbD i
      (∃ k, k ≤ n ∧ exec (.clz g w rd ra) s = out k ∧ (∀ i, i < k → bit (n - 1 - i) = false) ∧
        (k < n → bit (n - 1 - k) = true)) ∧
      (∃ k, k ≤ n ∧ exec (.ctz g w rd ra) s = out k ∧ (∀ i, i < k → bit i = false) ∧ (k < n → bit k = true)) ∧
      exec (.popc g w rd ra) s = out ((List.range n).countP bit)

/-- R104: the immediate forms, on 64 bits, with the sign-extended imm6 or literal. -/
def Obligations.ImmediateResults : Prop :=
  ∀ (s : State) (t : Task) (g : Guard) (rd ra : XReg) (imm : BitVec 6) (lit : Word32), s.Executes g t →
    let a := t.getX ra
    let i : Word64 := imm.signExtend 64
    let l : Word64 := lit.signExtend 64
    let out (n : Nat) (v : Word64) := onlyTask s ((t.advance n).setX rd v)
    (exec (.addi g rd ra imm) s = out 2 (a + i) ∧ exec (.addiLit g rd ra lit) s = out 4 (a + l)) ∧
    (exec (.movi g rd imm) s = out 2 i ∧ exec (.moviLit g rd lit) s = out 4 l) ∧
    (exec (.andi g rd ra imm) s = out 2 (a &&& i) ∧ exec (.andiLit g rd ra lit) s = out 4 (a &&& l)) ∧
    (exec (.ori g rd ra imm) s = out 2 (a ||| i) ∧ exec (.oriLit g rd ra lit) s = out 4 (a ||| l)) ∧
    (exec (.xori g rd ra imm) s = out 2 (a ^^^ i) ∧ exec (.xoriLit g rd ra lit) s = out 4 (a ^^^ l)) ∧
    (exec (.shli g rd ra imm) s = out 2 (a <<< imm.toNat) ∧
      exec (.shliLit g rd ra lit) s = out 4 (a <<< (lit.setWidth 6).toNat)) ∧
    (exec (.shri g rd ra imm) s = out 2 (a >>> imm.toNat) ∧
      exec (.shriLit g rd ra lit) s = out 4 (a >>> (lit.setWidth 6).toNat)) ∧
    (exec (.srai g rd ra imm) s = out 2 (a.sshiftRight imm.toNat) ∧
      exec (.sraiLit g rd ra lit) s = out 4 (a.sshiftRight (lit.setWidth 6).toNat))

/-- R106: LEA, for every value of its registers. R105: SEXT, ZEXT, BFX and BFI within their encoding limits, bit by
bit. -/
def Obligations.AddressesAndFields : Prop :=
  (
  ∀ (s : State) (t : Task) (g : Guard) (sh : BitVec 3) (rd ra rb : XReg), s.Executes g t →
    exec (.lea g sh rd ra rb) s =
      onlyTask s ((t.advance 2).setX rd
        (BitVec.ofNat 64 (((t.getX ra).toNat + (t.getX rb).toNat * 2 ^ sh.toNat) % 2 ^ 64)))) ∧
  (
  ∀ (s : State) (t : Task) (g : Guard) (rd ra : XReg), s.Executes g t →
    let a := t.getX ra
    (∀ n : BitVec 6, 1 ≤ n.toNat → ∃ v : Word64, exec (.sext g rd ra n) s = onlyTask s ((t.advance 2).setX rd v) ∧
      ∀ i, i < 64 → v.getLsbD i = a.getLsbD (if i < n.toNat then i else n.toNat - 1)) ∧
    (∀ n : BitVec 6, 1 ≤ n.toNat → ∃ v : Word64, exec (.zext g rd ra n) s = onlyTask s ((t.advance 2).setX rd v) ∧
      ∀ i, v.getLsbD i = (decide (i < n.toNat) && a.getLsbD i)) ∧
    (∀ (pos : BitVec 6) (wid : BitVec 7), 1 ≤ wid.toNat → pos.toNat + wid.toNat ≤ 64 →
      (∃ v : Word64, exec (.bfx g rd ra pos wid) s = onlyTask s ((t.advance 4).setX rd v) ∧
        ∀ i, v.getLsbD i = (decide (i < wid.toNat) && a.getLsbD (pos.toNat + i))) ∧
      (∃ v : Word64, exec (.bfi g rd ra pos wid) s = onlyTask s ((t.advance 4).setX rd v) ∧
        ∀ i, i < 64 → v.getLsbD i =
          if pos.toNat ≤ i ∧ i < pos.toNat + wid.toNat then a.getLsbD (i - pos.toNat) else (t.getX rd).getLsbD i)))

/-- R107, R108: CMP and CMPI write t to pd and its complement to pe, unless pe is p0; the predicate operations. -/
def Obligations.PredicateResults : Prop :=
  ∀ (s : State) (t : Task) (g : Guard), s.Executes g t →
    (∀ (c : Cond) (pd pe : PReg) (ra rb : XReg) (imm : BitVec 5) (lit : Word32),
      let a := t.getX ra
      let truth (b : Word64) : Bool := match c with
        | .eq => decide (a = b)
        | .ne => decide (a ≠ b)
        | .lt => decide (a.toInt < b.toInt)
        | .ge => decide (b.toInt ≤ a.toInt)
        | .ltu => decide (a.toNat < b.toNat)
        | .geu => decide (b.toNat ≤ a.toNat)
        | .tst => decide (a &&& b ≠ 0)
      let imm5 : Word64 := if c = .ltu ∨ c = .geu then imm.setWidth 64 else imm.signExtend 64
      let out (n : Nat) (v : Bool) :=
        let w := (t.advance n).setP pd v
        onlyTask s (if pe = 0 then w else w.setP pe (!v))
      exec (.cmp g c pd pe ra rb) s = out 2 (truth (t.getX rb)) ∧
      exec (.cmpi g c pd pe ra imm) s = out 2 (truth imm5) ∧
      exec (.cmpiLit g c pd pe ra lit) s = out 4 (truth (lit.signExtend 64))) ∧
    (∀ pd pa pb : PReg,
      let a := t.getP pa
      let b := t.getP pb
      let out (v : Bool) := onlyTask s ((t.advance 2).setP pd v)
      exec (.pand g pd pa pb) s = out (a && b) ∧ exec (.por g pd pa pb) s = out (a || b) ∧
      exec (.pxor g pd pa pb) s = out (a ^^ b) ∧ exec (.pandn g pd pa pb) s = out (a && !b) ∧
      exec (.pnot g pd pa) s = out (!a) ∧ exec (.pmov g pd pa) s = out a ∧ exec (.pset g pd) s = out true ∧
      exec (.pclr g pd) s = out false)

/-- R109, R110: BR and CALL go to Head + 2·disp16, JMP, CALLR and RET to a register's value; CALL and CALLR link Head
+ 4; a target with bit 0 set raises TARGET and writes nothing. The addr field of the TARGET trap's record is a free
value (log 8). -/
def Obligations.BranchTargets : Prop :=
  ∀ (s : State) (t : Task) (g : Guard), s.Executes g t →
    (∀ disp : BitVec 16,
      let dest : Word64 := BitVec.ofInt 64 ((t.pc.toNat : Int) + 2 * disp.toInt)
      exec (.br g disp) s = onlyTask s { t.advance 2 with pc := dest } ∧
      exec (.call g disp) s = onlyTask s { (t.advance 2).setX 1 (t.pc + 4) with pc := dest }) ∧
    (∀ rd ra : XReg,
      ((t.getX ra).getLsbD 0 = false →
        exec (.jmp g ra) s = onlyTask s { t.advance 2 with pc := t.getX ra } ∧
        exec (.ret g ra) s = onlyTask s { t.advance 2 with pc := t.getX ra } ∧
        exec (.callr g rd ra) s = onlyTask s { (t.advance 2).setX rd (t.pc + 4) with pc := t.getX ra }) ∧
      ((t.getX ra).getLsbD 0 = true → s.Sound s.cur →
        exec (.jmp g ra) s = trapsWith s t 0 2 2 0 ∧ exec (.ret g ra) s = trapsWith s t 0 2 2 0 ∧
        exec (.callr g rd ra) s = trapsWith s t 0 2 2 0))

/-- The scalar loads of R111: instruction, bytes, sign extension, parcels, and effective address less X[ra]. -/
def Sys2Proof.Machine.loadForms (g : Guard) (cls : BitVec 2) (sx : Bool) (rd ra : XReg) (disp : BitVec 6) (lit : Word32) :
    List (Instr × Nat × Bool × Nat × Word64) :=
  let d : Word64 := disp.signExtend 64
  let l : Word64 := lit.signExtend 64
  [(.ldB g cls sx rd ra disp, 1, sx, 2, d), (.ldH g cls sx rd ra disp, 2, sx, 2, d * 2),
   (.ldW g cls sx rd ra disp, 4, sx, 2, d * 4), (.ldD g cls rd ra disp, 8, false, 2, d * 8),
   (.ldBLit g cls sx rd ra lit, 1, sx, 4, l), (.ldHLit g cls sx rd ra lit, 2, sx, 4, l),
   (.ldWLit g cls sx rd ra lit, 4, sx, 4, l), (.ldDLit g cls rd ra lit, 8, false, 4, l)]

/-- The scalar stores of R111: instruction, bytes, parcels, and effective address less X[ra]. -/
def Sys2Proof.Machine.storeForms (g : Guard) (cls : BitVec 2) (nt : Bool) (rs ra : XReg) (disp : BitVec 6) (lit : Word32) :
    List (Instr × Nat × Nat × Word64) :=
  let d : Word64 := disp.signExtend 64
  let l : Word64 := lit.signExtend 64
  [(.stB g cls nt rs ra disp, 1, 2, d), (.stH g cls nt rs ra disp, 2, 2, d * 2),
   (.stW g cls nt rs ra disp, 4, 2, d * 4), (.stD g cls nt rs ra disp, 8, 2, d * 8),
   (.stBLit g cls nt rs ra lit, 1, 4, l), (.stHLit g cls nt rs ra lit, 2, 4, l),
   (.stWLit g cls nt rs ra lit, 4, 4, l), (.stDLit g cls nt rs ra lit, 8, 4, l)]

/-- The atomics of R116: instruction, and the new value from rd's value, rb's value and the old one, in n bits. -/
def Sys2Proof.Machine.atomicForms (g : Guard) (w : Bool) (rd ra rb : XReg) : List (Instr × (Nat → Nat → Nat → Nat → Nat)) :=
  let sgn (n x : Nat) : Int := (BitVec.ofNat n x).toInt
  [(.aadd g w rd ra rb, fun n _ b old => (old + b) % 2 ^ n), (.aand g w rd ra rb, fun _ _ b old => old &&& b),
   (.aor g w rd ra rb, fun _ _ b old => old ||| b), (.axor g w rd ra rb, fun _ _ b old => old ^^^ b),
   (.amin g w rd ra rb, fun n _ b old => if sgn n old ≤ sgn n b then old else b),
   (.amax g w rd ra rb, fun n _ b old => if sgn n b ≤ sgn n old then old else b),
   (.aswap g w rd ra rb, fun _ _ b _ => b), (.cas g w rd ra rb, fun _ a b old => if old = a then b else old)]

/-- R112, R327, R331: a scalar load from a W-aperture page that is ready returns the bytes of W-space, and one from a device
register that may be read with its size returns its value, under a COMMIT task's own writes of it; neither changes other
state. R111 to R113: a scalar load that meets no fault, from SRAM, LPDDR or host memory. It writes rd with the
value of the bytes as the task sees them, sign-extended when asked; no byte of memory changes; of the rest of the
state only stamps do. A load sees every earlier store of its strand, of any alias class (log 60). -/
def Obligations.ScalarLoadsComplete : Prop :=
  (
  ∀ (s : State) (t : Task) (g : Guard) (cls : BitVec 2) (sx : Bool) (rd ra : XReg) (disp : BitVec 6) (lit : Word32),
    s.Executes g t → ∀ f ∈ loadForms g cls sx rd ra disp lit,
      let n := f.2.1
      let ea : Word64 := t.getX ra + f.2.2.2.2
      ∀ x : Xlate, ea.toNat % n = 0 → s.translate s.cur t.rs.rc.job ea.toNat .read = .ok x → x.typ = .wap →
        ((s.dies[(wDie x.pa).val]).wready = true → s.poisonedRow x.pa n = none →
          exec f.1 s = onlyTask s ((t.advance f.2.2.2.1).setX rd
            (let v := BitVec.ofNat (8 * n) (leNat (s.readW x.pa n))
             if f.2.2.1 then v.signExtend 64 else v.setWidth 64))) ∧
        ((s.dies[(wDie x.pa).val]).wready = false → s.Sound s.cur →
          exec f.1 s = .next (s.takeTrap s.cur t ⟨1, 13, 0, ea, 0⟩ 0 t.pc (s.textAt s.cur t t.pc) 0 0))) ∧
  (
  ∀ (s : State) (t : Task) (g : Guard) (cls : BitVec 2) (sx : Bool) (rd ra : XReg) (disp : BitVec 6) (lit : Word32),
    s.Executes g t → ∀ f ∈ loadForms g cls sx rd ra disp lit,
      let n := f.2.1
      let ea : Word64 := t.getX ra + f.2.2.2.2
      ∀ (x : Xlate) (reg : Nat), ea.toNat % n = 0 → s.translate s.cur t.rs.rc.job ea.toNat .read = .ok x → x.typ = .mmio →
        s.mmioRead x.pa n = some reg → t.blocked x.pa n false = false →
        exec f.1 s = onlyTask s ((t.advance f.2.2.2.1).setX rd
          (let v := BitVec.ofNat (8 * n) (leNat (deviceView t.commit x.pa (bytesOf n reg)))
           if f.2.2.1 then v.signExtend 64 else v.setWidth 64))) ∧
  (
  ∀ (s : State) (t : Task) (g : Guard) (cls : BitVec 2) (sx : Bool) (rd ra : XReg) (disp : BitVec 6) (lit : Word32),
    s.Executes g t → ∀ f ∈ loadForms g cls sx rd ra disp lit,
      let n := f.2.1
      let ea : Word64 := t.getX ra + f.2.2.2.2
      ∀ x : Xlate, ea.toNat % n = 0 → s.translate s.cur t.rs.rc.job ea.toNat .read = .ok x →
        (x.typ = .sram ∨ x.typ = .lpddr ∨ x.typ = .host) → t.blocked x.pa n false = false →
        (x.typ = .sram → (s.touchAccess t x.pa n false false (some cls)).isSome = true) →
        ((s.viewOf t).checkMacs x.pa n).poisonedAt x.pa n = none →
        ∃ stamps, exec f.1 s = .next (({ s with stamps := stamps } : State).setTask s.cur
          ((t.advance f.2.2.2.1).setX rd
            (let v := BitVec.ofNat (8 * n) ((s.viewOf t).readNat x.pa n)
             if f.2.2.1 then v.signExtend 64 else v.setWidth 64))))

/-- R111, R112, R114: a scalar store that meets no fault. An ordinary store of a task outside COMMIT writes the low bytes
of rs at the translated address and no other byte of memory, and writes no register; one to a device register that may be
written with its size writes it; a non-temporal one waits among the task's non-temporal stores. R301, R307: under COMMIT
every store outside the core's own scratchpad waits in the commit buffer: one to LPDDR or host memory, one to other SRAM,
which is stamped at once and brings the mark of the tiles it meets, and one to a device register. -/
def Obligations.ScalarStoresComplete : Prop :=
  ∀ (s : State) (t : Task) (g : Guard) (cls : BitVec 2) (nt : Bool) (rs ra : XReg) (disp : BitVec 6) (lit : Word32),
    s.Executes g t → s.Sound s.cur → Memory.wf s.mem = true → ∀ f ∈ storeForms g cls nt rs ra disp lit,
      let n := f.2.1
      let ea : Word64 := t.getX ra + f.2.2.2
      ∀ x : Xlate, ea.toNat % n = 0 → s.translate s.cur t.rs.rc.job ea.toNat .write = .ok x →
        s.blocked t x.pa n true = false →
        (nt = false → (x.typ = .sram ∨ x.typ = .lpddr ∨ x.typ = .host) → t.rs.rc.commit = false →
          (x.typ = .sram → ∃ s1, s.touchAccess t x.pa n true false (some cls) = some s1) →
          (x.typ ≠ .sram → t.inWriteRange ea.toNat n = true) → (∀ y ∈ t.nt, y.meets x.pa n = false) →
          ∃ s' : State, exec f.1 s = .next (s'.setTask s.cur (t.advance f.2.2.1)) ∧
            (∀ a, Memory.get s'.mem a = if x.pa ≤ a ∧ a < x.pa + n then
              ((t.getX rs).extractLsb' (8 * (a - x.pa)) 8) else Memory.get s.mem a) ∧
            (x.typ = .sram → ∀ e ∈ tilesIn s.tiles x.pa n, ∃ e' ∈ s'.tiles, e' = (e.1, { e.2 with stale := true })) ∧
            s'.cores = s.cores ∧ s'.clusters = s.clusters ∧ s'.wmem = s.wmem ∧ s'.flash = s.flash ∧ s'.jobs = s.jobs ∧
            s'.nt = s.nt ∧ s'.fat = s.fat ∧ s'.tlb = s.tlb ∧ s'.ports = s.ports ∧ s'.mailbox = s.mailbox ∧
            s'.notices = s.notices) ∧
        (nt = true → x.typ = .lpddr → t.rs.rc.nt = true → t.rs.rc.commit = false → t.inWriteRange ea.toNat n = true →
          exec f.1 s = onlyTask s { t.advance f.2.2.1 with
            nt := t.nt ++ [⟨t.rs.rc.job, t.slot, x.pa, bytesOf n (t.getX rs).toNat, [], none⟩] }) ∧
        (let bs := bytesOf n (t.getX rs).toNat
         let buffers (s1 : State) (l : List Buffered) : Prop := commitGranules (t.commit ++ l) ≤ 768 →
           exec f.1 s = .next (s1.setTask s.cur { t.advance f.2.2.1 with commit := t.commit ++ l })
         let reg := BitVec.ofNat 64 (leNat bs)
         nt = false → t.rs.rc.commit = true →
          ((x.typ = .lpddr ∨ x.typ = .host) → t.inWriteRange ea.toNat n = true → ownSpad s.cur x.pa = false →
            buffers s (bufferBytes x.pa bs)) ∧
          (∀ s1, x.typ = .sram → ownSpad s.cur x.pa = false → s.touchAccess t x.pa n true false (some cls) = some s1 →
            buffers s1 (bufferBytes x.pa bs ++ (tilesIn (s.viewOf t).tiles x.pa n).map fun e => .stale e.1)) ∧
          (x.typ = .mmio → (s.mmioWrite x.pa n 0 false).isSome = true → (s.mmioWrite x.pa n reg false).isSome = true →
            buffers s [.device x.pa n reg])) ∧
        (∀ s1, nt = false → x.typ = .mmio → t.rs.rc.commit = false → (s.mmioWrite x.pa n 0 false).isSome = true →
          s.mmioWrite x.pa n (BitVec.ofNat 64 (leNat (bytesOf n (t.getX rs).toNat))) false = some s1 →
          exec f.1 s = .next (s1.setTask s.cur (t.advance f.2.2.1)))

/-- R101, R116: a scalar load, store or atomic whose effective address is not a multiple of its size takes the alignment
fault, precise, with that address in the record, and does nothing else. -/
def Obligations.MisalignmentTraps : Prop :=
  ∀ (s : State) (t : Task) (g : Guard) (cls : BitVec 2) (b w : Bool) (r ra rb : XReg) (disp : BitVec 6) (lit : Word32),
    s.Executes g t → s.Sound s.cur →
      (∀ f ∈ loadForms g cls b r ra disp lit,
        (t.getX ra + f.2.2.2.2).toNat % f.2.1 ≠ 0 → exec f.1 s = trapsWith s t 0 7 0 (t.getX ra + f.2.2.2.2)) ∧
      (∀ f ∈ storeForms g cls b r ra disp lit,
        (t.getX ra + f.2.2.2).toNat % f.2.1 ≠ 0 → exec f.1 s = trapsWith s t 0 7 0 (t.getX ra + f.2.2.2)) ∧
      (∀ f ∈ atomicForms g w r ra rb,
        (t.getX ra).toNat % (if w then 4 else 8) ≠ 0 → exec f.1 s = trapsWith s t 0 7 0 (t.getX ra))

/-- R115, R134, R126, R137: NTDRAIN makes the task's non-temporal stores visible, oldest first (of one that writes a nibble,
R145, the other stays); NOP has no effect;
TID writes index and launch number; EXIT closes every region and starts the drain. -/
def Obligations.SystemGroupEffects : Prop :=
  ∀ (s : State) (t : Task) (g : Guard), s.Executes g t →
    exec (.nop g) s = onlyTask s (t.advance 2) ∧
    (∀ rd : XReg, exec (.tid g rd) s = onlyTask s ((t.advance 2).setX rd
      ((BitVec.ofNat 24 t.rs.rc.launch).setWidth 64 <<< 32 ||| t.rs.rc.index.setWidth 64))) ∧
    exec (.exit g) s = onlyTask s { t.advance 2 with regions := [], wait := .exiting, exited := true } ∧
    exec (.ntdrain g) s = .next ((t.nt.foldl (fun s y => s.applyNt y) s).setTask s.cur
      { t.advance 2 with nt := [] }) ∧
    (∀ a, Memory.get (t.nt.foldl (fun s y => s.applyNt y) s).mem a =
      Memory.get (t.nt.foldl (fun m y => Memory.write m y.pa (match y.half with
        | none => y.bytes
        | some upper =>
          let old := Memory.get m y.pa
          let new := y.bytes.getD 0 0
          [if upper then new.extractLsb' 4 4 ++ old.extractLsb' 0 4 else old.extractLsb' 4 4 ++ new.extractLsb' 0 4]))
        s.mem) a)

/-- R136, R42: a MILE that finds every command complete, no live state that its masks declare dead and no enabled flag
clears the tiles and the front that are dead, restarts the milestone distance and keeps the masks; a LIVE trap comes
before the arithmetic trap, and a MILE that traps clears nothing. R32 to R34: a REP whose target may be repeated
starts a repetition of n instructions from its own place; one before a head that R32 does not allow raises the
illegal-instruction trap, whatever its guard (that the trap is REP's own is the model's choice, log 60). -/
def Obligations.MilestoneAndRepeat : Prop :=
  (
  ∀ (s : State) (t : Task) (g : Guard) (zt ef : BitVec 8) (vq : Word32), s.Executes g t → t.cmds = [] →
    let live := (∃ q : Fin 32, vq.getLsbD q.val = false ∧ t.v[q.val] ≠ []) ∨
      (ef.getLsbD 0 = false ∧ t.mStack ≠ []) ∨ (ef.getLsbD 1 = false ∧ t.xStack ≠ []) ∨
      (ef.getLsbD 2 = false ∧ t.pStack ≠ []) ∨ (ef.getLsbD 3 = false ∧ t.sStack ≠ [])
    let flags := t.sys.acflags &&& t.sys.acen
    (live → s.Sound s.cur → exec (.mile g zt ef vq) s = trapsWith s t 0 2 8 0) ∧
    (¬live → flags ≠ 0 → s.Sound s.cur → exec (.mile g zt ef vq) s = trapsWith s t 0 14 0 0) ∧
    (¬live → flags = 0 → t.cancel = false → (s.core s.cur).preempt = false →
      exec (.mile g zt ef vq) s = onlyTask s { t.advance 4 with
        z := Vector.ofFn fun i => if zt.getLsbD i.val then t.z[i.val] else ZTile.zero,
        front := if ef.getLsbD 4 then t.front else { t.front with tuples := [], shape := none },
        dist := 0, masks := ⟨zt, ef, vq⟩ })) ∧
  (
  ∀ (s : State) (t : Task) (g : Guard) (n : BitVec 6) (d a b c : Bool) (h : Parcel), s.running = some t →
    s.fetchParcel s.cur t (t.pc.toNat + 4) = .ok h →
    let cls := h.toNat / 2 ^ 13
    let op := h.toNat / 2 ^ 8 % 32
    let ok := cls = 1 ∨ (cls = 0 ∧ (1 ≤ op ∧ op ≤ 6 ∨ 12 ≤ op ∧ op ≤ 19) ∧ c = false)
    (ok → t.passes g = true →
      ∃ r : Repeat, exec (.rep g n d a b c) s = onlyTask s { t.advance 2 with rep := r } ∧ r.count = n.toNat + 1 ∧
        r.done = 0 ∧ r.d = d ∧ r.a = a ∧ r.b = b ∧ r.c = c ∧ r.vactive = decide (cls = 1) ∧
        r.cactive = !r.vactive) ∧
    (¬ok → s.Sound s.cur → exec (.rep g n d a b c) s = trapsWith s t 0 1 8 0))

/-- R97, R135: TRAP and BRK take their traps with n in the record, a BRK of a task that a debugger holds goes to it, and a
head in spaces 6 and 7 traps with detail FUTURE. -/
def Obligations.SoftwareTraps : Prop :=
  ∀ (s : State) (t : Task) (g : Guard) (n : BitVec 16), s.Executes g t → s.Sound s.cur →
    exec (.trap g n) s = trapsWith s t 0 18 0 (n.setWidth 64) ∧
    (t.attached = false → exec (.brk g n) s = trapsWith s t 0 19 0 (n.setWidth 64)) ∧
    (t.attached = true → ∃ (r : TrapRec) (i : Nat) (s' : State), exec (.brk g n) s = .next s' ∧ (s'.core s.cur).status = .trapped r (some i) ∧
      r.cause = 19 ∧ r.pc = t.pc ∧ r.addr = n.setWidth 64 ∧ (s'.core s.cur).task = some t ∧
      s'.notices = s.notices ++ [.breakpoint s.cur n] ∧ s'.mem = s.mem) ∧
    (∀ (head : Parcel) (rest : List Parcel), exec (.future head rest) s = trapsWith s t 0 1 0 0)

/-- R124, R125, R128: WAITC completes when its counter has reached the target and else waits; BAR of a gang task whose
commands are complete arrives; CTOPEN and CTCLOSE open and close a region; their illegal operations. R277, R321: a session
opened inside the region that CTCLOSE closes stands from then on in the region around it. -/
def Obligations.WaitingAndRegions : Prop :=
  ∀ (s : State) (t : Task) (g : Guard), s.Executes g t →
    (∀ (ra rb : XReg) (k : Fin 16), (t.getX ra).toNat = k.val →
      (((t.cc[k.val]).toNat + 2 ^ 32 - ((t.getX rb).setWidth 32).toNat) % 2 ^ 32 < 2 ^ 31 →
        exec (.waitc g ra rb) s = onlyTask s (t.advance 2)) ∧
      (2 ^ 31 ≤ ((t.cc[k.val]).toNat + 2 ^ 32 - ((t.getX rb).setWidth 32).toNat) % 2 ^ 32 → t.cancel = false →
        ∃ t' : Task, exec (.waitc g ra rb) s = onlyTask s t' ∧ t'.wait = .waitc k ((t.getX rb).setWidth 32) ∧ t'.pc = t.pc ∧
          t'.x = t.x ∧ t'.cc = t.cc ∧ t'.dist = t.dist)) ∧
    (∀ ra rb : XReg, 15 < (t.getX ra).toNat → s.Sound s.cur → exec (.waitc g ra rb) s = trapsWith s t 0 2 5 0) ∧
    (t.rs.rc.gang = true → t.cmds = [] →
      exec (.bar g) s = onlyTask s { t.advance 2 with bars := t.bars + 1, wait := .bar }) ∧
    (t.rs.rc.gang = false → s.Sound s.cur → exec (.bar g) s = trapsWith s t 0 2 4 0) ∧
    (∀ ra : XReg,
      ((t.getX ra).getLsbD 0 = false → t.regions.length < 4 →
        exec (.ctopen g ra) s = onlyTask s { t.advance 2 with regions := t.regions ++ [⟨t.getX ra, t.commit.length⟩] }) ∧
      ((t.getX ra).getLsbD 0 = true → s.Sound s.cur → exec (.ctopen g ra) s = trapsWith s t 0 2 2 0) ∧
      ((t.getX ra).getLsbD 0 = false → 4 ≤ t.regions.length → s.Sound s.cur →
        exec (.ctopen g ra) s = trapsWith s t 0 2 7 0)) ∧
    (t.regions ≠ [] → t.cmds = [] → exec (.ctclose g) s = onlyTask s (t.advance 2).closeRegion ∧
      (t.advance 2).closeRegion.regions = t.regions.dropLast ∧
      (t.advance 2).closeRegion.sessions = t.sessions.map fun x => { x with depth := min x.depth (t.regions.length - 1) }) ∧
    (t.regions = [] → s.Sound s.cur → exec (.ctclose g) s = trapsWith s t 0 2 7 0)

/-- R7, R29, R41, R58, R61, R65, R67, R267, R405: what a write leaves in each system register, read back: a reserved
or RO field keeps its value, SLIPW is held between 64 and 8,192, and no other register changes. R130, R7, R405: CSRR
reads any register that its map entry allows; CSRW, CSRS and CSRC write RW fields of a register that tasks may write
and nothing else; an access that the map does not allow raises PRIV before any effect. The writable registers are
named with the fields a write reaches. The addr field of the PRIV trap's record is a free value (log 8). -/
def Obligations.SystemRegisters : Prop :=
  (
  ∀ (s : State) (c : CoreId) (t : Task) (v : Word64),
    let rd (n m : Nat) := s.csr c (t.csrStore n v) m
    rd 0x000 0x000 = BitVec.ofNat 64 (max 64 (min 8192 (v.toNat % 2 ^ 14))) ∧
    rd 0x010 0x010 = v &&& 0x1FF ∧ rd 0x011 0x011 = v &&& 0x1FF ∧
    rd 0x012 0x012 = (if v.toNat % 8 ≤ 4 then v &&& 7 else 0) ∧
    rd 0x013 0x013 = v &&& 0xFFFF1F1F ∧ rd 0x014 0x014 = v &&& 0xFFFFFFFF ∧ rd 0x015 0x015 = v &&& 0xFFFFFFFF ∧
    rd 0x016 0x016 = v &&& 0xFFFFFFFF ∧ rd 0x017 0x017 = v ∧ rd 0x018 0x018 = v &&& 0x1F ∧
    rd 0x020 0x020 = v &&& 0xFFFFFFFF ∧
    (∀ n m, m ≠ n → rd n m = s.csr c t m) ∧
    (∀ n, n ∉ [0x000, 0x010, 0x011, 0x012, 0x013, 0x014, 0x015, 0x016, 0x017, 0x018, 0x020] → t.csrStore n v = t)) ∧
  (
  ∀ (s : State) (t : Task) (g : Guard) (r : XReg) (n : BitVec 11), s.Executes g t →
    (csrClosed n.toNat = false → (csrOrdered n.toNat = true → t.cmds = []) →
      exec (.csrr g r n) s = onlyTask s ((t.advance 2).setX r (s.csr s.cur (t.advance 2) n.toNat))) ∧
    (csrNoWrite n.toNat = false → (csrWriteOrdered n.toNat = true → t.cmds = []) →
      let old := s.csr s.cur (t.advance 2) n.toNat
      exec (.csrw g r n) s = onlyTask s ((t.advance 2).csrStore n.toNat (t.getX r)) ∧
      exec (.csrs g r n) s = onlyTask s ((t.advance 2).csrStore n.toNat (old ||| t.getX r)) ∧
      exec (.csrc g r n) s = onlyTask s ((t.advance 2).csrStore n.toNat (old &&& ~~~(t.getX r)))) ∧
    (s.Sound s.cur → (n = 0x0C0 → exec (.csrr g r n) s = trapsWith s t 0 2 0 0) ∧
      (n = 0x002 ∨ n = 0x004 ∨ n = 0x040 ∨ n = 0x041 ∨ n = 0x042 ∨ n = 0x043 ∨ n = 0x0C0 →
        exec (.csrw g r n) s = trapsWith s t 0 2 0 0 ∧ exec (.csrs g r n) s = trapsWith s t 0 2 0 0 ∧
        exec (.csrc g r n) s = trapsWith s t 0 2 0 0)))

/-- R132, R133, R25: KPOPC, KFIRST, KGETW, KSETW and VGET, with the INDEX trap beyond their range and the queue-underflow
trap of an empty queue. That an empty queue underflows before the index is looked at is the model's reading (log 9). -/
def Obligations.MaskAndLaneTransfers : Prop :=
  ∀ (s : State) (t : Task) (g : Guard) (rd ra rb : XReg) (kd ka : KReg), s.Executes g t →
    let m := t.getK ka
    let i := (t.getX rb).toNat
    exec (.kpopc g rd ka) s = onlyTask s ((t.advance 2).setX rd
      (BitVec.ofNat 64 ((List.range 1024).countP fun j => m.getLsbD j))) ∧
    (∃ k, k ≤ 1024 ∧ exec (.kfirst g rd ka) s = onlyTask s ((t.advance 2).setX rd (BitVec.ofNat 64 k)) ∧
      (∀ j, j < k → m.getLsbD j = false) ∧ (k < 1024 → m.getLsbD k = true)) ∧
    (i ≤ 15 → exec (.kgetw g rd ka rb) s = onlyTask s ((t.advance 2).setX rd (m.extractLsb' (64 * i) 64)) ∧
      (∃ v : MaskBits, exec (.ksetw g kd ra rb) s = onlyTask s ((t.advance 2).setK kd v) ∧
        ∀ j, j < 1024 → v.getLsbD j =
          if 64 * i ≤ j ∧ j < 64 * i + 64 then (t.getX ra).getLsbD (j - 64 * i) else (t.getK kd).getLsbD j)) ∧
    (15 < i → s.Sound s.cur → exec (.kgetw g rd ka rb) s = trapsWith s t 0 2 6 0 ∧
      exec (.ksetw g kd ra rb) s = trapsWith s t 0 2 6 0) ∧
    (∀ (z : LaneSize) (q : VReg) (e : Entry) (rest : List Entry),
      let w := match z with | .b => 8 | .h => 16 | .w => 32 | .d => 64
      (t.queue q = e :: rest → i < 4096 / w → exec (.vget g z rd q rb) s = onlyTask s ((t.advance 2).setX rd
        ((e.data.extractLsb' (w * i) w).signExtend 64))) ∧
      (t.queue q = e :: rest → 4096 / w ≤ i → s.Sound s.cur → exec (.vget g z rd q rb) s = trapsWith s t 0 2 6 0) ∧
      (t.queue q = [] → s.Sound s.cur → exec (.vget g z rd q rb) s = trapsWith s t 0 3 0 0))

/-- What is found of a handle that SPAWN names: a record its task holds, or a stored one. -/
def Sys2Proof.Machine.State.foundRec (s : State) (t : Task) (h : Word64) : Option RecSlot :=
  match t.heldRec h with
  | some r => some r
  | none => (s.recOf h).map Prod.snd

/-- Whether SPAWN may attach a predecessor to a record (R122). -/
def Sys2Proof.Machine.Task.mayAttach (t : Task) (r : RecSlot) : Prop :=
  r.rc.job = t.rs.rc.job ∧ r.rc.launch = t.rs.rc.launch ∧ r.rc.origin = 2 ∧ r.ready = none ∧ r.rc.join ≠ 0 ∧
    r.rc.attached ≠ r.rc.join

/-- The record store after one new record of a cluster: every old record as it was, in its place (but for becoming ready),
the stored record of a handle with one attached predecessor more; then the new one, in a slot that was free. -/
def Sys2Proof.Machine.State.OneMore (s s' : State) (k : ClusterId) (r : RecSlot) (up : Option (ClusterId × Nat)) : Prop :=
  (∀ c : ClusterId, (s'.clusters[c.val]).recs.map (fun x => (x.slot, x.tenure, x.rc)) =
    (s.clusters[c.val]).recs.map (fun x => (x.slot, x.tenure,
      if up = some (c, x.slot) then { x.rc with attached := x.rc.attached + 1 } else x.rc)) ++
    (if c = k then [(r.slot, r.tenure, r.rc)] else [])) ∧
  ∀ x ∈ (s.clusters[k.val]).recs, x.slot ≠ r.slot

/-- R16, R121, R122: JOIN creates a record of the creator's launch with its join counter, no successor, and puts its
non-zero handle into rd; SPAWN creates a record with join counter 0 and the successor of rd, to which it is attached:
the successor's count of attached predecessors goes up by 1. The record is a new one; every other keeps its fields. An
odd code pointer raises TARGET, a successor that SPAWN cannot attach raises HANDLE. A COMMIT task holds the record, and
what it attaches to, until EXIT (R301). Each asks for the job's next generation, which is made at once where nothing holds
its value and no earlier advance waits, and else when it is free (R305). No byte of memory, no other core and no launch
but the creator's own changes, which counts one member more. R119, R324: LAUNCH, which reads every footprint list first, of
a descriptor with a bad field, a successor it cannot take or a refused list creates nothing and answers 2 in bits 39:32
of rd; of one asking for a higher priority than the creator's, or for an NT privilege it may not have, 3; of a gang of
more than 16 tasks, or of more than 8 pairs, 1; with no number free, 4; an accepted one creates a launch with the
descriptor's count, after and successor, and puts its number into rd. The descriptor is as eight doubleword loads
read it. R123, R299: CANCEL answers 2 for a value with other bits set or no such work, 3 for another job, 1 for work
that is complete, and else 0; then the work's launches are cancelled. The order of the checks, that an advance waits and not
what asks for it, and the lowest free slot are the model's (logs 10 to 13); that the count of attached predecessors goes down
again with the join counter is log 62's. A launch that another COMMIT task still holds back is neither found by number nor
named as the one before (R301, State.seen); JOIN with a counter above 0, and a child in a launch that waits for another,
has no base generation (R305). -/
def Obligations.JoinSpawnLaunchCancel : Prop :=
  (
  ∀ (s s1 : State) (t : Task) (g : Guard) (rd ra rb : XReg) (n : Word32) (gen : BitVec 4) (due : Nat),
    s.Executes g t → s.Sound s.cur → s.askGen t.rs.rc.job = (s1, gen, due) →
    let k := clusterOf s.cur
    let h := t.getX rd
    (∀ j, s.jobOf t.rs.rc.job = some j → gen = j.gen + BitVec.ofNat 4 (j.asked + 1 - j.made) ∧ due = j.asked + 1 ∧
      s1.jobOf t.rs.rc.job = some (
        if j.asked = j.made ∧ s.genHeld t.rs.rc.job (j.gen + 1) = false then
          { j with gen := j.gen + 1, asked := j.asked + 1, made := j.made + 1 }
        else { j with asked := j.asked + 1 })) ∧
   (
    let kept (s' : State) := s'.mem = s.mem ∧ s'.cores = s.cores ∧ s'.wmem = s.wmem ∧ s'.flash = s.flash ∧
      s'.dies = s.dies ∧ s'.ports = s.ports ∧
      s'.jobs = s1.jobs.map fun j => if j.num = t.rs.rc.job then
        { j with launches := j.launches.map fun l =>
          if l.num = t.rs.rc.launch ∧ t.rs.rc.commit = false then { l with pending := l.pending + 1 } else l } else j
    let child (r : RecSlot) (join : Word32) (succ : Word64) := r.rc.code = t.getX ra ∧ r.rc.frame = t.getX rb ∧
      r.rc.job = t.rs.rc.job ∧ r.rc.launch = t.rs.rc.launch ∧ r.rc.prio = t.rs.rc.prio ∧ r.rc.gang = false ∧
      r.rc.index = 0xFFFFFFFF ∧ r.rc.join = join ∧ r.rc.succ = succ ∧ r.rc.attached = 0 ∧
      r.rc.hasbgen = (decide (join = 0) && !s.afterOf t) ∧ (join = 0 → s.afterOf t = false → r.rc.bgen = gen ∧ r.due = due) ∧
      handleOf k r.slot r.tenure ≠ 0
    let made (i : Instr) (t' : Task) (join : Word32) (succ : Word64) (origin : BitVec 2) (held : List Held)
        (up : Option (ClusterId × Nat)) (out : Task → Word64 → Task) : Prop :=
      ∃ (s' : State) (r : RecSlot), kept s' ∧ child r join succ ∧ r.rc.origin = origin ∧
        (t.rs.rc.commit = false → s.OneMore s' k r up ∧
          exec i s = .next (s'.setTask s.cur { out t' (handleOf k r.slot r.tenure) with held := held })) ∧
        (t.rs.rc.commit = true → (∀ x ∈ (s.clusters[k.val]).recs, x.slot ≠ r.slot) ∧
          (∀ x ∈ t.heldRecs, x.slot ≠ r.slot) ∧
          exec i s = .next (s'.setTask s.cur
            { out t' (handleOf k r.slot r.tenure) with held := held ++ [.record k r false] }))
    ((t.getX ra).getLsbD 0 = true → exec (.join g rd ra rb n) s = trapsWith s t 0 2 2 0 ∧
      exec (.spawn g rd ra rb) s = trapsWith s t 0 2 2 0) ∧
    ((t.getX ra).getLsbD 0 = false → h ≠ 0 → (∀ r, s.foundRec t h = some r → ¬ t.mayAttach r) →
      exec (.spawn g rd ra rb) s = trapsWith s t 0 2 3 0) ∧
    ((t.getX ra).getLsbD 0 = false →
      made (.join g rd ra rb n) (t.advance 4) n 0 2 t.held none (fun t h => t.setX rd h) ∧
      (h = 0 → made (.spawn g rd ra rb) (t.advance 2) 0 0 1 t.held none fun t _ => t) ∧
      (∀ r, h ≠ 0 → t.heldRec h = some r → t.mayAttach r →
        made (.spawn g rd ra rb) (t.advance 2) 0 h 1 (t.held.map (attachHeld h)) none fun t _ => t) ∧
      (∀ kr r, h ≠ 0 → t.heldRec h = none → s.recOf h = some (kr, r) → t.mayAttach r →
        made (.spawn g rd ra rb) (t.advance 2) 0 h 1 (if t.rs.rc.commit then t.held ++ [.attach h] else t.held)
          (some (kr, r.slot)) fun t _ => t)))) ∧
  (
  ∀ (s s1 : State) (t : Task) (g : Guard) (rd ra : XReg) (bs : List Byte) (j : Job) (mine : Launch)
    (num : Nat) (lists : Option (List (List InEntry × List VRange))),
    s.Executes g t → s.Sound s.cur → readDesc s.cur 8 (t.getX ra).toNat s (t.advance 2) = .ok (s1, bs) →
    s1.jobOf t.rs.rc.job = some j → s1.launchOf t.rs.rc.job t.rs.rc.launch = some mine →
    let d := parseDesc bs
    readLists (s1.viewOf (t.advance 2)) s.cur t.rs.rc.job (some (t.advance 2)) d
      (List.range (if d.count ≤ 2 ^ 31 then d.count else 0)) = .ok lists →
    let refused (n : Nat) :=
      exec (.launch g rd ra) s = .next (s1.setTask s.cur ((t.advance 2).setX rd (BitVec.ofNat 64 (n * 2 ^ 32))))
    ((d.reserved = true ∨ d.count = 0 ∨ 2 ^ 31 < d.count ∨ d.code.getLsbD 0 = true ∨
        (d.fplist = 0 ∧ d.nin + d.nout ≠ 0) ∨ 64 < d.nin ∨ 64 < d.nout ∨ lists = none ∨
        (∃ a, d.after = some a ∧ ∀ l ∈ (s1.seen (some (t.advance 2)) j).launches, l.num = a → l.graph ≠ mine.graph) ∨
        s1.succOk (t.advance 2) d.succ = false) → refused 2) ∧
    (d.reserved = false → 0 < d.count → d.count ≤ 2 ^ 31 → d.code.getLsbD 0 = false →
      (∀ a, d.after = some a → ∃ l ∈ (s1.seen (some (t.advance 2)) j).launches, l.num = a ∧ l.graph = mine.graph) →
      (d.fplist = 0 → d.nin + d.nout = 0) → d.nin ≤ 64 → d.nout ≤ 64 → s1.succOk (t.advance 2) d.succ = true →
      ∀ fps, lists = some fps →
      let denied := t.rs.rc.prio.toNat < d.prio.toNat ∨ d.nt = true ∧ (t.rs.rc.nt = false ∨ d.commit = true)
      let large := d.gang = true ∧ (16 < d.count ∨ d.paired = true ∧ 8 < d.count)
      (denied → refused 3) ∧ (¬ denied → large → refused 1) ∧
      (¬ denied → ¬ large → j.freeLaunch = none → refused 4) ∧
      (¬ denied → ¬ large → j.freeLaunch = some num → let gen := (s1.askGen t.rs.rc.job).2
        ∃ (s' : State) (held : List Held),
          exec (.launch g rd ra) s = .next (s'.setTask s.cur
            { (t.advance 2).setX rd (BitVec.ofNat 64 num) with held := held }) ∧
          held = (if t.rs.rc.commit then t.held ++ [.launch num (launchRecs t.rs.rc.job num d fps gen.1 gen.2) false] else t.held) ∧
          s'.mem = s.mem ∧ s'.cores = s.cores ∧
          ∃ j' l, s'.jobOf t.rs.rc.job = some j' ∧ l ∈ j'.launches ∧ l.num = num ∧ l.count = d.count ∧
            l.cluster = d.target.getD (clusterOf s.cur) ∧ l.graph = mine.graph ∧ l.phase = mine.phase ∧
            l.after = d.after ∧ l.succ = d.succ ∧ l.wpriv = false))) ∧
  (
  ∀ (s : State) (t : Task) (g : Guard) (rd ra : XReg), s.Executes g t → s.Sound s.cur →
    let v := (t.getX ra).toNat
    let level := v / 2 ^ 62
    let n := v % 2 ^ 32
    let work := s.work (some (t.advance 2)) t.rs.rc.job level n
    let answers (x : Nat) := exec (.cancel g rd ra) s = onlyTask s ((t.advance 2).setX rd (BitVec.ofNat 64 x))
    (v / 2 ^ 32 % 2 ^ 30 ≠ 0 → answers 2) ∧
    (v / 2 ^ 32 % 2 ^ 30 = 0 →
      (level = 3 → n ≠ t.rs.rc.job → answers 3) ∧
      ((level = 3 → n = t.rs.rc.job) → work = none → answers 2) ∧
      (∀ ls, (level = 3 → n = t.rs.rc.job) → work = some ls →
        ((∀ l ∈ ls, l.done = true) → answers 1) ∧
        ((∃ l ∈ ls, l.done = false) →
          let s1 := s.cancelWork t.rs.rc.job fun m => ls.any fun l => decide (l.num = m)
          exec (.cancel g rd ra) s = .next (s1.setTask s.cur { (t.advance 2).setX rd 0 with
            held := ((s1.taskOf s.cur).map Task.held).getD t.held,
            cancel := t.cancel || ls.any fun l => decide (l.num = t.rs.rc.launch) })))))

/-! ### Decoding, stepping and the whole machine -/

/-- R76 to R97: decoding the encoding of any well-formed instruction gives it back, with every field at every value the
encoding admits, whatever text follows. -/
def Obligations.DecodeOfEncode : Prop :=
  ∀ (i : Instr) (rest : List Parcel), isWord i = true → WellFormed i → decodeParcels (encode i ++ rest) = .instr i

/-- R76, R96: what the decoder accepts is well formed, as long as its head says, and encoded by exactly the parcels it was
read from: no two texts mean one instruction. -/
def Obligations.EncodeOfDecode : Prop :=
  ∀ (ps : List Parcel) (i : Instr), decodeParcels ps = .instr i →
    WellFormed i ∧ isWord i = true ∧ parcelCount i = headParcels (ps.headD 0) ∧ encode i = ps.take (parcelCount i)

/-- Words written out from the encodings of R81, R82, R84, R86, R90, R97 and the examples of spec/, by family. -/
def Obligations.WordsDecode : Prop :=
  decode [0x02, 0x0F, 0x82, 0x20] = .instr (.ldD ⟨0, false⟩ 1 4 2 2) ∧
  decode [0x07, 0x12, 0x42, 0x3A] = .instr (.stW ⟨0, false⟩ 3 true 7 9 2) ∧
  decode [0x01, 0x01, 0x8F, 0x29] = .instr (.sub ⟨0, false⟩ true 5 6 7) ∧
  decode [0x0B, 0x05, 0x00, 0x19, 0x00, 0x20, 0x00, 0x00] = .instr (.bfi ⟨0, false⟩ 3 4 0 32) ∧
  decode [0x02, 0x07, 0x93, 0x29] = .instr (.cmp ⟨0, false⟩ .lt 2 3 5 6) ∧
  decode [0x00, 0x14, 0x8F, 0x29] = .instr (.aadd ⟨0, false⟩ true 5 6 7) ∧
  decode [0x0A, 0x16, 0x04, 0x53, 0x02, 0x00, 0x00, 0x00] = .instr (.join ⟨0, false⟩ 10 12 2 2) ∧
  decode [0x00, 0x18, 0x10, 0x30] = .instr (.csrr ⟨0, false⟩ 6 0x010) ∧
  decode [0x04, 0x00, 0x00, 0x0F] = .instr (.rep ⟨0, false⟩ 3 true true false false) ∧
  decode [0x40, 0x0A, 0x08, 0x00] = .instr (.br ⟨2, false⟩ 8) ∧
  decode [0x03, 0x1A, 0x40, 0x09] = .instr (.ksetw ⟨0, false⟩ 1 5 0) ∧
  decode [0x0B, 0x00, 0x00, 0x00, 0x04, 0x00, 0x00, 0x00] = .instr (.mile ⟨0, false⟩ 0 0 4) ∧
  decode [0x10, 0x28, 0x44, 0x20, 0x22, 0x18] =
    .instr (.vfma ⟨8, 4, 1, 2, false, 3, 0, false, false, true, false, ⟨1, false⟩, none⟩) ∧
  decode [0x44, 0x2A, 0x02, 0x08, 0x60, 0x00] =
    .instr (.vcmp .lt ⟨2, 1, 0, 1, false, 0, 0, false, true, true, false, ⟨0, false⟩, none⟩) ∧
  decode [0x51, 0x30, 0x40, 0x10, 0x00, 0x00, 0x03, 0x02, 0x00, 0x00] =
    .instr (.vcvtd ⟨8, 2, 1, 0, false, 0, 0, false, false, false, false, ⟨0, false⟩, some 0x203⟩) ∧
  decode [0x13, 0x44] = .instr (.mSbase true 3) ∧
  decode [0x00, 0x85] = .instr .pClr ∧
  decode [0x00, 0xA9] = .instr (.sQry 0) ∧
  decode [0x00, 0x42, 0x00, 0x00, 0x01, 0x00] = .instr (.lit32 .m 0x10000) ∧
  decode [0x05, 0x40] = .instr (.lit .m 5) ∧
  decode [0xFF, 0xC0] = .instr (.future 0xC0FF [])

/-- R27, R79, R95: when the bytes at the task's pc are the text of a well-formed instruction, a step executes exactly
that instruction in that state, and time passes; a script entry that names the core does the same on that core. Around
it: an atomic takes its turn at its engines (R304), and waits there while a request stands before it; a V instruction
is noted in the core's issue group, and in its partner's when a pair runs it (R36), which touches VBSPLIT alone among the
registers. The script is the model's
own (log 1). -/
def Obligations.StepRunsTheDecodedInstruction : Prop :=
  ∀ (s : State) (t : Task) (ps : List Parcel) (i : Instr), s.running = some t →
    s.fetchText s.cur t t.pc = .ok ps → decodeParcels ps = .instr i → t.rep.vactive = false → t.rep.cactive = false →
    t.dist + headParcels (ps.headD 0) ≤ t.limit → s.waitsAtomic s.cur = false →
    let ks := s.enginesOf s.cur t i
    let out := noteGroup s t i (s.inTurn t i (exec i))
    (s.script = [] → t.cmds = [] ∨ s.tick % 2 = 0 → step s = timed out) ∧
    (∀ (s0 : State) (rest : List Action), s0.script = .run s.cur :: rest → s = { s0 with script := rest, cur := s.cur } →
      step s0 = timed out) ∧
    (atomicAddrs t i = [] → s.inTurn t i (exec i) = exec i s) ∧
    ((∀ k ∈ ks, (s.clusters[k.val]).areqs = []) →
      s.inTurn t i (exec i) = exec i (ks.foldl (fun s k => s.setCluster k fun x => { x with granted := s.cur }) s)) ∧
    ((∃ k ∈ ks, (s.clusters[k.val]).areqs ≠ []) → s.inTurn t i (exec i) = .next (s.request s.cur i ks)) ∧
    (∀ o, vReads i = none → noteGroup s t i o = o) ∧
    (∀ s' : State, noteGroup s t i (.next s') = .next s' ∨ ∃ reads, vReads i = some reads ∧
      noteGroup s t i (.next s') = .next (s'.issueV s.cur t.rs.rc.paired s.tick reads)) ∧
    (∀ (tick : Nat) (reads : List VReg) (k : Core), ∃ (l : Option (List VReg)) (n : Word32),
      n ∈ [k.vbsplit, satSucc k.vbsplit] ∧ k.issueV tick reads = { k with vgroup := l, vbsplit := n })

/-- R30: a C or V instruction that is guarded off moves past its own parcels and does nothing else. A REP keeps its
encoding check (R31; that a guarded-off one makes it is log 60's). -/
def Obligations.GuardedOffDoesNothing : Prop :=
  ∀ (s : State) (t : Task) (i : Instr) (g : Guard), s.running = some t → guardOf i = some g → t.passes g = false →
    (∀ n d a b c, i = .rep g n d a b c →
      ∃ h, s.fetchParcel s.cur t (t.pc.toNat + 4) = .ok h ∧ repTargetOk h c = true) →
    exec i s = onlyTask s (t.advance (parcelCount i))

/-- The state after reset: the values that the manual gives, and BAR 2's base, for which it gives none: that one is the
model's choice (log 3). R18, R20 and R61 are the state of a task at dispatch. R18, R20, R61, R177: the registers, queues,
tiles, stacks and configurations with which a task starts. -/
def Obligations.ResetAndTaskStart : Prop :=
  (
  (∀ c : CoreId, (State.reset.core c).milemax = 4096 ∧ (State.reset.core c).task = none ∧
    (State.reset.core c).rxwin = Vector.replicate 3 0) ∧
  (∀ p : PortId, (State.reset.ports[p.val]).limit = 0x10000000000 ∧ (State.reset.ports[p.val]).warn = 0xFFFFF00000 ∧
    (State.reset.ports[p.val]).up = false) ∧
  (∀ d : DieId, (State.reset.dies[d.val]).wready = false ∧ (State.reset.dies[d.val]).frozen = false) ∧
  State.reset.boot = .off ∧ State.reset.jobs = [] ∧ State.reset.bar2 = 0x1000000000) ∧
  (
  ∀ (r : RecSlot) (slot : BitVec 12) (gen : BitVec 4) (limit : Nat) (held : Bool),
    let t := newTask r slot gen limit held
    t.pc = r.rc.code ∧ t.getX 2 = r.rc.frame ∧ (∀ x : XReg, x ≠ 2 → t.getX x = 0) ∧ t.getP 0 = true ∧
    (∀ p : PReg, p ≠ 0 → t.getP p = false) ∧ t.getK 0 = BitVec.allOnes 1024 ∧ (∀ k : KReg, k ≠ 0 → t.getK k = 0) ∧
    (∀ q : VReg, t.queue q = []) ∧ (∀ e : Eng, t.stack e = []) ∧ (∀ n : Fin 16, t.cc[n.val] = 0) ∧
    (∀ z : ZReg, t.z[z.val] = ZTile.zero) ∧ t.regions = [] ∧ t.cmds = [] ∧ t.sys.slipw = 1024 ∧ t.sys.dith = 0x100 ∧
    t.sys.tolsh = 16 ∧ t.sys.acflags = 0 ∧ t.sys.acen = 0 ∧ t.sys.rndm = 0 ∧ t.front.tuples = [])

/-- R19: x0, p0 and k0 discard what is written to them, and read zero, true and all ones. -/
def Obligations.HardWiredRegisters : Prop :=
  ∀ t : Task, (∀ v, t.setX 0 v = t) ∧ (∀ v, t.setP 0 v = t) ∧ (∀ v, t.setK 0 v = t) ∧ t.getX 0 = 0 ∧ t.getP 0 = true ∧
    t.getK 0 = BitVec.allOnes 1024 ∧
    (∀ (r : XReg) (v : Word64), r ≠ 0 → (t.setX r v).getX r = v ∧ ∀ q : XReg, q ≠ r → (t.setX r v).getX q = t.getX q) ∧
    (∀ (r : PReg) (v : Bool), r ≠ 0 → (t.setP r v).getP r = v ∧ ∀ q : PReg, q ≠ r → (t.setP r v).getP q = t.getP q) ∧
    (∀ (r : KReg) (v : MaskBits), r ≠ 0 → (t.setK r v).getK r = v ∧ ∀ q : KReg, q ≠ r → (t.setK r v).getK q = t.getK q)

/-- The memories of the state after reset are in canonical form. The canonical form of a memory is the model's own
notion (log 4). -/
def Obligations.CanonicalAtReset : Prop := State.reset.Canonical

/-- Every step, of any core, command, event or host, keeps every memory in canonical form: equal contents stay equal
data. It holds for every state in that form, not only for those that a run reaches. The canonical form of a memory is
the model's own notion (log 4). -/
def Obligations.CanonicalKeptByEveryStep : Prop :=
  ∀ s s' : State, s.Canonical → step s = .next s' → s'.Canonical

/-- R359: the flash is written only through the board management interface: a step changes it only when the event of that
step is FLASH_WRITE. -/
def Obligations.FlashWrittenOnlyByTheBoard : Prop :=
  ∀ s s' : State, step s = .next s' →
    (∀ (offset : Nat) (bytes : List Byte) (rest : List Action), s.script ≠ .event (.flashWrite offset bytes) :: rest) →
    s'.flash = s.flash

/-! ### The vector strand -/

/-- The integer instructions of R153 on lanes of w bits: instruction, operands, lane result. -/
def Sys2Proof.Machine.intForms (u : Bool) (w : Nat) :
    List ((VF → Instr) × Nat × (BitVec w → BitVec w → BitVec w → BitVec w)) :=
  let le (a b : BitVec w) : Bool := if u then decide (a.toNat ≤ b.toNat) else decide (a.toInt ≤ b.toInt)
  let num (a : BitVec w) : Int := if u then (a.toNat : Int) else a.toInt
  let clamp (v : Int) : BitVec w :=
    BitVec.ofInt w (if u then max 0 (min (2 ^ w - 1) v) else max (-2 ^ (w - 1)) (min (2 ^ (w - 1) - 1) v))
  let wide (a : BitVec w) : BitVec (2 * w) := if u then a.setWidth (2 * w) else a.signExtend (2 * w)
  [(.vadd, 2, fun a b _ => a + b), (.vsub, 2, fun a b _ => a - b), (.vmul, 2, fun a b _ => a * b),
   (.vmulh, 2, fun a b _ => (wide a * wide b).extractLsb' w w),
   (.vmin, 2, fun a b _ => if le a b then a else b), (.vmax, 2, fun a b _ => if le b a then a else b),
   (.vabs, 1, fun a _ _ => if a.toInt < 0 then -a else a), (.vneg, 1, fun a _ _ => -a),
   (.vmad, 3, fun a b c => a * b + c), (.vmsub, 3, fun a b c => a * b - c),
   (.vaddsat, 2, fun a b _ => clamp (num a + num b)), (.vsubsat, 2, fun a b _ => clamp (num a - num b)),
   (.vand, 2, fun a b _ => a &&& b), (.vor, 2, fun a b _ => a ||| b), (.vxor, 2, fun a b _ => a ^^^ b),
   (.vandn, 2, fun a b _ => a &&& ~~~b), (.vnot, 1, fun a _ _ => ~~~a),
   (.vshl, 2, fun a b _ => a <<< (b.toNat % w)), (.vshr, 2, fun a b _ => a >>> (b.toNat % w)),
   (.vsra, 2, fun a b _ => a.sshiftRight (b.toNat % w)),
   (.vpopc, 1, fun a _ _ => BitVec.ofNat w ((List.range w).countP fun i => a.getLsbD i)),
   (.vclz, 1, fun a _ _ => BitVec.ofNat w ((List.range w).takeWhile fun i => !a.getMsbD i).length),
   (.vctz, 1, fun a _ _ => BitVec.ofNat w ((List.range w).takeWhile fun i => !a.getLsbD i).length),
   (.vbrev, 1, fun a _ _ => a.reverse)]

/-- R153, R138 to R140: the 24 integer, logic and bit instructions, lane by lane: an active lane holds the result, an
inactive one zero or the lane of va (of vc for VMAD and VMSUB). The queues move as R24 says, no flag is set and no count
changes. -/
def Obligations.IntegerLanes : Prop :=
  ∀ (s : State) (t : Task) (f : VF), etIsInt f.et = true →
    let w := etWidth f.et
    ∀ x ∈ intForms f.u w,
      let srcs : Srcs := [(f.va, f.qa), (f.vb, f.qb), (f.vc, f.qc)].take x.2.1
      s.VReady f t srcs [f.vd] →
        s.Yields (x.1 f) f t srcs f.vd 1 (etFmt f.et) w (4096 / w) (fun j =>
          let lane (q : VReg) := entryLane (t.head q).data w j
          if (t.getK f.k).getLsbD j then x.2.2 (lane f.va) (lane f.vb) (lane f.vc)
          else if f.kz then 0 else lane (if x.2.1 = 3 then f.vc else f.va)) t.sys

/-- The floating instructions of R154 and R155 on lanes of a format, with the rounding mode: bits and flags. -/
def Sys2Proof.Machine.floatForms (ff : FF) (m : Mode) : List ((VF → Instr) × Nat × (Nat → Nat → Nat → Nat × Nat)) :=
  let v := ff.value
  let top := 2 ^ (ff.width - 1)
  let rnd (x : Fp × Nat) : Nat × Nat := ((ff.round m x.1).1, x.2 ||| (ff.round m x.1).2)
  [(.vfadd, 2, fun a b _ => rnd (fpAdd m (v a) (v b))), (.vfsub, 2, fun a b _ => rnd (fpAdd m (v a) (v b).neg)),
   (.vfmul, 2, fun a b _ => rnd (fpMul (v a) (v b))), (.vfmin, 2, fun a b _ => fpMin ff a b),
   (.vfmax, 2, fun a b _ => fpMax ff a b), (.vfabs, 1, fun a _ _ => (a % top, 0)),
   (.vfneg, 1, fun a _ _ => (if a < top then a + top else a - top, 0)),
   (.vfsgn, 2, fun a b _ => (a % top + (if b < top then 0 else top), 0)),
   (.vfma, 3, fun a b c => rnd (fpFma m false false (v a) (v b) (v c))),
   (.vfms, 3, fun a b c => rnd (fpFma m false true (v a) (v b) (v c))),
   (.vfnma, 3, fun a b c => rnd (fpFma m true false (v a) (v b) (v c))),
   (.vfnms, 3, fun a b c => rnd (fpFma m true true (v a) (v b) (v c))),
   (.vsqrt, 1, fun a _ _ => rnd (fpSqrt (v a))), (.vfdiv, 2, fun a b _ => rnd (fpDiv (v a) (v b)))]

/-- The approximations of R71 to R74. -/
def Sys2Proof.Machine.approxForms : List ((VF → Instr) × Nat × (Nat → Nat → Nat → Nat × Nat)) :=
  [(.vrsqa, 1, fun a _ _ => vrsqa a), (.vrcpa, 1, fun a _ _ => vrcpa a), (.vexpa, 1, fun a _ _ => vexpa a),
   (.vloga, 1, fun a _ _ => vloga a)]

/-- R154, R155, R59, R139 to R140: the floating instructions: each active lane computed exactly and rounded once in the
mode of RNDM (dithered read as nearest-even), the approximations on FP32 as R71 to R74 compute them; the sticky flags of
the active lanes, and theirs alone, join ACFLAGS. -/
def Obligations.FloatLanes : Prop :=
  ∀ (s : State) (t : Task) (f : VF),
    (f.et = 6 ∨ f.et = 7 ∨ f.et = 8) →
    let w := etWidth f.et
    let ff := if f.et = 6 then ffFp16 else if f.et = 7 then ffBf16 else ff32
    ∀ x ∈ floatForms ff t.arithMode ++ (if f.et = 8 then approxForms else []),
      let srcs : Srcs := [(f.va, f.qa), (f.vb, f.qb), (f.vc, f.qc)].take x.2.1
      let lane (q : VReg) (j : Nat) := entryLane (t.head q).data w j
      let res (j : Nat) := x.2.2 (lane f.va j).toNat (lane f.vb j).toNat (lane f.vc j).toNat
      let active := (List.range (4096 / w)).filter fun j => (t.getK f.k).getLsbD j
      s.VReady f t srcs [f.vd] →
        s.Yields (x.1 f) f t srcs f.vd 1 (etFmt f.et) w (4096 / w) (fun j =>
          if (t.getK f.k).getLsbD j then BitVec.ofNat w (res j).1
          else if f.kz then 0 else lane (if x.2.1 = 3 then f.vc else f.va) j)
          (t.noteLanes (active.map res)).sys

/-- R157: VCMP: bit i below the lane count is the condition where active, else 0 or the old bit; every bit above is 0. A
floating compare sets invalid on a signalling NaN of an active lane, and LT, LE, GT and GE on any NaN. -/
def Obligations.CompareLanes : Prop :=
  ∀ (s : State) (t : Task) (f : VF) (c : VCond) (kd : KReg), f.vd.val = kd.val → etWidth f.et ≠ 0 →
    s.VReady f t [(f.va, f.qa), (f.vb, f.qb)] [] →
    let w := etWidth f.et
    let lane (q : VReg) (i : Nat) := entryLane (t.head q).data w i
    let num (q : VReg) (i : Nat) : Int := if f.u then ((lane q i).toNat : Int) else (lane q i).toInt
    let val (q : VReg) (i : Nat) : Fp := (etFF f.et).value (lane q i).toNat
    let truth (i : Nat) : Bool :=
      if etIsInt f.et then
        match c with
        | .eq => decide (num f.va i = num f.vb i)
        | .ne => decide (num f.va i ≠ num f.vb i)
        | .lt => decide (num f.va i < num f.vb i)
        | .le => decide (num f.va i ≤ num f.vb i)
        | .gt => decide (num f.vb i < num f.va i)
        | .ge => decide (num f.vb i ≤ num f.va i)
        | .un => false
      else floatCond c (val f.va i) (val f.vb i)
    let bad (i : Nat) : Prop := (val f.va i).isSig = true ∨ (val f.vb i).isSig = true ∨
      ((c = .lt ∨ c = .le ∨ c = .gt ∨ c = .ge) ∧ ((val f.va i).isNan = true ∨ (val f.vb i).isNan = true))
    ∃ (m : MaskBits) (fl : Word64),
      exec (.vcmp c f) s = onlyTask s ((t.vDone f [(f.va, f.qa), (f.vb, f.qb)] []
        { t.sys with acflags := t.sys.acflags ||| fl }).setK kd m) ∧
      (∀ i, m.getLsbD i = (decide (i < 4096 / w) &&
        if (t.getK f.k).getLsbD i then truth i else !f.kz && (t.getK kd).getLsbD i)) ∧
      (fl = 0 ∨ fl = 1) ∧
      (fl = 1 ↔ etIsInt f.et = false ∧ ∃ i, i < 4096 / w ∧ (t.getK f.k).getLsbD i = true ∧ bad i)

/-- R158, R159, R139, R325: moves and permutes, lane by lane, with the merge source that R139 gives each. -/
def Obligations.MovesAndPermutes : Prop :=
  ∀ (s : State) (t : Task) (f : VF),
    let w := etWidth f.et
    let n := 4096 / w
    let lane (q : VReg) (j : Nat) := entryLane (t.head q).data w j
    let a : Srcs := [(f.va, f.qa)]
    let ab : Srcs := [(f.va, f.qa), (f.vb, f.qb)]
    let active (j : Nat) := (t.getK f.k).getLsbD (j % 1024)
    let one (i : Instr) (srcs : Srcs) (merge : Bool) (op : Nat → BitVec w) := s.VReady f t srcs [f.vd] →
      s.Yields i f t srcs f.vd 1 (etFmt f.et) w n
        (fun j => if active j then op j else if merge && !f.kz then lane f.va j else 0) t.sys
    let two (i : Instr) (op : Nat → BitVec w) := s.VReady f t ab [f.vd, groupReg f.vd 1] →
      s.Yields i f t ab f.vd 2 (etFmt f.et) w (2 * n) (fun j => if active j then op j else 0) t.sys
    let slide := match f.lit with | some l => l.toNat | none => (t.getX f.vb).toNat
    (s.VReady f t ab [f.vd] → s.Yields (.vsel f) f t ab f.vd 1 (etFmt f.et) w n
      (fun j => if active j then lane f.va j else lane f.vb j) t.sys) ∧
    one (.vmov f) a true (lane f.va) ∧
    (etIsInt f.et = true → one (.viota f) [] false fun j => BitVec.ofNat w j) ∧
    one (.vbcast f) [] false (fun _ => (t.getX f.va).setWidth w) ∧
    (s.VReady f t a [] → exec (.vpop f) s = onlyTask s (t.vDone f a [] t.sys)) ∧
    one (.vperm f) ab true (fun j => lane f.va ((lane f.vb j).toNat % n)) ∧
    one (.vslideup f) a true (fun j => if slide ≤ j then lane f.va (j - slide) else 0) ∧
    one (.vslidedn f) a true (fun j => if j + slide < n then lane f.va (j + slide) else 0) ∧
    one (.vrev f) a true (fun j => lane f.va (n - 1 - j)) ∧
    two (.vzip f) (fun j => lane (if j % 2 = 0 then f.va else f.vb) (j / 2)) ∧
    two (.vunzip f) (fun j =>
      let i := if j < n then 2 * j else 2 * (j - n) + 1
      lane (if i < n then f.va else f.vb) (i % n))

/-- The pairwise tree of R161 over 2 ^ k values: the result, and the flags of its operations. -/
def Sys2Proof.Machine.pairTree (op : Nat → Nat → Nat × Nat) : Nat → (Nat → Nat) → Nat × Nat
  | 0, v => (v 0, 0)
  | k + 1, v =>
    let r := pairTree op k fun j => (op (v (2 * j)) (v (2 * j + 1))).1
    (r.1, r.2 ||| ((List.range (2 ^ k)).foldl (fun a j => a ||| (op (v (2 * j)) (v (2 * j + 1))).2) 0))

/-- R160, R161: reductions: lane 0 holds the reduction of the active lanes, every other lane is zero. -/
def Obligations.Reductions : Prop :=
  ∀ (s : State) (t : Task) (f : VF), s.VReady f t [(f.va, f.qa)] [f.vd] →
    let w := etWidth f.et
    let n := 4096 / w
    let lane (j : Nat) := entryLane (t.head f.va).data w j
    let active := ((List.range n).filter fun j => (t.getK f.k).getLsbD j).map lane
    let le (a b : BitVec w) : Bool := if f.u then decide (a.toNat ≤ b.toNat) else decide (a.toInt ≤ b.toInt)
    let top : BitVec w := if f.u then BitVec.allOnes w else BitVec.intMax w
    let bottom : BitVec w := if f.u then 0 else BitVec.intMin w
    let out (i : Instr) (r : BitVec w) (sys : SysRegs) :=
      s.Yields i f t [(f.va, f.qa)] f.vd 1 (etFmt f.et) w n (fun j => if j = 0 then r else 0) sys
    (etIsInt f.et = true →
      out (.vrsum f) (active.foldl (· + ·) 0) t.sys ∧
      out (.vrmin f) (active.foldl (fun m a => if le m a then m else a) top) t.sys ∧
      out (.vrmax f) (active.foldl (fun m a => if le a m then m else a) bottom) t.sys ∧
      out (.vrand f) (active.foldl (· &&& ·) (BitVec.allOnes w)) t.sys ∧
      out (.vror f) (active.foldl (· ||| ·) 0) t.sys) ∧
    (f.et = 6 ∨ f.et = 7 ∨ f.et = 8 →
      let ff := etFF f.et
      let depth := if f.et = 8 then 7 else 8
      let tree (op : Nat → Nat → Nat × Nat) (idle : Nat) :=
        pairTree op depth fun j => if (t.getK f.k).getLsbD j then (lane j).toNat else idle
      let add (a b : Nat) : Nat × Nat :=
        let x := fpAdd t.arithMode (ff.value a) (ff.value b)
        ((ff.round t.arithMode x.1).1, x.2 ||| (ff.round t.arithMode x.1).2)
      let fl (i : Instr) (r : Nat × Nat) := out i (BitVec.ofNat w r.1) { t.sys with
        acflags := t.sys.acflags ||| BitVec.ofNat 64 r.2 }
      fl (.vfrsum f) (tree add (2 ^ (w - 1))) ∧ fl (.vfrmin f) (tree (fpMin ff) ff.nanBits) ∧
        fl (.vfrmax f) (tree (fpMax ff) ff.nanBits))

/-- R164: the narrowing instructions: lane j from element j of the wide pair. VNSAT clamps integers, each clamped lane
counted in SATCNT and flagged, and converts floating values as R60, R63 and R64 say; VNTRUNC keeps low bits or rounds
toward zero. R162, R163, R139: the widening instructions: element j of the wide group from lane j of the sources,
integers modulo the wide width, floating values rounded once to FP32 with their flags. -/
def Obligations.NarrowingAndWidening : Prop :=
  (
  ∀ (s : State) (t : Task) (f : VF) (wide : BitVec 4),
    (f.et, wide) ∈ ([(3, 0), (0, 1), (1, 2), (6, 8), (7, 8)] : List (BitVec 4 × BitVec 4)) →
    let srcs : Srcs := [(f.va, f.qa), (groupReg f.va 1, f.qa)]
    s.VReady f t srcs [f.vd] →
    let w := etWidth f.et
    let x := etWidth wide
    let src (j : Nat) : BitVec x := entryLane (t.head (groupReg f.va (j / (4096 / x)))).data x (j % (4096 / x))
    let clamped (j : Nat) : Int :=
      if f.u then max 0 (min (2 ^ w - 1) (src j).toInt) else max (-2 ^ (w - 1)) (min (2 ^ (w - 1) - 1) (src j).toInt)
    let conv (j : Nat) := convert (etFmt f.et).toNat t.arithMode (ff32.value (src j).toNat)
    let chop (j : Nat) := (etFF f.et).round .tz (ff32.value (src j).toNat)
    let active := (List.range (4096 / w)).filter fun j => (t.getK f.k).getLsbD j
    let out (i : Instr) (val : Nat → Nat × Nat) := s.Yields i f t srcs f.vd 1 (etFmt f.et) w (4096 / w)
      (fun j => if (t.getK f.k).getLsbD j then BitVec.ofNat w (val j).1 else 0) (t.noteLanes (active.map val)).sys
    (etIsInt f.et = true →
      out (.vnsat f) (fun j => ((BitVec.ofInt w (clamped j)).toNat, if clamped j = (src j).toInt then 0 else flSat)) ∧
      out (.vntrunc f) (fun j => ((src j).toNat % 2 ^ w, 0))) ∧
    (etIsInt f.et = false →
      out (.vnsat f) (fun j => ((conv j).bits, (conv j).flags)) ∧
      out (.vntrunc f) (fun j => ((chop j).1, (chop j).2 ||| if (ff32.value (src j).toNat).isSig then 1 else 0)))) ∧
  (
  ∀ (s : State) (t : Task) (f : VF) (wide quad : BitVec 4),
    let pairs : List (BitVec 4 × BitVec 4) := [(3, 0), (0, 1), (1, 2), (6, 8), (7, 8)]
    let quads : List (BitVec 4 × BitVec 4) := [(3, 1), (0, 2)]
    let w := etWidth f.et
    let lane (q : VReg) (j : Nat) := entryLane (t.head q).data w j
    let num (x : Nat) (q : VReg) (j : Nat) : BitVec x := if f.u then (lane q j).setWidth x else (lane q j).signExtend x
    let val (q : VReg) (j : Nat) : Fp := (etFF f.et).value (lane q j).toNat
    let rnd (x : Fp × Nat) : Nat × Nat := ((ff32.round t.arithMode x.1).1, x.2 ||| (ff32.round t.arithMode x.1).2)
    let group (i : Instr) (et : BitVec 4) (g : Nat) (srcs : Srcs) (merge : Nat → BitVec (etWidth et))
        (int : Nat → BitVec (etWidth et)) (flt : Nat → Nat × Nat) :=
      s.VReady f t srcs (groupRegs f.vd g) →
        let active := (List.range (4096 / w)).filter fun j => (t.getK f.k).getLsbD j
        s.Yields i f t srcs f.vd g (etFmt et) (etWidth et) (4096 / w) (fun j =>
          if (t.getK f.k).getLsbD j then
            if etIsInt f.et then int j else BitVec.ofNat (etWidth et) (flt j).1
          else if f.kz then 0 else merge j)
          (if etIsInt f.et then t.sys else (t.noteLanes (active.map flt)).sys)
    ((f.et, wide) ∈ pairs →
      let x := etWidth wide
      let c (j : Nat) : BitVec x := entryLane (t.head (groupReg f.vc (j / (4096 / x)))).data x (j % (4096 / x))
      let ab : Srcs := [(f.va, f.qa), (f.vb, f.qb)]
      group (.vwadd f) wide 2 ab (fun _ => 0) (fun j => num x f.va j + num x f.vb j)
        (fun j => rnd (fpAdd t.arithMode (val f.va j) (val f.vb j))) ∧
      group (.vwmul f) wide 2 ab (fun _ => 0) (fun j => num x f.va j * num x f.vb j)
        (fun j => rnd (fpMul (val f.va j) (val f.vb j))) ∧
      group (.vwmad f) wide 2 (ab ++ [(f.vc, f.qc), (groupReg f.vc 1, f.qc)]) c
        (fun j => num x f.va j * num x f.vb j + c j)
        (fun j => rnd (fpFma t.arithMode false false (val f.va j) (val f.vb j) (ff32.value (c j).toNat))) ∧
      group (.vwcvt f) wide 2 [(f.va, f.qa)] (fun _ => 0) (fun j => num x f.va j)
        (fun j => rnd (val f.va j, if (val f.va j).isSig then 1 else 0))) ∧
    ((f.et, quad) ∈ quads →
      group (.vwcvt4 f) quad 4 [(f.va, f.qa)] (fun _ => 0) (fun j => num (etWidth quad) f.va j) fun _ => (0, 0)))

/-- R165 to R168, R60 to R68: conversions. Sub 0 converts each active element's exact value, sub 1 that value times
the given block scale (a scale byte 0xFF makes a NaN), subs 2 and 3 the value divided by the scale their block is
given, which they push beside it; inactive elements take the zero of the target. Saturations and underflows count, a
dithered conversion advances the tile counter by one; statistics add each finite active element's squared error to CVMSE, in
element order with one rounding each, and count the elements. Segment words of an entry filled in part follow log 16. -/
def Obligations.Conversions : Prop :=
  ∀ (s : State) (t : Task) (f : VF) (l : Word32), f.lit = some l → (l.getLsbD 9 = true → t.statsPending = false) →
    let w := etWidth f.et
    let n := 4096 / w
    let fmt := l.setWidth 5
    let wt := fmtWidth fmt
    let lane (j : Nat) := entryLane (t.head f.va).data w j
    let x (j : Nat) : Fp := (elemValue (etFmt f.et).toNat (lane j).toNat).1
    let m := if l.extractLsb' 5 3 = 7 then t.sys.rndm.toNat % 8 else (l.extractLsb' 5 3).toNat
    let dithers := decide (m = 4) && l.getLsbD 8
    let mode (j : Nat) : Mode :=
      if dithers then .dith (ditherOf (dithBase t.sys.dith) (dithStep t.sys.dith) (dithCount t.sys.dith) j)
      else if m = 1 then .tz else if m = 2 then .dn else if m = 3 then .up else .ne
    let live (j : Nat) := (t.getK f.k).getLsbD j
    let scaled (v : Option Nat) (k : Int) (a : Fp) : Fp :=
      if v = some 0xFF && !a.isNan then .nan false else match a with | .fin b c e => .fin b c (e + k) | a => a
    let elem (v : Nat → Nat) (up down : Nat → Int) (scaled : Bool) (j : Nat) : CvtElem :=
      cvtElem fmt.toNat (mode j) (x j) (up j) (down j) (scaled && decide (v j = 0xFF))
    let after (z : Nat → Fp) (e : Nat → CvtElem) (sys : SysRegs) :=
      let act := (List.range n).filter live
      let r (j : Nat) := convert fmt.toNat (mode j) (z j)
      sys = { t.sys with
        acflags := t.sys.acflags ||| BitVec.ofNat 64 ((act.map fun j => (r j).flags).foldl (· ||| ·) 0)
        satcnt := satCount t.sys.satcnt (act.countP fun j => (r j).sat)
        uflcnt := satCount t.sys.uflcnt (act.countP fun j => (r j).ufl)
        cvmse := if l.getLsbD 9 then BitVec.ofNat 64
            ((act.filterMap fun j => (e j).stat).foldl (fun a p => addError a p.1 p.2) (t.sys.cvmse.toNat % 2 ^ 32))
          else t.sys.cvmse
        cvcnt := if l.getLsbD 9 then t.sys.cvcnt + BitVec.ofNat 64 (act.countP fun j => !(z j).isNan && !(z j).isInf)
          else t.sys.cvcnt
        dith := if dithers then BitVec.ofNat 64
          (t.sys.dith.toNat % 2 ^ 16 + (t.sys.dith.toNat / 2 ^ 16 + 1) % 2 ^ 16 * 2 ^ 16) else t.sys.dith }
    let out (z : Nat → Fp) (j : Nat) : BitVec wt :=
      BitVec.ofNat wt (if live j then (convert fmt.toNat (mode j) (z j)).bits else zeroOf fmt.toNat)
    let g := cvtGroup f.et l
    let fits := g ≠ 0 ∧ ¬(wt = 6 ∧ w = 4)
    (fits → s.VReady f t [(f.va, f.qa)] (groupRegs f.vd g) →
      ∃ sys, after x (elem (fun _ => 0) (fun _ => 0) (fun _ => 0) false) sys ∧
        s.Yields (.vcvt f) f t [(f.va, f.qa)] f.vd g fmt wt n (out x) sys) ∧
    (fits → s.VReady f t [(f.va, f.qa), (f.vb, f.qb)] (groupRegs f.vd g) →
      let v (j : Nat) := (entryLane (t.head f.vb).data 8 (j / 32)).toNat
      let z (j : Nat) := scaled (some (v j)) ((v j : Int) - 127) (x j)
      ∃ sys, after z (elem v (fun j => (v j : Int) - 127) (fun _ => 0) true) sys ∧
        s.Yields (.vcvts f) f t [(f.va, f.qa), (f.vb, f.qb)] f.vd g fmt wt n (out z) sys) ∧
    (fits → g = 1 → s.VReady f t [(f.va, f.qa)] [f.vd, groupReg f.vd 1] →
      let block (b : Nat) := ((List.range 32).map fun i => 32 * b + i).filter live
      let paired (i : Instr) (v : Nat → Nat) :=
        let z (j : Nat) := scaled (some (v (j / 32))) (127 - (v (j / 32) : Int)) (x j)
        let k (j : Nat) : Int := (v (j / 32) : Int) - 127
        ∃ (sys : SysRegs) (d e : EntryBits), after z (elem (fun j => v (j / 32)) (fun j => -k j) k true) sys ∧
          exec i s = onlyTask s (t.vDone f [(f.va, f.qa)]
            [(f.vd, mkEntry fmt d.toNat), (groupReg f.vd 1, mkEntry 0x0A e.toNat)] sys) ∧
          (∀ j, j < n → entryLane d wt j = out z j) ∧ d.toNat < 2 ^ (wt * n) ∧
          ∀ b, b < 512 → entryLane e 8 b = if b < n / 32 then BitVec.ofNat 8 (v b) else 0
      paired (.vcvtd f) (fun b => deriveScale fmt.toNat ((block b).map x)) ∧
      paired (.vcvtq f) (fun b => bestScale fmt.toNat ((block b).map fun j => (x j, mode j))))

/-- R169, R170: the checksum instructions and the mask logic. VCKV of an entry whose words agree pops it. -/
def Obligations.ChecksumsAndMasks : Prop :=
  ∀ (s : State) (t : Task) (f : VF),
    let a : Srcs := [(f.va, f.qa)]
    let ab : Srcs := [(f.va, f.qa), (f.vb, f.qb)]
    let e := (t.head f.va).under (etFmt f.et)
    let words (e : Entry) := (segmentsOf (etFmt f.et).toNat e.data.toNat).1
    let nseg := (4096 / etWidth f.et + 63) / 64
    (s.VReady f t a [f.vd] →
      exec (.vcks f) s = onlyTask s (t.vDone f a [(f.vd, mkEntry (etFmt f.et) (t.head f.va).data.toNat)] t.sys) ∧
      s.Yields (.vckx f) f t a f.vd 1 0x08 32 e.segs.length (fun j => e.segs.getD j 0) t.sys) ∧
    (s.VReady f t a [] → e.segs.map BitVec.toNat = words e →
      exec (.vckv f) s = onlyTask s (t.vDone f a [] t.sys)) ∧
    (s.VReady f t ab [f.vd] → exec (.vcki f) s = onlyTask s (t.vDone f ab
      [(f.vd, { fmt := etFmt f.et, data := (t.head f.va).data,
                segs := (List.range nseg).map fun j => entryLane (t.head f.vb).data 32 j })] t.sys)) ∧
    (s.Executes f.g t → s.Sound s.cur →
      let kd : KReg := Fin.ofNat 8 f.vd.val
      let ka := t.getK (Fin.ofNat 8 f.va.val)
      let kb := t.getK (Fin.ofNat 8 f.vb.val)
      let out (v : MaskBits) := onlyTask s ((t.advance (if f.lit.isSome then 5 else 3)).setK kd v)
      exec (.kand f) s = out (ka &&& kb) ∧ exec (.kor f) s = out (ka ||| kb) ∧ exec (.kxor f) s = out (ka ^^^ kb) ∧
      exec (.kandn f) s = out (ka &&& ~~~kb) ∧ exec (.knot f) s = out (~~~ka) ∧ exec (.kmov f) s = out ka ∧
      exec (.kset f) s = out (BitVec.allOnes 1024) ∧ exec (.kclr f) s = out 0)

/-- R25, R141, R142: an element-wise instruction that finds a source queue empty raises the queue-underflow trap; one
whose sources are there but whose destination holds four entries after the pops, the queue-overflow trap. Neither pops
nor pushes. A reduction, widening or narrowing of an element type that it does not take raises ETFORM. -/
def Obligations.QueueTraps : Prop :=
  ∀ (s : State) (t : Task) (f : VF), s.Executes f.g t → s.Sound s.cur →
    let lanes : List ((VF → Instr) × Nat) :=
      (intForms f.u (etWidth f.et)).map (fun x => (x.1, x.2.1)) ++
        (floatForms (etFF f.et) t.arithMode ++ approxForms).map fun x => (x.1, x.2.1)
    (∀ x ∈ lanes,
      let srcs : Srcs := [(f.va, f.qa), (f.vb, f.qb), (f.vc, f.qc)].take x.2
      ((∃ q ∈ srcs, t.queue q.1 = []) → exec (x.1 f) s = trapsWith s t 1 3 0 0) ∧
      ((∀ q ∈ srcs, t.queue q.1 ≠ []) → 4 ≤ ((t.queuesAfter srcs [])[f.vd.val]).length →
        exec (x.1 f) s = trapsWith s t 1 4 0 0)) ∧
    (s.VReady f t [(f.va, f.qa)] [f.vd] →
      (etIsInt f.et = false → ∀ i ∈ [Instr.vrsum f, .vrmin f, .vrmax f, .vrand f, .vror f],
        exec i s = trapsWith s t 1 2 13 0) ∧
      (¬(f.et = 6 ∨ f.et = 7 ∨ f.et = 8) → ∀ i ∈ [Instr.vfrsum f, .vfrmin f, .vfrmax f],
        exec i s = trapsWith s t 1 2 13 0)) ∧
    (f.et = 2 ∨ f.et = 8 →
      (s.VReady f t [(f.va, f.qa), (f.vb, f.qb)] (groupRegs f.vd 2) →
        exec (.vwadd f) s = trapsWith s t 1 2 13 0 ∧ exec (.vwmul f) s = trapsWith s t 1 2 13 0) ∧
      (s.VReady f t (groupSrcs f.va 2 f.qa) [f.vd] →
        exec (.vnsat f) s = trapsWith s t 1 2 13 0 ∧ exec (.vntrunc f) s = trapsWith s t 1 2 13 0))

/-- A lane may load n bytes at an address (R141, R146): aligned, translated to SRAM, LPDDR or host memory, behind no
command, against no stamp, unpoisoned; or translated to W-space that is ready and unpoisoned there (R112, R327). -/
def Sys2Proof.Machine.State.laneLoads (s : State) (t : Task) (cls : BitVec 2) (va n : Nat) (x : Xlate) : Prop :=
  va % n = 0 ∧ s.translate s.cur t.rs.rc.job va .read = .ok x ∧
    ((x.typ = .wap ∧ (s.dies[(wDie x.pa).val]).wready = true ∧ s.poisonedRow x.pa n = none) ∨
      ((x.typ = .sram ∨ x.typ = .lpddr ∨ x.typ = .host) ∧ t.blocked x.pa n false = false ∧
        (x.typ = .sram → ∀ g ∈ granules x.pa n ++ (s.viewOf t).sideReads x.pa n,
          ((s.stampOf g t.rs.rc.job t.gen).touch t.slot (some cls) .read).isSome = true) ∧
        ((s.viewOf t).checkMacs x.pa n).poisonedAt x.pa n = none))

/-- What n loaded bytes are: of W-space those of the weight tier, of memory those the task sees. -/
def Sys2Proof.Machine.State.laneValue (s : State) (t : Task) (x : Xlate) (n : Nat) : Nat :=
  if x.typ = .wap then leNat (s.readW x.pa n) else (s.viewOf t).readNat x.pa n

/-- A lane may store n bytes at an address: as for a load, its stamps and those of the tiles it meets, and the write
ranges outside SRAM. -/
def Sys2Proof.Machine.State.laneStores (s : State) (t : Task) (cls : BitVec 2) (va n : Nat) (x : Xlate) : Prop :=
  va % n = 0 ∧ s.translate s.cur t.rs.rc.job va .write = .ok x ∧ (x.typ = .sram ∨ x.typ = .lpddr ∨ x.typ = .host) ∧
    s.blocked t x.pa n true = false ∧
    (x.typ = .sram → ∀ g ∈ granules x.pa n ++ (s.viewOf t).sideGranules x.pa n,
      ((s.stampOf g t.rs.rc.job t.gen).touch t.slot (some cls) .write).isSome = true) ∧
    (x.typ ≠ .sram → t.inWriteRange va n = true)

/-- R144 to R146, R325: the vector loads, when every active lane may load, from memory or from a W-aperture page. Lane j
holds the bytes at its address as the task sees them, an inactive lane (and a gather's lane above 127) the zero of the type; an INT4 lane is a nibble; VLDB
reads once. The strided and indexed forms of INT4 raise ETFORM. Of the state, only stamps, queues and the pc change. -/
def Obligations.VectorLoadsComplete : Prop :=
  ∀ (s : State) (t : Task) (f : VF) (x : Nat → Xlate),
    let w := etWidth f.et
    let n := 4096 / w
    let sz := max 1 (w / 8)
    let cls : BitVec 2 := BitVec.ofNat 2 f.vc.val
    let base : Word64 := t.getX f.va + (f.lit.getD 0).signExtend 64
    let live (j : Nat) := (t.getK f.k).getLsbD j
    let zero := BitVec.ofNat w (zeroOf (etFmt f.et).toNat)
    let mem (j : Nat) := s.laneValue t (x j) sz
    let gives (i : Instr) (srcs : Srcs) (lane : Nat → BitVec w) := ∃ (stamps : List (Nat × Stamp)) (d : EntryBits),
      exec i s = .next (({ s with stamps := stamps } : State).setTask s.cur
        (t.vDone f srcs [(f.vd, mkEntry (etFmt f.et) d.toNat)] t.sys)) ∧ ∀ j, j < n → entryLane d w j = lane j
    let loads (i : Instr) (srcs : Srcs) (on : Nat → Bool) (addr : Nat → Word64) := s.VReady f t srcs [f.vd] →
      (∀ j, j < n → on j = true → s.laneLoads t cls (addr j).toNat sz (x j)) →
      gives i srcs fun j => if on j then BitVec.ofNat w (mem j) else zero
    (8 ≤ w →
      loads (.vld f) [] live (fun j => base + BitVec.ofNat 64 (j * sz)) ∧
      loads (.vlds f) [] live (fun j => base + BitVec.ofNat 64 j * t.getX f.vb) ∧
      loads (.vldg f) [(f.vb, f.qb)] (fun j => live j && decide (j < 128))
        (fun j => base + (entryLane (t.head f.vb).data 32 j).signExtend 64)) ∧
    (w = 4 →
      (s.VReady f t [] [f.vd] →
        (∀ b, b < 512 → live (2 * b) = true ∨ live (2 * b + 1) = true →
          s.laneLoads t cls (base + BitVec.ofNat 64 b).toNat 1 (x b)) →
        gives (.vld f) [] fun j =>
          if live j then BitVec.ofNat w (mem (j / 2) / (if j % 2 = 0 then 1 else 16)) else 0) ∧
      (s.VReady f t [] [f.vd] → exec (.vlds f) s = trapsWith s t 1 2 13 0) ∧
      (s.VReady f t [(f.vb, f.qb)] [f.vd] → exec (.vldg f) s = trapsWith s t 1 2 13 0)) ∧
    (w ≠ 0 → s.VReady f t [] [f.vd] →
      ((∃ j, j < n ∧ live j = true) → s.laneLoads t cls base.toNat sz (x 0)) →
        gives (.vldb f) [] fun j => if live j then BitVec.ofNat w (mem 0) else zero)

/-- R144 to R147, R150, R38: the vector stores of a task outside COMMIT, when the entry's segment words agree and every
active lane may store and meets no non-temporal store that still waits. Lanes write in ascending order, so that a byte
keeps what the highest lane wrote; an INT4 store leaves the other nibble; no other byte of memory changes, and no
register but the popped queues. VSTN leaves its lanes among the task's non-temporal stores, of INT4 its bytes with
the nibble that each writes; which poisoned words each clears once it is visible (R282) is not stated. -/
def Obligations.VectorStoresComplete : Prop :=
  ∀ (s : State) (t : Task) (f : VF) (x : Nat → Xlate), t.rs.rc.commit = false → t.commit = [] →
    Memory.wf s.mem = true →
    let w := etWidth f.et
    let n := 4096 / w
    let sz := max 1 (w / 8)
    let cls : BitVec 2 := BitVec.ofNat 2 f.vc.val
    let base : Word64 := t.getX f.va + (f.lit.getD 0).signExtend 64
    let live (j : Nat) := (t.getK f.k).getLsbD j
    let data := (t.head f.vb).data
    let e := (t.head f.vb).under (etFmt f.et)
    let sound := e.segs.map BitVec.toNat = (segmentsOf (etFmt f.et).toNat e.data.toNat).1
    let writes (i : Instr) (srcs : Srcs) (on : Nat → Bool) (m k : Nat) (addr : Nat → Word64)
        (byte : Nat → Nat → Byte → Byte) := s.VReady f t srcs [] → sound →
      (∀ j, j < m → on j = true → s.laneStores t cls (addr j).toNat k (x j) ∧ ∀ y ∈ t.nt, y.meets (x j).pa k = false) →
      ∃ s' : State, exec i s = .next (s'.setTask s.cur (t.vDone f srcs [] t.sys)) ∧
        (∀ a, Memory.get s'.mem a = ((List.range m).filter on).foldl (fun b j =>
          if (x j).pa ≤ a ∧ a < (x j).pa + k then byte j (a - (x j).pa) b else b) (Memory.get s.mem a)) ∧
        s'.cores = s.cores ∧ s'.clusters = s.clusters ∧ s'.wmem = s.wmem ∧ s'.flash = s.flash ∧ s'.jobs = s.jobs ∧
        s'.nt = s.nt ∧ s'.fat = s.fat ∧ s'.tlb = s.tlb ∧ s'.ports = s.ports
    let lane (j i : Nat) (_ : Byte) : Byte := data.extractLsb' (w * j + 8 * i) 8
    let nibbles (b _ : Nat) (old : Byte) : Byte :=
      (if live (2 * b + 1) then data.extractLsb' (8 * b + 4) 4 else old.extractLsb' 4 4) ++
        (if live (2 * b) then data.extractLsb' (8 * b) 4 else old.extractLsb' 0 4)
    (8 ≤ w →
      writes (.vst f) [(f.vb, f.qb)] live n sz (fun j => base + BitVec.ofNat 64 (j * sz)) lane ∧
      writes (.vsts f) [(f.vb, f.qb)] live n sz (fun j => base + BitVec.ofNat 64 j * t.getX f.vd) lane ∧
      writes (.vstx f) [(f.vb, f.qb), (f.vd, false)] live 128 sz
        (fun j => base + (entryLane (t.head f.vd).data 32 j).signExtend 64) lane ∧
      (s.VReady f t [(f.vb, f.qb)] [] → sound → t.rs.rc.nt = true →
        (∀ j, j < n → live j = true → s.laneStores t cls (base + BitVec.ofNat 64 (j * sz)).toNat sz (x j) ∧
          (x j).typ = .lpddr) →
        ∃ clears : Nat → List Nat, exec (.vstn f) s = onlyTask s { t.vDone f [(f.vb, f.qb)] [] t.sys with
          nt := t.nt ++ ((List.range n).filter live).map fun j =>
            ⟨t.rs.rc.job, t.slot, (x j).pa, bytesOf sz (entryLane data w j).toNat, clears j, none⟩ })) ∧
    (w = 4 →
      (s.VReady f t [(f.vb, f.qb)] [] → sound → t.rs.rc.nt = true →
        let bytes := (List.range 512).filter fun b => live (2 * b) || live (2 * b + 1)
        (∀ b ∈ bytes, s.laneStores t cls (base + BitVec.ofNat 64 b).toNat 1 (x b) ∧ (x b).typ = .lpddr) →
        ∃ (clears : Nat → List Nat) (byte : Nat → Byte), exec (.vstn f) s = onlyTask s { t.vDone f [(f.vb, f.qb)] [] t.sys with
          nt := t.nt ++ bytes.map fun b => ⟨t.rs.rc.job, t.slot, (x b).pa, [byte b], clears b,
            if live (2 * b) && live (2 * b + 1) then none else some (live (2 * b + 1))⟩ } ∧
          ∀ b ∈ bytes, (live (2 * b) = true → (byte b).extractLsb' 0 4 = data.extractLsb' (8 * b) 4) ∧
            (live (2 * b + 1) = true → (byte b).extractLsb' 4 4 = data.extractLsb' (8 * b + 4) 4)) ∧
      writes (.vst f) [(f.vb, f.qb)] (fun b => live (2 * b) || live (2 * b + 1)) 512 1
        (fun b => base + BitVec.ofNat 64 b) nibbles ∧
      (s.VReady f t [(f.vb, f.qb)] [] → exec (.vsts f) s = trapsWith s t 1 2 13 0) ∧
      (s.VReady f t [(f.vb, f.qb), (f.vd, false)] [] → exec (.vstx f) s = trapsWith s t 1 2 13 0))

/-- R148, R149, R255, R260: tile rows. A load of rows of a FRESH tile whose row words agree pushes the 512 bytes with
those words; VLDTH of a STALE tile writes its sideband anew and marks it FRESH; a row store writes the rows, sets their
row words to the entry's segment words and no other row word, brings every column word forward (by the difference of new
and old elements, of a floating format from the whole column), and leaves the tile's state. The checks of R148 up to the
stamps are those of `probeRows`; nothing read is poisoned. R265, R266: a STALE tile under STRICT, and a FRESH one of
which a row word differs, are checksum faults, consumed at the instruction with CKFAULT and CKADDR of kind 0 and 5. -/
def Obligations.TileRowAccess : Prop :=
  ∀ (s s2 : State) (t : Task) (f : VF) (pa o g : Nat) (tl : Tile), t.rs.rc.commit = false → t.commit = [] →
    Memory.wf s.mem = true →
    let v := s.viewOf t
    let size := tileSize tl.fmt
    let nr := 512 / rowBytes tl.fmt
    let carried := ((wordsOf 4 64 (v.readPa (o + size) 256)).drop (g * nr)).take nr
    let words := ((List.range nr).map fun i => (checksum tl.fmt.toNat (tileRow tl.fmt (v.readNat pa 512) i)).1)
    let entry : Entry := ⟨etFmt f.et, BitVec.ofNat 4096 (v.readNat pa 512), words.map fun n => BitVec.ofNat 32 n⟩
    let clean (a n : Nat) := tl.poison = false ∧ (v.checkMacs a n).poisonedAt a n = none
    let faults (i : Instr) (info : Word64) (kind index nrow : Nat) := exec i s = .next (s.consume s.cur t
      ⟨3, info, some (BitVec.ofNat 64 (kind * 2 ^ 52 + index * 2 ^ 45 + nrow * 2 ^ 38 + tl.fmt.toNat * 2 ^ 26 + 2 ^ 24),
        BitVec.ofNat 64 (vBase f t f.va - 512 * g)), [], 0⟩ ⟨1, 0, false, t.pc, t.regions.length⟩)
    (s.VReady f t [] [f.vd] → s.probeRows s.cur t f false = .ok (pa, o, tl, g, s2) →
      (tl.stale = true → f.u = false → faults (.vldt f) 0 0 0 0) ∧
      (tl.stale = false → ∀ i, i < nr → (∀ j, j < i → carried.getD j 0 = words.getD j 0) →
        carried.getD i 0 ≠ words.getD i 0 →
        let info : Word64 := BitVec.ofNat 32 (carried.getD i 0) ++ BitVec.ofNat 32 (words.getD i 0)
        let differing := (List.range nr).countP fun j => decide (carried.getD j 0 ≠ words.getD j 0)
        faults (.vldt f) info 5 (g * nr + i) differing ∧ faults (.vldth f) info 5 (g * nr + i) differing)) ∧
    (s.VReady f t [] [f.vd] → s.probeRows s.cur t f false = .ok (pa, o, tl, g, s2) → clean pa 512 →
      (tl.stale = false → clean (o + size + 4 * g * nr) (4 * nr) → carried = words →
        exec (.vldt f) s = .next (s2.setTask s.cur (t.vDone f [] [(f.vd, entry)] t.sys)) ∧
        exec (.vldth f) s = .next (s2.setTask s.cur (t.vDone f [] [(f.vd, entry)] t.sys))) ∧
      (tl.stale = true → f.u = true → clean o size → (∀ y ∈ t.nt, y.meets (o + size) 512 = false) →
        ∃ s' : State, exec (.vldth f) s = .next (s'.setTask s.cur (t.vDone f [] [(f.vd, entry)] t.sys)) ∧
          (∀ e ∈ s'.tiles, e.1 = o → e.2.stale = false) ∧ s'.cores = s.cores ∧ s'.clusters = s.clusters ∧
          ∀ a, Memory.get s'.mem a = if o + size ≤ a ∧ a < o + size + 512 then
            (sidebandOf tl.fmt (tileRows tl.fmt (v.readNat o size))).getD (a - (o + size)) 0
          else Memory.get s.mem a)) ∧
    (s.VReady f t [(f.vb, f.qb)] [] → s.probeRows s.cur t f true = .ok (pa, o, tl, g, s2) →
      let e := (t.head f.vb).under (etFmt f.et)
      e.segs.map BitVec.toNat = (segmentsOf (etFmt f.et).toNat e.data.toNat).1 →
      clean pa 512 → clean o size → clean (o + size) 512 →
      (∀ y ∈ t.nt, y.meets pa 512 = false ∧ y.meets (o + size) 512 = false) →
      let old := tileRows tl.fmt (v.readNat o size)
      let new := (List.range nr).map fun i => tileRow tl.fmt e.data.toNat i
      let sum (rows : List (List Nat)) (j : Nat) := (checksum tl.fmt.toNat (rows.map fun r => r.getD j 0)).1
      let column (j : Nat) :=
        if isFloatFmt tl.fmt.toNat then sum (old.take (g * nr) ++ new ++ old.drop (g * nr + nr)) j
        else
          (leNat ((List.range 4).map fun i => Memory.get s.mem (o + size + 256 + 4 * j + i)) + sum new j +
            (2 ^ 32 - sum ((old.drop (g * nr)).take nr) j)) % 2 ^ 32
      ∃ s' : State, exec (.vstt f) s = .next (s'.setTask s.cur (t.vDone f [(f.vb, f.qb)] [] t.sys)) ∧
        s'.tiles = s.tiles ∧ s'.cores = s.cores ∧ s'.clusters = s.clusters ∧
        (∀ a, pa ≤ a → a < pa + 512 → Memory.get s'.mem a = e.data.extractLsb' (8 * (a - pa)) 8) ∧
        (∀ j i, j < nr → i < 4 → Memory.get s'.mem (o + size + 4 * (g * nr + j) + i) =
          (e.segs.getD j 0).extractLsb' (8 * i) 8) ∧
        (∀ b, b < 256 → ¬(4 * g * nr ≤ b ∧ b < 4 * (g * nr + nr)) →
          Memory.get s'.mem (o + size + b) = Memory.get s.mem (o + size + b)) ∧
        (∀ j i, j < 64 → i < 4 → Memory.get s'.mem (o + size + 256 + 4 * j + i) =
          (BitVec.ofNat 32 (column j)).extractLsb' (8 * i) 8) ∧
        (∀ a, ¬(pa ≤ a ∧ a < pa + 512) → ¬(o + size ≤ a ∧ a < o + size + 512) →
          Memory.get s'.mem a = Memory.get s.mem a))

/-- R151, R152: VAMO, of a task outside COMMIT whose lanes reach SRAM, LPDDR or host memory and meet no fault: lanes 0 to
127 in ascending order, each an indivisible read and write, so that a later lane at the same address sees an earlier
one's result. A lane on SRAM touches its granule's stamp and, as a write, the sidebands of the tiles that it makes STALE
(R117, R258, R259). With u = 1 the old values are pushed. FP32 minima and maxima set the flags of VFMIN and VFMAX. R301: a task
under COMMIT takes the ATOMIC trap at its first active lane (that it comes after alignment and MEMTYPE is log 79's). That
all lanes are performed at one grant is the model's reading (log 17). -/
def Obligations.VectorAtomicsComplete : Prop :=
  ∀ (s : State) (t : Task) (f : VF) (o : VAmoOp) (x : Nat → Xlate),
    Memory.wf s.mem = true → (f.et = 0 ∨ f.et = 1 ∨ f.et = 2 ∨ f.et = 8) →
    let w := etWidth f.et
    let n := w / 8
    let srcs : Srcs := [(f.va, f.qa), (f.vb, f.qb)]
    let live := (List.range 128).filter fun j => (t.getK f.k).getLsbD j
    let addr (j : Nat) : Word64 := t.getX f.vc + (f.lit.getD 0).signExtend 64 +
      (entryLane (t.head f.va).data 32 j).signExtend 64
    let op (old b : Nat) : Nat × Nat :=
      let le (p q : Nat) : Bool := decide ((BitVec.ofNat w p).toInt ≤ (BitVec.ofNat w q).toInt)
      match o with
      | .add => ((old + b) % 2 ^ w, 0)
      | .or => (old ||| b, 0)
      | .and => (old &&& b, 0)
      | .xor => (old ^^^ b, 0)
      | .min => if f.et = 8 then fpMin ff32 old b else (if le old b then old else b, 0)
      | .max => if f.et = 8 then fpMax ff32 old b else (if le b old then old else b, 0)
    let turn (acc : (Nat → Byte) × (Nat → Nat) × Nat) (j : Nat) : (Nat → Byte) × (Nat → Nat) × Nat :=
      let old := leNat ((List.range n).map fun i => acc.1 ((x j).pa + i))
      let r := op old (entryLane (t.head f.vb).data w j).toNat
      (fun a => if (x j).pa ≤ a ∧ a < (x j).pa + n then BitVec.ofNat 8 (r.1 / 2 ^ (8 * (a - (x j).pa))) else acc.1 a,
       fun k => if k = j then old else acc.2.1 k, acc.2.2 ||| r.2)
    let done := live.foldl turn (Memory.get s.mem, fun _ => 0, 0)
    let touch (s : State) (j : Nat) : Option State :=
      if (x j).typ = .sram then s.touchAtomic t (x j).pa n else some s
    let stale (s : State) (j : Nat) : State := if (x j).typ = .sram then s.staleTiles (x j).pa n else s
    s.VReady f t srcs (if f.u then [f.vd] else []) →
    (t.rs.rc.commit = true → ∀ j, live.head? = some j → (addr j).toNat % n = 0 →
      s.translate s.cur t.rs.rc.job (addr j).toNat .atomic = .ok (x j) → (x j).typ ≠ .mmio → (x j).typ ≠ .wap →
      exec (.vamo o f) s = .next (s.takeTrap s.cur t ⟨0, 2, 14, addr j, j⟩ 1 t.pc (s.textAt s.cur t t.pc) 0 0)) ∧
    (t.rs.rc.commit = false → t.commit = [] → ∀ s1 : State, live.foldlM touch s = some s1 →
    (∀ j ∈ live, (addr j).toNat % n = 0 ∧ s.translate s.cur t.rs.rc.job (addr j).toNat .atomic = .ok (x j) ∧
      ((x j).typ = .sram ∧ (∀ e ∈ tilesIn (s.viewOf t).tiles (x j).pa n, e.2.poison = false) ∨
        ((x j).typ = .lpddr ∨ (x j).typ = .host) ∧ t.inWriteRange (addr j).toNat n = true) ∧
      s.blocked t (x j).pa n true = false ∧ (∀ y ∈ t.nt, y.meets (x j).pa n = false) ∧
      ((s.viewOf t).checkMacs (x j).pa n).poisonedAt (x j).pa n = none) →
    ∃ (s' : State) (d : EntryBits),
      exec (.vamo o f) s = .next (s'.setTask s.cur (t.vDone f srcs
        (if f.u then [(f.vd, mkEntry (etFmt f.et) d.toNat)] else [])
        { t.sys with acflags := t.sys.acflags ||| BitVec.ofNat 64 done.2.2 })) ∧
      (∀ a, Memory.get s'.mem a = done.1 a) ∧
      (∀ j, j < 4096 / w → entryLane d w j = if live.contains j then BitVec.ofNat w (done.2.1 j) else 0) ∧
      s'.stamps = s1.stamps ∧ s'.tiles = (live.foldl stale s).tiles ∧
      s'.cores = s.cores ∧ s'.wmem = s.wmem ∧ s'.flash = s.flash ∧ s'.jobs = s.jobs)

/-! ### The engines -/

/-- A word of an engine executes now (R90): a task runs, no fault of the core waits, no waiting word of the engine stands
before it (R174), and it is no S word of a COMMIT task (R315). -/
def Sys2Proof.Machine.State.EngineRuns (s : State) (t : Task) (e : Eng) : Prop :=
  s.running = some t ∧ s.Sound s.cur ∧ t.holds e = false ∧ ¬(e = .s ∧ t.rs.rc.commit = true)

/-- The task past a word of n parcels, its parameter stack replaced. -/
def Sys2Proof.Machine.Task.pastWord (t : Task) (n : Nat) (e : Eng) (stack : List Word64) : Task :=
  (t.advance n).setStack e stack

/-- A task with one more accepted command (R173): the next number, the word's address, the regions open there. -/
def Sys2Proof.Machine.Task.queued (t : Task) (pc : Word64) (e : Eng) (track : Fin 16) (foot : List Foot)
    (pages : List PageUse) (kind : CmdKind) (makes : List Foot := []) : Task :=
  { t with nextSeq := t.nextSeq + 1
           cmds := t.cmds ++ [{ seq := t.nextSeq, addr := pc, eng := e, track := track, depth := t.regions.length,
                                foot := foot, pages := pages, makes := makes, kind := kind }] }

/-- R196, R215 to R218, R182: the setup words of the matrix engine write one field of the next configuration each from
the values they pop (the first word of a list is the top); a value out of range raises RANGE, a reserved format the
illegal-instruction trap with detail FORMAT. R237, R239, R245, R252, R254, R318, R320: the setup words of the copy
engine, the front accumulator and the seal port. -/
def Obligations.EngineSetup : Prop :=
  (
  ∀ (s : State) (t : Task) (st : StreamNo) (rest : List Word64), s.EngineRuns t .m →
    let done (m : MCfg) := onlyTask s { t.pastWord 1 .m rest with m := m }
    let stream (f : Stream → Stream) : MCfg :=
      { t.m with streams := t.m.streams.set st.val (f t.m.streams[st.val]) }
    let range := trapsWith s t 2 2 17 0
    let takes (i : Instr) (l : List Word64) (ok : Prop) (m : MCfg) := t.mStack = l ++ rest →
      (ok → exec i s = done m) ∧ (¬ok → exec i s = range)
    (∀ (w : Bool) (b : Word64), takes (.mSbase w st) [b] (b.toNat < if w then 2 ^ 39 else 2 ^ 20)
      (stream fun x => { x with wspace := w, base := b.toNat })) ∧
    (∀ d : Word64, t.mStack = d :: rest →
      let ok := d.extractLsb' 12 20 = 0 ∧ d.getLsbD 5 = false ∧ d.extractLsb' 10 2 ≠ 3 ∧
        if d.getLsbD 7 then d.extractLsb' 55 8 ≠ 0 ∧ d.extractLsb' 55 8 ≠ 255 else d.extractLsb' 32 32 = 0
      (20 ≤ (d.extractLsb' 0 5).toNat → exec (.mSfmt st) s = trapsWith s t 2 1 9 0) ∧
      ((d.extractLsb' 0 5).toNat < 20 → ok → exec (.mSfmt st) s = done (stream fun x => { x with desc := d })) ∧
      ((d.extractLsb' 0 5).toNat < 20 → ¬ok → exec (.mSfmt st) s = range)) ∧
    (∀ a b c : Word64, takes (.mSgeo st) [a, b, c]
      (1 ≤ a.toNat ∧ a.toNat ≤ 65535 ∧ 1 ≤ b.toNat ∧ b.toNat ≤ 65535 ∧ c.toNat < 2 ^ 24)
      (stream fun x => { x with rows := a.toNat, cols := b.toNat, pitch := c.toNat })) ∧
    (∀ a b : Word64, takes (.mSscl st) [a, b] (b.toNat < 2 ^ 20)
      (stream fun x => { x with sbase := a.toNat, sstride := b.toNat })) ∧
    (∀ a b : Word64, takes (.mSidx st) [a, b] (a.toNat < 2 ^ 20 ∧ a.toNat % 4 = 0 ∧ 1 ≤ b.toNat ∧ b.toNat ≤ 64)
      (stream fun x => { x with ibase := a.toNat, icount := b.toNat })) ∧
    (∀ a b : Word64, takes (.mSout st) [a, b] (a.toNat < 2 ^ 20 ∧ a.toNat % 4 = 0 ∧ b.toNat ≤ 64)
      (stream fun x => { x with obase := a.toNat, ocount := b.toNat })) ∧
    (∀ (lv : Fin 6) (n a b c : Word64), takes (.mNest ⟨lv.val, by omega⟩) [n, a, b, c]
      (1 ≤ n.toNat ∧ n.toNat ≤ 2 ^ 20 ∧ -2 ^ 31 ≤ a.toInt ∧ a.toInt < 2 ^ 31 ∧ -2 ^ 31 ≤ b.toInt ∧ b.toInt < 2 ^ 31 ∧
        -7 ≤ c.toInt ∧ c.toInt ≤ 7 ∧ (lv.val = 0 → c = 0))
      { t.m with nest := t.m.nest.set lv.val ⟨n.toNat, a.toInt, b.toInt, c.toInt⟩ }) ∧
    (∀ d : Word64, takes .mDith [d] (d.toNat < 2 ^ 13 ∧ d.toNat / 32 % 8 = 0)
      { t.m with dbase := d.setWidth 5, dstep := d.extractLsb' 8 5, dcount := 0 }) ∧
    (t.mStack = rest → exec .mNclr s = done { t.m with nest := Vector.replicate 6 ⟨1, 0, 0, 0⟩ } ∧
      (∀ n : Fin 16, exec (.mTrack n) s = done { t.m with track := n }) ∧
      ∀ n : BitVec 5, exec (.mTol n) s = done { t.m with tol := n })) ∧
  (
  ∀ (s : State) (t : Task) (rest : List Word64),
    (s.EngineRuns t .x →
      let takes (i : Instr) (l : List Word64) (ok : Prop) (c : XCfg) := t.xStack = l ++ rest →
        (ok → exec i s = onlyTask s { t.pastWord 1 .x rest with xc := c }) ∧ (¬ok → exec i s = trapsWith s t 3 2 17 0)
      let x := t.xc
      let space (n : BitVec 8) : XSpace := match n.toNat with | 0 => .spad | 1 => .dspace | 2 => .wspace | _ => .remote
      let limit (n : BitVec 8) : Nat := match n.toNat with | 0 => 2 ^ 20 | 1 => 2 ^ 48 | 2 => 2 ^ 39 | _ => 2 ^ 40
      (∀ (n : BitVec 8) (a : Word64),
        takes (.xSrc n) [a] (n.toNat ≤ 2 ∧ a.toNat < limit n) { x with sspace := space n, sbase := a.toNat } ∧
        takes (.xDst n) [a] (n.toNat ≤ 3 ∧ a.toNat < limit n) { x with dspace := space n, dbase := a.toNat } ∧
        takes .xLen [a] (1 ≤ a.toNat ∧ a.toNat ≤ 2 ^ 24) { x with len := a.toNat } ∧
        takes (.xCk n) [a] (n.toNat ≤ 2 ∧ a.toNat < 2 ^ 32)
          { x with ck := (match n.toNat with | 0 => CkKind.none | 1 => .sum32 | _ => .crc32c), seed := a.setWidth 32 } ∧
        takes .xCke [a] (a.toNat < 2 ^ 32) { x with armed := some (a.setWidth 32) } ∧
        takes .xMod [a] (a.extractLsb' 37 27 = 0 ∧ a.extractLsb' 29 3 = 0) { x with remote := some a }) ∧
      (∀ n a b : Word64, takes .xStr [n, a, b]
        (1 ≤ n.toNat ∧ n.toNat ≤ 2 ^ 20 ∧ -2 ^ 31 ≤ a.toInt ∧ a.toInt < 2 ^ 31 ∧ -2 ^ 31 ≤ b.toInt ∧ b.toInt < 2 ^ 31)
        { x with rows := n.toNat, sstr := a.toInt, dstr := b.toInt })) ∧
    (s.EngineRuns t .p →
      (∀ c : Word64, t.pStack = c :: rest →
        let k := (c.extractLsb' 0 3).toNat + 1
        let pol := (c.extractLsb' 38 2).toNat
        let ok := c.toNat < 2 ^ 41 ∧ c.extractLsb' 3 5 = 0 ∧ (c.extractLsb' 8 8).toNat < 2 ^ k ∧
          (c.extractLsb' 16 8).toNat < 2 ^ k ∧ (c.extractLsb' 24 8).toNat < 2 ^ k ∧ c.extractLsb' 16 8 ≠ 0 ∧
          (pol = 1 ∨ pol = 2 → c.getLsbD 16 = true)
        (ok → exec .pCfg s = onlyTask s { t.pastWord 1 .p rest with pcfg := { t.pcfg with cfg := c } }) ∧
        (¬ok → exec .pCfg s = trapsWith s t 4 2 17 0)) ∧
      (∀ a n : Word64, t.pStack = a :: n :: rest →
        (a.toNat % 8 = 0 → 1 ≤ n.toNat → n.toNat ≤ 65535 →
          exec .pSpill s = onlyTask s { t.pastWord 1 .p rest with
            pcfg := { t.pcfg with spill := some (a.toNat, n.toNat) } }) ∧
        (a.toNat % 8 ≠ 0 ∨ n.toNat = 0 ∨ 65535 < n.toNat → exec .pSpill s = trapsWith s t 4 2 17 0))) ∧
    (s.EngineRuns t .s → ∀ a : Word64, t.sStack = a :: rest →
      (t.metas.length < 8 → exec .sMeta s = onlyTask s { t.pastWord 1 .s rest with metas := t.metas ++ [a] }) ∧
      (8 ≤ t.metas.length → exec .sMeta s = trapsWith s t 5 2 17 0)))

/-- R91, R92: the eight words every engine has, on the stack of 64-bit values with its top first: what each leaves,
the underflow trap of one that finds too few values, the overflow trap of a ninth. R176, R222, R242, R254, R315, R322: the
query words: when no command of their engine is pending they push one value. S.QRY of a session that is open, or that
the task has closed, reports its state; of a number that the task never opened it raises SESSION (the model's reading,
log 24). An unassigned selector of M.STAT or P.STAT raises STAT whatever the stack holds (the model's reading, log
19). -/
def Obligations.StackAndQueryWords : Prop :=
  (
  ∀ (s : State) (t : Task) (e : Eng) (n : BitVec 8) (n32 : Word32), s.EngineRuns t e →
    let code := match e with | .m => 2 | .x => 3 | .p => 4 | .s => 5
    let st := t.stack e
    let leaves (i : Instr) (k : Nat) (l : List Word64) := exec i s = onlyTask s (t.pastWord k e l)
    (st.length < 8 → leaves (.lit e n) 1 (n.signExtend 64 :: st) ∧ leaves (.lit32 e n32) 3 (n32.signExtend 64 :: st)) ∧
    (∀ a rest, st = a :: rest → st.length ≤ 8 →
      leaves (.lith e n) 1 ((a <<< 8 ||| n.setWidth 64) :: rest) ∧ leaves (.drop e) 1 rest ∧
      (st.length < 8 → leaves (.dup e) 1 (a :: a :: rest))) ∧
    (∀ a b rest, st = b :: a :: rest → st.length ≤ 8 → leaves (.swap e) 1 (a :: b :: rest) ∧
      (st.length < 8 → leaves (.over e) 1 (a :: b :: a :: rest))) ∧
    (∀ a b c rest, st = c :: b :: a :: rest → st.length ≤ 8 → leaves (.rot e) 1 (a :: c :: b :: rest)) ∧
    (st = [] → ∀ i ∈ [Instr.lith e n, .dup e, .drop e], exec i s = trapsWith s t code 5 0 0) ∧
    (st.length < 2 → ∀ i ∈ [Instr.swap e, .over e], exec i s = trapsWith s t code 5 0 0) ∧
    (st.length < 3 → exec (.rot e) s = trapsWith s t code 5 0 0) ∧
    (st.length = 8 → ∀ i ∈ [Instr.lit e n, .lit32 e n32, .dup e, .over e], exec i s = trapsWith s t code 6 0 0)) ∧
  (
  ∀ (s : State) (t : Task),
    let pushes (e : Eng) (i : Instr) (v : Word64) := s.EngineRuns t e → (t.stack e).length < 8 →
      (∀ c ∈ t.cmds, c.eng ≠ e) → exec i s = onlyTask s (t.pastWord 1 e (v :: t.stack e))
    let num (n : Nat) : Word64 := BitVec.ofNat 64 n
    pushes .m (.mStat 0) (num t.mstats.cmds) ∧ pushes .m (.mStat 1) (num t.mstats.blocks) ∧
    pushes .m (.mStat 2) (num t.mstats.corr) ∧ pushes .m (.mStat 3) (num t.mstats.grange) ∧
    pushes .m (.mStat 4) (num t.m.dcount) ∧ pushes .m (.mStat 5) (num t.m.tol.toNat) ∧
    (∀ z : Fin 8, pushes .m (.mStat (BitVec.ofNat 8 (0x10 + z.val)))
      (num ((match t.z[z.val].typ with | .unset => 0 | .fp32 => 1 | .int32 => 2) +
        if t.z[z.val].poison then 4 else 0))) ∧
    (∀ n : BitVec 8, 5 < n.toNat → (n.toNat < 0x10 ∨ 0x17 < n.toNat) → s.EngineRuns t .m →
      exec (.mStat n) s = trapsWith s t 2 2 22 0) ∧
    pushes .x .xCkget (match t.xlast with | some l => l.value.setWidth 64 | none => 0) ∧
    pushes .p .pCnt (num t.front.tuples.length) ∧
    pushes .p (.pStat 0) (t.front.inserted.setWidth 64) ∧ pushes .p (.pStat 1) (t.front.dominated.setWidth 64) ∧
    pushes .p (.pStat 2) (t.front.dups.setWidth 64) ∧ pushes .p (.pStat 3) (t.front.evicted.setWidth 64) ∧
    pushes .p (.pStat 4) (t.front.overflow.setWidth 64) ∧ pushes .p (.pStat 5) (t.front.spilled.setWidth 64) ∧
    (∀ n : BitVec 8, 5 < n.toNat → s.EngineRuns t .p → exec (.pStat n) s = trapsWith s t 4 2 22 0) ∧
    (∀ n : BitVec 6,
      let open_ := t.sessions.find? fun x => decide (x.num = n) && !x.closing
      let last := ((t.closed.find? fun e => decide (e.1 = n)).map fun e => e.2.toNat).getD 0
      ((∃ x ∈ t.sessions, x.num = n) ∨ (∃ e ∈ t.closed, e.1 = n) →
        pushes .s (.sQry n) (num ((match open_ with | some x => x.count | none => 0) * 2 ^ 8 + t.metas.length * 2 ^ 4 +
          last * 2 ^ 2 + if open_.isSome then 1 else 0))) ∧
      ((∀ x ∈ t.sessions, x.num ≠ n) → (∀ e ∈ t.closed, e.1 ≠ n) → s.EngineRuns t .s →
        exec (.sQry n) s = trapsWith s t 5 2 32 0)))

/-- R205, R219 to R223, R173, R174, R183: the launch words of the matrix engine, and the waiting words: when the
checks of their rules pass, the command joins the task's commands with the number, address and regions of its word,
and the instruction stream goes on. A waiting word whose counter has reached its target only pops; a counter above 15
raises COUNTER. R225 to R228, R240, R241, R243, R231, R239: the launch words of the copy engine: when the checks of
R228 pass in their order, the command joins the task's commands with its configuration, and the arming of the end
compare is used up. A weight word of a launch without the privilege raises PRIV. -/
def Obligations.MatrixAndCopyLaunches : Prop :=
  (
  ∀ (s : State) (t : Task) (rest : List Word64),
    (s.EngineRuns t .m →
    let takes (i : Instr) (foot : List Foot) (kind : CmdKind) (makes : List Foot) :=
      exec i s = onlyTask s ((t.pastWord 1 .m rest).queued t.pc .m t.m.track foot [] kind makes)
    let spad (lo hi : Nat) : Foot := ⟨s.cur.val * 2 ^ 20 + lo, s.cur.val * 2 ^ 20 + hi, true, true⟩
    (∀ (z : ZReg) (outl clr : Bool) (a b : Fin 16), t.mStack = BitVec.ofNat 64 a.val :: BitVec.ofNat 64 b.val :: rest →
      let A := t.m.streams[a.val]
      let B := t.m.streams[b.val]
      let vis := tilesOfNest t.m.nest z.val
      let rs := goRanges A B t.m.nest (rowsOf A) B.cols A.cols outl
      (A.fmt = 0 ∨ A.fmt = 8 ∨ B.fmt = 0 ∨ B.fmt = 8 → exec (.mGo outl clr z) s = trapsWith s t 2 2 10 0) ∧
      (goShape A B t.m.nest outl = .ok () →
        (clr = true ∨ goTiles t A B vis outl = .ok () ∧ ∀ p ∈ t.cmds, p.eng = .m → ∀ i ∈ p.names, i ∉ vis) →
        (A.blks = true → A.sbase < spaceLimit A.wspace) → (B.blks = true → B.sbase < spaceLimit B.wspace) →
        (∀ r ∈ rs, r.w = true → s.wNotReady r.lo r.hi = false) → (∀ r ∈ rs, s.checkMRange s.cur r = .ok ()) →
        takes (.mGo outl clr z) (s.withTiles t (s.withSidebands t (spadFoot s.cur rs)))
          (.mGo A B t.m.nest z clr outl t.m.tol MGoProg.zero) [])) ∧
    (∀ z : ZReg, t.mStack = rest → takes (.mZero z) [] (.mZero z) []) ∧
    (∀ (heal : Bool) (z : ZReg) (off : Word64) (tl : Tile), t.mStack = off :: rest →
      tileAt s.tiles (s.cur.val * 2 ^ 20 + off.toNat) = some tl → (tl.fmt = 0 ∨ tl.fmt = 8) →
      off.toNat + tileSize tl.fmt + 512 ≤ 0x70000 →
      t.blocked (s.cur.val * 2 ^ 20 + off.toNat) (16384 + 512) false = false →
      takes (.mLoad heal z) [spad off.toNat (off.toNat + tileSize tl.fmt + 512)] (.mLoad off.toNat z heal t.m.tol) []) ∧
    (∀ (z : ZReg) (off d : Word64), t.mStack = off :: d :: rest →
      let fmt := d.setWidth 5
      let m := (d.extractLsb' 5 3).toNat
      off.toNat % 512 = 0 → off.toNat + tileSize fmt + 512 ≤ 0x70000 → d.toNat < 1024 → fmt.toNat < 20 → m ≠ 5 → m ≠ 6 →
      let mode := if m = 7 then t.sys.rndm.toNat % 8 else m
      let foot := s.withSidebands t [spad off.toNat (off.toNat + tileSize fmt + 512)]
      let makes := [spad off.toNat (off.toNat + tileSize fmt)]
      let kind (d' : Option (BitVec 5 × BitVec 5 × Nat)) : CmdKind := .mStore off.toNat z fmt mode d' (d.getLsbD 9)
      if mode = 4 ∧ d.getLsbD 8 = true then
        exec (.mStore z) s = onlyTask s ({ t.pastWord 1 .m rest with m := { t.m with dcount := t.m.dcount + 1 } }.queued
          t.pc .m t.m.track foot [] (kind (some (t.m.dbase, t.m.dstep, t.m.dcount))) makes)
      else takes (.mStore z) foot (kind none) makes)) ∧
    (∀ (e : Eng) (n target : Word64) (w : Instr) (mk : Fin 16 → Word32 → CmdKind),
      (e = .m ∧ w = .mWaitc ∧ mk = CmdKind.mWaitc) ∨ (e = .x ∧ w = .xWaitc ∧ mk = CmdKind.xWaitc) →
      s.EngineRuns t e → t.stack e = n :: target :: rest →
      (15 < n.toNat → exec w s = trapsWith s t (if e = .m then 2 else 3) 2 5 0) ∧
      ∀ k : Fin 16, n.toNat = k.val →
        exec w s = onlyTask s (
          if (t.cc[k.val] - target.setWidth 32).toNat < 2 ^ 31 then t.pastWord 1 e rest
          else (t.pastWord 1 e rest).queued t.pc e 0 [] [] (mk k (target.setWidth 32))))) ∧
  (
  ∀ (s : State) (t : Task) (adv b4 : Bool) (track : Fin 16) (rest : List Word64), s.EngineRuns t .x →
    (t.cmds.filter fun p => decide (p.eng = .x) && !p.waits).length < 64 →
    let x := t.xc
    let takes (i : Instr) (isFill isW commit chain : Bool) (fill : Option Word64) (kind : XCmd → CmdKind) :=
      ∀ (seed : Word32) (pred : Option Nat) (pages : List PageUse) (foot : List Foot),
        (x.armed ≠ none → x.ck ≠ CkKind.none) → spacesOk x isFill isW commit = .ok () → xGeometry x isW = .ok () →
        xSeed t x chain = .ok (seed, pred) → s.moveRanges s.cur t x isFill isW = .ok (pages, foot) →
        exec i s = onlyTask s ({ t.pastWord 1 .x rest with
            xc := { x with armed := none }
            xlast := if x.ck = CkKind.none then t.xlast else some ⟨t.nextSeq, x.ck, 0, true, false⟩ }.queued t.pc .x track foot
          pages (kind ⟨x, fill, adv, pred, seed, false, 0, false, false, none, none, 0, none, 0, none, none, 0⟩)
          (if isFill = true ∨ isW = true then [] else x.made s.cur pages))
    let commit := t.rs.rc.commit
    (t.xStack = rest → takes (.xGo adv b4 track) false false commit b4 none .xMove) ∧
    (∀ pat : Word64, t.xStack = pat :: rest → takes (.xFill adv b4 track) true false commit b4 (some pat) .xMove) ∧
    (t.xStack = rest →
      (s.wPriv t = true → takes (.xWprog adv track) false true commit false none .xProg ∧
        takes (.xWverify adv track) false true false false none .xVerify) ∧
      (s.wPriv t = false → exec (.xWprog adv track) s = trapsWith s t 3 2 0 0 ∧
        exec (.xWverify adv track) s = trapsWith s t 3 2 0 0)))

/-- R244, R247, R248, R251, R254: the words of the front accumulator. P.CLR empties the front; P.INS of no record changes
nothing but the stack; else P.INS, and P.MERGE of any image, waits its turn as a command; P.SAVE writes the image and
P.LOAD takes it in at once. That P.SAVE and P.LOAD act at acceptance is the model's reading (log 27). -/
def Obligations.FrontWords : Prop :=
  ∀ (s : State) (t : Task) (rest : List Word64), s.EngineRuns t .p → (∀ c ∈ t.cmds, c.eng ≠ .p) →
    let p := t.pcfg
    let spad (off : Nat) := s.cur.val * 2 ^ 20 + off
    (t.pStack = rest → exec .pClr s = onlyTask s { t.advance 1 with front := { t.front with tuples := [], shape := none } }) ∧
    (∀ off n : Word64, t.pStack = off :: n :: rest → off.toNat % 4 = 0 → n.toNat ≤ 65535 → pChecks t p = .ok () →
      off.toNat + max 1 (n.toNat * p.recBytes) ≤ 0x70000 → checkRing p = .ok () →
      exec .pIns s = onlyTask s (if n = 0 then t.pastWord 1 .p rest
        else (t.pastWord 1 .p rest).queued t.pc .p 0 (s.pFoot s.cur t p off.toNat (off.toNat + n.toNat * p.recBytes)) []
          (.pIns off.toNat n.toNat 0 p t.front))) ∧
    (∀ off : Word64, t.pStack = off :: rest → off.toNat % 8 = 0 →
      (pChecks t p = .ok () → imageChecks s s.cur t p off.toNat = .ok () → checkRing p = .ok () →
        exec .pMerge s = onlyTask s ((t.pastWord 1 .p rest).queued t.pc .p 0
          (s.pFoot s.cur t p off.toNat (off.toNat + s.imageSize s.cur p off.toNat)) [] (.pMerge off.toNat none p t.front))) ∧
      (let sh := t.front.shape.getD (p.nkeys, p.fp)
       let image := imageBytes t.front.tuples sh.1 sh.2
       let k := (t.front.shape.map Prod.fst).getD p.nkeys
       let n := 8 + 4 * (k + 1) * t.front.tuples.length
       (∀ a ∈ t.front.tuples, a.keys.length = sh.1) → off.toNat + n ≤ 0x70000 →
       t.blocked (spad off.toNat) n true = false → Memory.wf s.mem = true →
       (∀ y ∈ t.nt, y.meets (spad off.toNat) n = false) →
       (∀ g ∈ granules (spad off.toNat) n ++ s.sideGranules (spad off.toNat) n,
         ((s.stampOf g t.rs.rc.job t.gen).touch t.slot none .write).isSome = true) →
       ∃ s' : State, exec .pSave s = .next (s'.setTask s.cur (t.pastWord 1 .p rest)) ∧ s'.cores = s.cores ∧
         ∀ a, Memory.get s'.mem a =
           if spad off.toNat ≤ a ∧ a < spad off.toNat + n then image.getD (a - spad off.toNat) 0 else Memory.get s.mem a) ∧
      (∀ (s1 : State) (l : List Tuple), p.active ≠ 0 → imageChecks s s.cur t p off.toNat = .ok () →
        readImage s s.cur t p off.toNat true = .ok (s1, l) →
        exec .pLoad s = .next (s1.setTask s.cur { t.pastWord 1 .p rest with
          front := { t.front with tuples := l, shape := some (p.nkeys, p.fp) } })))

/-- R313 to R320: the words of the seal port, of a task outside COMMIT: S.OPEN of a free number with a key of the job
opens a session; S.ABS, S.FIN and S.ABT join the task's commands, the latter two taking the metadata and closing the
session; S.OPEN of an open number or a fifth session, and any other S word that names no open session, raises SESSION
(S.QRY of a number the task has closed does not: log 24); every S word of a COMMIT task that meets no condition of a
lower code raises SEALMODE. The order of the checks and the wait of s.open are read by inference (log 28). -/
def Obligations.SealWords : Prop :=
  ∀ (s : State) (t : Task) (rest : List Word64),
    let live := t.sessions.filter fun x => !x.closing
    let known (n : BitVec 6) : Prop := ∃ x ∈ live, x.num = n
    let held := ((s.jobOf t.rs.rc.job).map fun j => j.args.keys).getD []
    let lowest {α : Type} (r : Res α) : Prop := ∀ x, r = .error (.trap x) → x.cause ≠ 2
    (s.running = some t → s.Sound s.cur → t.holds .s = false → t.rs.rc.commit = true →
      let refuses (i : Instr) := exec i s = trapsWith s t 5 2 34 0
      (∀ (n : BitVec 8) (n32 : Word32), ∀ i ∈ [Instr.lit .s n, .lit32 .s n32, .lith .s n, .dup .s, .drop .s, .swap .s,
        .over .s, .rot .s], refuses i) ∧
      (t.metas.length < 8 → refuses .sMeta) ∧
      (∀ n : BitVec 6, (∃ x ∈ t.sessions, x.num = n) ∨ (∃ e ∈ t.closed, e.1 = n) → refuses (.sQry n)) ∧
      (∀ (sel : BitVec 8) (key frame : Word64), t.sStack = key :: frame :: rest → (sel.extractLsb' 0 2).toNat < 2 →
        ¬known (sel.extractLsb' 2 6) → live.length < 4 →
        (∃ k ∈ held, key.toNat = k.slot.toNat + 2 ^ 16 * k.gen.toNat ∧ k.alg = sel.extractLsb' 0 2) →
        refuses (.sOpen sel)) ∧
      (∀ (n : BitVec 6) (x : Session), t.sessions.find? (fun x => decide (x.num = n) && !x.closing) = some x →
        ∀ a : Word64, t.sStack.head? = some a →
          (∀ len : Word64, t.sStack = a :: len :: rest → len.toNat ≤ 2 ^ 24 →
            x.count + t.pendingAbs n + len.toNat < 2 ^ 48 → lowest (sealRange s s.cur t a.toNat len.toNat false) →
            refuses (.sAbs n)) ∧
          (a.toNat % 256 = 0 → lowest (sealRange s s.cur t a.toNat (if x.alg = 0 then 256 else 3584) true) →
            refuses (.sFin n)) ∧
          (a.toNat < 2 ^ 24 → refuses (.sAbt n)))) ∧
    (s.EngineRuns t .s →
      (∀ (sel : BitVec 8) (key frame : Word64), t.sStack = key :: frame :: rest →
        let num := sel.extractLsb' 2 6
        let alg := sel.extractLsb' 0 2
        (alg.toNat < 2 → known num ∨ 4 ≤ live.length → exec (.sOpen sel) s = trapsWith s t 5 2 32 0) ∧
        (alg.toNat < 2 → ¬known num → live.length < 4 →
          (∀ k ∈ held, ¬(key.toNat = k.slot.toNat + 2 ^ 16 * k.gen.toNat ∧ k.alg = alg)) →
          exec (.sOpen sel) s = trapsWith s t 5 2 33 0) ∧
        (alg.toNat < 2 → (∀ x ∈ t.sessions, x.num ≠ num) → t.sessions.length < 4 →
        (∃ k ∈ held, key.toNat = k.slot.toNat + 2 ^ 16 * k.gen.toNat ∧ k.alg = alg) →
        s.liveSessions (clusterOf s.cur) < 64 →
        exec (.sOpen sel) s = onlyTask s { t.pastWord 1 .s rest with
          sessions := t.sessions ++ [⟨num, key.setWidth 32, frame, alg, 0, ShaState.init, t.regions.length, false⟩] })) ∧
      (∀ (n : BitVec 6) (x : Session), t.sessions.find? (fun x => decide (x.num = n) && !x.closing) = some x →
        let closing := t.sessions.map fun y => if y.num = n then { y with closing := true } else y
        (∀ a len : Word64, t.sStack = a :: len :: rest → len.toNat ≤ 2 ^ 24 →
          x.count + t.pendingAbs n + len.toNat < 2 ^ 48 →
          ∀ (pages : List PageUse) (foot : List Foot), sealRange s s.cur t a.toNat len.toNat false = .ok (pages, foot) →
          exec (.sAbs n) s = onlyTask s (if len = 0 then t.pastWord 1 .s rest
            else (t.pastWord 1 .s rest).queued t.pc .s 0 foot pages (.sAbs n a.toNat len.toNat 0 x.count x.sha))) ∧
        (∀ a : Word64, t.sStack = a :: rest →
          (a.toNat % 256 = 0 → ∀ (pages : List PageUse) (foot : List Foot),
            sealRange s s.cur t a.toNat (if x.alg = 0 then 256 else 3584) true = .ok (pages, foot) →
            exec (.sFin n) s = onlyTask s ({ t.pastWord 1 .s rest with metas := [], sessions := closing }.queued t.pc .s 0
              foot pages (.sFin n a.toNat t.metas))) ∧
          (a.toNat < 2 ^ 24 →
            exec (.sAbt n) s = onlyTask s ({ t.pastWord 1 .s rest with metas := [], sessions := closing }.queued t.pc .s 0
              [] [] (.sAbt n (a.setWidth 32) t.metas))))) ∧
      (∀ (n : BitVec 6) (a : Word64), t.sStack.head? = some a → ¬known n →
        (∀ len : Word64, t.sStack = a :: len :: rest → len.toNat ≤ 2 ^ 24 → t.pendingAbs n + len.toNat < 2 ^ 48 →
          lowest (sealRange s s.cur t a.toNat len.toNat false) → exec (.sAbs n) s = trapsWith s t 5 2 32 0) ∧
        (a.toNat % 256 = 0 → lowest (sealRange s s.cur t a.toNat 256 true) →
          exec (.sFin n) s = trapsWith s t 5 2 32 0) ∧
        (a.toNat < 2 ^ 24 → exec (.sAbt n) s = trapsWith s t 5 2 32 0) ∧
        ((∀ x ∈ t.sessions, x.num ≠ n) → (∀ e ∈ t.closed, e.1 ≠ n) → exec (.sQry n) s = trapsWith s t 5 2 32 0)))

/-! ### Events: the engines -/

/-- A command of the task on a core runs its next unit now (R173, R183): the task holds it, every command it must follow
has completed, and no fault of the core waits. -/
def Sys2Proof.Machine.State.Works (s : State) (c : CoreId) (t : Task) (q : Cmd) : Prop :=
  s.engineTask c = some t ∧ t.cmds.find? (fun p => decide (p.seq = q.seq)) = some q ∧ t.ready q = true ∧ s.Sound c

/-- The commands of a task without the one of a number. -/
def Sys2Proof.Machine.Task.cmdsBut (t : Task) (seq : Nat) : List Cmd := t.cmds.filter fun p => decide (p.seq ≠ seq)

/-- The outcome in which the task of a core becomes `t` and nothing else of the state changes. -/
def Sys2Proof.Machine.onlyTaskOf (s : State) (c : CoreId) (t : Task) : Out := .next (s.setTask c t)

/-- R175, R202, R204, R220 to R223: the commands of the matrix engine. m.zero clears its tile; a walk that has finished
counts on its track when a stream lies in W-space (a waiting word in front of it is not released by that: log 66); m.load
takes the verified tile from the scratchpad; m.store writes the converted tile and its sideband, which make a FRESH tile; a
block inside a step accumulates every element of the columns that take part. -/
def Obligations.MatrixCommandsRun : Prop :=
  ∀ (s : State) (c : CoreId) (t : Task) (q : Cmd), s.Works c t q → q.eng = .m →
    let complete := exec (.mCommandComplete c q.seq) s
    let gone (u : Task) : Task :=
      { u with mstats := { u.mstats with cmds := u.mstats.cmds + 1 }, cmds := u.cmdsBut q.seq }
    (∀ z, q.kind = .mZero z → complete = onlyTaskOf s c (gone { t with z := t.z.set z.val ZTile.zero })) ∧
    (∀ a b nest z clr outl tol p, q.kind = .mGo a b nest z clr outl tol p → p.finished = true →
      complete = onlyTaskOf s c (gone (if a.wspace ∨ b.wspace then
        { t with cc := t.cc.set q.track.val (t.cc[q.track.val] + 1), cmds := t.cmds.map q.notReleased } else t))) ∧
    (∀ off z heal tol tl tl' s1 t1 s2 bs, q.kind = .mLoad off z heal tol → s.loadTile c off = .ok tl →
      s.verifySpad c t off tl heal tol.toNat = .ok (s1, t1) → (s1.setTask c t1).Works c t1 q →
      (s1.setTask c t1).loadTile c off = .ok tl' →
      (s1.setTask c t1).readSpad c t1 off (tileSize tl'.fmt + 512) = .ok (s2, bs) →
      ∃ v : ZTile, complete = onlyTaskOf s2 c (gone { t1 with z := t1.z.set z.val v }) ∧
        (∀ i, i < 4096 → v.data.getD i 0 = BitVec.ofNat 32 (leNat ((bs.drop (4 * i)).take 4))) ∧
        (∀ i, i < 64 → v.rowW.getD i 0 = BitVec.ofNat 32 (leNat ((bs.drop (16384 + 4 * i)).take 4)) ∧
          v.colW.getD i 0 = BitVec.ofNat 32 (leNat ((bs.drop (16640 + 4 * i)).take 4))) ∧
        v.typ = (if tl'.fmt = 0 then .fp32 else .int32) ∧ v.tA = 0x3F800000 ∧ v.tB = 0x3F800000 ∧ v.poison = false) ∧
    (∀ off z fmt mode dith stat r, q.kind = .mStore off z fmt mode dith stat →
      let zt := t.z[z.val]
      let es := zt.data.zipIdx.map fun e =>
        cvtElem fmt.toNat (storeMode mode dith (e.2 % 64)) (scaledValue zt e.1) 0 0 false
      let rows := (List.range 64).map fun i => ((es.drop (64 * i)).take 64).map CvtElem.bits
      zt.poison = false →
      judgeTile (if zt.typ = .fp32 then 0x00 else 0x08) (zRows zt.data) (zt.rowW.map BitVec.toNat)
        (zt.colW.map BitVec.toNat) true false 0 = .pass →
      s.writeSpad c t off (packTile fmt rows ++ sidebandOf fmt rows) true = .ok r →
      let u := (r.2.noteLanes (es.map fun e => (e.bits, e.flags))).flag (tileFlags fmt rows)
      complete = onlyTaskOf { r.1 with tiles := newTile r.1.tiles (spadPa c off) ⟨fmt, false, false⟩ } c
        (gone (if stat then u.addStats (es.filterMap CvtElem.stat) else u))) ∧
    (∀ a b nest z clr outl tol p r, q.kind = .mGo a b nest z clr outl tol p → p.started = true → p.finished = false →
      p.blk ≠ 0 → p.blk + 1 < nestBlocks nest → readBlock c s t a b nest outl p = .ok r →
      let i := stepTile nest z p.idx
      let zt := t.z[i.val]
      let int := accInt a b outl
      let out := zt.data.zipIdx.map fun e =>
        if e.2 % 64 < b.cols then blockElem int r.ops (e.2 / 64) (e.2 % 64) e.1 else (e.1, 0)
      let u := { t with z := t.z.set i.val { zt with data := out.map Prod.fst } }.flag (r.flags ||| allFlags out)
      exec (.matrixBlock c q.seq) s = onlyTaskOf r.st c
        ({ u with mstats := { u.mstats with blocks := u.mstats.blocks + 1 } }.setCmd q.seq
          (.mGo a b nest z clr outl tol { p with
            blk := p.blk + 1, beats := p.beats + r.beats
            rowP := predictRows int r.ops p.rowP, colP := predictCols int r.ops b.cols p.colP })))

/-- R227, R230 to R233, R241, R243: the commands of the copy engine. A chunk of a copy inside the module, or of a fill,
writes the bytes it read, or its pattern, and continues the running value; x.wverify compares the next row; x.wprog verifies
its source first. A command whose bytes are all in counts on its track where it must, hands its value to the command chained
to it, and is gone; an end compare that fails is a containment event of cause 3 with the expected and the actual value in
CTINFO and kind 6 in CKFAULT, and the counter stays. A copy counts when its word says so, or when it read W-space, from that
space itself or through the aperture (R233; log 23); a waiting word in front of it is not released by that (R175; log 66).
-/
def Obligations.CopyCommandsRun : Prop :=
  ∀ (s : State) (c : CoreId) (t : Task) (q : Cmd), s.Works c t q → q.eng = .x →
    let chunk := exec (.xChunk c q.seq) s
    let complete := exec (.xCommandComplete c q.seq) s
    let finished (u : Task) (counts : Prop) [Decidable counts] (v : Word32) : Task :=
      let u1 : Task := if counts then
          { u with cc := u.cc.set q.track.val (u.cc[q.track.val] + 1), cmds := u.cmds.map q.notReleased } else u
      { u1 with
        xlast := u1.xlast.map fun l => if l.seq = q.seq then { l with value := v, done := true } else l
        cmds := (u1.cmds.map (Cmd.seeded q.seq v)).filter fun p => decide (p.seq ≠ q.seq) }
    let matches_ (x : XCmd) : Prop := x.cfg.armed = none ∨ x.cfg.armed = some x.value
    (∀ x r w, q.kind = .xMove x → x.cfg.dspace ≠ .remote → x.next < x.total → x.begun = true → x.tileCopy = false →
      (match x.fill with
       | none => readRuns c t q.pages x.cfg.sspace (decide (x.cfg.ck ≠ .none) || q.writesHost) (x.srcRuns x.next x.stop) s = .ok r
       | some pat => r = ⟨s, (List.range (x.stop - x.next)).map (fun i =>
           BitVec.ofNat 8 (pat.toNat / 2 ^ (8 * ((x.next + i) % x.cfg.len % 8)))), [], 0⟩) →
      writeRuns c q.pages x.cfg.dspace x.next r.bytes r.marks (x.dstRuns x.next x.stop) r.st t = .ok w →
      let x' := { x with next := x.stop, beats := x.beats + r.beats, value := runValue x.cfg.ck x.value r.bytes }
      chunk = onlyTaskOf w.1 c (w.2.setMove q.seq (.xMove x') x')) ∧
    (∀ x r, q.kind = .xVerify x → x.next < x.total → s.readSpad c t (x.cfg.sbase + x.next) 4096 = .ok r →
      let bad := (List.range 8).filter fun i =>
        decide ((r.2.drop (512 * i)).take 512 ≠ s.readW (x.cfg.dbase + x.next + 512 * i) 512)
      let x' := { x with
        begun := true, next := x.next + 4096, differ := x.differ + bad.length
        firstDiffer := x.firstDiffer.or ((bad.head?).map fun i => x.cfg.dbase + x.next + 512 * i)
        value := runValue x.cfg.ck x.value r.2 }
      chunk = onlyTaskOf r.1 c (t.setMove q.seq (.xVerify x') x')) ∧
    (∀ x, q.kind = .xProg x → x.begun = false → s.rangeTiles c x.cfg.sbase x.cfg.len = [] →
      chunk = onlyTaskOf s c (t.setMove q.seq (.xProg { x with begun := true }) { x with begun := true })) ∧
    (∀ x, q.kind = .xMove x → x.cfg.dspace ≠ .remote → x.total ≤ x.next → x.sent = true → x.tileCopy = false →
      matches_ x →
      complete = onlyTaskOf s c (finished t (x.adv = true ∨ (x.fill = none ∧ x.cfg.sspace = .wspace) ∨ 0 < x.beats)
        x.value)) ∧
    (∀ x, q.kind = .xMove x → x.cfg.dspace = .remote → x.outcome = some (0, 0) →
      complete = onlyTaskOf s c (finished t (x.adv = true ∨ (x.fill = none ∧ x.cfg.sspace = .wspace) ∨ 0 < x.beats)
        x.value)) ∧
    (∀ x, (q.kind = .xProg x ∧ x.begun = true ∨ q.kind = .xVerify x ∧ x.firstDiffer = none) → x.total ≤ x.next →
      matches_ x → complete = onlyTaskOf s c (finished t True x.value)) ∧
    (∀ x, q.kind = .xVerify x → x.total ≤ x.next → ∀ a, x.firstDiffer = some a →
      complete = .next ((s.noteVerified c q.seq).failCmd c t
        ⟨10, BitVec.ofNat 64 (min x.differ (2 ^ 24 - 1) * 2 ^ 40 + a), none, [], 0⟩ q)) ∧
    (∀ x : XCmd, (q.kind = .xMove x ∧ (x.cfg.dspace ≠ .remote ∧ x.total ≤ x.next ∧ x.sent = true ∧ x.tileCopy = false ∨
          x.cfg.dspace = .remote ∧ x.outcome.any (fun o => decide (o.1 = 1)) = true)) ∨
        (q.kind = .xProg x ∧ x.begun = true ∨ q.kind = .xVerify x ∧ x.firstDiffer = none) ∧ x.total ≤ x.next →
      ∀ e : Word32, x.cfg.armed = some e → e ≠ x.value →
        let space := match x.cfg.dspace with | .spad => 0 | .dspace => 1 | .wspace => 2 | .remote => 3
        complete = .next (s.failCmd c t ⟨3, BitVec.ofNat 64 (e.toNat * 2 ^ 32 + x.value.toNat),
          some (BitVec.ofNat 64 (6 * 2 ^ 52 + space * 2 ^ 24), BitVec.ofNat 64 x.cfg.dbase), [], 0⟩ q))

/-- R247, R249, R251, R252: an arrival at the front accumulator, of P.INS or of P.MERGE: a tuple that a held one dominates,
or equals when equal tuples are suppressed, is only counted; else the held ones it dominates leave, and it joins while
there is room. A full front drops it (DROPNEW), drops the worst on key 0 of all, the oldest of equals (EVICTKEY), writes
that one to the spill ring (SPILL), or raises PFULL at the word (FAULT). P.INS reads a record when it inserts it, and
P.MERGE its whole image before its first arrival (the model's reading, log 27). R316 to R319, R323: the seal port reads
the next 4 KiB of an s.abs, and s.fin and s.abt end their session with a record. -/
def Obligations.FrontAndSealCommandsRun : Prop :=
  (∀ (s : State) (c : CoreId) (t : Task) (q : Cmd) (p : PCfg) (before : Front) (s1 : State) (a : Tuple)
      (args : List Nat) (next : Task → Task),
    s.engineTask c = some t → t.cmds.find? (fun x => decide (x.eng = .p)) = some q → t.ready q = true →
    ((∃ off n i bs, q.kind = .pIns off n i p before ∧
        s.readSpad c t (off + i * p.recBytes) p.recBytes = .ok (s1, bs) ∧ a = tupleOf p.nkeys bs ∧ args = [off, n] ∧
        next = fun u => if n ≤ i + 1 then { u with cmds := u.cmdsBut q.seq } else
          u.setCmd q.seq (.pIns off n (i + 1) p before)) ∨
      ∃ off todo rest, q.kind = .pMerge off todo p before ∧ (todo = some (a :: rest) ∧ s1 = s ∨
          todo = none ∧ readImage s c t p off false = .ok (s1, a :: rest)) ∧ args = [off] ∧
        next = fun u => if rest = [] then { u with cmds := u.cmdsBut q.seq } else
          u.setCmd q.seq (.pMerge off (some rest) p before)) →
    let f := t.front
    let goes (f' : Front) := exec (.pArrival c) s = onlyTaskOf s1 c (next { t with front := f' })
    let below := f.tuples.any fun h => p.dominates h a
    let equal := p.dup && f.tuples.any fun h => p.same h a
    let keep := f.tuples.filter fun h => !p.dominates a h
    let left : Word32 := BitVec.ofNat 32 (f.tuples.length - keep.length)
    (below = true → goes { f with dominated := f.dominated + 1 }) ∧
    (below = false → equal = true → goes { f with dups := f.dups + 1 }) ∧
    (below = false → equal = false → keep.length ≠ p.cap →
      goes { f with tuples := keep ++ [a], shape := some (p.nkeys, p.fp), inserted := f.inserted + 1,
                    evicted := f.evicted + left }) ∧
    (below = false → equal = false → keep.length = p.cap → p.policy = 0 →
      goes { f with tuples := keep, evicted := f.evicted + left, overflow := f.overflow + 1 }) ∧
    (below = false → equal = false → keep.length = p.cap → p.policy = 1 ∨ p.policy = 2 →
      ∃ v, v < keep.length + 1 ∧
        (∀ j, j < keep.length + 1 → p.merit ((keep ++ [a]).getD v a) 0 ≤ p.merit ((keep ++ [a]).getD j a) 0) ∧
        (∀ j, j < v → p.merit ((keep ++ [a]).getD v a) 0 < p.merit ((keep ++ [a]).getD j a) 0) ∧
        let f1 : Front := { f with evicted := f.evicted + left, overflow := f.overflow + 1,
                                   spilled := if p.policy = 2 then f.spilled + 1 else f.spilled }
        let f' : Front := if v = keep.length then { f1 with tuples := keep } else
          { f1 with tuples := keep.eraseIdx v ++ [a], shape := some (p.nkeys, p.fp), inserted := f.inserted + 1 }
        (p.policy = 1 → goes f') ∧
        (∀ base cap r w x, p.policy = 2 → p.spill = some (base, cap) →
          s1.readSpad c { t with front := f' } base 4 = .ok r →
          r.1.writeSpad c { t with front := f' } (base + 8 + leNat r.2 % cap * p.recBytes)
            ((keep ++ [a]).getD v a).bytes true = .ok w →
          w.1.writeSpad c w.2 base (bytesOf 8 ((leNat r.2 + 1) % 2 ^ 32)) true = .ok x →
          exec (.pArrival c) s = onlyTaskOf x.1 c (next x.2))) ∧
    (below = false → equal = false → keep.length = p.cap → p.policy = 3 → s.Sound c →
      exec (.pArrival c) s = .next (s.takeTrap c (t.beforeP q args before) ⟨0, 2, 29, 0, 0⟩ 4 q.addr
        (s.textAt c (t.beforeP q args before) q.addr) 0 0))) ∧
  (∀ (s : State) (c : CoreId) (t : Task) (q : Cmd) (p : PCfg) (before : Front) (off : Nat) (s1 : State),
    s.engineTask c = some t → t.cmds.find? (fun x => decide (x.eng = .p)) = some q → t.ready q = true →
    q.kind = .pMerge off none p before → readImage s c t p off false = .ok (s1, []) →
    exec (.pArrival c) s = onlyTaskOf s1 c { t with cmds := t.cmdsBut q.seq }) ∧
  (∀ (s : State) (c : CoreId) (t : Task) (q : Cmd), s.sealTask c = some t →
    t.cmds.find? (fun x => decide (x.seq = q.seq)) = some q → t.ready q = true →
    (∀ n a len next count sha x r, q.kind = .sAbs n a len next count sha →
      t.sessions.find? (fun y => decide (y.num = n)) = some x →
      let stop := min len (next + 4096)
      let from_ := if next = 0 then (x.count, x.sha) else (count, sha)
      readRuns c t q.pages .dspace true (cutRuns [⟨next, a + next, stop - next⟩]) s = .ok r →
      let got := (from_.1 + r.bytes.length, from_.2.absorb r.bytes)
      exec (.sAbsorbBlock c q.seq) s = onlyTaskOf r.st c
        (if len ≤ stop then
          { t with sessions := t.sessions.map fun y => if y.num = n then { y with count := got.1, sha := got.2 } else y
                   cmds := t.cmdsBut q.seq }
         else t.setCmd q.seq (.sAbs n a len stop got.1 got.2))) ∧
    (∀ n a metas x rec_ unsigned w, q.kind = .sFin n a metas → t.sessions.find? (fun y => decide (y.num = n)) = some x →
      sealRecord (clusterOf c) x 0 0 metas = (rec_, unsigned) → writeRecord c q a rec_ s t = .ok w →
      exec (.signatureComplete c q.seq) s = onlyTaskOf w.1 c
        ((w.2.closeSession n (if unsigned then 3 else 1)).dropCmd q.seq)) ∧
    (∀ n reason metas x, q.kind = .sAbt n reason metas → t.sessions.find? (fun y => decide (y.num = n)) = some x →
      let made := sealRecord (clusterOf c) x 1 reason.toNat metas
      exec (.signatureComplete c q.seq) s = onlyTaskOf (s.ringPut (clusterOf c) made.1 (some t.slot)) c
        ((t.closeSession n (if made.2 then 3 else 2)).dropCmd q.seq)))

/-! ### Events: waits, tests, pre-emption -/

/-- R124, R174, R185, R270: a wait whose counter has reached its target ends, and the task goes on behind a WAITC or
without the waiting word; a wait or a freeze that lasts too long, or a path without a milestone, ends in the fatal
trap of cause 16, 17 or 15. R184: a freeze stops a core and its partner until it ends. R283 to R285: a timing replay
is counted and, when it fails again, is an event of cause 7; a lane-test fault withdraws the core and is consumed by
the oldest command of the matrix engine, a waiting word among them, or waits for the next instruction of V or of M; a
core that fails its wake test is not offered until a wake that is not tested or passes. R345: a core whose clock the
monitor has stopped replays, tests and waits for nothing. That a withdrawn core stays withdrawn is the model's reading (log 32); that a waiting word is completed by its own counter alone is log 66's. -/
def Obligations.WaitsFreezesAndTests : Prop :=
  (
  ∀ (s : State) (c : CoreId) (t : Task), s.engineTask c = some t →
    let fatal (s : State) (engine cause : Nat) : Out :=
      .next (s.takeTrap c t ⟨2, BitVec.ofNat 8 cause, 0, 0, 0⟩ engine t.pc (s.textAt c t t.pc) 0 0)
    (∀ k target, t.wait = .waitc k target → (t.cc[k.val] - target).toNat < 2 ^ 31 →
      exec (.waitcSatisfied c) s = onlyTaskOf s c { t with wait := .none, pc := t.pc + 4, dist := t.dist + 2 }) ∧
    (∀ q k target, t.cmds.find? (fun p => decide (p.seq = q.seq)) = some q →
      (q.kind = .mWaitc k target ∨ q.kind = .xWaitc k target) →
      ((t.cc[k.val] - target).toNat < 2 ^ 31 →
        exec (.waitingWordSatisfied c q.seq) s = onlyTaskOf s c { t with cmds := t.cmdsBut q.seq }) ∧
      (s.Sound c → exec (.waitOverdue c (some q.seq)) s =
        .next (s.takeTrap c t ⟨2, 16, 0, 0, 0⟩ (engCode q.eng) q.addr (s.textAt c t q.addr) 0 0))) ∧
    (∀ k target, t.wait = .waitc k target → s.Sound c → exec (.waitOverdue c none) s = fatal s 0 16) ∧
    (∀ h, t.wait = .none → s.fetchParcel c t t.pc.toNat = .ok h → s.Sound c → t.limit < t.dist + headParcels h →
      exec (.milestoneOverdue c) s = fatal s (headEngine h) 15) ∧
    ((s.core c).status ≠ .mate → ∃ s' : State, exec (.freeze c) s = .next s' ∧ (s'.core c).frozen = true ∧
      (s'.core (partnerOf c)).frozen = true ∧ s'.engineTask c = none ∧
      (∀ k : CoreId, k ≠ c → k ≠ partnerOf c → s'.core k = s.core k) ∧ s' = { s with cores := s'.cores }) ∧
    (∀ s0 : State, (s0.core c).frozen = true → s = s0.setFrozen c false →
      exec (.freezeEnd c) s0 = .next s ∧
      ((s.core c).status ≠ .mate → s.Sound c → exec (.freezeOverdue c) s0 = fatal s (s.pcEngine c t) 17))) ∧
  (
  ∀ (s : State) (c : CoreId),
    let counted := s.setCore c fun k => { k with trep := if k.trep = 0xFFFFFFFF then k.trep else k.trep + 1 }
    ((s.dies[(dieOf c).val]).frozen = true → ∀ again matrix lane pass,
      ∀ i ∈ [Instr.timingReplay c again, .laneTest c matrix lane, .wakeTest c pass, .freezeOverdue c],
        exec i s = .next s) ∧
    ((s.dies[(dieOf c).val]).frozen = false →
    exec (.timingReplay c none) s = .next counted ∧
    (∀ t, counted.engineTask (s.hostOf c) = some t →
      exec (.timingReplay c (some .instr)) s = .next (counted.consume (s.hostOf c) t ⟨7, 0, none, [], 0⟩
        ⟨counted.pcEngine (s.hostOf c) t, 0, false, t.pc, t.regions.length⟩)) ∧
    (∀ (matrix : Bool) lane, (s.core c).status ≠ .mate → (∀ t, s.taskOf c = some t → t.rs.rc.paired = false) →
      let gone : State := { s.setCore c (fun k => { k with withdrawn := true }) with notices := s.notices ++ [.laneFail c] }
      ((matrix = true → ∀ t, s.engineTask c = some t → ∀ q ∈ t.cmds, q.eng ≠ .m) →
        exec (.laneTest c matrix lane) s = .next (gone.setCore c fun k => { k with laneFault := some (matrix, lane) })) ∧
      (∀ t q, matrix = true → s.engineTask c = some t → t.cmds.find? (fun q => decide (q.eng = .m)) = some q →
        t.cmds.find? (fun p => decide (p.seq = q.seq)) = some q →
        exec (.laneTest c matrix lane) s = .next (gone.failCmd c t ⟨6, laneInfo matrix lane, none, [], 0⟩ q))) ∧
    (∀ (t : Task) (e : Eng) (lane : BitVec 10) (i : Instr), s.cur = c → s.running = some t →
      (s.core c).laneFault = some (true, lane) →
      i ∈ [Instr.lit e 0, .dup e, .drop e, .swap e, .over e, .rot e, .lith e 0, .lit32 e 0] → e = .m →
      exec i s = .next ((s.setCore c fun k => { k with laneFault := none }).consume c t
        ⟨6, laneInfo true lane, none, [], 0⟩ ⟨2, 0, false, t.pc, t.regions.length⟩)) ∧
    ((s.core c).status = .idle → (s.core c).waketest.getLsbD 0 = true →
      (∃ s' : State, exec (.wakeTest c false) s = .next s' ∧ s'.offered c = false ∧ (s'.core c).waketest.getLsbD 1 = true ∧
        s'.notices = s.notices ++ [.wakeFail c]) ∧
      (∃ s' : State, exec (.wakeTest c true) s = .next s' ∧ (s'.core c).waketest = (s.core c).waketest &&& 1 ∧
        (s'.core c).withdrawn = (s.core c).withdrawn ∧ (s'.core c).wakeOut = false ∧ s' = { s with cores := s'.cores })) ∧
    ((s.core c).status = .idle → (s.core c).waketest.getLsbD 0 = false → ∀ pass,
      exec (.wakeTest c pass) s = .next (s.setCore c fun k => { k with wakeOut := false }))))

/-- R271 to R273, R275, R276, R294: a task asked to pre-empt is saved at a completed milestone, its context in its core's
lay-by and the core free, when its area has room, and runs on when it has not; it resumes on that core when its turn
comes, with the core's own MILEMAX, its context gone; the kernel may move it out of the lay-by, its sections unchanged,
in confidential mode under a seal with a fresh version, without which it does not return. Sizes of context sections and
gangs are read by inference (logs 30, 31); the context is plain data (log 14); the failed check is log 63's. -/
def Obligations.PreemptionAndResume : Prop :=
  ∀ (s : State) (c : CoreId) (t : Task), t.rs.rc.gang = false → t.rs.rc.paired = false →
    let k := clusterOf c
    (s.taskOf c = some t → t.wait = .none → ∃ s' : State, exec (.preemptionRequest c) s = .next s' ∧
      (s'.core c).preempt = true ∧ s'.taskOf c = some t ∧ s' = { s with cores := s'.cores }) ∧
    ((s.core c).frozen = false → (s.dies[(dieOf c).val]).frozen = false →
      (s.core c).status = .running → s.taskOf c = some t → (s.core c).preempt = true → t.wait = .parking →
      t.sessions = [] →
      let size := t.contextSize t.masks false 0
      (s.fits c size = true → ∃ (s' : State) (p : Parked), exec (.contextSave c false) s = .next s' ∧
        (s'.clusters[k.val]).parked = (s.clusters[k.val]).parked ++ [p] ∧ p.task = { t with wait := .none } ∧
        p.home = some c ∧ p.size = size ∧ p.caseB = false ∧ p.spad = none ∧ p.masks = t.masks ∧ p.sealed = none ∧
        (s'.core c).status = .idle ∧ (s'.core c).task = none ∧ s'.mem = s.mem ∧
        ∀ j : CoreId, j ≠ c → s'.core j = s.core j) ∧
      (s.fits c size = false → ∃ s' : State, exec (.contextSave c false) s = .next s' ∧
        s'.taskOf c = some { t with wait := .none } ∧ (s'.core c).preempt = false ∧ s' = { s with cores := s'.cores })) ∧
    (∀ (idx : Nat) (p : Parked), (s.clusters[k.val]).parked[idx]? = some p →
      (∀ j, j < idx → (s.clusters[k.val]).parked[j]? ≠ some p) → p.task = t →
      (p.home = some c → (s.clusters[k.val]).gang = none → s.nextTurn k = some (.back idx p) →
        s.mayResumeAll k [p] = true → p.spad = none → t.cancel = false → t.debugEv = false →
        ∃ (s' : State) (passed : Parked → Parked), exec (.resume c idx) s = .next s' ∧ (s'.core c).status = .running ∧
          s'.taskOf c = some { t with limit := (s.core c).milemax.toNat, cmds := t.cmds.map (Cmd.moved p.origin c) } ∧
          (s'.clusters[k.val]).parked = ((s.clusters[k.val]).parked.eraseIdx idx).map passed ∧
          (∀ q, t.rs.rc.level.toNat ≤ q.task.rs.rc.level.toNat → passed q = q) ∧
          (∀ q, passed q = { q with ready := (passed q).ready, task := { q.task with rs := (passed q).task.rs } }) ∧
          s'.mem = s.mem ∧ ∀ j : CoreId, j ≠ c → s'.core j = s.core j) ∧
      (p.home = some c → ∃ (s' : State) (p' : Parked), exec (.parkedContextMove c idx none false) s = .next s' ∧
        (s'.clusters[k.val]).parked = (s.clusters[k.val]).parked.set idx p' ∧ p'.home = none ∧ p'.task = t ∧
        p'.spad.isSome = true ∧ p'.sealed = (if s.confidential then some s.sealSeq else p.sealed) ∧
        s'.sealSeq = (if s.confidential then s.sealSeq + 1 else s.sealSeq) ∧ s'.mem = s.mem ∧ s'.cores = s.cores) ∧
      (p.home = none → ∀ d : CoreId, clusterOf d = k → s.fits d p.size = true →
        ((p.sealed = none ∨ p.intact = true) →
          ∃ (s' : State) (p' : Parked), exec (.parkedContextMove c idx (some d) false) s = .next s' ∧
            (s'.clusters[k.val]).parked = (s.clusters[k.val]).parked.set idx p' ∧ p'.home = some d ∧ p'.task = t ∧
            p'.spad = p.spad ∧ p'.sealed = none ∧ s'.mem = s.mem ∧ s'.cores = s.cores) ∧
        (p.sealed.isSome = true → p.intact = false → exec (.parkedContextMove c idx (some d) false) s = .next s)))

/-! ### Events: the junction, atomics and traps -/

/-- R295: the turn that a decision gives belongs to something ready at the highest level there is, and of its launch's
work at that level it is what has been ready longest. A decision gives the record of a turn to a free core, out of the
store, and its launch has been served. R305, R351: a record whose base generation is not yet advanced has no turn
(log 11). R345: a core whose clock the monitor has stopped stages and starts nothing. R293: a chosen record whose inputs are
in is ready to start; a plain input is copied to its place in the scratchpad first. R18, R305, R327: the task starts in the state of R18 with its generation
and its job's W window. The free core is an argument of the event (log 34), what staging waits for is log 35. -/
def Obligations.DispatchAndStaging : Prop :=
  (
  ∀ (s : State) (k : ClusterId),
    (∀ (l : List Turn) (x : Turn), s.turnOf k l = some x → x ∈ l ∧ ∀ y ∈ l, y.rc.level.toNat ≤ x.rc.level.toNat ∧
      (y.rc.level = x.rc.level → y.key = x.key → x.order ≤ y.order)) ∧
    (∀ r : RecSlot, Turn.fresh r ∈ s.turns k → ∀ j, s.jobOf r.rc.job = some j → r.due ≤ j.made) ∧
    (∀ (r : RecSlot) (c : CoreId), (s.clusters[k.val]).gang = none →
      s.nextTurn k = some (.fresh r) → r.rc.gang = false →
      r.rc.paired = false → clusterOf c = k → s.offered c = true →
      ∃ s' : State, exec (.dispatchDecision k [c]) s = .next s' ∧ (s'.core c).status = .chosen r false none ∧
        (∀ j : CoreId, j ≠ c → s'.core j = s.core j) ∧ (∀ x ∈ (s'.clusters[k.val]).recs, x.slot ≠ r.slot) ∧
        (∀ x ∈ (s.clusters[k.val]).recs, x.slot ≠ r.slot → ∃ x' ∈ (s'.clusters[k.val]).recs, x'.slot = x.slot) ∧
        (s'.clusters[k.val]).served[r.rc.level.toNat]'(r.rc.level.isLt) = some (r.rc.job, r.rc.launch) ∧
        s'.mem = s.mem ∧ s'.jobs = s.jobs)) ∧
  (
  ∀ (s : State) (c : CoreId) (r : RecSlot) (again : Option Nat),
    ((s.dies[(dieOf c).val]).frozen = true → (s.core c).status = .chosen r false again ∨ (s.core c).status = .chosen r true again →
      exec (.inputStaging c) s = .next s ∧ ∀ n : Fin 7, exec (.dispatch c n) s = .next s) ∧
    ((s.dies[(dieOf c).val]).frozen = false → (s.core c).status = .chosen r false again → again.getD 0 = 0 →
      (r.ins = [] → exec (.inputStaging c) s = .next (s.setCore c fun k => { k with status := .chosen r true again })) ∧
      (∀ e s1 x, r.ins = [e] → State.stageSource c r.rc.job (piecesOf e.src e.len) s = .ok (s1, x) →
        s1.stageTile e x = none → x.marks = [] → Memory.wf s.mem = true →
        ∃ s' : State, exec (.inputStaging c) s = .next s' ∧ (s'.core c).status = .chosen r true again ∧
          ∀ a, Memory.get s'.mem a = if spadPa c e.off ≤ a ∧ a < spadPa c e.off + x.bytes.length then
            x.bytes.getD (a - spadPa c e.off) 0 else Memory.get s.mem a)) ∧
    ((s.dies[(dieOf c).val]).frozen = false → (s.core c).status = .chosen r true again → r.rc.gang = false → ∀ (n : Fin 7) (s1 : State) (gen : BitVec 4),
      s.residOk c n.val = true →
      (if r.rc.hasbgen then (s1, gen) = (s, r.rc.bgen) else s.advanceGen r.rc.job = some (s1, gen)) →
      ∃ s' : State, exec (.dispatch c n) s = .next s' ∧ (s'.core c).status = .running ∧
        s'.taskOf c = some (newTask r (BitVec.ofNat 12 (c.val * 8 + n.val)) gen (s.core c).milemax.toNat
          (s.debugged r.rc)) ∧
        (∀ j, s.jobOf r.rc.job = some j → (∀ l, s.launchOf r.rc.job r.rc.launch = some l → l.window = none) →
          (s'.core c).wwbase = j.args.wbase.setWidth 64 ∧ (s'.core c).wwlim = j.args.wlim.setWidth 64) ∧
        s'.mem = s.mem ∧ ∀ k : CoreId, k ≠ c → (r.rc.paired = true → k ≠ partnerOf c) → s'.core k = s.core k))

/-- R137, R298, R300: a task that has drained after EXIT, or that a fault or a cancel has ended, leaves its core with its
status: its launch counts it, its successor's join counter falls by one. R125: a barrier that every member of a gang has
reached, one that has executed EXIT among them, lets them go on in one new generation; before that it waits. R305: a sweep
empties the stamps of a generation that nothing holds, a running or parked task among what holds it, an advance to a
generation that is held waits, and not what asks for it (log 11), and is made at the sweep. What a retirement discards is
read by inference (log 36). -/
def Obligations.RetirementBarriersAndSweeps : Prop :=
  ∀ (s : State),
    (∀ (c : CoreId) (t : Task) (st : BitVec 2) (l : Launch), (s.core c).status = .running → s.taskOf c = some t →
      (t.wait = .ended st ∧ st ≠ 1 ∨
        (s.core c).frozen = false ∧ (s.dies[(dieOf c).val]).frozen = false ∧
          (t.wait = .exiting ∧ t.cmds = [] ∧ s.recordKept (clusterOf c) t.slot = false ∧ st = 0 ∨ t.wait = .ended st)) →
      t.rs.rc.commit = false → t.rs.rc.paired = false →
      t.sessions = [] → s.launchOf t.rs.rc.job t.rs.rc.launch = some l → 1 < l.pending →
      ∃ (s' : State) (l' : Launch), exec (.taskRetire c) s = .next s' ∧ (s'.core c).status = .idle ∧ s'.taskOf c = none ∧
        s'.launchOf t.rs.rc.job t.rs.rc.launch = some l' ∧ l'.pending = l.pending - 1 ∧
        l'.stats = l.stats.set st.toNat (l.stats[st.toNat] + 1) ∧ s'.nt = s.nt ++ t.nt ∧ s'.mem = s.mem ∧
        (∀ j : CoreId, j ≠ c → s'.core j = s.core j) ∧
        ∀ k r, s.recOf t.rs.rc.succ = some (k, r) →
          ∃ r', s'.recOf t.rs.rc.succ = some (k, r') ∧ r'.rc.join = r.rc.join - 1) ∧
    (∀ (job launch : Nat) (l : Launch) (s1 : State) (gen : BitVec 4), s.launchOf job launch = some l →
      let here := s.gangTasks job launch
      let waits := here.filter fun e => decide (e.2.wait = .bar)
      let exits := here.filter fun e => e.2.exited && decide (e.2.wait ≠ .aborted)
      waits ≠ [] → (∀ e ∈ waits, l.bars < e.2.bars) →
      (waits.length + exits.length + l.exited < l.count → exec (.barrierRelease job launch) s = .next s) ∧
      (l.count ≤ waits.length + exits.length + l.exited → s.advanceGen job = some (s1, gen) →
        ∃ s' : State, exec (.barrierRelease job launch) s = .next s' ∧ s'.mem = s.mem ∧
          (∀ e ∈ here, s'.taskOf e.1 = some (if e.2.wait = .bar then
            { e.2 with wait := .none, passed := e.2.bars, gen := gen } else { e.2 with gen := gen })) ∧
          ∃ l', s'.launchOf job launch = some l' ∧ l'.bars = l.bars + 1)) ∧
    (∀ (job : Nat) (gen : BitVec 4),
      (s.genHeld job gen = true → exec (.generationSweep job gen) s = .next s) ∧
      (s.genHeld job gen = false → ∃ s' : State, exec (.generationSweep job gen) s = .next s' ∧
        s'.stamps = s.stamps.filter (fun e => !(decide (e.2.job = job) && decide (e.2.gen = gen))) ∧
        s'.mem = s.mem ∧ s'.cores = s.cores ∧
        ((∀ j, s.jobOf job = some j → j.made < j.asked → gen ≠ j.gen + 1) → s'.jobs = s.jobs) ∧
        ∀ j, s.jobOf job = some j → j.made < j.asked → gen = j.gen + 1 →
          s'.jobs = (s.setJob job fun j => { j with gen := j.gen + 1, made := j.made + 1 }).jobs)) ∧
    (∀ (job : Nat) (j : Job), s.jobOf job = some j → j.asked = j.made → s.genHeld job (j.gen + 1) = true →
      s.askGen job = (s.setJob job (fun k => { k with asked := j.asked + 1 }), j.gen + 1, j.asked + 1)) ∧
    (∀ (job : Nat) (gen : BitVec 4),
      (∀ (c : CoreId) (t : Task), s.taskOf c = some t → t.rs.rc.job = job → t.gen = gen → s.genHeld job gen = true) ∧
      (∀ (k : ClusterId), ∀ p ∈ (s.clusters[k.val]).parked, p.task.rs.rc.job = job → p.task.gen = gen →
        s.genHeld job gen = true))

/-- A scalar atomic of the current core's task, of n bytes at an address, meets no fault (R101, R111, R116): it is aligned,
translated to SRAM whose granules and sidebands the task may touch and whose tiles' descriptors are good, or to writable
LPDDR or host memory; no command stands before it and nothing it reads is poisoned. -/
def Sys2Proof.Machine.State.AtomicGoes (s : State) (g : Guard) (t : Task) (va n : Nat) (x : Xlate) : Prop :=
  s.Executes g t ∧ s.Sound s.cur ∧ Memory.wf s.mem = true ∧ t.rs.rc.commit = false ∧ va % n = 0 ∧
    s.translate s.cur t.rs.rc.job va .atomic = .ok x ∧
    (x.typ = .sram ∧ (s.touchAtomic t x.pa n).isSome = true ∧ (∀ e ∈ tilesIn (s.viewOf t).tiles x.pa n, e.2.poison = false) ∨
      (x.typ = .lpddr ∨ x.typ = .host) ∧ t.inWriteRange va n = true) ∧
    s.blocked t x.pa n true = false ∧ (∀ y ∈ t.nt, y.meets x.pa n = false) ∧
    ((s.viewOf t).checkMacs x.pa n).poisonedAt x.pa n = none

/-- What an atomic of n bytes leaves outside its task: the new value at its address and no other byte of memory changed, its
stamps, the tiles it meets STALE; of a cluster only the lines that its engine holds hot (R304). -/
def Sys2Proof.Machine.State.AtomicLeaves (s s' : State) (t : Task) (n : Nat) (x : Xlate) (new : Nat) : Prop :=
  s'.readNat x.pa n = new ∧ (∀ a, (a < x.pa ∨ x.pa + n ≤ a) → Memory.get s'.mem a = Memory.get s.mem a) ∧
    s'.tiles = (if x.typ = .sram then (s.staleTiles x.pa n).tiles else s.tiles) ∧
    s'.stamps = (if x.typ = .sram then ((s.touchAtomic t x.pa n).getD s).stamps else s.stamps) ∧
    (∀ k : ClusterId, s'.clusters[k.val] = { s.clusters[k.val] with hot := (s'.clusters[k.val]).hot }) ∧
    s'.cores = s.cores ∧ s'.wmem = s.wmem ∧ s'.flash = s.flash ∧ s'.jobs = s.jobs

/-- R116: an atomic that meets no fault reads the old value, writes the new one at that address and no other byte of
memory, and puts the old value, sign-extended when 32 bits, into rd. One on SRAM whose granules and sidebands its task
may touch does the same, and marks the tiles it meets STALE, but where a tile's descriptor is bad. R304: an atomic engine
serves the cores that wait in cyclic order after the core last granted: its grant completes the scalar atomic of that core,
which is then no longer among those that wait, and performs any other as the instruction itself says. -/
def Obligations.AtomicsComplete : Prop :=
  (
  ∀ (s : State) (t : Task) (g : Guard) (w : Bool) (rd ra rb : XReg), ∀ f ∈ atomicForms g w rd ra rb,
      let n := if w then 4 else 8
      let val (r : XReg) := (t.getX r).toNat % 2 ^ (8 * n)
      ∀ x : Xlate,
        let after (s : State) (s' : State) : State := s'.setTask s.cur ((t.advance 2).setX rd
          (if w then (BitVec.ofNat 32 (s.readNat x.pa n)).signExtend 64 else BitVec.ofNat 64 (s.readNat x.pa n)))
        let leaves (s s' : State) : Prop :=
          s.AtomicLeaves s' t n x (f.2 (8 * n) (val rd) (val rb) (s.readNat x.pa n))
        (s.AtomicGoes g t (t.getX ra).toNat n x →
          ∃ s' : State, exec f.1 s = .next (after s s') ∧ leaves s s') ∧
        (∀ (k : ClusterId) (c : CoreId) (q : AtomReq) (m : Nat),
          let cl := s.clusters[k.val]
          let done : State := s.setCluster k fun y => { y with granted := c, areqs := y.areqs.erase q }
          let here : State := { done with cur := c }
          grantOf cl.granted (cl.areqs.map fun r => r.core) = some c →
          cl.areqs.find? (fun r => decide (r.core = c)) = some q → q.instr = f.1 →
          done.nextInstr c t = .ok (f.1, m) → t.dist + m ≤ t.limit → here.AtomicGoes g t (t.getX ra).toNat n x →
          ∃ s' : State, exec (.atomicGrant k) s = .next { after here s' with cur := s.cur } ∧ leaves here s')) ∧
  (
  (∀ (last : CoreId) (l : List CoreId) (c : CoreId), grantOf last l = some c → c ∈ l ∧
    ∀ d ∈ l, (c.val + 511 - last.val) % 512 ≤ (d.val + 511 - last.val) % 512) ∧
  (∀ (s s2 s3 : State) (k : ClusterId) (c : CoreId) (q : AtomReq) (t : Task) (n : Nat),
    let cl := s.clusters[k.val]
    let s0 := s.setCluster k (fun x => { x with granted := c, areqs := x.areqs.erase q })
    let s1 : State := { s0 with cur := c }
    grantOf cl.granted (cl.areqs.map fun r => r.core) = some c → cl.areqs.find? (fun r => decide (r.core = c)) = some q →
    s1.running = some t → s0.nextInstr c t = .ok (q.instr, n) → t.dist + n ≤ t.limit →
    ((∃ g w rd ra rb, q.instr ∈ [Instr.aadd g w rd ra rb, .aand g w rd ra rb, .aor g w rd ra rb, .axor g w rd ra rb,
      .amin g w rd ra rb, .amax g w rd ra rb, .aswap g w rd ra rb, .cas g w rd ra rb]) ∨ ∃ op f, q.instr = .vamo op f ∧ t.amo = none ∧ (s1.enginesOf c t q.instr).length ≤ 1) →
    exec q.instr s1 = .next s2 → noteGroup s1 t q.instr (.next s2) = .next s3 →
    exec (.atomicGrant k) s = .next { s3 with cur := s.cur }))

/-- R40, R311, R312: a trap that is not fatal parks its core, its registers as before the instruction, and posts a
record with the fields of R311 in the lowest free ordinary slot, with the next posting number and an interrupt; when
all are taken it waits for one. A fatal trap ends the task. R312: a core that is parked without a record posts it once
a slot is free, unless the monitor has stopped its clock (R345); the kernel's resume lets the task go on at the instruction that trapped, behind a TRAP or a BRK, with
the registers it edited; its kill ends the task; the record is free again. Where R311 names no addr it is a free value
(log 8); that a new pc ends a repetition is the model's reading (log 33); the interrupted system core is log 21. -/
def Obligations.Traps : Prop :=
  (
  ∀ (s : State) (c : CoreId) (t : Task) (x : Trap) (engine : Nat) (pc text info info2 : Word64),
    let k := clusterOf c
    let s' := s.takeTrap c t x engine pc text info info2
    let posted (i : Nat) : Prop :=
      let p := trapRecPa k i
      s'.readNat p 1 % 4 = 1 ∧ s'.readNat p 1 / 4 = x.kind.toNat ∧ s'.readNat (p + 1) 1 = x.cause.toNat ∧
        s'.readNat (p + 2) 1 = x.detail.toNat ∧ s'.readNat (p + 3) 1 = engine % 256 ∧
        s'.readNat (p + 4) 4 = t.slot.toNat ∧ s'.readNat (p + 8) 8 = pc.toNat ∧ s'.readNat (p + 16) 8 = text.toNat ∧
        (x.addr ≠ 0 ∨ x.cause ∈ addrCauses → s'.readNat (p + 24) 8 = x.addr.toNat) ∧ s'.readNat (p + 32) 8 = info.toNat ∧ s'.readNat (p + 40) 8 = info2.toNat ∧
        s'.readNat (p + 48) 4 = t.rs.rc.launch % 2 ^ 24 ∧ s'.readNat (p + 52) 4 = t.rs.rc.index.toNat ∧
        s'.readNat (p + 56) 8 = (s.clusters[k.val]).trapSeq.toNat ∧
        (s'.clusters[k.val]).trapSeq = (s.clusters[k.val]).trapSeq + 1 ∧
        s'.notices = s.notices ++ [.trapIrq k i] ∧
        ∀ a, (a < p ∨ p + 64 ≤ a) → Memory.get s'.mem a = Memory.get s.mem a
    let parked (at_ : Option Nat) : Prop := ∃ r : TrapRec, (s'.core c).status = .trapped r at_ ∧ s'.taskOf c = some t ∧
      r.pc = pc ∧ r.cause = x.cause ∧ r.detail = x.detail ∧ r.pcs = s.enginePcs c t ∧
      (x.addr ≠ 0 ∨ x.cause ∈ addrCauses → r.addr = x.addr)
    Memory.wf s.mem = true →
      (∀ i, i < 256 → s.trapState k i = 0 → (∀ j, j < i → s.trapState k j ≠ 0) →
        posted i ∧ (x.kind ≠ 2 → parked (some i)) ∧
        (x.kind = 2 → ∃ t', s'.taskOf c = some t' ∧ t'.cmds = [] ∧
          (t.rs.rc.commit = false → t' = { t with cmds := [], amo := none, wait := .ended 2 }))) ∧
      ((∀ i, i < 256 → s.trapState k i ≠ 0) → x.kind ≠ 2 → parked none ∧ s'.mem = s.mem ∧
        s'.clusters = s.clusters ∧ s'.notices = s.notices)) ∧
  (
  ∀ (s : State) (c : CoreId) (r : TrapRec) (t : Task), s.taskOf c = some t →
    let k := clusterOf c
    let free (i : Nat) : State := s.writePa (trapRecPa k i) [BitVec.ofNat 8 (s.readNat (trapRecPa k i) 1 / 4 * 4)]
    ((s.dies[(dieOf c).val]).frozen = true → exec (.trapPost c) s = .next s) ∧
    (∀ i, (s.dies[(dieOf c).val]).frozen = false → (s.core c).status = .trapped r none → i < 256 → s.trapState k i = 0 → (∀ j, j < i → s.trapState k j ≠ 0) →
      ∃ s' : State, exec (.trapPost c) s = .next s' ∧ (s'.core c).status = .trapped r (some i) ∧ s'.taskOf c = some t ∧
        s'.mem = Memory.write s.mem (trapRecPa k i) (r.bytes 1 (s.clusters[k.val]).trapSeq)) ∧
    (∀ i, (s.core c).status = .trapped r (some i) → i < 264 →
      (∀ d q, (s.core d).status = .trapped q (some i) → clusterOf d = k → d = c) →
      (r.cause ≠ 18 → r.cause ≠ 19 →
        exec (.trapResume k i []) s = .next ((free i).setCore c fun x => { x with status := .running, task := some t })) ∧
      (r.cause = 18 ∨ r.cause = 19 → exec (.trapResume k i []) s =
        .next ((free i).setCore c fun x => { x with status := .running, task := some (t.advance 2) })) ∧
      (r.cause ≠ 18 → r.cause ≠ 19 → ∀ (rd : XReg) (v pc : Word64), pc ≠ t.pc →
        exec (.trapResume k i [.setX rd v, .setPc pc]) s = .next ((free i).setCore c fun x =>
          { x with status := .running, task := some { t.setX rd v with pc := pc, rep := Repeat.zero } })) ∧
      exec (.trapKill k i) s = .next ((free i).setCore c fun x =>
        { x with status := .running, task := some { t with cmds := [], amo := none, wait := .ended 2 } })))

/-! ### Events: the weight tier, power, registers, surroundings -/

/-- R333 to R339: a repair steers a failing via to the lowest free entry of its column, in WREP and in the repair
record, and the reads that waited go on when it is over; where no entry is free every read that met the beat ends; a
row of an x.wprog whose pulses succeed holds the bytes of its source; a sensor takes a bank out of WBAM and puts it
back unless it is retired for good; the remapping step places W-space on the banks that are not retired, and sets
WSIZE, WCMAP and WREADY. R339, R345, R352, R360, R363, R373, R374: power-good finds memory zero, renews the keys, makes
every bank live that is neither retired nor too hot, takes the base of BAR 2 from firmware and boots, with an image of
each type, to an open mailbox, else to recovery; a warm reset replays the repair records and measures the weight tier
anew, and a die that the monitor stopped runs on; the loss of power leaves the non-volatile state. That a warm reset
changes nothing else is the model's choice (log 37). -/
def Obligations.WeightTierAndPower : Prop :=
  (
  ∀ (s : State) (d : DieId),
    let die := s.dies[d.val]
    (∀ (col : Fin 64) (met : List BeatReader) (f : BitVec 13) (e : Nat), s.boot ≠ .off → e < 64 →
      (wrepEntry (die.wrep[col.val]) e).valid = false →
      (∀ j, j < e → (wrepEntry (die.wrep[col.val]) j).valid = true) →
      ∃ (s' : State) (x' : Die), exec (.causewayRepair d col [f] met) s = .next s' ∧ s'.dies[d.val] = x' ∧
        col ∈ x'.repairing ∧
        (∀ j, j < 64 → wrepEntry (x'.wrep[col.val]) j = if j = e then ⟨true, f⟩ else wrepEntry (die.wrep[col.val]) j) ∧
        (∀ i : Fin 3, wrepEntry ((x'.repair[col.val])[i.val]) e = ⟨true, f⟩) ∧
        (∀ k : Fin 64, k ≠ col → x'.wrep[k.val] = die.wrep[k.val] ∧ x'.repair[k.val] = die.repair[k.val]) ∧
        s' = { s with dies := s'.dies }) ∧
    (∀ (col : Fin 64) (met : List BeatReader) (f : BitVec 13), s.boot ≠ .off →
      (∀ e, e < 64 → (wrepEntry (die.wrep[col.val]) e).valid = true) →
      exec (.causewayRepair d col [f] met) s = .next (met.foldl (fun s r => s.failRead d col r)
        (s.setDie d fun x => { x with repairing := x.repairing.filter fun k => decide (k ≠ col) }))) ∧
    (∀ col : Fin 64, exec (.causewayRepairComplete d col) s =
      .next (s.setDie d fun x => { x with repairing := x.repairing.filter fun k => decide (k ≠ col) })) ∧
    (∀ (c : CoreId) (t : Task) (q : Cmd) (x : XCmd) (l : List Bool) (r : State × List Byte) (s2 : State),
      let s1 := s.setDie d fun k => { k with lastReq := c.val }
      let wa := x.cfg.dbase + x.next
      s.requester d = some c → s.progCmd c = some (q.seq, x) → s1.Works c t q → q.kind = .xProg x →
      s1.readSpad c t (x.cfg.sbase + x.next) 4096 = .ok r → (s1.pulseRow wa l).2 = true → r.1.pulseRow wa l = (s2, true) →
      ∃ s' : State, exec (.weightRowProgram d l) s = .next s' ∧ s'.wmem = Memory.write s.wmem wa r.2 ∧
        (let x' := { x with next := x.next + 4096, value := runValue x.cfg.ck x.value r.2 }
         s'.taskOf c = some (t.setMove q.seq (.xProg x') x')) ∧
        (s'.dies[d.val]).lastReq = c.val ∧ s'.mem = s.mem ∧ ∀ j : CoreId, j ≠ c → s'.core j = s.core j) ∧
    (∀ b : Fin 1024,
      (∃ s' : State, exec (.bankTooHot d b) s = .next s' ∧ (s'.dies[d.val]).wbam.getLsbD b.val = false ∧
        (∀ j, j ≠ b.val → (s'.dies[d.val]).wbam.getLsbD j = die.wbam.getLsbD j) ∧ s' = { s with dies := s'.dies }) ∧
      (∃ s' : State, exec (.bankCooled d b) s = .next s' ∧
        (s'.dies[d.val]).wbam.getLsbD b.val = (!die.wbperm.getLsbD b.val || die.wbam.getLsbD b.val) ∧
        (∀ j, j ≠ b.val → (s'.dies[d.val]).wbam.getLsbD j = die.wbam.getLsbD j) ∧ s' = { s with dies := s'.dies })) ∧
    (s.boot = .open_ → s.windowOn d = false → ∃ (s' : State) (x' : Die), exec (.remappingStep d []) s = .next s' ∧
      s'.dies[d.val] = x' ∧ x'.placed = ~~~die.wbperm ∧ x'.wbperm = die.wbperm ∧ x'.wready = true ∧
      x'.wsize = BitVec.ofNat 16 (liveCount (~~~die.wbperm)) ∧ x'.wcmap = wcmapOf (~~~die.wbperm) ∧
      s'.measured[4 + d.val]'(by omega) = x'.root ∧ s'.measured[8] = s'.measure8 ∧ s'.mem = s.mem ∧ s'.cores = s.cores)) ∧
  (
  ∀ s : State,
    (∀ (hot : List (DieId × Fin 1024)) (bar2 : Nat), s.boot = .off → ∃ s' : State,
      exec (.powerGood [] hot bar2) s = .next s' ∧ s'.keyEpoch = s.keyEpoch + 1 ∧ s'.bar2 = bar2 ∧
      s'.mem = s.mem.filter (fun e => decide (hostBase ≤ e.1)) ∧ s'.tiles = [] ∧ s'.stamps = [] ∧ s'.tlb = [] ∧ s'.fat = [] ∧
      s'.measured[1] = Config.romDigest ∧ s'.wmem = s.wmem ∧ s'.cores = s.cores ∧
      (∀ d : DieId, (s'.dies[d.val]).wbperm = (s.dies[d.val]).wbperm ∧
        ∀ b : Fin 1024, (s'.dies[d.val]).wbam.getLsbD b.val =
          (!(s.dies[d.val]).wbperm.getLsbD b.val && !hot.contains (d, b))) ∧
      (∀ fw kernel, s.image 1 = some fw → s.image 2 = some kernel → s'.boot = .open_ ∧ s'.measured[2] = fw ∧
        s'.measured[3] = kernel ∧ s'.measured[9] = s'.measure9 ∧ ∀ d : DieId, (s'.dies[d.val]).wready = true ∧
          s'.measured[4 + d.val]'(by omega) = (s'.dies[d.val]).root) ∧
      (s.image 1 = none ∨ s.image 2 = none → s'.boot = .recovery)) ∧
    (s.boot ≠ .off → ∃ s' : State, exec (.warmReset [] []) s = .next s' ∧ s'.boot = s.boot ∧ s'.mem = s.mem ∧
      s'.wmem = s.wmem ∧ s'.jobs = s.jobs ∧ s'.cores = s.cores ∧ s'.measured[8] = s'.measure8 ∧
      ∀ d : DieId, (s'.dies[d.val]).wready = true ∧ (s'.dies[d.val]).frozen = false ∧ (s'.dies[d.val]).monRec = none ∧
        (∀ col : Fin 64, (s'.dies[d.val]).wrep[col.val] = (s.dies[d.val]).replay col) ∧
        s'.measured[4 + d.val]'(by omega) = (s'.dies[d.val]).root) ∧
    (∃ s' : State, exec (.powerLoss []) s = .next s' ∧ s'.boot = .off ∧ s'.jobs = [] ∧ s'.cores = State.reset.cores ∧
      s'.clusters = State.reset.clusters ∧ s'.ports = State.reset.ports ∧ s'.wmem = s.wmem ∧ s'.wtiles = s.wtiles ∧
      s'.wear = s.wear ∧ s'.remap = s.remap ∧ s'.flash = s.flash ∧ s'.tstore = s.tstore ∧ s'.scrubs = s.scrubs ∧
      s'.confidential = s.confidential ∧ s'.mem = s.mem.filter (fun e => decide (hostBase ≤ e.1)) ∧
      ∀ d : DieId, (s'.dies[d.val]).wbperm = (s.dies[d.val]).wbperm ∧
        (s'.dies[d.val]).repair = (s.dies[d.val]).repair))

/-- R7, R8, R270, R285, R321, R343 to R345, R354, R385, R387, R407, R410: what the writes of device registers do, and the
events that complete them; a write of TLBINV while it is busy waits, and takes effect when the pending one completes. FATSET
refuses a frame outside LPDDR, CLEAR in confidential mode and an ENCIR frame more than a die may hold, ignores a write while
it is busy, and begins every other change. -/
def Obligations.RegisterEvents : Prop :=
  ∀ (s : State) (d : DieId) (v : Word64),
    let die := s.dies[d.val]
    (∀ (sys : Fin 4) (mcause mepc mtval : Word64) (xs : List Word64),
      (die.tqctl[sys.val] = false → exec (.monitorEvent d sys mcause mepc mtval xs) s = .next s) ∧
      (die.tqctl[sys.val] = true → die.monRec = none → ∃ (s' : State) (m : MonRec),
        exec (.monitorEvent d sys mcause mepc mtval xs) s = .next s' ∧ (s'.dies[d.val]).frozen = true ∧
        (s'.dies[d.val]).monRec = some m ∧ m.case_ = 0 ∧ m.die = d ∧ m.sysCore = sys ∧ m.mcause = mcause ∧
        m.mepc = mepc ∧ m.mtval = mtval ∧ m.xs = xs.take 31 ∧ s'.notices = s.notices ++ [.msix 1] ∧
        s' = { s with dies := s'.dies, notices := s'.notices })) ∧
    (die.tlbinv.getLsbD 0 = false → ∃ s' : State, exec (.tlbinvWrite d v) s = .next s' ∧
      (s'.dies[d.val]).tlbinv = (v &&& 0xFFFCFFFFFFFF0000) ||| 1 ∧
      (∀ e : TlbEntry, e ∈ s'.tlb ↔ e ∈ s.tlb ∧
        ¬((e.tag = v.extractLsb' 52 12 ∨ e.global = true ∧ v.getLsbD 50 = true) ∧
          (v.getLsbD 51 = true ∨ e.va ≤ (v.extractLsb' 16 32).toNat * 65536 ∧
            (v.extractLsb' 16 32).toNat * 65536 < e.va + e.size))) ∧
      s' = { s with dies := s'.dies, tlb := s'.tlb }) ∧
    (die.tlbinv.getLsbD 0 = true →
      exec (.tlbinvWrite d v) s = .next (s.setDie d fun x => { x with tlbWait := x.tlbWait ++ [v] })) ∧
    (∀ rest : List Word64, die.tlbinv.getLsbD 0 = true → (∀ p ∈ die.tlbPages, p ∉ s.pagesInFlight) →
      let done_ : State := s.setDie d fun x =>
        { x with tlbinv := x.tlbinv &&& ~~~(1 : Word64), tlbPages := [], tlbWait := rest }
      (die.tlbWait = [] → rest = [] → exec (.tlbinvComplete d) s = .next done_) ∧
      (die.tlbWait = v :: rest → exec (.tlbinvComplete d) s = exec (.tlbinvWrite d v) done_)) ∧
    (∀ f : DieId, die.fatset.getLsbD 61 = false →
      let frame := (v.extractLsb' 16 36).toNat
      let keep : Word64 := v &&& 0xC00FFFFFFFFF0000
      homeOf (frame * 65536) = .lpddr f →
      (s.confidential = true → v.extractLsb' 62 2 = 0 → exec (.fatsetWrite d v) s =
        .next (s.setDie d fun x => { x with fatset := keep ||| 0x1000000000000000 })) ∧
      (v.extractLsb' 62 2 = 3 → (s.fatOf (frame * 65536)).attr ≠ 3 → 16384 ≤ s.encirFrames f →
        exec (.fatsetWrite d v) s = .next (s.setDie d fun x => { x with fatset := keep ||| 0x1000000000000000 })) ∧
      (s.confidential = false ∨ v.extractLsb' 62 2 ≠ 0 →
        (v.extractLsb' 62 2 = 3 → (s.fatOf (frame * 65536)).attr = 3 ∨ s.encirFrames f < 16384) →
        ∃ s' : State, exec (.fatsetWrite d v) s = .next s' ∧
          (s'.dies[d.val]).fatset = keep ||| 0x2000000000000000 ∧ (s'.fatOf (frame * 65536)).changing = true ∧
          s'.mem = s.mem ∧ s'.cores = s.cores)) ∧
    (die.fatset.getLsbD 61 = false → (homeOf ((v.extractLsb' 16 36).toNat * 65536)).isLpddr = false →
      exec (.fatsetWrite d v) s = .next
        (s.setDie d fun x => { x with fatset := (v &&& 0xC00FFFFFFFFF0000) ||| 0x1000000000000000 })) ∧
    (die.fatset.getLsbD 61 = true → exec (.fatsetWrite d v) s = .next s) ∧
    (die.fatset.getLsbD 61 = true → (∀ p ∈ die.fatPages, p ∉ s.pagesInFlight) → Memory.wf s.mem = true →
      let lo := (die.fatset.extractLsb' 16 36).toNat * 65536
      (homeOf lo).isLpddr = true →
      ∃ s' : State, exec (.fatsetComplete d) s = .next s' ∧ (s'.dies[d.val]).fatset.getLsbD 61 = false ∧
        (s'.fatOf lo).changing = false ∧ (s'.fatOf lo).attr = die.fatset.extractLsb' 62 2 ∧
        ∀ a, Memory.get s'.mem a = if lo ≤ a ∧ a < lo + 65536 then 0 else Memory.get s.mem a) ∧
    (∀ c : CoreId, exec (.milemaxWrite c v) s =
      .next (s.setCore c fun k => { k with milemax := BitVec.ofNat 64 (max 64 (v.toNat % 65536)) })) ∧
    (∀ (k : ClusterId) (n : Word32), (s.clusters[k.val]).held = [] →
      exec (.srtailWrite k n) s = .next (s.setCluster k fun c => { c with srtail := n })) ∧
    (∀ (c : CoreId) (m : Bool), dieOf c = d →
      exec (.registerWrite (mmioBase + d.val * 0x4000000 + 0x20000 + 0x20 * (c.val % 128)) true v m) s =
        .next (s.setCore c fun k => { k with rxwin := k.rxwin.set 0 v })) ∧
    (∀ sys : Fin 4, exec (.registerWrite (mmioBase + d.val * 0x4000000 + 0x220 + 8 * sys.val) true 1 false) s =
      .next (s.setDie d fun x => { x with tqctl := x.tqctl.set sys.val false })) ∧
    exec (.registerWrite (mmioBase + 0x10000000) true v true) s = .next { s with modid := v &&& 0xFFFFF } ∧
    exec (.registerWrite (mmioBase + 0x10000000) true v false) s = .next s ∧
    (∀ m : Bool, exec (.registerWrite (mmioBase + 0x10000008) true v m) s = .next { s with frtab := v })

/-- R187, R256, R259, R263, R275, R282, R352, R356, R359, R363, R364: what the surroundings do: a soft error flips one bit,
poisons an ECC word or a tile's descriptor, breaks a MAC, puts an older line back, alters a parked context, or leaves a
pair fault; a bit that flips beneath a MAC breaks it; a system core's write changes its bytes, and tiles they meet become
STALE; the board writes the flash; a host reads and writes the mailbox and the MSI-X table through BAR 0 and LPDDR
through BAR 2. Poison of host memory (log 22), writes of system cores (log 47) and those of them where no memory stands
(log 69), a flash whose bytes are simply replaced (log 48), a pair fault that only leaves a flag until an effect meets
it (log 52), and BAR 0's notify register (log 67) are the model's choices. -/
def Obligations.SurroundingEvents : Prop :=
  ∀ (s : State),
    (∀ (pa : Nat) (bit : Fin 8), (homeOf pa).isSram = true ∨ (homeOf pa).isLpddr = true →
      exec (.softError (.flipMem pa bit)) s = .next
        { s with mem := Memory.set s.mem pa (Memory.get s.mem pa ^^^ BitVec.ofNat 8 (2 ^ bit.val)),
                 badMac := if s.sealedLine pa then insertNat (pa / 128 * 128) s.badMac else s.badMac }) ∧
    (∀ (pa : Nat) (old : List Byte), (homeOf pa).isLpddr = true → old.length = 128 →
      exec (.softError (.replay pa old)) s = .next
        { s with mem := Memory.write s.mem (pa / 128 * 128) old,
                 badMac := if (s.fatOf pa).attr = 3 then insertNat (pa / 128 * 128) s.badMac else s.badMac }) ∧
    (∀ (k : ClusterId) (i : Nat) (p : Parked), (s.clusters[k.val]).parked[i]? = some p → p.home = none →
      exec (.softError (.parkedContext k i)) s = .next (s.setCluster k fun c =>
        { c with parked := c.parked.set i { p with intact := false } })) ∧
    (∀ pa, exec (.softError (.poisonMem pa)) s = .next (s.addPoison (eccWords pa 1))) ∧
    (∀ pa, ∃ s' : State, exec (.softError (.poisonTile pa)) s = .next s' ∧ s' = { s with tiles := s'.tiles } ∧
      ∀ tl, tileAt s.tiles pa = some tl → tileAt s'.tiles pa = some { tl with poison := true }) ∧
    (∀ wa, ∃ s' : State, exec (.softError (.poisonWTile wa)) s = .next s' ∧ s' = { s with wtiles := s'.wtiles } ∧
      ∀ tl, tileAt s.wtiles wa = some tl → tileAt s'.wtiles wa = some { tl with poison := true }) ∧
    (∀ (wa : Nat) (bit : Fin 8), s.wValid wa 1 = true → exec (.softError (.flipW wa bit)) s = .next
      { s with wmem := Memory.set s.wmem wa (Memory.get s.wmem wa ^^^ BitVec.ofNat 8 (2 ^ bit.val)) }) ∧
    (∀ (c : CoreId) (t : Task) (z : ZReg) (e : Fin 4096) (bit : Fin 32), s.taskOf c = some t →
      exec (.softError (.flipZ c z e bit)) s = (let x := t.z[z.val]
        onlyTaskOf s c { t with z := t.z.set z.val { x with data := x.data.modify e.val fun w => w ^^^ BitVec.ofNat 32 (2 ^ bit.val) } })) ∧
    (∀ (c : CoreId) (t : Task) (q : VReg) (h : Entry) (rest : List Entry) (bit : Fin 4096), s.taskOf c = some t →
      t.queue q = h :: rest → exec (.softError (.flipEntry c q bit)) s = onlyTaskOf s c
        (t.setQueue q ({ h with data := h.data ^^^ BitVec.ofNat 4096 (2 ^ bit.val) } :: rest))) ∧
    (∀ pa, (homeOf pa).isLpddr = true → 2 ≤ (s.fatOf pa).attr.toNat →
      exec (.softError (.badMac pa)) s = .next { s with badMac := insertNat (pa / 128 * 128) s.badMac }) ∧
    (∀ (c : CoreId) (t : Task), (s.core c).status ≠ .mate → s.taskOf c = some t → t.rs.rc.paired = true →
      exec (.softError (.pair c)) s = .next (s.setCore c fun k => { k with pairFault := true })) ∧
    (∀ (pa : Nat) (bs : List Byte), bs ≠ [] → backed pa bs.length = true → Memory.wf s.mem = true →
      ∃ s' : State, exec (.systemCoreWrite pa bs) s = .next s' ∧ s'.cores = s.cores ∧ s'.jobs = s.jobs ∧
        (∀ e ∈ tilesIn s.tiles pa bs.length, ∃ e' ∈ s'.tiles, e'.1 = e.1 ∧ e'.2 = { e.2 with stale := true }) ∧
        ∀ a, Memory.get s'.mem a = if pa ≤ a ∧ a < pa + bs.length then bs.getD (a - pa) 0 else Memory.get s.mem a) ∧
    (∀ (pa : Nat) (bs : List Byte), backed pa bs.length = false → inMmio pa bs.length = false →
      (∀ b ∈ blocksOf 128 pa bs.length, backed b 128 = false) → exec (.systemCoreWrite pa bs) s = .next s) ∧
    (∀ (off : Nat) (bs : List Byte), off + bs.length ≤ 0x4000000 →
      exec (.flashWrite off bs) s = .next { s with flash := Memory.write s.flash off bs }) ∧
    (∀ (off : Nat) (bs : List Byte) (n : Nat), s.boot ≠ .off →
      (bs ≠ [] → off + bs.length ≤ 0x1000 → s.program = none → exec (.pcieMemoryRequest true off (some bs) n) s =
        .next { s with mailbox := s.mailbox.write off bs, notices := s.notices ++ [.pcieDone] }) ∧
      (bs ≠ [] → 0x2000 ≤ off → off + bs.length ≤ 0x4000 → exec (.pcieMemoryRequest true off (some bs) n) s =
        .next { s with msixTable := Memory.write s.msixTable (off - 0x2000) bs, notices := s.notices ++ [.pcieDone] }) ∧
      (0 < n → off + n ≤ 0x4000 → exec (.pcieMemoryRequest true off none n) s =
        .next { s with notices := s.notices ++ [.pcieData ((List.range n).map fun i => s.bar0Byte (off + i))] })) ∧
    (∀ (off : Nat) (bs : List Byte) (n : Nat), s.boot = .open_ → s.confidential = false →
      (bs ≠ [] → off + bs.length ≤ 2 ^ 36 → (homeOf (s.bar2 + off)).isLpddr = true →
        (homeOf (s.bar2 + off + bs.length - 1)).isLpddr = true → Memory.wf s.mem = true →
        ∃ s' : State, exec (.pcieMemoryRequest false off (some bs) n) s = .next s' ∧ s'.notices = s.notices ++ [.pcieDone] ∧
          s'.cores = s.cores ∧ ∀ a, Memory.get s'.mem a =
            if s.bar2 + off ≤ a ∧ a < s.bar2 + off + bs.length then bs.getD (a - (s.bar2 + off)) 0
            else Memory.get s.mem a) ∧
      (0 < n → off + n ≤ 2 ^ 36 → (homeOf (s.bar2 + off)).isLpddr = true →
        (homeOf (s.bar2 + off + n - 1)).isLpddr = true → s.badMac = [] → s.poison = [] →
        exec (.pcieMemoryRequest false off none n) s =
          .next { s with notices := s.notices ++ [.pcieData (s.readPa (s.bar2 + off) n)] }))

/-! ### Events: the host, SPDM and the fabric -/

/-- The mailbox when a command has ended: its code, tag and payload as the host left them, a status, and a result, which echoes
the tag. -/
def Sys2Proof.Machine.mailboxEnd (code : Nat) (tag : BitVec 16) (payload : List Byte) (status : Word32) (result : List Byte) :
    Mailbox :=
  { code := BitVec.ofNat 16 code, tag := tag, length := BitVec.ofNat 32 payload.length, status := status,
    result := taggedResult tag result, payload := fixLen 4032 payload }

/-- A mailbox command has ended with a status and a result, and the host is signalled (R364). -/
def Sys2Proof.Machine.State.Answers (s' s : State) (code : Nat) (tag : BitVec 16) (status : Word32) (result : List Byte) :
    Prop :=
  s'.mailbox = mailboxEnd code tag (s'.somePayload code) status result ∧ s'.notices = s.notices ++ [.msix 0]

/-- R120, R123, R257, R357 to R359, R364 to R372, R400: the mailbox commands of an open module: each ends with its status
and its result, and does what R365 says of it; an unknown command or length, a missing job and a refusal change nothing
else; recovery answers QUERY and no other, posted through BAR 0 too; PROGRAM-WEIGHTS begins, its launches write its rows, one
launch after another, each with the W window of its rows and, under the verify flag, an x.wverify behind its x.wprog, and it
ends with the last one or with the row or word that failed; a command posted meanwhile is not taken. CANCEL of live work answers REQUESTED and cancels it, at
the level of a job also marking the job to be freed. A host's write of the notify register answers BAD-COMMAND to a mailbox
that holds no command's code and length, and is ignored while a command is in progress. The form of an answer, the status of
corners, the lowest free numbers and the layouts that the manual does not give are the model's (logs 11 to 13, 15, 39 to 43,
65, 67, 68). -/
def Obligations.MailboxCommands : Prop :=
  (
  ∀ (s : State) (tag : BitVec 16), s.boot = .open_ → s.program = none →
    let only (code : Nat) (status : Word32) (result : List Byte) (s1 : State) : Out :=
      .next { s1 with mailbox := mailboxEnd code tag (s1.somePayload code) status result,
                      notices := s1.notices ++ [.msix 0] }
    (∀ (code : BitVec 16) (len : Nat), knownCommand code.toNat len = false →
      exec (.mailboxBadCommand tag code len) s =
        .next { s with
          mailbox := { mailboxEnd code.toNat tag (s.somePayload code.toNat) 2 [] with length := BitVec.ofNat 32 len },
          notices := s.notices ++ [.msix 0] }) ∧
    (∀ (a : JobArgs) (n : Nat), n < 4096 → (∀ j ∈ s.jobs, j.num ≠ n) → (∀ m, m < n → ∃ j ∈ s.jobs, j.num = m) →
      (a.wbase ≤ a.wlim → a.root % 0x200000 = 0 → s.keysStand a = true →
        exec (.createJob tag a) s = only 2 0 (bytesOf 8 n ++ bytesOf 2 n) { s with jobs := s.jobs ++
          [⟨n, BitVec.ofNat 12 n, a, 0, 0, 0, [], [], [], 0, false, false⟩] }) ∧
      (¬a.wbase ≤ a.wlim ∨ a.root % 0x200000 ≠ 0 → exec (.createJob tag a) s = only 2 3 [] s) ∧
      (a.wbase ≤ a.wlim → a.root % 0x200000 = 0 → s.keysStand a = false →
        exec (.createJob tag a) s = only 2 3 [] ((keyReads a).foldl (fun s r => s.checkMacs r.1 r.2) s))) ∧
    (∀ (job hostAddr len : Nat) (sha : List Byte) (x : ImageSection) (j : Job) (pa : Nat) (typ : MType),
      let img := s.readPa (hostBase + hostAddr) len
      let part := (img.drop x.off).take x.len
      (s.jobOf job = none → exec (.loadImage tag job hostAddr len sha [x] []) s = only 1 5 [] s) ∧
      (x.off + x.len ≤ len →
        (x.relocs = [] → sectionBytes img [x] x = some part) ∧
        (∀ r : Reloc, x.relocs = [r] → r.target = 0 → r.off + 8 ≤ x.len → sectionBytes img [x] x = some
          (part.take r.off ++ bytesOf 8 (BitVec.ofNat 64 x.va + r.add).toNat ++ part.drop (r.off + 8)))) ∧
      (s.jobOf job = some j → hostAddr + len ≤ hostBase →
        (sha384 img ≠ sha → exec (.loadImage tag job hostAddr len sha [x] []) s = only 1 3 [] s) ∧
        (∀ data : List Byte, sha384 img = sha → x.tile = none → sectionBytes img [x] x = some data → data ≠ [] →
          x.va % 65536 + data.length ≤ 65536 → s.placeOf j x.va = some (pa, typ) → typ ≠ .mmio → typ ≠ .wap →
          Memory.wf s.mem = true →
          ∃ s' : State, exec (.loadImage tag job hostAddr len sha [x] []) s = .next s' ∧ s'.Answers s 1 tag 0 [] ∧
            s'.cores = s.cores ∧ s'.jobs = s.jobs ∧ ∀ a, Memory.get s'.mem a =
              if pa ≤ a ∧ a < pa + data.length then data.getD (a - pa) 0 else Memory.get s.mem a) ∧
        (∀ off n, sha384 img = sha → off + n ≤ len → let b := (img.drop off).take n
          (blockOk b = true → exec (.loadImage tag job hostAddr len sha [] [(off, n)]) s = only 1 0 [] (s.translateBlock b)) ∧
          (blockOk b = false → exec (.loadImage tag job hostAddr len sha [] [(off, n)]) s = only 1 3 [] s)))) ∧
    (∀ (job addr ga va g1 : Nat) (j : Job) (s1 : State) (gen : BitVec 4 × Nat) (s4 : State) (num : Nat),
      s.jobOf job = some j → s.askGen job = (s1, gen) → g1 = j.graphs.length →
      s1.firmwareList job addr = .ok [ga] → s1.firmwareList job ga = .ok [va] →
      let phase := j.phases.length
      (s1.setJob job fun j => { j with
        phases := j.phases ++ [⟨phase, 0, 1, false, false⟩], pending := j.pending + 1,
        graphs := j.graphs ++ [⟨g1, phase, 1, false, false⟩] }).submitLaunch job g1 phase gen [] va = .ok (s4, num) →
      exec (.submitPhase tag job addr) s = only 3 0 (bytesOf 8 phase) s4.refresh) ∧
    (∀ (level : BitVec 2) (job n : Nat),
      (s.jobOf job = none → exec (.mailboxCancel tag level job n) s = only 4 5 [] s) ∧
      (∀ j, s.jobOf job = some j → j.num = job →
        (s.work none job level.toNat n = none → exec (.mailboxCancel tag level job n) s = only 4 0 (bytesOf 4 2) s) ∧
        (∀ ls, s.work none job level.toNat n = some ls →
          let pick (m : Nat) : Bool := ls.any fun l => decide (l.num = m)
          (level ≠ 3 → (∀ l ∈ ls, l.done = true) → exec (.mailboxCancel tag level job n) s = only 4 0 (bytesOf 4 1) s) ∧
          (level ≠ 3 → (∃ l ∈ ls, l.done = false) →
            exec (.mailboxCancel tag level job n) s = only 4 0 (bytesOf 4 0) (s.cancelWork job pick)) ∧
          (level = 3 → j.pending ≠ 0 → exec (.mailboxCancel tag level job n) s = only 4 0 (bytesOf 4 0)
            ((s.setJob job fun k => { k with freeing := true, cancelled := true }).cancelWork job pick))) ∧
        (j.pending = 0 → ∃ s' : State, exec (.mailboxCancel tag 3 job job) s = .next s' ∧ s'.Answers s 4 tag 0 (bytesOf 4 1) ∧
          s'.jobs = s.jobs.filter (fun k => decide (k.num ≠ job)) ∧ s'.mem = s.mem ∧ s'.cores = s.cores))) ∧
    (∀ (job n : Nat) (l : Launch), s.launchOf job n = some l → s.hides none job n = false → exec (.query tag (.launch job n)) s =
      only 5 0 (bytesOf 8 l.pending ++ l.stats.toList.flatMap fun k => bytesOf 8 k) s) ∧
    (∀ (d : DieId) (i : Fin 16), exec (.query tag (.wbperm d i)) s =
      only 5 0 (bytesOf 8 ((s.dies[d.val]).wbperm.extractLsb' (64 * i.val) 64).toNat) s) ∧
    exec (.query tag .bootState) s = only 5 0 [2] s ∧
    (∀ (host wa : Word64) (bad : List ColumnFailure), wa.toNat % 4096 = 0 → s.wValid wa.toNat 4096 = true →
      host.toNat + 4096 ≤ hostBase →
      let payload := weightPayload host wa 4096 0
      (s.meetsWindow wa.toNat 4096 = true → exec (.programWeights tag host wa 4096 0 none bad) s =
        .next { s with mailbox := mailboxEnd 6 tag payload 4 [], notices := s.notices ++ [.msix 0] }) ∧
      (s.meetsWindow wa.toNat 4096 = false → exec (.programWeights tag host wa 4096 0 none bad) s = .next { s with
        mailbox := { mailboxEnd 6 tag payload 0xFFFFFFFF [] with result := s.mailbox.result },
        jobs := s.jobs ++ [firmwareJob s.firmwareNum],
        program := some { tag := tag, wa := wa.toNat, bytes := s.readPa (hostBase + host.toNat) 4096, tiles := [],
                          verify := false, next := 0, checked := 0, bad := bad, place := (0, []), job := s.firmwareNum,
                          failed := none } })) ∧
    (∀ conf : Bool, (s.jobs ≠ [] → exec (.resetScrub tag conf []) s = only 7 1 [] s) ∧
      (s.jobs = [] → (∀ k : ClusterId, (s.clusters[k.val]).srhead = (s.clusters[k.val]).srtail) →
        ∃ s' : State, exec (.resetScrub tag conf []) s = .next s' ∧ s'.Answers s 7 tag 0 [] ∧ s'.confidential = conf ∧
          s'.scrubs = s.scrubs + 1 ∧ s'.keyEpoch = s.keyEpoch + 1 ∧ s'.tiles = [] ∧ s'.stamps = [] ∧ s'.tlb = [] ∧
          s'.mem = s.mem.filter (fun e => decide (hostBase ≤ e.1)) ∧ s'.wmem = s.wmem ∧
          ∀ c : CoreId, s'.taskOf c = none ∧ (s'.core c).status = .idle)) ∧
    (∀ (job launch : Nat) (index : Word32) (l : Launch) (j : Job), s.launchOf job launch = some l →
      s.jobOf job = some j → s.hides none job launch = false → index.toNat < l.count →
      (s.confidential = true → exec (.debugAttach tag job launch index none) s = only 8 4 [] s) ∧
      (∀ token : Option (List Byte), s.confidential = false ∨ token.any (Config.tokenOk j.args.debugKey) = true →
        ∃ s' : State, exec (.debugAttach tag job launch index token) s = .next s' ∧
          s'.Answers s 8 tag 0 (bytesOf 8 s.sessions.length) ∧ s'.sessions = s.sessions ++ [⟨job, launch, index⟩] ∧
          s'.mem = s.mem ∧ ∀ (c : CoreId) (t : Task), s.taskOf c = some t → s'.taskOf c = some (
            if t.rs.rc.job = job ∧ t.rs.rc.launch = launch ∧ t.rs.rc.index = index then { t with attached := true } else t)))) ∧
  (
  ∀ (s : State) (tag : BitVec 16),
    (s.boot = .recovery → s.program = none → exec (.query tag .bootState) s = .next { s with
      mailbox := mailboxEnd 5 tag (s.somePayload 5) 0 [1], notices := s.notices ++ [.msix 0] }) ∧
    (∀ (a : JobArgs) (sel : QuerySel), s.program.isSome = true →
      exec (.createJob tag a) s = .next s ∧ exec (.query tag sel) s = .next s) ∧
    (∀ (bs : List Byte) (n : Nat), s.boot = .open_ → bs.length = 2 ∨ bs.length = 4 →
      let m := s.mailbox
      (s.program.isSome = true → exec (.pcieMemoryRequest true 0x1000 (some bs) n) s =
        .next { s with notices := s.notices ++ [.pcieDone] }) ∧
      (s.program = none → knownCommand m.code.toNat m.length.toNat = false →
        exec (.pcieMemoryRequest true 0x1000 (some bs) n) s = .next { s with
          mailbox := { m with status := 2, result := taggedResult m.tag [] }, notices := s.notices ++ [.msix 0, .pcieDone] })) ∧
    (∀ (bs : List Byte) (n : Nat), s.boot = .recovery → s.program = none → bs.length = 2 ∨ bs.length = 4 →
      let m := s.mailbox
      (m.code ≠ 5 → exec (.pcieMemoryRequest true 0x1000 (some bs) n) s =
        .next { s with notices := s.notices ++ [.pcieDone] }) ∧
      (m.code = 5 → ∃ (status : Word32) (result : List Byte), status ≠ 0xFFFFFFFF ∧
        exec (.pcieMemoryRequest true 0x1000 (some bs) n) s = .next { s with
          mailbox := { m with status := status, result := taggedResult m.tag result },
          notices := s.notices ++ [.msix 0, .pcieDone] })) ∧
    (∀ (d : DieId) (l : List Bool) (x : Program) (j : Job), s.requester d = none → s.program = some x →
      s.jobOf x.job = some j →
      ((∃ y ∈ j.launches, y.done = false) → exec (.weightRowProgram d l) s = .next s) ∧
      ((∀ y ∈ j.launches, y.done = true) →
        let ends (status : Nat) (first : Nat) : Prop := ∃ s' : State, exec (.weightRowProgram d l) s = .next s' ∧
          s'.program = none ∧ s'.jobs = s.jobs.filter (fun k => decide (k.num ≠ x.job)) ∧
          s'.mailbox = { s.mailbox with
            status := BitVec.ofNat 32 status
            result := taggedResult s.mailbox.tag (bytesOf 8 x.next ++ bytesOf 8 first) } ∧
          s'.notices = s.notices ++ [.msix 0] ∧ s'.measured[8] = s'.measure8 ∧ s'.mem = s.mem ∧ s'.cores = s.cores
        let compared := x.verify = false ∨ x.next ≤ x.checked
        (∀ status a, x.failed = some (status, a) → ends status a) ∧
        (x.failed = none → compared → x.bytes.length ≤ 4096 * x.next → ends 0 0) ∧
        (∀ (c : CoreId) (made : State × BitVec 4) (rows : Nat), x.failed = none → compared → x.tiles = [] → x.place.1 = 0 →
          0 < rows → rows ≤ 112 → x.bytes.length = 4096 * (x.next + rows) →
          let wa := x.wa + 4096 * x.next
          let n := 4096 * rows
          wa + n < 2 ^ 39 → s.wValid wa n = true → s.wNotReady wa (wa + n : Nat) = false →
          s.weightCore x (wDie wa) n = some c → s.residOk c 0 = true → s.advanceGen x.job = some made →
          (∀ y ∈ j.launches, y.num ≠ j.launches.length) → Memory.wf s.mem = true →
          ∃ (s' : State) (t : Task) (y : XCmd), exec (.weightRowProgram d l) s = .next s' ∧ s'.taskOf c = some t ∧
            (s'.core c).status = .running ∧ t.rs.rc.job = x.job ∧ t.wait = .exiting ∧
            (t.cmds.map fun q => q.kind) = (if x.verify then [.xProg y, .xVerify y] else [.xProg y]) ∧
            y.cfg.sspace = .spad ∧ y.cfg.sbase = 0 ∧ y.cfg.dspace = .wspace ∧ y.cfg.dbase = wa ∧ y.cfg.len = n ∧
            (s'.core c).wwbase = BitVec.ofNat 64 wa ∧ (s'.core c).wwlim = BitVec.ofNat 64 (wa + n) ∧
            s'.program = some { x with checked := min x.checked x.next } ∧ s'.mailbox = s.mailbox ∧
            s'.notices = s.notices ∧ s'.wmem = s.wmem ∧ (∀ k : CoreId, k ≠ c → s'.core k = s.core k) ∧
            ∀ i, i < n → Memory.get s'.mem (spadPa c i) = x.bytes.getD (4096 * x.next + i) 0))))

/-- R361, R362: the SPDM responder of an open module: each request in its place is answered, and request and response join
the transcript; one session at a time opens, is finished with the proof of its key, and ends; in a finished session a
response is sealed by AES-256-GCM. The codes, the algorithm bits, the forms of requests, answers and measurement blocks,
and the number that a sealed message bears are presumed from the family of protocols (log 45); the signatures and the key
exchange are opaque (log 6). -/
def Obligations.SpdmRequests : Prop :=
  ∀ s : State, s.boot = .open_ →
    let x := s.spdm
    let replies (i : Instr) (req resp : List Byte) (by_ y : Spdm) : Prop :=
      exec i s = .next { s with spdm := { y with transcript := y.transcript ++ req ++ resp },
                                notices := s.notices ++ [.spdm (by_.carried resp)] }
    let fresh : Spdm := { x with transcript := [], session := none, finished := false, key := [], sent := 0 }
    let then_ : Spdm := { x with sent := x.sent + (if x.finished = true then 1 else 0) }
    let signed (req body : List Byte) : List Byte := body ++ Config.identitySign (x.transcript ++ req ++ body)
    let kind (i : Nat) : Byte := if i = 1 then 0 else if i = 2 then 1 else if i = 3 then 1 else if i = 8 then 2
      else if i = 9 then 0x83 else 3
    (∀ resp : List Byte, (x.session = none ∨ x.finished = false → x.carried resp = resp) ∧
      (x.session.isSome = true → x.finished = true →
        let r := gcmSeal (fixLen 32 x.key) (beBytes 12 x.sent) [] resp
        x.carried resp = r.1 ++ r.2)) ∧
    replies .getVersion [0x84] [0x13] fresh { fresh with stage := 1 } ∧
    (x.stage = 1 → replies .getCapabilities [0xE1] [0x61] x { then_ with stage := 2 }) ∧
    (∀ asym hash dhe aead : Word32, x.stage = 2 → asym.getLsbD 7 = true → hash.getLsbD 1 = true → dhe.getLsbD 4 = true →
      aead.getLsbD 1 = true → replies (.negotiateAlgorithms asym hash dhe aead)
        (0xE3 :: wordBytes [asym, hash, dhe, aead]) (wordBytes [0x80, 0x02, 0x10, 0x02]) x { then_ with stage := 3 }) ∧
    (3 ≤ x.stage →
      replies .getDigests [0x81] (sha384 Config.certificateChain) x then_ ∧
      (∀ off len, replies (.getCertificate 0 off len) ([0x82] ++ bytesOf 4 off ++ bytesOf 4 len)
        ((Config.certificateChain.drop off).take len) x then_) ∧
      (∀ nonce, replies (.challenge 0 nonce) (0x83 :: nonce)
        (signed (0x83 :: nonce) (sha384 Config.certificateChain)) x then_) ∧
      (∀ (i : Fin 10) (nonce : List Byte) (sig : Bool), i ≠ 0 → let v := s.measured[i.val]
        let req : List Byte := [0xE0, BitVec.ofNat 8 i.val] ++ nonce
        let block : List Byte := bytesOf 1 i.val ++ [1] ++ bytesOf 2 (v.length + 3) ++ [kind i.val] ++
          bytesOf 2 v.length ++ v
        replies (.getMeasurements ⟨i.val, by omega⟩ sig nonce) req (if sig = true then signed req block else block)
          x then_) ∧
      (∀ share, x.session = none →
        let r := Config.spdmExchange x.sessions share
        replies (.keyExchange share) (0xE4 :: share) (signed (0xE4 :: share) r.1) x
          { x with session := some x.sessions, finished := false, sessions := x.sessions + 1, key := r.2, sent := 0 }) ∧
      (x.session.isSome = true → x.finished = false → let proof := hmac384 x.key x.transcript
        replies (.finish proof) (0xE5 :: proof) [0x65] x { x with finished := true }) ∧
      (∀ verify, verify ≠ hmac384 x.key x.transcript → exec (.finish verify) s =
        .next { s with notices := s.notices ++ [.spdmError] }) ∧
      (x.session.isSome = true → x.finished = true →
        replies .endSession [0xEC] [0x6C] x { x with session := none, finished := false, key := [], sent := 0 }))

/-- A sequenced flit arrives in order at a port in service: authentic, for this module, the next one expected (R383). -/
def Sys2Proof.Machine.State.Next (s : State) (p : PortId) (f : Flit) (typ : FlitType) : Prop :=
  (s.ports[p.val]).up = true ∧ s.authentic p f = true ∧ f.typ = typ ∧ f.seq = (s.ports[p.val]).rx.expected

/-- R376, R378, R380 to R386: DATA in its window is written, END closes its put and is answered by a PDONE, PDONE gives the
put of its core, tag and module its outcome and value, and no put at all where it answers an older put of that tag that is
gone, and each is the next flit's turn; a sequenced flit that finds the receive buffer full is dropped and asked for by a NAK, once; ACK
empties the replay buffer up to the flit it names; NAK and the replay timer send the rest again, each flit sealed on the
wire; the timers repeat a NAK and an ACK; the key switch-over sends a CAIRN and starts the next epoch, which the receiver's
CAIRN installs; a port whose old key is at LIMIT while its CAIRN is not acknowledged seals nothing; a put without an answer
ends NOREPLY, while its task is parked too; a link comes up at epoch 0. Which link answers, how replays count and what a bring-up resets are read by
inference (log 49), as is a switch-over that waits for the CAIRN before (log 72); tags and own puts are log 26. -/
def Obligations.FabricEvents : Prop :=
  ∀ (s : State) (p : PortId) (f : Flit),
    let q := s.ports[p.val]
    let moved (s' : State) : Prop := (s'.ports[p.val]).rx.expected = q.rx.expected + 1
    let c := coreAt f.core
    let w := (s.core c).window
    let answers (t : Task) (k : Cmd) (x : XCmd) (outcome : BitVec 8 × BitVec 8) (v : Word32) : Task :=
      { t with cmds := [{ k with kind := .xMove { x with outcome := some outcome, value := v } }],
               xlast := t.xlast.map fun l => if l.seq = k.seq then { l with value := v } else l }
    let sends (i : Instr) (typ : FlitType) (seq : BitVec 24) : Prop := ∃ (s' : State) (g : Flit),
      exec i s = .next s' ∧ g.typ = typ ∧ g.seq = seq ∧ s'.notices = s.notices ++ [.flit p g (s.wire p q.tx.epoch g)] ∧
      s'.mem = s.mem ∧ s'.inputs = s.inputs ∧ s'.cores = s.cores ∧ (s'.ports[p.val]).rx.expected = q.rx.expected
    (q.maySeal = true ↔ q.up = true ∧ q.down = false ∧ (q.tx.cairn.isSome = true → q.tx.oldInv < q.limit.toNat) ∧
      q.tx.inv < min q.warn.toNat (q.limit.toNat - 1)) ∧
    (∀ e ∈ [(FlitType.data, Instr.data p f true), (.end_, .end_ p f true), (.pdone, .pdone p f true),
        (.cairn, .cairn p f true)], s.Next p f e.1 →
      (q.rx.nakSent = some q.rx.expected → exec e.2 s = .next s) ∧
      (q.rx.nakSent ≠ some q.rx.expected → q.maySeal = true → sends e.2 .nak q.rx.expected)) ∧
    (s.Next p f .data → s.inputs = [] → w.ena = true → (f.src ^^^ w.src) &&& w.mask = 0 →
      f.offset.toNat + f.body.length ≤ w.len → (homeOf (w.base + f.offset.toNat)).isSram = true →
      Memory.wf s.mem = true →
      ∃ s' : State, exec (.data p f false) s = .next s' ∧ moved s' ∧
        s'.inputs = [⟨some p, f.src, f.srcCore, f.tag, f.core, f.body, none⟩] ∧
        ∀ a, Memory.get s'.mem a = if w.base + f.offset.toNat ≤ a ∧ a < w.base + f.offset.toNat + f.body.length then
          f.body.getD (a - (w.base + f.offset.toNat)) 0 else Memory.get s.mem a) ∧
    (∀ bs : List Byte, s.Next p f .end_ → s.inputs = [⟨some p, f.src, f.srcCore, f.tag, f.core, bs, none⟩] →
      w.ena = true → (f.src ^^^ w.src) &&& w.mask = 0 → q.maySeal = true → q.tx.buf.length < 256 →
      let e := putEndOf f.body
      e.signal = false → e.armed = false →
      ∃ (s' : State) (g : Flit), exec (.end_ p f false) s = .next s' ∧ moved s' ∧ s'.inputs = [] ∧
        (s'.ports[p.val]).tx.buf = q.tx.buf ++ [g] ∧ g.typ = .pdone ∧ g.dst = f.src ∧ g.tag = f.tag ∧
        g.seq = q.tx.seq ∧ s'.mem = s.mem ∧
        g.body = bytesOf 8 bs.length ++ bytesOf 4 (if e.kind = .none then 0 else (runValue e.kind e.seed bs).toNat) ++ [0, 0]) ∧
    (s.Next p f .pdone →
      let mine (e : SentPut) : Bool := decide (e.tag = f.tag) && decide (e.dst = f.src)
      let open_ := (s.core c).puts.filter mine
      (2 ≤ open_.length → ∃ s' : State, exec (.pdone p f false) s = .next s' ∧ moved s' ∧ s'.mem = s.mem ∧
        (∀ o, s'.taskOf o = s.taskOf o) ∧ (s'.core c).puts = (s.core c).puts.eraseP mine) ∧
      (open_.length ≤ 1 → ∀ (o : CoreId) (t : Task) (k : Cmd) (x : XCmd), s.taskOf o = some t →
        t.cmds = [k] → k.kind = .xMove x → x.cfg.dspace = .remote → x.putTag = some f.tag → x.source = some f.core →
        x.cfg.dstModule = f.src.toNat → x.outcome = none → x.sent = true →
        let d := putDoneOf f.body
        ∃ s' : State, exec (.pdone p f false) s = .next s' ∧ moved s' ∧ s'.mem = s.mem ∧
          (s'.core c).puts = (s.core c).puts.eraseP mine ∧
          s'.taskOf o = some (answers t k x (d.status, d.reason) d.value))) ∧
    (s.Next p f .cairn → q.rx.unacked < 63 → ∃ s' : State, exec (.cairn p f false) s = .next s' ∧ moved s' ∧
      (let epoch := leNat ((f.body.drop 8).take 8)
       if (leNat (f.body.take 1)) % 2 = 1 then (s'.ports[p.val]).rx.slot1 = some epoch ∧ (s'.ports[p.val]).rx.slot0 = none
       else (s'.ports[p.val]).rx.slot0 = some epoch ∧ (s'.ports[p.val]).rx.slot1 = none) ∧ s'.notices = s.notices) ∧
    (∀ (l r : List Flit) (g : Flit), q.up = true → s.authentic p f = true → f.typ = .ack → q.tx.buf = l ++ g :: r →
      g.seq = f.seq → (∀ h ∈ l, h.seq ≠ f.seq) → q.tx.cairn = none →
      exec (.ack p f) s = .next (s.setPort p fun y => { y with tx := { y.tx with buf := r, replays := 0 } })) ∧
    (∀ g : Flit, q.tx.buf = [g] → q.tx.cairn = none → q.maySeal = true → q.tx.replays < 16 →
      let h : Flit := { g with slot := decide (q.tx.epoch % 2 = 1), inv := BitVec.ofNat 48 q.tx.inv }
      let again : Out := .next { (s.setPort p fun y =>
          { y with tx := { y.tx with replays := y.tx.replays + 1, inv := y.tx.inv + 1, resume := none } }) with
        notices := s.notices ++ [.flit p h (s.wire p q.tx.epoch h)] }
      exec (.replayTimer p) s = again ∧
      (s.authentic p f = true → f.typ = .nak → f.seq = g.seq → exec (.nak p f) s = again)) ∧
    (q.maySeal = true →
      (q.rx.nakSent = some q.rx.expected → sends (.nakTimer p) .nak q.rx.expected) ∧
      (0 < q.rx.unacked → sends (.ackTimer p) .ack (q.rx.expected - 1) ∧
        ∃ s' : State, exec (.ackTimer p) s = .next s' ∧ (s'.ports[p.val]).rx.unacked = 0)) ∧
    (q.up = true → q.down = false → q.mustSwitch = true → q.tx.inv < q.limit.toNat → q.tx.buf.length < 256 →
      (q.tx.cairn.isSome = true → exec (.keySwitchover p) s = .next s) ∧
      (q.tx.cairn = none → q.tx.resume = none →
        ∃ (s' : State) (g : Flit), exec (.keySwitchover p) s = .next s' ∧ g.typ = .cairn ∧ g.seq = q.tx.seq ∧
          g.body = bytesOf 8 ((q.tx.epoch + 1) % 2) ++ bytesOf 8 (q.tx.epoch + 1) ∧
          (s'.ports[p.val]).tx =
            ⟨q.tx.seq + 1, q.tx.epoch + 1, 0, q.tx.inv + 1, some q.tx.seq, q.tx.buf ++ [g], q.tx.replays, none⟩ ∧
          s'.mem = s.mem ∧ s'.cores = s.cores)) ∧
    (∀ (k : CoreId) (t : Task) (cmd : Cmd) (x : XCmd), t.cmds = [cmd] → cmd.kind = .xMove x →
      x.cfg.dspace = .remote → x.outcome = none → x.sent = true →
      ∀ (l : PortId) (tag : BitVec 6) (from_ : BitVec 9), x.port = some l → x.putTag = some tag → x.source = some from_ →
      (∀ g ∈ (s.ports[l.val]).tx.buf, g.typ = .end_ → g.srcCore = from_ → g.tag ≠ tag) →
      (s.taskOf k = some t → ∃ s' : State, exec (.noreply k cmd.seq) s = .next s' ∧ s'.mem = s.mem ∧
        s'.taskOf k = some (answers t cmd x (2, 7) 0) ∧ ∀ o : CoreId, (s'.core o).puts = (s.core o).puts) ∧
      (∀ (j : ClusterId) (idx : Nat) (y : Parked), (s.clusters[j.val]).parked[idx]? = some y → y.task = t →
        s.putsAt k cmd.seq = [x] → ∃ (s' : State) (y' : Parked), exec (.noreply k cmd.seq) s = .next s' ∧ s'.mem = s.mem ∧
          (s'.clusters[j.val]).parked[idx]? = some y' ∧ y'.task = answers t cmd x (2, 7) 0 ∧
          ∀ o : CoreId, (s'.core o).puts = (s.core o).puts)) ∧
    (∀ (peer : BitVec 20) (sw : Bool) (kt kr : List Byte) (st sr : Word32), s.boot ≠ .off →
      ∃ s' : State, exec (.linkBringUp p peer sw kt kr st sr) s = .next s' ∧ (s'.ports[p.val]).up = true ∧
        (s'.ports[p.val]).peer = peer ∧ (s'.ports[p.val]).secretTx = kt ∧ (s'.ports[p.val]).secretRx = kr ∧
        (s'.ports[p.val]).saltTx = st ∧ (s'.ports[p.val]).saltRx = sr ∧ (s'.ports[p.val]).tx.epoch = 0 ∧
        (s'.ports[p.val]).tx.seq = 0 ∧ (s'.ports[p.val]).rx.slot0 = some 0 ∧ (s'.ports[p.val]).rx.expected = 0 ∧
        (∀ o : PortId, o ≠ p → s'.ports[o.val] = s.ports[o.val]) ∧ s' = { s with ports := s'.ports })
end

