-- ==== Sys2Proof/Laws/State.lean ====
section
/-!
SUPPORT. Laws/State.lean: what each update of the state leaves of each field, so that no proof unfolds a record update.
-/

namespace Sys2Proof

namespace Machine

/-! ### setCore -/

@[simp] theorem State.setCore_cur (s : State) (c : CoreId) (f : Core → Core) : (s.setCore c f).cur = s.cur := rfl
@[simp] theorem State.setCore_script (s : State) (c : CoreId) (f : Core → Core) : (s.setCore c f).script = s.script := rfl
@[simp] theorem State.setCore_tick (s : State) (c : CoreId) (f : Core → Core) : (s.setCore c f).tick = s.tick := rfl
@[simp] theorem State.setCore_clusters (s : State) (c : CoreId) (f : Core → Core) : (s.setCore c f).clusters = s.clusters := rfl
@[simp] theorem State.setCore_dies (s : State) (c : CoreId) (f : Core → Core) : (s.setCore c f).dies = s.dies := rfl
@[simp] theorem State.setCore_ports (s : State) (c : CoreId) (f : Core → Core) : (s.setCore c f).ports = s.ports := rfl
@[simp] theorem State.setCore_mem (s : State) (c : CoreId) (f : Core → Core) : (s.setCore c f).mem = s.mem := rfl
@[simp] theorem State.setCore_wmem (s : State) (c : CoreId) (f : Core → Core) : (s.setCore c f).wmem = s.wmem := rfl
@[simp] theorem State.setCore_flash (s : State) (c : CoreId) (f : Core → Core) : (s.setCore c f).flash = s.flash := rfl
@[simp] theorem State.setCore_poison (s : State) (c : CoreId) (f : Core → Core) : (s.setCore c f).poison = s.poison := rfl
@[simp] theorem State.setCore_wpoison (s : State) (c : CoreId) (f : Core → Core) : (s.setCore c f).wpoison = s.wpoison := rfl
@[simp] theorem State.setCore_badMac (s : State) (c : CoreId) (f : Core → Core) : (s.setCore c f).badMac = s.badMac := rfl
@[simp] theorem State.setCore_tiles (s : State) (c : CoreId) (f : Core → Core) : (s.setCore c f).tiles = s.tiles := rfl
@[simp] theorem State.setCore_wtiles (s : State) (c : CoreId) (f : Core → Core) : (s.setCore c f).wtiles = s.wtiles := rfl
@[simp] theorem State.setCore_stamps (s : State) (c : CoreId) (f : Core → Core) : (s.setCore c f).stamps = s.stamps := rfl
@[simp] theorem State.setCore_fat (s : State) (c : CoreId) (f : Core → Core) : (s.setCore c f).fat = s.fat := rfl
@[simp] theorem State.setCore_minors (s : State) (c : CoreId) (f : Core → Core) : (s.setCore c f).minors = s.minors := rfl
@[simp] theorem State.setCore_majors (s : State) (c : CoreId) (f : Core → Core) : (s.setCore c f).majors = s.majors := rfl
@[simp] theorem State.setCore_wear (s : State) (c : CoreId) (f : Core → Core) : (s.setCore c f).wear = s.wear := rfl
@[simp] theorem State.setCore_remap (s : State) (c : CoreId) (f : Core → Core) : (s.setCore c f).remap = s.remap := rfl
@[simp] theorem State.setCore_spares (s : State) (c : CoreId) (f : Core → Core) : (s.setCore c f).spares = s.spares := rfl
@[simp] theorem State.setCore_tlb (s : State) (c : CoreId) (f : Core → Core) : (s.setCore c f).tlb = s.tlb := rfl
@[simp] theorem State.setCore_jobs (s : State) (c : CoreId) (f : Core → Core) : (s.setCore c f).jobs = s.jobs := rfl
@[simp] theorem State.setCore_nt (s : State) (c : CoreId) (f : Core → Core) : (s.setCore c f).nt = s.nt := rfl
@[simp] theorem State.setCore_modid (s : State) (c : CoreId) (f : Core → Core) : (s.setCore c f).modid = s.modid := rfl
@[simp] theorem State.setCore_frtab (s : State) (c : CoreId) (f : Core → Core) : (s.setCore c f).frtab = s.frtab := rfl
@[simp] theorem State.setCore_inputs (s : State) (c : CoreId) (f : Core → Core) : (s.setCore c f).inputs = s.inputs := rfl
@[simp] theorem State.setCore_boot (s : State) (c : CoreId) (f : Core → Core) : (s.setCore c f).boot = s.boot := rfl
@[simp] theorem State.setCore_confidential (s : State) (c : CoreId) (f : Core → Core) : (s.setCore c f).confidential = s.confidential := rfl
@[simp] theorem State.setCore_scrubs (s : State) (c : CoreId) (f : Core → Core) : (s.setCore c f).scrubs = s.scrubs := rfl
@[simp] theorem State.setCore_keyEpoch (s : State) (c : CoreId) (f : Core → Core) : (s.setCore c f).keyEpoch = s.keyEpoch := rfl
@[simp] theorem State.setCore_bar2 (s : State) (c : CoreId) (f : Core → Core) : (s.setCore c f).bar2 = s.bar2 := rfl
@[simp] theorem State.setCore_mailbox (s : State) (c : CoreId) (f : Core → Core) : (s.setCore c f).mailbox = s.mailbox := rfl
@[simp] theorem State.setCore_measured (s : State) (c : CoreId) (f : Core → Core) : (s.setCore c f).measured = s.measured := rfl
@[simp] theorem State.setCore_spdm (s : State) (c : CoreId) (f : Core → Core) : (s.setCore c f).spdm = s.spdm := rfl
@[simp] theorem State.setCore_sessions (s : State) (c : CoreId) (f : Core → Core) : (s.setCore c f).sessions = s.sessions := rfl
@[simp] theorem State.setCore_tstore (s : State) (c : CoreId) (f : Core → Core) : (s.setCore c f).tstore = s.tstore := rfl
@[simp] theorem State.setCore_readySeq (s : State) (c : CoreId) (f : Core → Core) : (s.setCore c f).readySeq = s.readySeq := rfl
@[simp] theorem State.setCore_notices (s : State) (c : CoreId) (f : Core → Core) : (s.setCore c f).notices = s.notices := rfl
@[simp] theorem State.setCore_program (s : State) (c : CoreId) (f : Core → Core) : (s.setCore c f).program = s.program := rfl
@[simp] theorem State.setCore_msixTable (s : State) (c : CoreId) (f : Core → Core) : (s.setCore c f).msixTable = s.msixTable := rfl
@[simp] theorem State.setCore_sealSeq (s : State) (c : CoreId) (f : Core → Core) : (s.setCore c f).sealSeq = s.sealSeq := rfl

/-! ### setCluster -/

@[simp] theorem State.setCluster_cur (s : State) (k : ClusterId) (f : Cluster → Cluster) : (s.setCluster k f).cur = s.cur := rfl
@[simp] theorem State.setCluster_script (s : State) (k : ClusterId) (f : Cluster → Cluster) : (s.setCluster k f).script = s.script := rfl
@[simp] theorem State.setCluster_tick (s : State) (k : ClusterId) (f : Cluster → Cluster) : (s.setCluster k f).tick = s.tick := rfl
@[simp] theorem State.setCluster_cores (s : State) (k : ClusterId) (f : Cluster → Cluster) : (s.setCluster k f).cores = s.cores := rfl
@[simp] theorem State.setCluster_dies (s : State) (k : ClusterId) (f : Cluster → Cluster) : (s.setCluster k f).dies = s.dies := rfl
@[simp] theorem State.setCluster_ports (s : State) (k : ClusterId) (f : Cluster → Cluster) : (s.setCluster k f).ports = s.ports := rfl
@[simp] theorem State.setCluster_mem (s : State) (k : ClusterId) (f : Cluster → Cluster) : (s.setCluster k f).mem = s.mem := rfl
@[simp] theorem State.setCluster_wmem (s : State) (k : ClusterId) (f : Cluster → Cluster) : (s.setCluster k f).wmem = s.wmem := rfl
@[simp] theorem State.setCluster_flash (s : State) (k : ClusterId) (f : Cluster → Cluster) : (s.setCluster k f).flash = s.flash := rfl
@[simp] theorem State.setCluster_poison (s : State) (k : ClusterId) (f : Cluster → Cluster) : (s.setCluster k f).poison = s.poison := rfl
@[simp] theorem State.setCluster_wpoison (s : State) (k : ClusterId) (f : Cluster → Cluster) : (s.setCluster k f).wpoison = s.wpoison := rfl
@[simp] theorem State.setCluster_badMac (s : State) (k : ClusterId) (f : Cluster → Cluster) : (s.setCluster k f).badMac = s.badMac := rfl
@[simp] theorem State.setCluster_tiles (s : State) (k : ClusterId) (f : Cluster → Cluster) : (s.setCluster k f).tiles = s.tiles := rfl
@[simp] theorem State.setCluster_wtiles (s : State) (k : ClusterId) (f : Cluster → Cluster) : (s.setCluster k f).wtiles = s.wtiles := rfl
@[simp] theorem State.setCluster_stamps (s : State) (k : ClusterId) (f : Cluster → Cluster) : (s.setCluster k f).stamps = s.stamps := rfl
@[simp] theorem State.setCluster_fat (s : State) (k : ClusterId) (f : Cluster → Cluster) : (s.setCluster k f).fat = s.fat := rfl
@[simp] theorem State.setCluster_minors (s : State) (k : ClusterId) (f : Cluster → Cluster) : (s.setCluster k f).minors = s.minors := rfl
@[simp] theorem State.setCluster_majors (s : State) (k : ClusterId) (f : Cluster → Cluster) : (s.setCluster k f).majors = s.majors := rfl
@[simp] theorem State.setCluster_wear (s : State) (k : ClusterId) (f : Cluster → Cluster) : (s.setCluster k f).wear = s.wear := rfl
@[simp] theorem State.setCluster_remap (s : State) (k : ClusterId) (f : Cluster → Cluster) : (s.setCluster k f).remap = s.remap := rfl
@[simp] theorem State.setCluster_spares (s : State) (k : ClusterId) (f : Cluster → Cluster) : (s.setCluster k f).spares = s.spares := rfl
@[simp] theorem State.setCluster_tlb (s : State) (k : ClusterId) (f : Cluster → Cluster) : (s.setCluster k f).tlb = s.tlb := rfl
@[simp] theorem State.setCluster_jobs (s : State) (k : ClusterId) (f : Cluster → Cluster) : (s.setCluster k f).jobs = s.jobs := rfl
@[simp] theorem State.setCluster_nt (s : State) (k : ClusterId) (f : Cluster → Cluster) : (s.setCluster k f).nt = s.nt := rfl
@[simp] theorem State.setCluster_modid (s : State) (k : ClusterId) (f : Cluster → Cluster) : (s.setCluster k f).modid = s.modid := rfl
@[simp] theorem State.setCluster_frtab (s : State) (k : ClusterId) (f : Cluster → Cluster) : (s.setCluster k f).frtab = s.frtab := rfl
@[simp] theorem State.setCluster_inputs (s : State) (k : ClusterId) (f : Cluster → Cluster) : (s.setCluster k f).inputs = s.inputs := rfl
@[simp] theorem State.setCluster_boot (s : State) (k : ClusterId) (f : Cluster → Cluster) : (s.setCluster k f).boot = s.boot := rfl
@[simp] theorem State.setCluster_confidential (s : State) (k : ClusterId) (f : Cluster → Cluster) : (s.setCluster k f).confidential = s.confidential := rfl
@[simp] theorem State.setCluster_scrubs (s : State) (k : ClusterId) (f : Cluster → Cluster) : (s.setCluster k f).scrubs = s.scrubs := rfl
@[simp] theorem State.setCluster_keyEpoch (s : State) (k : ClusterId) (f : Cluster → Cluster) : (s.setCluster k f).keyEpoch = s.keyEpoch := rfl
@[simp] theorem State.setCluster_bar2 (s : State) (k : ClusterId) (f : Cluster → Cluster) : (s.setCluster k f).bar2 = s.bar2 := rfl
@[simp] theorem State.setCluster_mailbox (s : State) (k : ClusterId) (f : Cluster → Cluster) : (s.setCluster k f).mailbox = s.mailbox := rfl
@[simp] theorem State.setCluster_measured (s : State) (k : ClusterId) (f : Cluster → Cluster) : (s.setCluster k f).measured = s.measured := rfl
@[simp] theorem State.setCluster_spdm (s : State) (k : ClusterId) (f : Cluster → Cluster) : (s.setCluster k f).spdm = s.spdm := rfl
@[simp] theorem State.setCluster_sessions (s : State) (k : ClusterId) (f : Cluster → Cluster) : (s.setCluster k f).sessions = s.sessions := rfl
@[simp] theorem State.setCluster_tstore (s : State) (k : ClusterId) (f : Cluster → Cluster) : (s.setCluster k f).tstore = s.tstore := rfl
@[simp] theorem State.setCluster_readySeq (s : State) (k : ClusterId) (f : Cluster → Cluster) : (s.setCluster k f).readySeq = s.readySeq := rfl
@[simp] theorem State.setCluster_notices (s : State) (k : ClusterId) (f : Cluster → Cluster) : (s.setCluster k f).notices = s.notices := rfl
@[simp] theorem State.setCluster_program (s : State) (k : ClusterId) (f : Cluster → Cluster) : (s.setCluster k f).program = s.program := rfl
@[simp] theorem State.setCluster_msixTable (s : State) (k : ClusterId) (f : Cluster → Cluster) : (s.setCluster k f).msixTable = s.msixTable := rfl
@[simp] theorem State.setCluster_sealSeq (s : State) (k : ClusterId) (f : Cluster → Cluster) : (s.setCluster k f).sealSeq = s.sealSeq := rfl

/-! ### setDie -/

@[simp] theorem State.setDie_cur (s : State) (d : DieId) (f : Die → Die) : (s.setDie d f).cur = s.cur := rfl
@[simp] theorem State.setDie_script (s : State) (d : DieId) (f : Die → Die) : (s.setDie d f).script = s.script := rfl
@[simp] theorem State.setDie_tick (s : State) (d : DieId) (f : Die → Die) : (s.setDie d f).tick = s.tick := rfl
@[simp] theorem State.setDie_cores (s : State) (d : DieId) (f : Die → Die) : (s.setDie d f).cores = s.cores := rfl
@[simp] theorem State.setDie_clusters (s : State) (d : DieId) (f : Die → Die) : (s.setDie d f).clusters = s.clusters := rfl
@[simp] theorem State.setDie_ports (s : State) (d : DieId) (f : Die → Die) : (s.setDie d f).ports = s.ports := rfl
@[simp] theorem State.setDie_mem (s : State) (d : DieId) (f : Die → Die) : (s.setDie d f).mem = s.mem := rfl
@[simp] theorem State.setDie_wmem (s : State) (d : DieId) (f : Die → Die) : (s.setDie d f).wmem = s.wmem := rfl
@[simp] theorem State.setDie_flash (s : State) (d : DieId) (f : Die → Die) : (s.setDie d f).flash = s.flash := rfl
@[simp] theorem State.setDie_poison (s : State) (d : DieId) (f : Die → Die) : (s.setDie d f).poison = s.poison := rfl
@[simp] theorem State.setDie_wpoison (s : State) (d : DieId) (f : Die → Die) : (s.setDie d f).wpoison = s.wpoison := rfl
@[simp] theorem State.setDie_badMac (s : State) (d : DieId) (f : Die → Die) : (s.setDie d f).badMac = s.badMac := rfl
@[simp] theorem State.setDie_tiles (s : State) (d : DieId) (f : Die → Die) : (s.setDie d f).tiles = s.tiles := rfl
@[simp] theorem State.setDie_wtiles (s : State) (d : DieId) (f : Die → Die) : (s.setDie d f).wtiles = s.wtiles := rfl
@[simp] theorem State.setDie_stamps (s : State) (d : DieId) (f : Die → Die) : (s.setDie d f).stamps = s.stamps := rfl
@[simp] theorem State.setDie_fat (s : State) (d : DieId) (f : Die → Die) : (s.setDie d f).fat = s.fat := rfl
@[simp] theorem State.setDie_minors (s : State) (d : DieId) (f : Die → Die) : (s.setDie d f).minors = s.minors := rfl
@[simp] theorem State.setDie_majors (s : State) (d : DieId) (f : Die → Die) : (s.setDie d f).majors = s.majors := rfl
@[simp] theorem State.setDie_wear (s : State) (d : DieId) (f : Die → Die) : (s.setDie d f).wear = s.wear := rfl
@[simp] theorem State.setDie_remap (s : State) (d : DieId) (f : Die → Die) : (s.setDie d f).remap = s.remap := rfl
@[simp] theorem State.setDie_spares (s : State) (d : DieId) (f : Die → Die) : (s.setDie d f).spares = s.spares := rfl
@[simp] theorem State.setDie_tlb (s : State) (d : DieId) (f : Die → Die) : (s.setDie d f).tlb = s.tlb := rfl
@[simp] theorem State.setDie_jobs (s : State) (d : DieId) (f : Die → Die) : (s.setDie d f).jobs = s.jobs := rfl
@[simp] theorem State.setDie_nt (s : State) (d : DieId) (f : Die → Die) : (s.setDie d f).nt = s.nt := rfl
@[simp] theorem State.setDie_modid (s : State) (d : DieId) (f : Die → Die) : (s.setDie d f).modid = s.modid := rfl
@[simp] theorem State.setDie_frtab (s : State) (d : DieId) (f : Die → Die) : (s.setDie d f).frtab = s.frtab := rfl
@[simp] theorem State.setDie_inputs (s : State) (d : DieId) (f : Die → Die) : (s.setDie d f).inputs = s.inputs := rfl
@[simp] theorem State.setDie_boot (s : State) (d : DieId) (f : Die → Die) : (s.setDie d f).boot = s.boot := rfl
@[simp] theorem State.setDie_confidential (s : State) (d : DieId) (f : Die → Die) : (s.setDie d f).confidential = s.confidential := rfl
@[simp] theorem State.setDie_scrubs (s : State) (d : DieId) (f : Die → Die) : (s.setDie d f).scrubs = s.scrubs := rfl
@[simp] theorem State.setDie_keyEpoch (s : State) (d : DieId) (f : Die → Die) : (s.setDie d f).keyEpoch = s.keyEpoch := rfl
@[simp] theorem State.setDie_bar2 (s : State) (d : DieId) (f : Die → Die) : (s.setDie d f).bar2 = s.bar2 := rfl
@[simp] theorem State.setDie_mailbox (s : State) (d : DieId) (f : Die → Die) : (s.setDie d f).mailbox = s.mailbox := rfl
@[simp] theorem State.setDie_measured (s : State) (d : DieId) (f : Die → Die) : (s.setDie d f).measured = s.measured := rfl
@[simp] theorem State.setDie_spdm (s : State) (d : DieId) (f : Die → Die) : (s.setDie d f).spdm = s.spdm := rfl
@[simp] theorem State.setDie_sessions (s : State) (d : DieId) (f : Die → Die) : (s.setDie d f).sessions = s.sessions := rfl
@[simp] theorem State.setDie_tstore (s : State) (d : DieId) (f : Die → Die) : (s.setDie d f).tstore = s.tstore := rfl
@[simp] theorem State.setDie_readySeq (s : State) (d : DieId) (f : Die → Die) : (s.setDie d f).readySeq = s.readySeq := rfl
@[simp] theorem State.setDie_notices (s : State) (d : DieId) (f : Die → Die) : (s.setDie d f).notices = s.notices := rfl
@[simp] theorem State.setDie_program (s : State) (d : DieId) (f : Die → Die) : (s.setDie d f).program = s.program := rfl
@[simp] theorem State.setDie_msixTable (s : State) (d : DieId) (f : Die → Die) : (s.setDie d f).msixTable = s.msixTable := rfl
@[simp] theorem State.setDie_sealSeq (s : State) (d : DieId) (f : Die → Die) : (s.setDie d f).sealSeq = s.sealSeq := rfl

/-! ### setPort -/

@[simp] theorem State.setPort_cur (s : State) (p : PortId) (f : Port → Port) : (s.setPort p f).cur = s.cur := rfl
@[simp] theorem State.setPort_script (s : State) (p : PortId) (f : Port → Port) : (s.setPort p f).script = s.script := rfl
@[simp] theorem State.setPort_tick (s : State) (p : PortId) (f : Port → Port) : (s.setPort p f).tick = s.tick := rfl
@[simp] theorem State.setPort_cores (s : State) (p : PortId) (f : Port → Port) : (s.setPort p f).cores = s.cores := rfl
@[simp] theorem State.setPort_clusters (s : State) (p : PortId) (f : Port → Port) : (s.setPort p f).clusters = s.clusters := rfl
@[simp] theorem State.setPort_dies (s : State) (p : PortId) (f : Port → Port) : (s.setPort p f).dies = s.dies := rfl
@[simp] theorem State.setPort_mem (s : State) (p : PortId) (f : Port → Port) : (s.setPort p f).mem = s.mem := rfl
@[simp] theorem State.setPort_wmem (s : State) (p : PortId) (f : Port → Port) : (s.setPort p f).wmem = s.wmem := rfl
@[simp] theorem State.setPort_flash (s : State) (p : PortId) (f : Port → Port) : (s.setPort p f).flash = s.flash := rfl
@[simp] theorem State.setPort_poison (s : State) (p : PortId) (f : Port → Port) : (s.setPort p f).poison = s.poison := rfl
@[simp] theorem State.setPort_wpoison (s : State) (p : PortId) (f : Port → Port) : (s.setPort p f).wpoison = s.wpoison := rfl
@[simp] theorem State.setPort_badMac (s : State) (p : PortId) (f : Port → Port) : (s.setPort p f).badMac = s.badMac := rfl
@[simp] theorem State.setPort_tiles (s : State) (p : PortId) (f : Port → Port) : (s.setPort p f).tiles = s.tiles := rfl
@[simp] theorem State.setPort_wtiles (s : State) (p : PortId) (f : Port → Port) : (s.setPort p f).wtiles = s.wtiles := rfl
@[simp] theorem State.setPort_stamps (s : State) (p : PortId) (f : Port → Port) : (s.setPort p f).stamps = s.stamps := rfl
@[simp] theorem State.setPort_fat (s : State) (p : PortId) (f : Port → Port) : (s.setPort p f).fat = s.fat := rfl
@[simp] theorem State.setPort_minors (s : State) (p : PortId) (f : Port → Port) : (s.setPort p f).minors = s.minors := rfl
@[simp] theorem State.setPort_majors (s : State) (p : PortId) (f : Port → Port) : (s.setPort p f).majors = s.majors := rfl
@[simp] theorem State.setPort_wear (s : State) (p : PortId) (f : Port → Port) : (s.setPort p f).wear = s.wear := rfl
@[simp] theorem State.setPort_remap (s : State) (p : PortId) (f : Port → Port) : (s.setPort p f).remap = s.remap := rfl
@[simp] theorem State.setPort_spares (s : State) (p : PortId) (f : Port → Port) : (s.setPort p f).spares = s.spares := rfl
@[simp] theorem State.setPort_tlb (s : State) (p : PortId) (f : Port → Port) : (s.setPort p f).tlb = s.tlb := rfl
@[simp] theorem State.setPort_jobs (s : State) (p : PortId) (f : Port → Port) : (s.setPort p f).jobs = s.jobs := rfl
@[simp] theorem State.setPort_nt (s : State) (p : PortId) (f : Port → Port) : (s.setPort p f).nt = s.nt := rfl
@[simp] theorem State.setPort_modid (s : State) (p : PortId) (f : Port → Port) : (s.setPort p f).modid = s.modid := rfl
@[simp] theorem State.setPort_frtab (s : State) (p : PortId) (f : Port → Port) : (s.setPort p f).frtab = s.frtab := rfl
@[simp] theorem State.setPort_inputs (s : State) (p : PortId) (f : Port → Port) : (s.setPort p f).inputs = s.inputs := rfl
@[simp] theorem State.setPort_boot (s : State) (p : PortId) (f : Port → Port) : (s.setPort p f).boot = s.boot := rfl
@[simp] theorem State.setPort_confidential (s : State) (p : PortId) (f : Port → Port) : (s.setPort p f).confidential = s.confidential := rfl
@[simp] theorem State.setPort_scrubs (s : State) (p : PortId) (f : Port → Port) : (s.setPort p f).scrubs = s.scrubs := rfl
@[simp] theorem State.setPort_keyEpoch (s : State) (p : PortId) (f : Port → Port) : (s.setPort p f).keyEpoch = s.keyEpoch := rfl
@[simp] theorem State.setPort_bar2 (s : State) (p : PortId) (f : Port → Port) : (s.setPort p f).bar2 = s.bar2 := rfl
@[simp] theorem State.setPort_mailbox (s : State) (p : PortId) (f : Port → Port) : (s.setPort p f).mailbox = s.mailbox := rfl
@[simp] theorem State.setPort_measured (s : State) (p : PortId) (f : Port → Port) : (s.setPort p f).measured = s.measured := rfl
@[simp] theorem State.setPort_spdm (s : State) (p : PortId) (f : Port → Port) : (s.setPort p f).spdm = s.spdm := rfl
@[simp] theorem State.setPort_sessions (s : State) (p : PortId) (f : Port → Port) : (s.setPort p f).sessions = s.sessions := rfl
@[simp] theorem State.setPort_tstore (s : State) (p : PortId) (f : Port → Port) : (s.setPort p f).tstore = s.tstore := rfl
@[simp] theorem State.setPort_readySeq (s : State) (p : PortId) (f : Port → Port) : (s.setPort p f).readySeq = s.readySeq := rfl
@[simp] theorem State.setPort_notices (s : State) (p : PortId) (f : Port → Port) : (s.setPort p f).notices = s.notices := rfl
@[simp] theorem State.setPort_program (s : State) (p : PortId) (f : Port → Port) : (s.setPort p f).program = s.program := rfl
@[simp] theorem State.setPort_msixTable (s : State) (p : PortId) (f : Port → Port) : (s.setPort p f).msixTable = s.msixTable := rfl
@[simp] theorem State.setPort_sealSeq (s : State) (p : PortId) (f : Port → Port) : (s.setPort p f).sealSeq = s.sealSeq := rfl

/-! ### setJob -/

@[simp] theorem State.setJob_cur (s : State) (n : Nat) (f : Job → Job) : (s.setJob n f).cur = s.cur := rfl
@[simp] theorem State.setJob_script (s : State) (n : Nat) (f : Job → Job) : (s.setJob n f).script = s.script := rfl
@[simp] theorem State.setJob_tick (s : State) (n : Nat) (f : Job → Job) : (s.setJob n f).tick = s.tick := rfl
@[simp] theorem State.setJob_cores (s : State) (n : Nat) (f : Job → Job) : (s.setJob n f).cores = s.cores := rfl
@[simp] theorem State.setJob_clusters (s : State) (n : Nat) (f : Job → Job) : (s.setJob n f).clusters = s.clusters := rfl
@[simp] theorem State.setJob_dies (s : State) (n : Nat) (f : Job → Job) : (s.setJob n f).dies = s.dies := rfl
@[simp] theorem State.setJob_ports (s : State) (n : Nat) (f : Job → Job) : (s.setJob n f).ports = s.ports := rfl
@[simp] theorem State.setJob_mem (s : State) (n : Nat) (f : Job → Job) : (s.setJob n f).mem = s.mem := rfl
@[simp] theorem State.setJob_wmem (s : State) (n : Nat) (f : Job → Job) : (s.setJob n f).wmem = s.wmem := rfl
@[simp] theorem State.setJob_flash (s : State) (n : Nat) (f : Job → Job) : (s.setJob n f).flash = s.flash := rfl
@[simp] theorem State.setJob_poison (s : State) (n : Nat) (f : Job → Job) : (s.setJob n f).poison = s.poison := rfl
@[simp] theorem State.setJob_wpoison (s : State) (n : Nat) (f : Job → Job) : (s.setJob n f).wpoison = s.wpoison := rfl
@[simp] theorem State.setJob_badMac (s : State) (n : Nat) (f : Job → Job) : (s.setJob n f).badMac = s.badMac := rfl
@[simp] theorem State.setJob_tiles (s : State) (n : Nat) (f : Job → Job) : (s.setJob n f).tiles = s.tiles := rfl
@[simp] theorem State.setJob_wtiles (s : State) (n : Nat) (f : Job → Job) : (s.setJob n f).wtiles = s.wtiles := rfl
@[simp] theorem State.setJob_stamps (s : State) (n : Nat) (f : Job → Job) : (s.setJob n f).stamps = s.stamps := rfl
@[simp] theorem State.setJob_fat (s : State) (n : Nat) (f : Job → Job) : (s.setJob n f).fat = s.fat := rfl
@[simp] theorem State.setJob_minors (s : State) (n : Nat) (f : Job → Job) : (s.setJob n f).minors = s.minors := rfl
@[simp] theorem State.setJob_majors (s : State) (n : Nat) (f : Job → Job) : (s.setJob n f).majors = s.majors := rfl
@[simp] theorem State.setJob_wear (s : State) (n : Nat) (f : Job → Job) : (s.setJob n f).wear = s.wear := rfl
@[simp] theorem State.setJob_remap (s : State) (n : Nat) (f : Job → Job) : (s.setJob n f).remap = s.remap := rfl
@[simp] theorem State.setJob_spares (s : State) (n : Nat) (f : Job → Job) : (s.setJob n f).spares = s.spares := rfl
@[simp] theorem State.setJob_tlb (s : State) (n : Nat) (f : Job → Job) : (s.setJob n f).tlb = s.tlb := rfl
@[simp] theorem State.setJob_nt (s : State) (n : Nat) (f : Job → Job) : (s.setJob n f).nt = s.nt := rfl
@[simp] theorem State.setJob_modid (s : State) (n : Nat) (f : Job → Job) : (s.setJob n f).modid = s.modid := rfl
@[simp] theorem State.setJob_frtab (s : State) (n : Nat) (f : Job → Job) : (s.setJob n f).frtab = s.frtab := rfl
@[simp] theorem State.setJob_inputs (s : State) (n : Nat) (f : Job → Job) : (s.setJob n f).inputs = s.inputs := rfl
@[simp] theorem State.setJob_boot (s : State) (n : Nat) (f : Job → Job) : (s.setJob n f).boot = s.boot := rfl
@[simp] theorem State.setJob_confidential (s : State) (n : Nat) (f : Job → Job) : (s.setJob n f).confidential = s.confidential := rfl
@[simp] theorem State.setJob_scrubs (s : State) (n : Nat) (f : Job → Job) : (s.setJob n f).scrubs = s.scrubs := rfl
@[simp] theorem State.setJob_keyEpoch (s : State) (n : Nat) (f : Job → Job) : (s.setJob n f).keyEpoch = s.keyEpoch := rfl
@[simp] theorem State.setJob_bar2 (s : State) (n : Nat) (f : Job → Job) : (s.setJob n f).bar2 = s.bar2 := rfl
@[simp] theorem State.setJob_mailbox (s : State) (n : Nat) (f : Job → Job) : (s.setJob n f).mailbox = s.mailbox := rfl
@[simp] theorem State.setJob_measured (s : State) (n : Nat) (f : Job → Job) : (s.setJob n f).measured = s.measured := rfl
@[simp] theorem State.setJob_spdm (s : State) (n : Nat) (f : Job → Job) : (s.setJob n f).spdm = s.spdm := rfl
@[simp] theorem State.setJob_sessions (s : State) (n : Nat) (f : Job → Job) : (s.setJob n f).sessions = s.sessions := rfl
@[simp] theorem State.setJob_tstore (s : State) (n : Nat) (f : Job → Job) : (s.setJob n f).tstore = s.tstore := rfl
@[simp] theorem State.setJob_readySeq (s : State) (n : Nat) (f : Job → Job) : (s.setJob n f).readySeq = s.readySeq := rfl
@[simp] theorem State.setJob_notices (s : State) (n : Nat) (f : Job → Job) : (s.setJob n f).notices = s.notices := rfl
@[simp] theorem State.setJob_program (s : State) (n : Nat) (f : Job → Job) : (s.setJob n f).program = s.program := rfl
@[simp] theorem State.setJob_msixTable (s : State) (n : Nat) (f : Job → Job) : (s.setJob n f).msixTable = s.msixTable := rfl
@[simp] theorem State.setJob_sealSeq (s : State) (n : Nat) (f : Job → Job) : (s.setJob n f).sealSeq = s.sealSeq := rfl

/-! ### setTask -/

@[simp] theorem State.setTask_cur (s : State) (c : CoreId) (t : Task) : (s.setTask c t).cur = s.cur := rfl
@[simp] theorem State.setTask_script (s : State) (c : CoreId) (t : Task) : (s.setTask c t).script = s.script := rfl
@[simp] theorem State.setTask_tick (s : State) (c : CoreId) (t : Task) : (s.setTask c t).tick = s.tick := rfl
@[simp] theorem State.setTask_clusters (s : State) (c : CoreId) (t : Task) : (s.setTask c t).clusters = s.clusters := rfl
@[simp] theorem State.setTask_dies (s : State) (c : CoreId) (t : Task) : (s.setTask c t).dies = s.dies := rfl
@[simp] theorem State.setTask_ports (s : State) (c : CoreId) (t : Task) : (s.setTask c t).ports = s.ports := rfl
@[simp] theorem State.setTask_mem (s : State) (c : CoreId) (t : Task) : (s.setTask c t).mem = s.mem := rfl
@[simp] theorem State.setTask_wmem (s : State) (c : CoreId) (t : Task) : (s.setTask c t).wmem = s.wmem := rfl
@[simp] theorem State.setTask_flash (s : State) (c : CoreId) (t : Task) : (s.setTask c t).flash = s.flash := rfl
@[simp] theorem State.setTask_poison (s : State) (c : CoreId) (t : Task) : (s.setTask c t).poison = s.poison := rfl
@[simp] theorem State.setTask_wpoison (s : State) (c : CoreId) (t : Task) : (s.setTask c t).wpoison = s.wpoison := rfl
@[simp] theorem State.setTask_badMac (s : State) (c : CoreId) (t : Task) : (s.setTask c t).badMac = s.badMac := rfl
@[simp] theorem State.setTask_tiles (s : State) (c : CoreId) (t : Task) : (s.setTask c t).tiles = s.tiles := rfl
@[simp] theorem State.setTask_wtiles (s : State) (c : CoreId) (t : Task) : (s.setTask c t).wtiles = s.wtiles := rfl
@[simp] theorem State.setTask_stamps (s : State) (c : CoreId) (t : Task) : (s.setTask c t).stamps = s.stamps := rfl
@[simp] theorem State.setTask_fat (s : State) (c : CoreId) (t : Task) : (s.setTask c t).fat = s.fat := rfl
@[simp] theorem State.setTask_minors (s : State) (c : CoreId) (t : Task) : (s.setTask c t).minors = s.minors := rfl
@[simp] theorem State.setTask_majors (s : State) (c : CoreId) (t : Task) : (s.setTask c t).majors = s.majors := rfl
@[simp] theorem State.setTask_wear (s : State) (c : CoreId) (t : Task) : (s.setTask c t).wear = s.wear := rfl
@[simp] theorem State.setTask_remap (s : State) (c : CoreId) (t : Task) : (s.setTask c t).remap = s.remap := rfl
@[simp] theorem State.setTask_spares (s : State) (c : CoreId) (t : Task) : (s.setTask c t).spares = s.spares := rfl
@[simp] theorem State.setTask_tlb (s : State) (c : CoreId) (t : Task) : (s.setTask c t).tlb = s.tlb := rfl
@[simp] theorem State.setTask_jobs (s : State) (c : CoreId) (t : Task) : (s.setTask c t).jobs = s.jobs := rfl
@[simp] theorem State.setTask_nt (s : State) (c : CoreId) (t : Task) : (s.setTask c t).nt = s.nt := rfl
@[simp] theorem State.setTask_modid (s : State) (c : CoreId) (t : Task) : (s.setTask c t).modid = s.modid := rfl
@[simp] theorem State.setTask_frtab (s : State) (c : CoreId) (t : Task) : (s.setTask c t).frtab = s.frtab := rfl
@[simp] theorem State.setTask_inputs (s : State) (c : CoreId) (t : Task) : (s.setTask c t).inputs = s.inputs := rfl
@[simp] theorem State.setTask_boot (s : State) (c : CoreId) (t : Task) : (s.setTask c t).boot = s.boot := rfl
@[simp] theorem State.setTask_confidential (s : State) (c : CoreId) (t : Task) : (s.setTask c t).confidential = s.confidential := rfl
@[simp] theorem State.setTask_scrubs (s : State) (c : CoreId) (t : Task) : (s.setTask c t).scrubs = s.scrubs := rfl
@[simp] theorem State.setTask_keyEpoch (s : State) (c : CoreId) (t : Task) : (s.setTask c t).keyEpoch = s.keyEpoch := rfl
@[simp] theorem State.setTask_bar2 (s : State) (c : CoreId) (t : Task) : (s.setTask c t).bar2 = s.bar2 := rfl
@[simp] theorem State.setTask_mailbox (s : State) (c : CoreId) (t : Task) : (s.setTask c t).mailbox = s.mailbox := rfl
@[simp] theorem State.setTask_measured (s : State) (c : CoreId) (t : Task) : (s.setTask c t).measured = s.measured := rfl
@[simp] theorem State.setTask_spdm (s : State) (c : CoreId) (t : Task) : (s.setTask c t).spdm = s.spdm := rfl
@[simp] theorem State.setTask_sessions (s : State) (c : CoreId) (t : Task) : (s.setTask c t).sessions = s.sessions := rfl
@[simp] theorem State.setTask_tstore (s : State) (c : CoreId) (t : Task) : (s.setTask c t).tstore = s.tstore := rfl
@[simp] theorem State.setTask_readySeq (s : State) (c : CoreId) (t : Task) : (s.setTask c t).readySeq = s.readySeq := rfl
@[simp] theorem State.setTask_notices (s : State) (c : CoreId) (t : Task) : (s.setTask c t).notices = s.notices := rfl
@[simp] theorem State.setTask_program (s : State) (c : CoreId) (t : Task) : (s.setTask c t).program = s.program := rfl
@[simp] theorem State.setTask_msixTable (s : State) (c : CoreId) (t : Task) : (s.setTask c t).msixTable = s.msixTable := rfl
@[simp] theorem State.setTask_sealSeq (s : State) (c : CoreId) (t : Task) : (s.setTask c t).sealSeq = s.sealSeq := rfl

/-! ### Reading back -/

@[simp] theorem State.core_setCore_same (s : State) (c : CoreId) (f : Core → Core) : (s.setCore c f).core c = f (s.core c) := by
  simp [State.core, State.setCore]

theorem State.core_setCore_other (s : State) (c d : CoreId) (f : Core → Core) (h : d ≠ c) :
    (s.setCore c f).core d = s.core d := by
  have : c.val ≠ d.val := fun e => h (Fin.ext e.symm)
  simp [State.core, State.setCore, this]

@[simp] theorem State.core_setCluster (s : State) (k : ClusterId) (f : Cluster → Cluster) (c : CoreId) :
    (s.setCluster k f).core c = s.core c := rfl
@[simp] theorem State.core_setDie (s : State) (d : DieId) (f : Die → Die) (c : CoreId) : (s.setDie d f).core c = s.core c := rfl
@[simp] theorem State.core_setJob (s : State) (n : Nat) (f : Job → Job) (c : CoreId) : (s.setJob n f).core c = s.core c := rfl
@[simp] theorem State.core_setPort (s : State) (p : PortId) (f : Port → Port) (c : CoreId) : (s.setPort p f).core c = s.core c := rfl

@[simp] theorem State.taskOf_setTask_same (s : State) (c : CoreId) (t : Task) : (s.setTask c t).taskOf c = some t := by
  simp [State.taskOf, State.setTask]

theorem State.taskOf_setTask_other (s : State) (c d : CoreId) (t : Task) (h : d ≠ c) :
    (s.setTask c t).taskOf d = s.taskOf d := by
  simp [State.taskOf, State.setTask, State.core_setCore_other _ _ _ _ h]

@[simp] theorem State.core_setTask_status (s : State) (c : CoreId) (t : Task) :
    ((s.setTask c t).core c).status = (s.core c).status := by
  simp [State.setTask]

@[simp] theorem State.die_setDie_same (s : State) (d : DieId) (f : Die → Die) :
    (s.setDie d f).dies[d.val] = f (s.dies[d.val]) := by
  simp [State.setDie]

@[simp] theorem State.cluster_setCluster_same (s : State) (k : ClusterId) (f : Cluster → Cluster) :
    (s.setCluster k f).clusters[k.val] = f (s.clusters[k.val]) := by
  simp [State.setCluster]

@[simp] theorem State.port_setPort_same (s : State) (p : PortId) (f : Port → Port) :
    (s.setPort p f).ports[p.val] = f (s.ports[p.val]) := by
  simp [State.setPort]

/-! ### The task: advancing, registers, queues -/

@[simp] theorem Task.advance_rs (t : Task) (n : Nat) : (t.advance n).rs = t.rs := by unfold Task.advance; dsimp only; split <;> rfl
@[simp] theorem Task.advance_slot (t : Task) (n : Nat) : (t.advance n).slot = t.slot := by unfold Task.advance; dsimp only; split <;> rfl
@[simp] theorem Task.advance_gen (t : Task) (n : Nat) : (t.advance n).gen = t.gen := by unfold Task.advance; dsimp only; split <;> rfl
@[simp] theorem Task.advance_x (t : Task) (n : Nat) : (t.advance n).x = t.x := by unfold Task.advance; dsimp only; split <;> rfl
@[simp] theorem Task.advance_p (t : Task) (n : Nat) : (t.advance n).p = t.p := by unfold Task.advance; dsimp only; split <;> rfl
@[simp] theorem Task.advance_k (t : Task) (n : Nat) : (t.advance n).k = t.k := by unfold Task.advance; dsimp only; split <;> rfl
@[simp] theorem Task.advance_v (t : Task) (n : Nat) : (t.advance n).v = t.v := by unfold Task.advance; dsimp only; split <;> rfl
@[simp] theorem Task.advance_sys (t : Task) (n : Nat) : (t.advance n).sys = t.sys := by unfold Task.advance; dsimp only; split <;> rfl
@[simp] theorem Task.advance_cc (t : Task) (n : Nat) : (t.advance n).cc = t.cc := by unfold Task.advance; dsimp only; split <;> rfl
@[simp] theorem Task.advance_regions (t : Task) (n : Nat) : (t.advance n).regions = t.regions := by unfold Task.advance; dsimp only; split <;> rfl
@[simp] theorem Task.advance_limit (t : Task) (n : Nat) : (t.advance n).limit = t.limit := by unfold Task.advance; dsimp only; split <;> rfl
@[simp] theorem Task.advance_masks (t : Task) (n : Nat) : (t.advance n).masks = t.masks := by unfold Task.advance; dsimp only; split <;> rfl
@[simp] theorem Task.advance_z (t : Task) (n : Nat) : (t.advance n).z = t.z := by unfold Task.advance; dsimp only; split <;> rfl
@[simp] theorem Task.advance_mStack (t : Task) (n : Nat) : (t.advance n).mStack = t.mStack := by unfold Task.advance; dsimp only; split <;> rfl
@[simp] theorem Task.advance_xStack (t : Task) (n : Nat) : (t.advance n).xStack = t.xStack := by unfold Task.advance; dsimp only; split <;> rfl
@[simp] theorem Task.advance_pStack (t : Task) (n : Nat) : (t.advance n).pStack = t.pStack := by unfold Task.advance; dsimp only; split <;> rfl
@[simp] theorem Task.advance_sStack (t : Task) (n : Nat) : (t.advance n).sStack = t.sStack := by unfold Task.advance; dsimp only; split <;> rfl
@[simp] theorem Task.advance_m (t : Task) (n : Nat) : (t.advance n).m = t.m := by unfold Task.advance; dsimp only; split <;> rfl
@[simp] theorem Task.advance_mstats (t : Task) (n : Nat) : (t.advance n).mstats = t.mstats := by unfold Task.advance; dsimp only; split <;> rfl
@[simp] theorem Task.advance_xc (t : Task) (n : Nat) : (t.advance n).xc = t.xc := by unfold Task.advance; dsimp only; split <;> rfl
@[simp] theorem Task.advance_xlast (t : Task) (n : Nat) : (t.advance n).xlast = t.xlast := by unfold Task.advance; dsimp only; split <;> rfl
@[simp] theorem Task.advance_pcfg (t : Task) (n : Nat) : (t.advance n).pcfg = t.pcfg := by unfold Task.advance; dsimp only; split <;> rfl
@[simp] theorem Task.advance_metas (t : Task) (n : Nat) : (t.advance n).metas = t.metas := by unfold Task.advance; dsimp only; split <;> rfl
@[simp] theorem Task.advance_front (t : Task) (n : Nat) : (t.advance n).front = t.front := by unfold Task.advance; dsimp only; split <;> rfl
@[simp] theorem Task.advance_cmds (t : Task) (n : Nat) : (t.advance n).cmds = t.cmds := by unfold Task.advance; dsimp only; split <;> rfl
@[simp] theorem Task.advance_nextSeq (t : Task) (n : Nat) : (t.advance n).nextSeq = t.nextSeq := by unfold Task.advance; dsimp only; split <;> rfl
@[simp] theorem Task.advance_nt (t : Task) (n : Nat) : (t.advance n).nt = t.nt := by unfold Task.advance; dsimp only; split <;> rfl
@[simp] theorem Task.advance_commit (t : Task) (n : Nat) : (t.advance n).commit = t.commit := by unfold Task.advance; dsimp only; split <;> rfl
@[simp] theorem Task.advance_held (t : Task) (n : Nat) : (t.advance n).held = t.held := by unfold Task.advance; dsimp only; split <;> rfl
@[simp] theorem Task.advance_sessions (t : Task) (n : Nat) : (t.advance n).sessions = t.sessions := by unfold Task.advance; dsimp only; split <;> rfl
@[simp] theorem Task.advance_closed (t : Task) (n : Nat) : (t.advance n).closed = t.closed := by unfold Task.advance; dsimp only; split <;> rfl
@[simp] theorem Task.advance_wait (t : Task) (n : Nat) : (t.advance n).wait = t.wait := by unfold Task.advance; dsimp only; split <;> rfl
@[simp] theorem Task.advance_bars (t : Task) (n : Nat) : (t.advance n).bars = t.bars := by unfold Task.advance; dsimp only; split <;> rfl
@[simp] theorem Task.advance_passed (t : Task) (n : Nat) : (t.advance n).passed = t.passed := by unfold Task.advance; dsimp only; split <;> rfl
@[simp] theorem Task.advance_cancel (t : Task) (n : Nat) : (t.advance n).cancel = t.cancel := by unfold Task.advance; dsimp only; split <;> rfl
@[simp] theorem Task.advance_exited (t : Task) (n : Nat) : (t.advance n).exited = t.exited := by unfold Task.advance; dsimp only; split <;> rfl
@[simp] theorem Task.advance_amo (t : Task) (n : Nat) : (t.advance n).amo = t.amo := by unfold Task.advance; dsimp only; split <;> rfl
@[simp] theorem Task.advance_attached (t : Task) (n : Nat) : (t.advance n).attached = t.attached := by unfold Task.advance; dsimp only; split <;> rfl
@[simp] theorem Task.advance_debugEv (t : Task) (n : Nat) : (t.advance n).debugEv = t.debugEv := by unfold Task.advance; dsimp only; split <;> rfl
@[simp] theorem Task.advance_dist (t : Task) (n : Nat) : (t.advance n).dist = t.dist + n := by unfold Task.advance; dsimp only; split <;> rfl

@[simp] theorem Task.setX_rs (t : Task) (r : XReg) (v : Word64) : (t.setX r v).rs = t.rs := by unfold Task.setX; split <;> rfl
@[simp] theorem Task.setX_slot (t : Task) (r : XReg) (v : Word64) : (t.setX r v).slot = t.slot := by unfold Task.setX; split <;> rfl
@[simp] theorem Task.setX_gen (t : Task) (r : XReg) (v : Word64) : (t.setX r v).gen = t.gen := by unfold Task.setX; split <;> rfl
@[simp] theorem Task.setX_pc (t : Task) (r : XReg) (v : Word64) : (t.setX r v).pc = t.pc := by unfold Task.setX; split <;> rfl
@[simp] theorem Task.setX_rep (t : Task) (r : XReg) (v : Word64) : (t.setX r v).rep = t.rep := by unfold Task.setX; split <;> rfl
@[simp] theorem Task.setX_p (t : Task) (r : XReg) (v : Word64) : (t.setX r v).p = t.p := by unfold Task.setX; split <;> rfl
@[simp] theorem Task.setX_k (t : Task) (r : XReg) (v : Word64) : (t.setX r v).k = t.k := by unfold Task.setX; split <;> rfl
@[simp] theorem Task.setX_v (t : Task) (r : XReg) (v : Word64) : (t.setX r v).v = t.v := by unfold Task.setX; split <;> rfl
@[simp] theorem Task.setX_sys (t : Task) (r : XReg) (v : Word64) : (t.setX r v).sys = t.sys := by unfold Task.setX; split <;> rfl
@[simp] theorem Task.setX_cc (t : Task) (r : XReg) (v : Word64) : (t.setX r v).cc = t.cc := by unfold Task.setX; split <;> rfl
@[simp] theorem Task.setX_regions (t : Task) (r : XReg) (v : Word64) : (t.setX r v).regions = t.regions := by unfold Task.setX; split <;> rfl
@[simp] theorem Task.setX_dist (t : Task) (r : XReg) (v : Word64) : (t.setX r v).dist = t.dist := by unfold Task.setX; split <;> rfl
@[simp] theorem Task.setX_limit (t : Task) (r : XReg) (v : Word64) : (t.setX r v).limit = t.limit := by unfold Task.setX; split <;> rfl
@[simp] theorem Task.setX_masks (t : Task) (r : XReg) (v : Word64) : (t.setX r v).masks = t.masks := by unfold Task.setX; split <;> rfl
@[simp] theorem Task.setX_z (t : Task) (r : XReg) (v : Word64) : (t.setX r v).z = t.z := by unfold Task.setX; split <;> rfl
@[simp] theorem Task.setX_mStack (t : Task) (r : XReg) (v : Word64) : (t.setX r v).mStack = t.mStack := by unfold Task.setX; split <;> rfl
@[simp] theorem Task.setX_xStack (t : Task) (r : XReg) (v : Word64) : (t.setX r v).xStack = t.xStack := by unfold Task.setX; split <;> rfl
@[simp] theorem Task.setX_pStack (t : Task) (r : XReg) (v : Word64) : (t.setX r v).pStack = t.pStack := by unfold Task.setX; split <;> rfl
@[simp] theorem Task.setX_sStack (t : Task) (r : XReg) (v : Word64) : (t.setX r v).sStack = t.sStack := by unfold Task.setX; split <;> rfl
@[simp] theorem Task.setX_m (t : Task) (r : XReg) (v : Word64) : (t.setX r v).m = t.m := by unfold Task.setX; split <;> rfl
@[simp] theorem Task.setX_mstats (t : Task) (r : XReg) (v : Word64) : (t.setX r v).mstats = t.mstats := by unfold Task.setX; split <;> rfl
@[simp] theorem Task.setX_xc (t : Task) (r : XReg) (v : Word64) : (t.setX r v).xc = t.xc := by unfold Task.setX; split <;> rfl
@[simp] theorem Task.setX_xlast (t : Task) (r : XReg) (v : Word64) : (t.setX r v).xlast = t.xlast := by unfold Task.setX; split <;> rfl
@[simp] theorem Task.setX_pcfg (t : Task) (r : XReg) (v : Word64) : (t.setX r v).pcfg = t.pcfg := by unfold Task.setX; split <;> rfl
@[simp] theorem Task.setX_metas (t : Task) (r : XReg) (v : Word64) : (t.setX r v).metas = t.metas := by unfold Task.setX; split <;> rfl
@[simp] theorem Task.setX_front (t : Task) (r : XReg) (v : Word64) : (t.setX r v).front = t.front := by unfold Task.setX; split <;> rfl
@[simp] theorem Task.setX_cmds (t : Task) (r : XReg) (v : Word64) : (t.setX r v).cmds = t.cmds := by unfold Task.setX; split <;> rfl
@[simp] theorem Task.setX_nextSeq (t : Task) (r : XReg) (v : Word64) : (t.setX r v).nextSeq = t.nextSeq := by unfold Task.setX; split <;> rfl
@[simp] theorem Task.setX_nt (t : Task) (r : XReg) (v : Word64) : (t.setX r v).nt = t.nt := by unfold Task.setX; split <;> rfl
@[simp] theorem Task.setX_commit (t : Task) (r : XReg) (v : Word64) : (t.setX r v).commit = t.commit := by unfold Task.setX; split <;> rfl
@[simp] theorem Task.setX_held (t : Task) (r : XReg) (v : Word64) : (t.setX r v).held = t.held := by unfold Task.setX; split <;> rfl
@[simp] theorem Task.setX_sessions (t : Task) (r : XReg) (v : Word64) : (t.setX r v).sessions = t.sessions := by unfold Task.setX; split <;> rfl
@[simp] theorem Task.setX_closed (t : Task) (r : XReg) (v : Word64) : (t.setX r v).closed = t.closed := by unfold Task.setX; split <;> rfl
@[simp] theorem Task.setX_wait (t : Task) (r : XReg) (v : Word64) : (t.setX r v).wait = t.wait := by unfold Task.setX; split <;> rfl
@[simp] theorem Task.setX_bars (t : Task) (r : XReg) (v : Word64) : (t.setX r v).bars = t.bars := by unfold Task.setX; split <;> rfl
@[simp] theorem Task.setX_passed (t : Task) (r : XReg) (v : Word64) : (t.setX r v).passed = t.passed := by unfold Task.setX; split <;> rfl
@[simp] theorem Task.setX_cancel (t : Task) (r : XReg) (v : Word64) : (t.setX r v).cancel = t.cancel := by unfold Task.setX; split <;> rfl
@[simp] theorem Task.setX_exited (t : Task) (r : XReg) (v : Word64) : (t.setX r v).exited = t.exited := by unfold Task.setX; split <;> rfl
@[simp] theorem Task.setX_amo (t : Task) (r : XReg) (v : Word64) : (t.setX r v).amo = t.amo := by unfold Task.setX; split <;> rfl
@[simp] theorem Task.setX_attached (t : Task) (r : XReg) (v : Word64) : (t.setX r v).attached = t.attached := by unfold Task.setX; split <;> rfl
@[simp] theorem Task.setX_debugEv (t : Task) (r : XReg) (v : Word64) : (t.setX r v).debugEv = t.debugEv := by unfold Task.setX; split <;> rfl

@[simp] theorem Task.setP_rs (t : Task) (r : PReg) (v : Bool) : (t.setP r v).rs = t.rs := by unfold Task.setP; split <;> rfl
@[simp] theorem Task.setP_slot (t : Task) (r : PReg) (v : Bool) : (t.setP r v).slot = t.slot := by unfold Task.setP; split <;> rfl
@[simp] theorem Task.setP_gen (t : Task) (r : PReg) (v : Bool) : (t.setP r v).gen = t.gen := by unfold Task.setP; split <;> rfl
@[simp] theorem Task.setP_pc (t : Task) (r : PReg) (v : Bool) : (t.setP r v).pc = t.pc := by unfold Task.setP; split <;> rfl
@[simp] theorem Task.setP_rep (t : Task) (r : PReg) (v : Bool) : (t.setP r v).rep = t.rep := by unfold Task.setP; split <;> rfl
@[simp] theorem Task.setP_x (t : Task) (r : PReg) (v : Bool) : (t.setP r v).x = t.x := by unfold Task.setP; split <;> rfl
@[simp] theorem Task.setP_k (t : Task) (r : PReg) (v : Bool) : (t.setP r v).k = t.k := by unfold Task.setP; split <;> rfl
@[simp] theorem Task.setP_v (t : Task) (r : PReg) (v : Bool) : (t.setP r v).v = t.v := by unfold Task.setP; split <;> rfl
@[simp] theorem Task.setP_sys (t : Task) (r : PReg) (v : Bool) : (t.setP r v).sys = t.sys := by unfold Task.setP; split <;> rfl
@[simp] theorem Task.setP_cc (t : Task) (r : PReg) (v : Bool) : (t.setP r v).cc = t.cc := by unfold Task.setP; split <;> rfl
@[simp] theorem Task.setP_regions (t : Task) (r : PReg) (v : Bool) : (t.setP r v).regions = t.regions := by unfold Task.setP; split <;> rfl
@[simp] theorem Task.setP_dist (t : Task) (r : PReg) (v : Bool) : (t.setP r v).dist = t.dist := by unfold Task.setP; split <;> rfl
@[simp] theorem Task.setP_limit (t : Task) (r : PReg) (v : Bool) : (t.setP r v).limit = t.limit := by unfold Task.setP; split <;> rfl
@[simp] theorem Task.setP_masks (t : Task) (r : PReg) (v : Bool) : (t.setP r v).masks = t.masks := by unfold Task.setP; split <;> rfl
@[simp] theorem Task.setP_z (t : Task) (r : PReg) (v : Bool) : (t.setP r v).z = t.z := by unfold Task.setP; split <;> rfl
@[simp] theorem Task.setP_mStack (t : Task) (r : PReg) (v : Bool) : (t.setP r v).mStack = t.mStack := by unfold Task.setP; split <;> rfl
@[simp] theorem Task.setP_xStack (t : Task) (r : PReg) (v : Bool) : (t.setP r v).xStack = t.xStack := by unfold Task.setP; split <;> rfl
@[simp] theorem Task.setP_pStack (t : Task) (r : PReg) (v : Bool) : (t.setP r v).pStack = t.pStack := by unfold Task.setP; split <;> rfl
@[simp] theorem Task.setP_sStack (t : Task) (r : PReg) (v : Bool) : (t.setP r v).sStack = t.sStack := by unfold Task.setP; split <;> rfl
@[simp] theorem Task.setP_m (t : Task) (r : PReg) (v : Bool) : (t.setP r v).m = t.m := by unfold Task.setP; split <;> rfl
@[simp] theorem Task.setP_mstats (t : Task) (r : PReg) (v : Bool) : (t.setP r v).mstats = t.mstats := by unfold Task.setP; split <;> rfl
@[simp] theorem Task.setP_xc (t : Task) (r : PReg) (v : Bool) : (t.setP r v).xc = t.xc := by unfold Task.setP; split <;> rfl
@[simp] theorem Task.setP_xlast (t : Task) (r : PReg) (v : Bool) : (t.setP r v).xlast = t.xlast := by unfold Task.setP; split <;> rfl
@[simp] theorem Task.setP_pcfg (t : Task) (r : PReg) (v : Bool) : (t.setP r v).pcfg = t.pcfg := by unfold Task.setP; split <;> rfl
@[simp] theorem Task.setP_metas (t : Task) (r : PReg) (v : Bool) : (t.setP r v).metas = t.metas := by unfold Task.setP; split <;> rfl
@[simp] theorem Task.setP_front (t : Task) (r : PReg) (v : Bool) : (t.setP r v).front = t.front := by unfold Task.setP; split <;> rfl
@[simp] theorem Task.setP_cmds (t : Task) (r : PReg) (v : Bool) : (t.setP r v).cmds = t.cmds := by unfold Task.setP; split <;> rfl
@[simp] theorem Task.setP_nextSeq (t : Task) (r : PReg) (v : Bool) : (t.setP r v).nextSeq = t.nextSeq := by unfold Task.setP; split <;> rfl
@[simp] theorem Task.setP_nt (t : Task) (r : PReg) (v : Bool) : (t.setP r v).nt = t.nt := by unfold Task.setP; split <;> rfl
@[simp] theorem Task.setP_commit (t : Task) (r : PReg) (v : Bool) : (t.setP r v).commit = t.commit := by unfold Task.setP; split <;> rfl
@[simp] theorem Task.setP_held (t : Task) (r : PReg) (v : Bool) : (t.setP r v).held = t.held := by unfold Task.setP; split <;> rfl
@[simp] theorem Task.setP_sessions (t : Task) (r : PReg) (v : Bool) : (t.setP r v).sessions = t.sessions := by unfold Task.setP; split <;> rfl
@[simp] theorem Task.setP_closed (t : Task) (r : PReg) (v : Bool) : (t.setP r v).closed = t.closed := by unfold Task.setP; split <;> rfl
@[simp] theorem Task.setP_wait (t : Task) (r : PReg) (v : Bool) : (t.setP r v).wait = t.wait := by unfold Task.setP; split <;> rfl
@[simp] theorem Task.setP_bars (t : Task) (r : PReg) (v : Bool) : (t.setP r v).bars = t.bars := by unfold Task.setP; split <;> rfl
@[simp] theorem Task.setP_passed (t : Task) (r : PReg) (v : Bool) : (t.setP r v).passed = t.passed := by unfold Task.setP; split <;> rfl
@[simp] theorem Task.setP_cancel (t : Task) (r : PReg) (v : Bool) : (t.setP r v).cancel = t.cancel := by unfold Task.setP; split <;> rfl
@[simp] theorem Task.setP_exited (t : Task) (r : PReg) (v : Bool) : (t.setP r v).exited = t.exited := by unfold Task.setP; split <;> rfl
@[simp] theorem Task.setP_amo (t : Task) (r : PReg) (v : Bool) : (t.setP r v).amo = t.amo := by unfold Task.setP; split <;> rfl
@[simp] theorem Task.setP_attached (t : Task) (r : PReg) (v : Bool) : (t.setP r v).attached = t.attached := by unfold Task.setP; split <;> rfl
@[simp] theorem Task.setP_debugEv (t : Task) (r : PReg) (v : Bool) : (t.setP r v).debugEv = t.debugEv := by unfold Task.setP; split <;> rfl

@[simp] theorem Task.setK_rs (t : Task) (r : KReg) (v : MaskBits) : (t.setK r v).rs = t.rs := by unfold Task.setK; split <;> rfl
@[simp] theorem Task.setK_slot (t : Task) (r : KReg) (v : MaskBits) : (t.setK r v).slot = t.slot := by unfold Task.setK; split <;> rfl
@[simp] theorem Task.setK_gen (t : Task) (r : KReg) (v : MaskBits) : (t.setK r v).gen = t.gen := by unfold Task.setK; split <;> rfl
@[simp] theorem Task.setK_pc (t : Task) (r : KReg) (v : MaskBits) : (t.setK r v).pc = t.pc := by unfold Task.setK; split <;> rfl
@[simp] theorem Task.setK_rep (t : Task) (r : KReg) (v : MaskBits) : (t.setK r v).rep = t.rep := by unfold Task.setK; split <;> rfl
@[simp] theorem Task.setK_x (t : Task) (r : KReg) (v : MaskBits) : (t.setK r v).x = t.x := by unfold Task.setK; split <;> rfl
@[simp] theorem Task.setK_p (t : Task) (r : KReg) (v : MaskBits) : (t.setK r v).p = t.p := by unfold Task.setK; split <;> rfl
@[simp] theorem Task.setK_v (t : Task) (r : KReg) (v : MaskBits) : (t.setK r v).v = t.v := by unfold Task.setK; split <;> rfl
@[simp] theorem Task.setK_sys (t : Task) (r : KReg) (v : MaskBits) : (t.setK r v).sys = t.sys := by unfold Task.setK; split <;> rfl
@[simp] theorem Task.setK_cc (t : Task) (r : KReg) (v : MaskBits) : (t.setK r v).cc = t.cc := by unfold Task.setK; split <;> rfl
@[simp] theorem Task.setK_regions (t : Task) (r : KReg) (v : MaskBits) : (t.setK r v).regions = t.regions := by unfold Task.setK; split <;> rfl
@[simp] theorem Task.setK_dist (t : Task) (r : KReg) (v : MaskBits) : (t.setK r v).dist = t.dist := by unfold Task.setK; split <;> rfl
@[simp] theorem Task.setK_limit (t : Task) (r : KReg) (v : MaskBits) : (t.setK r v).limit = t.limit := by unfold Task.setK; split <;> rfl
@[simp] theorem Task.setK_masks (t : Task) (r : KReg) (v : MaskBits) : (t.setK r v).masks = t.masks := by unfold Task.setK; split <;> rfl
@[simp] theorem Task.setK_z (t : Task) (r : KReg) (v : MaskBits) : (t.setK r v).z = t.z := by unfold Task.setK; split <;> rfl
@[simp] theorem Task.setK_mStack (t : Task) (r : KReg) (v : MaskBits) : (t.setK r v).mStack = t.mStack := by unfold Task.setK; split <;> rfl
@[simp] theorem Task.setK_xStack (t : Task) (r : KReg) (v : MaskBits) : (t.setK r v).xStack = t.xStack := by unfold Task.setK; split <;> rfl
@[simp] theorem Task.setK_pStack (t : Task) (r : KReg) (v : MaskBits) : (t.setK r v).pStack = t.pStack := by unfold Task.setK; split <;> rfl
@[simp] theorem Task.setK_sStack (t : Task) (r : KReg) (v : MaskBits) : (t.setK r v).sStack = t.sStack := by unfold Task.setK; split <;> rfl
@[simp] theorem Task.setK_m (t : Task) (r : KReg) (v : MaskBits) : (t.setK r v).m = t.m := by unfold Task.setK; split <;> rfl
@[simp] theorem Task.setK_mstats (t : Task) (r : KReg) (v : MaskBits) : (t.setK r v).mstats = t.mstats := by unfold Task.setK; split <;> rfl
@[simp] theorem Task.setK_xc (t : Task) (r : KReg) (v : MaskBits) : (t.setK r v).xc = t.xc := by unfold Task.setK; split <;> rfl
@[simp] theorem Task.setK_xlast (t : Task) (r : KReg) (v : MaskBits) : (t.setK r v).xlast = t.xlast := by unfold Task.setK; split <;> rfl
@[simp] theorem Task.setK_pcfg (t : Task) (r : KReg) (v : MaskBits) : (t.setK r v).pcfg = t.pcfg := by unfold Task.setK; split <;> rfl
@[simp] theorem Task.setK_metas (t : Task) (r : KReg) (v : MaskBits) : (t.setK r v).metas = t.metas := by unfold Task.setK; split <;> rfl
@[simp] theorem Task.setK_front (t : Task) (r : KReg) (v : MaskBits) : (t.setK r v).front = t.front := by unfold Task.setK; split <;> rfl
@[simp] theorem Task.setK_cmds (t : Task) (r : KReg) (v : MaskBits) : (t.setK r v).cmds = t.cmds := by unfold Task.setK; split <;> rfl
@[simp] theorem Task.setK_nextSeq (t : Task) (r : KReg) (v : MaskBits) : (t.setK r v).nextSeq = t.nextSeq := by unfold Task.setK; split <;> rfl
@[simp] theorem Task.setK_nt (t : Task) (r : KReg) (v : MaskBits) : (t.setK r v).nt = t.nt := by unfold Task.setK; split <;> rfl
@[simp] theorem Task.setK_commit (t : Task) (r : KReg) (v : MaskBits) : (t.setK r v).commit = t.commit := by unfold Task.setK; split <;> rfl
@[simp] theorem Task.setK_held (t : Task) (r : KReg) (v : MaskBits) : (t.setK r v).held = t.held := by unfold Task.setK; split <;> rfl
@[simp] theorem Task.setK_sessions (t : Task) (r : KReg) (v : MaskBits) : (t.setK r v).sessions = t.sessions := by unfold Task.setK; split <;> rfl
@[simp] theorem Task.setK_closed (t : Task) (r : KReg) (v : MaskBits) : (t.setK r v).closed = t.closed := by unfold Task.setK; split <;> rfl
@[simp] theorem Task.setK_wait (t : Task) (r : KReg) (v : MaskBits) : (t.setK r v).wait = t.wait := by unfold Task.setK; split <;> rfl
@[simp] theorem Task.setK_bars (t : Task) (r : KReg) (v : MaskBits) : (t.setK r v).bars = t.bars := by unfold Task.setK; split <;> rfl
@[simp] theorem Task.setK_passed (t : Task) (r : KReg) (v : MaskBits) : (t.setK r v).passed = t.passed := by unfold Task.setK; split <;> rfl
@[simp] theorem Task.setK_cancel (t : Task) (r : KReg) (v : MaskBits) : (t.setK r v).cancel = t.cancel := by unfold Task.setK; split <;> rfl
@[simp] theorem Task.setK_exited (t : Task) (r : KReg) (v : MaskBits) : (t.setK r v).exited = t.exited := by unfold Task.setK; split <;> rfl
@[simp] theorem Task.setK_amo (t : Task) (r : KReg) (v : MaskBits) : (t.setK r v).amo = t.amo := by unfold Task.setK; split <;> rfl
@[simp] theorem Task.setK_attached (t : Task) (r : KReg) (v : MaskBits) : (t.setK r v).attached = t.attached := by unfold Task.setK; split <;> rfl
@[simp] theorem Task.setK_debugEv (t : Task) (r : KReg) (v : MaskBits) : (t.setK r v).debugEv = t.debugEv := by unfold Task.setK; split <;> rfl

@[simp] theorem Task.setQueue_rs (t : Task) (q : VReg) (l : List Entry) : (t.setQueue q l).rs = t.rs := rfl
@[simp] theorem Task.setQueue_slot (t : Task) (q : VReg) (l : List Entry) : (t.setQueue q l).slot = t.slot := rfl
@[simp] theorem Task.setQueue_gen (t : Task) (q : VReg) (l : List Entry) : (t.setQueue q l).gen = t.gen := rfl
@[simp] theorem Task.setQueue_pc (t : Task) (q : VReg) (l : List Entry) : (t.setQueue q l).pc = t.pc := rfl
@[simp] theorem Task.setQueue_rep (t : Task) (q : VReg) (l : List Entry) : (t.setQueue q l).rep = t.rep := rfl
@[simp] theorem Task.setQueue_x (t : Task) (q : VReg) (l : List Entry) : (t.setQueue q l).x = t.x := rfl
@[simp] theorem Task.setQueue_p (t : Task) (q : VReg) (l : List Entry) : (t.setQueue q l).p = t.p := rfl
@[simp] theorem Task.setQueue_k (t : Task) (q : VReg) (l : List Entry) : (t.setQueue q l).k = t.k := rfl
@[simp] theorem Task.setQueue_sys (t : Task) (q : VReg) (l : List Entry) : (t.setQueue q l).sys = t.sys := rfl
@[simp] theorem Task.setQueue_cc (t : Task) (q : VReg) (l : List Entry) : (t.setQueue q l).cc = t.cc := rfl
@[simp] theorem Task.setQueue_regions (t : Task) (q : VReg) (l : List Entry) : (t.setQueue q l).regions = t.regions := rfl
@[simp] theorem Task.setQueue_dist (t : Task) (q : VReg) (l : List Entry) : (t.setQueue q l).dist = t.dist := rfl
@[simp] theorem Task.setQueue_limit (t : Task) (q : VReg) (l : List Entry) : (t.setQueue q l).limit = t.limit := rfl
@[simp] theorem Task.setQueue_masks (t : Task) (q : VReg) (l : List Entry) : (t.setQueue q l).masks = t.masks := rfl
@[simp] theorem Task.setQueue_z (t : Task) (q : VReg) (l : List Entry) : (t.setQueue q l).z = t.z := rfl
@[simp] theorem Task.setQueue_mStack (t : Task) (q : VReg) (l : List Entry) : (t.setQueue q l).mStack = t.mStack := rfl
@[simp] theorem Task.setQueue_xStack (t : Task) (q : VReg) (l : List Entry) : (t.setQueue q l).xStack = t.xStack := rfl
@[simp] theorem Task.setQueue_pStack (t : Task) (q : VReg) (l : List Entry) : (t.setQueue q l).pStack = t.pStack := rfl
@[simp] theorem Task.setQueue_sStack (t : Task) (q : VReg) (l : List Entry) : (t.setQueue q l).sStack = t.sStack := rfl
@[simp] theorem Task.setQueue_m (t : Task) (q : VReg) (l : List Entry) : (t.setQueue q l).m = t.m := rfl
@[simp] theorem Task.setQueue_mstats (t : Task) (q : VReg) (l : List Entry) : (t.setQueue q l).mstats = t.mstats := rfl
@[simp] theorem Task.setQueue_xc (t : Task) (q : VReg) (l : List Entry) : (t.setQueue q l).xc = t.xc := rfl
@[simp] theorem Task.setQueue_xlast (t : Task) (q : VReg) (l : List Entry) : (t.setQueue q l).xlast = t.xlast := rfl
@[simp] theorem Task.setQueue_pcfg (t : Task) (q : VReg) (l : List Entry) : (t.setQueue q l).pcfg = t.pcfg := rfl
@[simp] theorem Task.setQueue_metas (t : Task) (q : VReg) (l : List Entry) : (t.setQueue q l).metas = t.metas := rfl
@[simp] theorem Task.setQueue_front (t : Task) (q : VReg) (l : List Entry) : (t.setQueue q l).front = t.front := rfl
@[simp] theorem Task.setQueue_cmds (t : Task) (q : VReg) (l : List Entry) : (t.setQueue q l).cmds = t.cmds := rfl
@[simp] theorem Task.setQueue_nextSeq (t : Task) (q : VReg) (l : List Entry) : (t.setQueue q l).nextSeq = t.nextSeq := rfl
@[simp] theorem Task.setQueue_nt (t : Task) (q : VReg) (l : List Entry) : (t.setQueue q l).nt = t.nt := rfl
@[simp] theorem Task.setQueue_commit (t : Task) (q : VReg) (l : List Entry) : (t.setQueue q l).commit = t.commit := rfl
@[simp] theorem Task.setQueue_held (t : Task) (q : VReg) (l : List Entry) : (t.setQueue q l).held = t.held := rfl
@[simp] theorem Task.setQueue_sessions (t : Task) (q : VReg) (l : List Entry) : (t.setQueue q l).sessions = t.sessions := rfl
@[simp] theorem Task.setQueue_closed (t : Task) (q : VReg) (l : List Entry) : (t.setQueue q l).closed = t.closed := rfl
@[simp] theorem Task.setQueue_wait (t : Task) (q : VReg) (l : List Entry) : (t.setQueue q l).wait = t.wait := rfl
@[simp] theorem Task.setQueue_bars (t : Task) (q : VReg) (l : List Entry) : (t.setQueue q l).bars = t.bars := rfl
@[simp] theorem Task.setQueue_passed (t : Task) (q : VReg) (l : List Entry) : (t.setQueue q l).passed = t.passed := rfl
@[simp] theorem Task.setQueue_cancel (t : Task) (q : VReg) (l : List Entry) : (t.setQueue q l).cancel = t.cancel := rfl
@[simp] theorem Task.setQueue_exited (t : Task) (q : VReg) (l : List Entry) : (t.setQueue q l).exited = t.exited := rfl
@[simp] theorem Task.setQueue_amo (t : Task) (q : VReg) (l : List Entry) : (t.setQueue q l).amo = t.amo := rfl
@[simp] theorem Task.setQueue_attached (t : Task) (q : VReg) (l : List Entry) : (t.setQueue q l).attached = t.attached := rfl
@[simp] theorem Task.setQueue_debugEv (t : Task) (q : VReg) (l : List Entry) : (t.setQueue q l).debugEv = t.debugEv := rfl

/-! ### Registers read back (R18, R19) -/

@[simp] theorem Task.getX_zero (t : Task) : t.getX 0 = 0 := rfl
@[simp] theorem Task.setX_zero (t : Task) (v : Word64) : t.setX 0 v = t := rfl
@[simp] theorem Task.getP_zero (t : Task) : t.getP 0 = true := rfl
@[simp] theorem Task.setP_zero (t : Task) (v : Bool) : t.setP 0 v = t := rfl
@[simp] theorem Task.getK_zero (t : Task) : t.getK 0 = BitVec.allOnes 1024 := rfl
@[simp] theorem Task.setK_zero (t : Task) (v : MaskBits) : t.setK 0 v = t := rfl

theorem Task.getX_setX_same (t : Task) (r : XReg) (v : Word64) (h : r.val ≠ 0) : (t.setX r v).getX r = v := by
  simp [Task.getX, Task.setX, h]

theorem Task.getX_setX_other (t : Task) (r q : XReg) (v : Word64) (h : q ≠ r) : (t.setX r v).getX q = t.getX q := by
  have h' : r.val ≠ q.val := fun e => h (Fin.ext e.symm)
  unfold Task.getX Task.setX
  by_cases hr : r.val = 0 <;> simp [hr, h']

theorem Task.getP_setP_same (t : Task) (r : PReg) (v : Bool) (h : r.val ≠ 0) : (t.setP r v).getP r = v := by
  simp [Task.getP, Task.setP, h]

theorem Task.getP_setP_other (t : Task) (r q : PReg) (v : Bool) (h : q ≠ r) : (t.setP r v).getP q = t.getP q := by
  have h' : r.val ≠ q.val := fun e => h (Fin.ext e.symm)
  unfold Task.getP Task.setP
  by_cases hr : r.val = 0 <;> simp [hr, h']

theorem Task.getK_setK_same (t : Task) (r : KReg) (v : MaskBits) (h : r.val ≠ 0) : (t.setK r v).getK r = v := by
  simp [Task.getK, Task.setK, h]

theorem Task.getK_setK_other (t : Task) (r q : KReg) (v : MaskBits) (h : q ≠ r) : (t.setK r v).getK q = t.getK q := by
  have h' : r.val ≠ q.val := fun e => h (Fin.ext e.symm)
  unfold Task.getK Task.setK
  by_cases hr : r.val = 0 <;> simp [hr, h']

@[simp] theorem Task.getX_advance (t : Task) (n : Nat) (r : XReg) : (t.advance n).getX r = t.getX r := by simp [Task.getX]
@[simp] theorem Task.getP_advance (t : Task) (n : Nat) (r : PReg) : (t.advance n).getP r = t.getP r := by simp [Task.getP]
@[simp] theorem Task.getK_advance (t : Task) (n : Nat) (r : KReg) : (t.advance n).getK r = t.getK r := by simp [Task.getK]
@[simp] theorem Task.queue_advance (t : Task) (n : Nat) (q : VReg) : (t.advance n).queue q = t.queue q := by simp [Task.queue]
@[simp] theorem Task.getX_setP (t : Task) (r : PReg) (v : Bool) (q : XReg) : (t.setP r v).getX q = t.getX q := by simp [Task.getX]
@[simp] theorem Task.getX_setQueue (t : Task) (r : VReg) (l : List Entry) (q : XReg) : (t.setQueue r l).getX q = t.getX q := rfl
@[simp] theorem Task.queue_setX (t : Task) (r : XReg) (v : Word64) (q : VReg) : (t.setX r v).queue q = t.queue q := by simp [Task.queue]

@[simp] theorem Task.queue_setQueue_same (t : Task) (q : VReg) (l : List Entry) : (t.setQueue q l).queue q = l := by
  simp [Task.queue, Task.setQueue]

theorem Task.queue_setQueue_other (t : Task) (q r : VReg) (l : List Entry) (h : r ≠ q) :
    (t.setQueue q l).queue r = t.queue r := by
  have h' : q.val ≠ r.val := fun e => h (Fin.ext e.symm)
  simp [Task.queue, Task.setQueue, h']

end Machine

end Sys2Proof
end

