-- ==== Sys2Proof/Laws/Exec.lean ====
section
/-!
SUPPORT. Laws/Exec.lean: the dispatcher, arm by arm: what `exec` of each constructor calls; and what an advance of a generation
and a note of a put leave.
-/

namespace Sys2Proof

namespace Machine

@[simp] theorem exec_nop {g} (s : State) :
    exec (.nop g) s = execNop g s := rfl
@[simp] theorem exec_trap {g code} (s : State) :
    exec (.trap g code) s = execTrap g code s := rfl
@[simp] theorem exec_brk {g code} (s : State) :
    exec (.brk g code) s = execBrk g code s := rfl
@[simp] theorem exec_mile {g zt ef vq} (s : State) :
    exec (.mile g zt ef vq) s = execMile g zt ef vq s := rfl
@[simp] theorem exec_rep {g cntLess1 d a b c} (s : State) :
    exec (.rep g cntLess1 d a b c) s = execRep g cntLess1 d a b c s := rfl
@[simp] theorem exec_ntdrain {g} (s : State) :
    exec (.ntdrain g) s = execNtdrain g s := rfl
@[simp] theorem exec_exit {g} (s : State) :
    exec (.exit g) s = execExit g s := rfl
@[simp] theorem exec_add {g w rd ra rb} (s : State) :
    exec (.add g w rd ra rb) s = execAdd g w rd ra rb s := rfl
@[simp] theorem exec_sub {g w rd ra rb} (s : State) :
    exec (.sub g w rd ra rb) s = execSub g w rd ra rb s := rfl
@[simp] theorem exec_and {g w rd ra rb} (s : State) :
    exec (.and g w rd ra rb) s = execAnd g w rd ra rb s := rfl
@[simp] theorem exec_or {g w rd ra rb} (s : State) :
    exec (.or g w rd ra rb) s = execOr g w rd ra rb s := rfl
@[simp] theorem exec_xor {g w rd ra rb} (s : State) :
    exec (.xor g w rd ra rb) s = execXor g w rd ra rb s := rfl
@[simp] theorem exec_shl {g w rd ra rb} (s : State) :
    exec (.shl g w rd ra rb) s = execShl g w rd ra rb s := rfl
@[simp] theorem exec_shr {g w rd ra rb} (s : State) :
    exec (.shr g w rd ra rb) s = execShr g w rd ra rb s := rfl
@[simp] theorem exec_sra {g w rd ra rb} (s : State) :
    exec (.sra g w rd ra rb) s = execSra g w rd ra rb s := rfl
@[simp] theorem exec_addi {g rd ra imm} (s : State) :
    exec (.addi g rd ra imm) s = execAddi g rd ra imm s := rfl
@[simp] theorem exec_movi {g rd imm} (s : State) :
    exec (.movi g rd imm) s = execMovi g rd imm s := rfl
@[simp] theorem exec_andi {g rd ra imm} (s : State) :
    exec (.andi g rd ra imm) s = execAndi g rd ra imm s := rfl
@[simp] theorem exec_ori {g rd ra imm} (s : State) :
    exec (.ori g rd ra imm) s = execOri g rd ra imm s := rfl
@[simp] theorem exec_xori {g rd ra imm} (s : State) :
    exec (.xori g rd ra imm) s = execXori g rd ra imm s := rfl
@[simp] theorem exec_shli {g rd ra imm} (s : State) :
    exec (.shli g rd ra imm) s = execShli g rd ra imm s := rfl
@[simp] theorem exec_shri {g rd ra imm} (s : State) :
    exec (.shri g rd ra imm) s = execShri g rd ra imm s := rfl
@[simp] theorem exec_srai {g rd ra imm} (s : State) :
    exec (.srai g rd ra imm) s = execSrai g rd ra imm s := rfl
@[simp] theorem exec_addiLit {g rd ra lit} (s : State) :
    exec (.addiLit g rd ra lit) s = execAddiLit g rd ra lit s := rfl
@[simp] theorem exec_moviLit {g rd lit} (s : State) :
    exec (.moviLit g rd lit) s = execMoviLit g rd lit s := rfl
@[simp] theorem exec_andiLit {g rd ra lit} (s : State) :
    exec (.andiLit g rd ra lit) s = execAndiLit g rd ra lit s := rfl
@[simp] theorem exec_oriLit {g rd ra lit} (s : State) :
    exec (.oriLit g rd ra lit) s = execOriLit g rd ra lit s := rfl
@[simp] theorem exec_xoriLit {g rd ra lit} (s : State) :
    exec (.xoriLit g rd ra lit) s = execXoriLit g rd ra lit s := rfl
@[simp] theorem exec_shliLit {g rd ra lit} (s : State) :
    exec (.shliLit g rd ra lit) s = execShliLit g rd ra lit s := rfl
@[simp] theorem exec_shriLit {g rd ra lit} (s : State) :
    exec (.shriLit g rd ra lit) s = execShriLit g rd ra lit s := rfl
@[simp] theorem exec_sraiLit {g rd ra lit} (s : State) :
    exec (.sraiLit g rd ra lit) s = execSraiLit g rd ra lit s := rfl
@[simp] theorem exec_mul {g w rd ra rb} (s : State) :
    exec (.mul g w rd ra rb) s = execMul g w rd ra rb s := rfl
@[simp] theorem exec_mulh {g w rd ra rb} (s : State) :
    exec (.mulh g w rd ra rb) s = execMulh g w rd ra rb s := rfl
@[simp] theorem exec_mulhu {g w rd ra rb} (s : State) :
    exec (.mulhu g w rd ra rb) s = execMulhu g w rd ra rb s := rfl
@[simp] theorem exec_div {g w rd ra rb} (s : State) :
    exec (.div g w rd ra rb) s = execDiv g w rd ra rb s := rfl
@[simp] theorem exec_divu {g w rd ra rb} (s : State) :
    exec (.divu g w rd ra rb) s = execDivu g w rd ra rb s := rfl
@[simp] theorem exec_rem {g w rd ra rb} (s : State) :
    exec (.rem g w rd ra rb) s = execRem g w rd ra rb s := rfl
@[simp] theorem exec_remu {g w rd ra rb} (s : State) :
    exec (.remu g w rd ra rb) s = execRemu g w rd ra rb s := rfl
@[simp] theorem exec_min {g w rd ra rb} (s : State) :
    exec (.min g w rd ra rb) s = execMin g w rd ra rb s := rfl
@[simp] theorem exec_max {g w rd ra rb} (s : State) :
    exec (.max g w rd ra rb) s = execMax g w rd ra rb s := rfl
@[simp] theorem exec_minu {g w rd ra rb} (s : State) :
    exec (.minu g w rd ra rb) s = execMinu g w rd ra rb s := rfl
@[simp] theorem exec_maxu {g w rd ra rb} (s : State) :
    exec (.maxu g w rd ra rb) s = execMaxu g w rd ra rb s := rfl
@[simp] theorem exec_clz {g w rd ra} (s : State) :
    exec (.clz g w rd ra) s = execClz g w rd ra s := rfl
@[simp] theorem exec_ctz {g w rd ra} (s : State) :
    exec (.ctz g w rd ra) s = execCtz g w rd ra s := rfl
@[simp] theorem exec_popc {g w rd ra} (s : State) :
    exec (.popc g w rd ra) s = execPopc g w rd ra s := rfl
@[simp] theorem exec_rol {g w rd ra rb} (s : State) :
    exec (.rol g w rd ra rb) s = execRol g w rd ra rb s := rfl
@[simp] theorem exec_sext {g rd ra n} (s : State) :
    exec (.sext g rd ra n) s = execSext g rd ra n s := rfl
@[simp] theorem exec_zext {g rd ra n} (s : State) :
    exec (.zext g rd ra n) s = execZext g rd ra n s := rfl
@[simp] theorem exec_bfx {g rd ra pos wid} (s : State) :
    exec (.bfx g rd ra pos wid) s = execBfx g rd ra pos wid s := rfl
@[simp] theorem exec_bfi {g rd ra pos wid} (s : State) :
    exec (.bfi g rd ra pos wid) s = execBfi g rd ra pos wid s := rfl
@[simp] theorem exec_lea {g sh rd ra rb} (s : State) :
    exec (.lea g sh rd ra rb) s = execLea g sh rd ra rb s := rfl
@[simp] theorem exec_cmp {g c pd pe ra rb} (s : State) :
    exec (.cmp g c pd pe ra rb) s = execCmp g c pd pe ra rb s := rfl
@[simp] theorem exec_cmpi {g c pd pe ra imm} (s : State) :
    exec (.cmpi g c pd pe ra imm) s = execCmpi g c pd pe ra imm s := rfl
@[simp] theorem exec_cmpiLit {g c pd pe ra lit} (s : State) :
    exec (.cmpiLit g c pd pe ra lit) s = execCmpiLit g c pd pe ra lit s := rfl
@[simp] theorem exec_pand {g pd pa pb} (s : State) :
    exec (.pand g pd pa pb) s = execPand g pd pa pb s := rfl
@[simp] theorem exec_por {g pd pa pb} (s : State) :
    exec (.por g pd pa pb) s = execPor g pd pa pb s := rfl
@[simp] theorem exec_pxor {g pd pa pb} (s : State) :
    exec (.pxor g pd pa pb) s = execPxor g pd pa pb s := rfl
@[simp] theorem exec_pandn {g pd pa pb} (s : State) :
    exec (.pandn g pd pa pb) s = execPandn g pd pa pb s := rfl
@[simp] theorem exec_pnot {g pd pa} (s : State) :
    exec (.pnot g pd pa) s = execPnot g pd pa s := rfl
@[simp] theorem exec_pmov {g pd pa} (s : State) :
    exec (.pmov g pd pa) s = execPmov g pd pa s := rfl
@[simp] theorem exec_pset {g pd} (s : State) :
    exec (.pset g pd) s = execPset g pd s := rfl
@[simp] theorem exec_pclr {g pd} (s : State) :
    exec (.pclr g pd) s = execPclr g pd s := rfl
@[simp] theorem exec_br {g disp} (s : State) :
    exec (.br g disp) s = execBr g disp s := rfl
@[simp] theorem exec_call {g disp} (s : State) :
    exec (.call g disp) s = execCall g disp s := rfl
@[simp] theorem exec_jmp {g ra} (s : State) :
    exec (.jmp g ra) s = execJmp g ra s := rfl
@[simp] theorem exec_callr {g rd ra} (s : State) :
    exec (.callr g rd ra) s = execCallr g rd ra s := rfl
@[simp] theorem exec_ret {g ra} (s : State) :
    exec (.ret g ra) s = execRet g ra s := rfl
@[simp] theorem exec_ldB {g cls sx rd ra disp} (s : State) :
    exec (.ldB g cls sx rd ra disp) s = execLdB g cls sx rd ra disp s := rfl
@[simp] theorem exec_ldH {g cls sx rd ra disp} (s : State) :
    exec (.ldH g cls sx rd ra disp) s = execLdH g cls sx rd ra disp s := rfl
@[simp] theorem exec_ldW {g cls sx rd ra disp} (s : State) :
    exec (.ldW g cls sx rd ra disp) s = execLdW g cls sx rd ra disp s := rfl
@[simp] theorem exec_ldD {g cls rd ra disp} (s : State) :
    exec (.ldD g cls rd ra disp) s = execLdD g cls rd ra disp s := rfl
@[simp] theorem exec_ldBLit {g cls sx rd ra lit} (s : State) :
    exec (.ldBLit g cls sx rd ra lit) s = execLdBLit g cls sx rd ra lit s := rfl
@[simp] theorem exec_ldHLit {g cls sx rd ra lit} (s : State) :
    exec (.ldHLit g cls sx rd ra lit) s = execLdHLit g cls sx rd ra lit s := rfl
@[simp] theorem exec_ldWLit {g cls sx rd ra lit} (s : State) :
    exec (.ldWLit g cls sx rd ra lit) s = execLdWLit g cls sx rd ra lit s := rfl
@[simp] theorem exec_ldDLit {g cls rd ra lit} (s : State) :
    exec (.ldDLit g cls rd ra lit) s = execLdDLit g cls rd ra lit s := rfl
@[simp] theorem exec_stB {g cls nt rs ra disp} (s : State) :
    exec (.stB g cls nt rs ra disp) s = execStB g cls nt rs ra disp s := rfl
@[simp] theorem exec_stH {g cls nt rs ra disp} (s : State) :
    exec (.stH g cls nt rs ra disp) s = execStH g cls nt rs ra disp s := rfl
@[simp] theorem exec_stW {g cls nt rs ra disp} (s : State) :
    exec (.stW g cls nt rs ra disp) s = execStW g cls nt rs ra disp s := rfl
@[simp] theorem exec_stD {g cls nt rs ra disp} (s : State) :
    exec (.stD g cls nt rs ra disp) s = execStD g cls nt rs ra disp s := rfl
@[simp] theorem exec_stBLit {g cls nt rs ra lit} (s : State) :
    exec (.stBLit g cls nt rs ra lit) s = execStBLit g cls nt rs ra lit s := rfl
@[simp] theorem exec_stHLit {g cls nt rs ra lit} (s : State) :
    exec (.stHLit g cls nt rs ra lit) s = execStHLit g cls nt rs ra lit s := rfl
@[simp] theorem exec_stWLit {g cls nt rs ra lit} (s : State) :
    exec (.stWLit g cls nt rs ra lit) s = execStWLit g cls nt rs ra lit s := rfl
@[simp] theorem exec_stDLit {g cls nt rs ra lit} (s : State) :
    exec (.stDLit g cls nt rs ra lit) s = execStDLit g cls nt rs ra lit s := rfl
@[simp] theorem exec_aadd {g w rd ra rb} (s : State) :
    exec (.aadd g w rd ra rb) s = execAadd g w rd ra rb s := rfl
@[simp] theorem exec_aand {g w rd ra rb} (s : State) :
    exec (.aand g w rd ra rb) s = execAand g w rd ra rb s := rfl
@[simp] theorem exec_aor {g w rd ra rb} (s : State) :
    exec (.aor g w rd ra rb) s = execAor g w rd ra rb s := rfl
@[simp] theorem exec_axor {g w rd ra rb} (s : State) :
    exec (.axor g w rd ra rb) s = execAxor g w rd ra rb s := rfl
@[simp] theorem exec_amin {g w rd ra rb} (s : State) :
    exec (.amin g w rd ra rb) s = execAmin g w rd ra rb s := rfl
@[simp] theorem exec_amax {g w rd ra rb} (s : State) :
    exec (.amax g w rd ra rb) s = execAmax g w rd ra rb s := rfl
@[simp] theorem exec_aswap {g w rd ra rb} (s : State) :
    exec (.aswap g w rd ra rb) s = execAswap g w rd ra rb s := rfl
@[simp] theorem exec_cas {g w rd ra rb} (s : State) :
    exec (.cas g w rd ra rb) s = execCas g w rd ra rb s := rfl
@[simp] theorem exec_spawn {g rd ra rb} (s : State) :
    exec (.spawn g rd ra rb) s = execSpawn g rd ra rb s := rfl
@[simp] theorem exec_launch {g rd ra} (s : State) :
    exec (.launch g rd ra) s = execLaunch g rd ra s := rfl
@[simp] theorem exec_join {g rd ra rb n} (s : State) :
    exec (.join g rd ra rb n) s = execJoin g rd ra rb n s := rfl
@[simp] theorem exec_cancel {g rd ra} (s : State) :
    exec (.cancel g rd ra) s = execCancel g rd ra s := rfl
@[simp] theorem exec_waitc {g ra rb} (s : State) :
    exec (.waitc g ra rb) s = execWaitc g ra rb s := rfl
@[simp] theorem exec_bar {g} (s : State) :
    exec (.bar g) s = execBar g s := rfl
@[simp] theorem exec_tid {g rd} (s : State) :
    exec (.tid g rd) s = execTid g rd s := rfl
@[simp] theorem exec_ctopen {g ra} (s : State) :
    exec (.ctopen g ra) s = execCtopen g ra s := rfl
@[simp] theorem exec_ctclose {g} (s : State) :
    exec (.ctclose g) s = execCtclose g s := rfl
@[simp] theorem exec_csrr {g rd n} (s : State) :
    exec (.csrr g rd n) s = execCsrr g rd n s := rfl
@[simp] theorem exec_csrw {g rs n} (s : State) :
    exec (.csrw g rs n) s = execCsrw g rs n s := rfl
@[simp] theorem exec_csrs {g rs n} (s : State) :
    exec (.csrs g rs n) s = execCsrs g rs n s := rfl
@[simp] theorem exec_csrc {g rs n} (s : State) :
    exec (.csrc g rs n) s = execCsrc g rs n s := rfl
@[simp] theorem exec_vget {g sz rd va rb} (s : State) :
    exec (.vget g sz rd va rb) s = execVget g sz rd va rb s := rfl
@[simp] theorem exec_kpopc {g rd ka} (s : State) :
    exec (.kpopc g rd ka) s = execKpopc g rd ka s := rfl
@[simp] theorem exec_kfirst {g rd ka} (s : State) :
    exec (.kfirst g rd ka) s = execKfirst g rd ka s := rfl
@[simp] theorem exec_kgetw {g rd ka rb} (s : State) :
    exec (.kgetw g rd ka rb) s = execKgetw g rd ka rb s := rfl
@[simp] theorem exec_ksetw {g kd ra rb} (s : State) :
    exec (.ksetw g kd ra rb) s = execKsetw g kd ra rb s := rfl
@[simp] theorem exec_future {head rest} (s : State) :
    exec (.future head rest) s = execFuture head rest s := rfl
@[simp] theorem exec_vld {f} (s : State) :
    exec (.vld f) s = execVld f s := rfl
@[simp] theorem exec_vlds {f} (s : State) :
    exec (.vlds f) s = execVlds f s := rfl
@[simp] theorem exec_vldg {f} (s : State) :
    exec (.vldg f) s = execVldg f s := rfl
@[simp] theorem exec_vldt {f} (s : State) :
    exec (.vldt f) s = execVldt f s := rfl
@[simp] theorem exec_vldth {f} (s : State) :
    exec (.vldth f) s = execVldth f s := rfl
@[simp] theorem exec_vldb {f} (s : State) :
    exec (.vldb f) s = execVldb f s := rfl
@[simp] theorem exec_vst {f} (s : State) :
    exec (.vst f) s = execVst f s := rfl
@[simp] theorem exec_vsts {f} (s : State) :
    exec (.vsts f) s = execVsts f s := rfl
@[simp] theorem exec_vstx {f} (s : State) :
    exec (.vstx f) s = execVstx f s := rfl
@[simp] theorem exec_vstt {f} (s : State) :
    exec (.vstt f) s = execVstt f s := rfl
@[simp] theorem exec_vstn {f} (s : State) :
    exec (.vstn f) s = execVstn f s := rfl
@[simp] theorem exec_vamo {op f} (s : State) :
    exec (.vamo op f) s = execVamo op f s := rfl
@[simp] theorem exec_vadd {f} (s : State) :
    exec (.vadd f) s = execVadd f s := rfl
@[simp] theorem exec_vsub {f} (s : State) :
    exec (.vsub f) s = execVsub f s := rfl
@[simp] theorem exec_vmul {f} (s : State) :
    exec (.vmul f) s = execVmul f s := rfl
@[simp] theorem exec_vmulh {f} (s : State) :
    exec (.vmulh f) s = execVmulh f s := rfl
@[simp] theorem exec_vmin {f} (s : State) :
    exec (.vmin f) s = execVmin f s := rfl
@[simp] theorem exec_vmax {f} (s : State) :
    exec (.vmax f) s = execVmax f s := rfl
@[simp] theorem exec_vabs {f} (s : State) :
    exec (.vabs f) s = execVabs f s := rfl
@[simp] theorem exec_vneg {f} (s : State) :
    exec (.vneg f) s = execVneg f s := rfl
@[simp] theorem exec_vmad {f} (s : State) :
    exec (.vmad f) s = execVmad f s := rfl
@[simp] theorem exec_vmsub {f} (s : State) :
    exec (.vmsub f) s = execVmsub f s := rfl
@[simp] theorem exec_vaddsat {f} (s : State) :
    exec (.vaddsat f) s = execVaddsat f s := rfl
@[simp] theorem exec_vsubsat {f} (s : State) :
    exec (.vsubsat f) s = execVsubsat f s := rfl
@[simp] theorem exec_vand {f} (s : State) :
    exec (.vand f) s = execVand f s := rfl
@[simp] theorem exec_vor {f} (s : State) :
    exec (.vor f) s = execVor f s := rfl
@[simp] theorem exec_vxor {f} (s : State) :
    exec (.vxor f) s = execVxor f s := rfl
@[simp] theorem exec_vandn {f} (s : State) :
    exec (.vandn f) s = execVandn f s := rfl
@[simp] theorem exec_vnot {f} (s : State) :
    exec (.vnot f) s = execVnot f s := rfl
@[simp] theorem exec_vshl {f} (s : State) :
    exec (.vshl f) s = execVshl f s := rfl
@[simp] theorem exec_vshr {f} (s : State) :
    exec (.vshr f) s = execVshr f s := rfl
@[simp] theorem exec_vsra {f} (s : State) :
    exec (.vsra f) s = execVsra f s := rfl
@[simp] theorem exec_vpopc {f} (s : State) :
    exec (.vpopc f) s = execVpopc f s := rfl
@[simp] theorem exec_vclz {f} (s : State) :
    exec (.vclz f) s = execVclz f s := rfl
@[simp] theorem exec_vctz {f} (s : State) :
    exec (.vctz f) s = execVctz f s := rfl
@[simp] theorem exec_vbrev {f} (s : State) :
    exec (.vbrev f) s = execVbrev f s := rfl
@[simp] theorem exec_vfadd {f} (s : State) :
    exec (.vfadd f) s = execVfadd f s := rfl
@[simp] theorem exec_vfsub {f} (s : State) :
    exec (.vfsub f) s = execVfsub f s := rfl
@[simp] theorem exec_vfmul {f} (s : State) :
    exec (.vfmul f) s = execVfmul f s := rfl
@[simp] theorem exec_vfmin {f} (s : State) :
    exec (.vfmin f) s = execVfmin f s := rfl
@[simp] theorem exec_vfmax {f} (s : State) :
    exec (.vfmax f) s = execVfmax f s := rfl
@[simp] theorem exec_vfabs {f} (s : State) :
    exec (.vfabs f) s = execVfabs f s := rfl
@[simp] theorem exec_vfneg {f} (s : State) :
    exec (.vfneg f) s = execVfneg f s := rfl
@[simp] theorem exec_vfsgn {f} (s : State) :
    exec (.vfsgn f) s = execVfsgn f s := rfl
@[simp] theorem exec_vfma {f} (s : State) :
    exec (.vfma f) s = execVfma f s := rfl
@[simp] theorem exec_vfms {f} (s : State) :
    exec (.vfms f) s = execVfms f s := rfl
@[simp] theorem exec_vfnma {f} (s : State) :
    exec (.vfnma f) s = execVfnma f s := rfl
@[simp] theorem exec_vfnms {f} (s : State) :
    exec (.vfnms f) s = execVfnms f s := rfl
@[simp] theorem exec_vrsqa {f} (s : State) :
    exec (.vrsqa f) s = execVrsqa f s := rfl
@[simp] theorem exec_vrcpa {f} (s : State) :
    exec (.vrcpa f) s = execVrcpa f s := rfl
@[simp] theorem exec_vexpa {f} (s : State) :
    exec (.vexpa f) s = execVexpa f s := rfl
@[simp] theorem exec_vloga {f} (s : State) :
    exec (.vloga f) s = execVloga f s := rfl
@[simp] theorem exec_vsqrt {f} (s : State) :
    exec (.vsqrt f) s = execVsqrt f s := rfl
@[simp] theorem exec_vfdiv {f} (s : State) :
    exec (.vfdiv f) s = execVfdiv f s := rfl
@[simp] theorem exec_vcmp {c f} (s : State) :
    exec (.vcmp c f) s = execVcmp c f s := rfl
@[simp] theorem exec_vsel {f} (s : State) :
    exec (.vsel f) s = execVsel f s := rfl
@[simp] theorem exec_vmov {f} (s : State) :
    exec (.vmov f) s = execVmov f s := rfl
@[simp] theorem exec_viota {f} (s : State) :
    exec (.viota f) s = execViota f s := rfl
@[simp] theorem exec_vbcast {f} (s : State) :
    exec (.vbcast f) s = execVbcast f s := rfl
@[simp] theorem exec_vpop {f} (s : State) :
    exec (.vpop f) s = execVpop f s := rfl
@[simp] theorem exec_vperm {f} (s : State) :
    exec (.vperm f) s = execVperm f s := rfl
@[simp] theorem exec_vslideup {f} (s : State) :
    exec (.vslideup f) s = execVslideup f s := rfl
@[simp] theorem exec_vslidedn {f} (s : State) :
    exec (.vslidedn f) s = execVslidedn f s := rfl
@[simp] theorem exec_vzip {f} (s : State) :
    exec (.vzip f) s = execVzip f s := rfl
@[simp] theorem exec_vunzip {f} (s : State) :
    exec (.vunzip f) s = execVunzip f s := rfl
@[simp] theorem exec_vrev {f} (s : State) :
    exec (.vrev f) s = execVrev f s := rfl
@[simp] theorem exec_vrsum {f} (s : State) :
    exec (.vrsum f) s = execVrsum f s := rfl
@[simp] theorem exec_vrmin {f} (s : State) :
    exec (.vrmin f) s = execVrmin f s := rfl
@[simp] theorem exec_vrmax {f} (s : State) :
    exec (.vrmax f) s = execVrmax f s := rfl
@[simp] theorem exec_vfrsum {f} (s : State) :
    exec (.vfrsum f) s = execVfrsum f s := rfl
@[simp] theorem exec_vfrmin {f} (s : State) :
    exec (.vfrmin f) s = execVfrmin f s := rfl
@[simp] theorem exec_vfrmax {f} (s : State) :
    exec (.vfrmax f) s = execVfrmax f s := rfl
@[simp] theorem exec_vrand {f} (s : State) :
    exec (.vrand f) s = execVrand f s := rfl
@[simp] theorem exec_vror {f} (s : State) :
    exec (.vror f) s = execVror f s := rfl
@[simp] theorem exec_vwadd {f} (s : State) :
    exec (.vwadd f) s = execVwadd f s := rfl
@[simp] theorem exec_vwmul {f} (s : State) :
    exec (.vwmul f) s = execVwmul f s := rfl
@[simp] theorem exec_vwmad {f} (s : State) :
    exec (.vwmad f) s = execVwmad f s := rfl
@[simp] theorem exec_vwcvt {f} (s : State) :
    exec (.vwcvt f) s = execVwcvt f s := rfl
@[simp] theorem exec_vwcvt4 {f} (s : State) :
    exec (.vwcvt4 f) s = execVwcvt4 f s := rfl
@[simp] theorem exec_vnsat {f} (s : State) :
    exec (.vnsat f) s = execVnsat f s := rfl
@[simp] theorem exec_vntrunc {f} (s : State) :
    exec (.vntrunc f) s = execVntrunc f s := rfl
@[simp] theorem exec_vcvt {f} (s : State) :
    exec (.vcvt f) s = execVcvt f s := rfl
@[simp] theorem exec_vcvts {f} (s : State) :
    exec (.vcvts f) s = execVcvts f s := rfl
@[simp] theorem exec_vcvtd {f} (s : State) :
    exec (.vcvtd f) s = execVcvtd f s := rfl
@[simp] theorem exec_vcvtq {f} (s : State) :
    exec (.vcvtq f) s = execVcvtq f s := rfl
@[simp] theorem exec_vcks {f} (s : State) :
    exec (.vcks f) s = execVcks f s := rfl
@[simp] theorem exec_vckv {f} (s : State) :
    exec (.vckv f) s = execVckv f s := rfl
@[simp] theorem exec_vckx {f} (s : State) :
    exec (.vckx f) s = execVckx f s := rfl
@[simp] theorem exec_vcki {f} (s : State) :
    exec (.vcki f) s = execVcki f s := rfl
@[simp] theorem exec_kand {f} (s : State) :
    exec (.kand f) s = execKand f s := rfl
@[simp] theorem exec_kor {f} (s : State) :
    exec (.kor f) s = execKor f s := rfl
@[simp] theorem exec_kxor {f} (s : State) :
    exec (.kxor f) s = execKxor f s := rfl
@[simp] theorem exec_kandn {f} (s : State) :
    exec (.kandn f) s = execKandn f s := rfl
@[simp] theorem exec_knot {f} (s : State) :
    exec (.knot f) s = execKnot f s := rfl
@[simp] theorem exec_kmov {f} (s : State) :
    exec (.kmov f) s = execKmov f s := rfl
@[simp] theorem exec_kset {f} (s : State) :
    exec (.kset f) s = execKset f s := rfl
@[simp] theorem exec_kclr {f} (s : State) :
    exec (.kclr f) s = execKclr f s := rfl
@[simp] theorem exec_lit {e n} (s : State) :
    exec (.lit e n) s = execLit e n s := rfl
@[simp] theorem exec_lith {e n} (s : State) :
    exec (.lith e n) s = execLith e n s := rfl
@[simp] theorem exec_lit32 {e n} (s : State) :
    exec (.lit32 e n) s = execLit32 e n s := rfl
@[simp] theorem exec_dup {e} (s : State) :
    exec (.dup e) s = execDup e s := rfl
@[simp] theorem exec_drop {e} (s : State) :
    exec (.drop e) s = execDrop e s := rfl
@[simp] theorem exec_swap {e} (s : State) :
    exec (.swap e) s = execSwap e s := rfl
@[simp] theorem exec_over {e} (s : State) :
    exec (.over e) s = execOver e s := rfl
@[simp] theorem exec_rot {e} (s : State) :
    exec (.rot e) s = execRot e s := rfl
@[simp] theorem exec_mSbase {wspace st} (s : State) :
    exec (.mSbase wspace st) s = execMSbase wspace st s := rfl
@[simp] theorem exec_mSfmt {st} (s : State) :
    exec (.mSfmt st) s = execMSfmt st s := rfl
@[simp] theorem exec_mSgeo {st} (s : State) :
    exec (.mSgeo st) s = execMSgeo st s := rfl
@[simp] theorem exec_mSscl {st} (s : State) :
    exec (.mSscl st) s = execMSscl st s := rfl
@[simp] theorem exec_mSidx {st} (s : State) :
    exec (.mSidx st) s = execMSidx st s := rfl
@[simp] theorem exec_mSout {st} (s : State) :
    exec (.mSout st) s = execMSout st s := rfl
@[simp] theorem exec_mNest {level} (s : State) :
    exec (.mNest level) s = execMNest level s := rfl
@[simp] theorem exec_mTrack {t} (s : State) :
    exec (.mTrack t) s = execMTrack t s := rfl
@[simp] theorem exec_mGo {outl clr z} (s : State) :
    exec (.mGo outl clr z) s = execMGo outl clr z s := rfl
@[simp] theorem exec_mZero {z} (s : State) :
    exec (.mZero z) s = execMZero z s := rfl
@[simp] theorem exec_mLoad {heal z} (s : State) :
    exec (.mLoad heal z) s = execMLoad heal z s := rfl
@[simp] theorem exec_mStore {z} (s : State) :
    exec (.mStore z) s = execMStore z s := rfl
@[simp] theorem exec_mStat {sel} (s : State) :
    exec (.mStat sel) s = execMStat sel s := rfl
@[simp] theorem exec_mTol {n} (s : State) :
    exec (.mTol n) s = execMTol n s := rfl
@[simp] theorem exec_xSrc {space} (s : State) :
    exec (.xSrc space) s = execXSrc space s := rfl
@[simp] theorem exec_xDst {space} (s : State) :
    exec (.xDst space) s = execXDst space s := rfl
@[simp] theorem exec_xCk {kind} (s : State) :
    exec (.xCk kind) s = execXCk kind s := rfl
@[simp] theorem exec_xGo {adv b4 track} (s : State) :
    exec (.xGo adv b4 track) s = execXGo adv b4 track s := rfl
@[simp] theorem exec_xFill {adv b4 track} (s : State) :
    exec (.xFill adv b4 track) s = execXFill adv b4 track s := rfl
@[simp] theorem exec_xWprog {adv track} (s : State) :
    exec (.xWprog adv track) s = execXWprog adv track s := rfl
@[simp] theorem exec_xWverify {adv track} (s : State) :
    exec (.xWverify adv track) s = execXWverify adv track s := rfl
@[simp] theorem exec_pStat {sel} (s : State) :
    exec (.pStat sel) s = execPStat sel s := rfl
@[simp] theorem exec_sOpen {sel} (s : State) :
    exec (.sOpen sel) s = execSOpen sel s := rfl
@[simp] theorem exec_sAbs {n} (s : State) :
    exec (.sAbs n) s = execSAbs n s := rfl
@[simp] theorem exec_sFin {n} (s : State) :
    exec (.sFin n) s = execSFin n s := rfl
@[simp] theorem exec_sAbt {n} (s : State) :
    exec (.sAbt n) s = execSAbt n s := rfl
@[simp] theorem exec_sQry {n} (s : State) :
    exec (.sQry n) s = execSQry n s := rfl
@[simp] theorem exec_mNclr (s : State) :
    exec .mNclr s = execMNclr s := rfl
@[simp] theorem exec_mWaitc (s : State) :
    exec .mWaitc s = execMWaitc s := rfl
@[simp] theorem exec_mDith (s : State) :
    exec .mDith s = execMDith s := rfl
@[simp] theorem exec_xLen (s : State) :
    exec .xLen s = execXLen s := rfl
@[simp] theorem exec_xStr (s : State) :
    exec .xStr s = execXStr s := rfl
@[simp] theorem exec_xCke (s : State) :
    exec .xCke s = execXCke s := rfl
@[simp] theorem exec_xMod (s : State) :
    exec .xMod s = execXMod s := rfl
@[simp] theorem exec_xWaitc (s : State) :
    exec .xWaitc s = execXWaitc s := rfl
@[simp] theorem exec_xCkget (s : State) :
    exec .xCkget s = execXCkget s := rfl
@[simp] theorem exec_pCfg (s : State) :
    exec .pCfg s = execPCfg s := rfl
@[simp] theorem exec_pClr (s : State) :
    exec .pClr s = execPClr s := rfl
@[simp] theorem exec_pIns (s : State) :
    exec .pIns s = execPIns s := rfl
@[simp] theorem exec_pMerge (s : State) :
    exec .pMerge s = execPMerge s := rfl
@[simp] theorem exec_pSave (s : State) :
    exec .pSave s = execPSave s := rfl
@[simp] theorem exec_pLoad (s : State) :
    exec .pLoad s = execPLoad s := rfl
@[simp] theorem exec_pCnt (s : State) :
    exec .pCnt s = execPCnt s := rfl
@[simp] theorem exec_pSpill (s : State) :
    exec .pSpill s = execPSpill s := rfl
@[simp] theorem exec_sMeta (s : State) :
    exec .sMeta s = execSMeta s := rfl
@[simp] theorem exec_matrixBlock {c seq} (s : State) :
    exec (.matrixBlock c seq) s = execMatrixBlock c seq s := rfl
@[simp] theorem exec_mCommandComplete {c seq} (s : State) :
    exec (.mCommandComplete c seq) s = execMCommandComplete c seq s := rfl
@[simp] theorem exec_xChunk {c seq} (s : State) :
    exec (.xChunk c seq) s = execXChunk c seq s := rfl
@[simp] theorem exec_xCommandComplete {c seq} (s : State) :
    exec (.xCommandComplete c seq) s = execXCommandComplete c seq s := rfl
@[simp] theorem exec_pArrival {c} (s : State) :
    exec (.pArrival c) s = execPArrival c s := rfl
@[simp] theorem exec_sAbsorbBlock {c seq} (s : State) :
    exec (.sAbsorbBlock c seq) s = execSAbsorbBlock c seq s := rfl
@[simp] theorem exec_signatureComplete {c seq} (s : State) :
    exec (.signatureComplete c seq) s = execSignatureComplete c seq s := rfl
@[simp] theorem exec_waitcSatisfied {c} (s : State) :
    exec (.waitcSatisfied c) s = execWaitcSatisfied c s := rfl
@[simp] theorem exec_waitingWordSatisfied {c seq} (s : State) :
    exec (.waitingWordSatisfied c seq) s = execWaitingWordSatisfied c seq s := rfl
@[simp] theorem exec_waitOverdue {c word} (s : State) :
    exec (.waitOverdue c word) s = execWaitOverdue c word s := rfl
@[simp] theorem exec_milestoneOverdue {c} (s : State) :
    exec (.milestoneOverdue c) s = execMilestoneOverdue c s := rfl
@[simp] theorem exec_freeze {c} (s : State) :
    exec (.freeze c) s = execFreeze c s := rfl
@[simp] theorem exec_freezeEnd {c} (s : State) :
    exec (.freezeEnd c) s = execFreezeEnd c s := rfl
@[simp] theorem exec_freezeOverdue {c} (s : State) :
    exec (.freezeOverdue c) s = execFreezeOverdue c s := rfl
@[simp] theorem exec_timingReplay {c again} (s : State) :
    exec (.timingReplay c again) s = execTimingReplay c again s := rfl
@[simp] theorem exec_laneTest {c matrix lane} (s : State) :
    exec (.laneTest c matrix lane) s = execLaneTest c matrix lane s := rfl
@[simp] theorem exec_wakeTest {c pass} (s : State) :
    exec (.wakeTest c pass) s = execWakeTest c pass s := rfl
@[simp] theorem exec_preemptionRequest {c} (s : State) :
    exec (.preemptionRequest c) s = execPreemptionRequest c s := rfl
@[simp] theorem exec_contextSave {c torn} (s : State) :
    exec (.contextSave c torn) s = execContextSave c torn s := rfl
@[simp] theorem exec_resume {c idx} (s : State) :
    exec (.resume c idx) s = execResume c idx s := rfl
@[simp] theorem exec_dispatchDecision {k cores} (s : State) :
    exec (.dispatchDecision k cores) s = execDispatchDecision k cores s := rfl
@[simp] theorem exec_inputStaging {c} (s : State) :
    exec (.inputStaging c) s = execInputStaging c s := rfl
@[simp] theorem exec_dispatch {c resid} (s : State) :
    exec (.dispatch c resid) s = execDispatch c resid s := rfl
@[simp] theorem exec_taskRetire {c} (s : State) :
    exec (.taskRetire c) s = execTaskRetire c s := rfl
@[simp] theorem exec_barrierRelease {job launch} (s : State) :
    exec (.barrierRelease job launch) s = execBarrierRelease job launch s := rfl
@[simp] theorem exec_generationSweep {job gen} (s : State) :
    exec (.generationSweep job gen) s = execGenerationSweep job gen s := rfl
@[simp] theorem exec_atomicGrant {k} (s : State) :
    exec (.atomicGrant k) s = execAtomicGrant k s := rfl
@[simp] theorem exec_trapPost {c} (s : State) :
    exec (.trapPost c) s = execTrapPost c s := rfl
@[simp] theorem exec_trapResume {k slot edits} (s : State) :
    exec (.trapResume k slot edits) s = execTrapResume k slot edits s := rfl
@[simp] theorem exec_trapKill {k slot} (s : State) :
    exec (.trapKill k slot) s = execTrapKill k slot s := rfl
@[simp] theorem exec_causewayRepair {d col failing met} (s : State) :
    exec (.causewayRepair d col failing met) s = execCausewayRepair d col failing met s := rfl
@[simp] theorem exec_causewayRepairComplete {d col} (s : State) :
    exec (.causewayRepairComplete d col) s = execCausewayRepairComplete d col s := rfl
@[simp] theorem exec_weightRowProgram {d readBack} (s : State) :
    exec (.weightRowProgram d readBack) s = execWeightRowProgram d readBack s := rfl
@[simp] theorem exec_bankTooHot {d bank} (s : State) :
    exec (.bankTooHot d bank) s = execBankTooHot d bank s := rfl
@[simp] theorem exec_bankCooled {d bank} (s : State) :
    exec (.bankCooled d bank) s = execBankCooled d bank s := rfl
@[simp] theorem exec_remappingStep {d bad} (s : State) :
    exec (.remappingStep d bad) s = execRemappingStep d bad s := rfl
@[simp] theorem exec_powerGood {bad hot bar2} (s : State) :
    exec (.powerGood bad hot bar2) s = execPowerGood bad hot bar2 s := rfl
@[simp] theorem exec_warmReset {bad caught} (s : State) :
    exec (.warmReset bad caught) s = execWarmReset bad caught s := rfl
@[simp] theorem exec_powerLoss {caught} (s : State) :
    exec (.powerLoss caught) s = execPowerLoss caught s := rfl
@[simp] theorem exec_monitorEvent {d sysCore mcause mepc mtval xs} (s : State) :
    exec (.monitorEvent d sysCore mcause mepc mtval xs) s = execMonitorEvent d sysCore mcause mepc mtval xs s := rfl
@[simp] theorem exec_tlbinvWrite {d v} (s : State) :
    exec (.tlbinvWrite d v) s = execTlbinvWrite d v s := rfl
@[simp] theorem exec_tlbinvComplete {d} (s : State) :
    exec (.tlbinvComplete d) s = execTlbinvComplete d s := rfl
@[simp] theorem exec_fatsetWrite {d v} (s : State) :
    exec (.fatsetWrite d v) s = execFatsetWrite d v s := rfl
@[simp] theorem exec_fatsetComplete {d} (s : State) :
    exec (.fatsetComplete d) s = execFatsetComplete d s := rfl
@[simp] theorem exec_milemaxWrite {c v} (s : State) :
    exec (.milemaxWrite c v) s = execMilemaxWrite c v s := rfl
@[simp] theorem exec_srtailWrite {k v} (s : State) :
    exec (.srtailWrite k v) s = execSrtailWrite k v s := rfl
@[simp] theorem exec_registerWrite {pa doubleword v machineMode} (s : State) :
    exec (.registerWrite pa doubleword v machineMode) s = execRegisterWrite pa doubleword v machineMode s := rfl
@[simp] theorem exec_pcieMemoryRequest {bar0 offset write len} (s : State) :
    exec (.pcieMemoryRequest bar0 offset write len) s = execPcieMemoryRequest bar0 offset write len s := rfl
@[simp] theorem exec_loadImage {tag job hostAddr len sha secs blocks} (s : State) :
    exec (.loadImage tag job hostAddr len sha secs blocks) s = execLoadImage tag job hostAddr len sha secs blocks s := rfl
@[simp] theorem exec_createJob {tag a} (s : State) :
    exec (.createJob tag a) s = execCreateJob tag a s := rfl
@[simp] theorem exec_submitPhase {tag job addr} (s : State) :
    exec (.submitPhase tag job addr) s = execSubmitPhase tag job addr s := rfl
@[simp] theorem exec_mailboxCancel {tag level job number} (s : State) :
    exec (.mailboxCancel tag level job number) s = execMailboxCancel tag level job number s := rfl
@[simp] theorem exec_query {tag sel} (s : State) :
    exec (.query tag sel) s = execQuery tag sel s := rfl
@[simp] theorem exec_programWeights {tag hostAddr wAddr len flags helpers bad} (s : State) :
    exec (.programWeights tag hostAddr wAddr len flags helpers bad) s = execProgramWeights tag hostAddr wAddr len flags helpers bad s := rfl
@[simp] theorem exec_resetScrub {tag confidential bad} (s : State) :
    exec (.resetScrub tag confidential bad) s = execResetScrub tag confidential bad s := rfl
@[simp] theorem exec_debugAttach {tag job launch index token} (s : State) :
    exec (.debugAttach tag job launch index token) s = execDebugAttach tag job launch index token s := rfl
@[simp] theorem exec_getVersion (s : State) :
    exec .getVersion s = execGetVersion s := rfl
@[simp] theorem exec_getCapabilities (s : State) :
    exec .getCapabilities s = execGetCapabilities s := rfl
@[simp] theorem exec_negotiateAlgorithms {asym hash dhe aead} (s : State) :
    exec (.negotiateAlgorithms asym hash dhe aead) s = execNegotiateAlgorithms asym hash dhe aead s := rfl
@[simp] theorem exec_getDigests (s : State) :
    exec .getDigests s = execGetDigests s := rfl
@[simp] theorem exec_getCertificate {slot offset len} (s : State) :
    exec (.getCertificate slot offset len) s = execGetCertificate slot offset len s := rfl
@[simp] theorem exec_challenge {slot nonce} (s : State) :
    exec (.challenge slot nonce) s = execChallenge slot nonce s := rfl
@[simp] theorem exec_getMeasurements {index signed nonce} (s : State) :
    exec (.getMeasurements index signed nonce) s = execGetMeasurements index signed nonce s := rfl
@[simp] theorem exec_keyExchange {share} (s : State) :
    exec (.keyExchange share) s = execKeyExchange share s := rfl
@[simp] theorem exec_finish {verify} (s : State) :
    exec (.finish verify) s = execFinish verify s := rfl
@[simp] theorem exec_endSession (s : State) :
    exec .endSession s = execEndSession s := rfl
@[simp] theorem exec_data {p f full} (s : State) :
    exec (.data p f full) s = execData p f full s := rfl
@[simp] theorem exec_end_ {p f full} (s : State) :
    exec (.end_ p f full) s = execEnd_ p f full s := rfl
@[simp] theorem exec_pdone {p f full} (s : State) :
    exec (.pdone p f full) s = execPdone p f full s := rfl
@[simp] theorem exec_ack {p f} (s : State) :
    exec (.ack p f) s = execAck p f s := rfl
@[simp] theorem exec_nak {p f} (s : State) :
    exec (.nak p f) s = execNak p f s := rfl
@[simp] theorem exec_cairn {p f full} (s : State) :
    exec (.cairn p f full) s = execCairn p f full s := rfl
@[simp] theorem exec_keySwitchover {p} (s : State) :
    exec (.keySwitchover p) s = execKeySwitchover p s := rfl
@[simp] theorem exec_nakTimer {p} (s : State) :
    exec (.nakTimer p) s = execNakTimer p s := rfl
@[simp] theorem exec_ackTimer {p} (s : State) :
    exec (.ackTimer p) s = execAckTimer p s := rfl
@[simp] theorem exec_replayTimer {p} (s : State) :
    exec (.replayTimer p) s = execReplayTimer p s := rfl
@[simp] theorem exec_noreply {c seq} (s : State) :
    exec (.noreply c seq) s = execNoreply c seq s := rfl
@[simp] theorem exec_softError {e} (s : State) :
    exec (.softError e) s = execSoftError e s := rfl
@[simp] theorem exec_systemCoreWrite {pa bytes} (s : State) :
    exec (.systemCoreWrite pa bytes) s = execSystemCoreWrite pa bytes s := rfl
@[simp] theorem exec_parkedContextMove {c idx dest debugEvent} (s : State) :
    exec (.parkedContextMove c idx dest debugEvent) s = execParkedContextMove c idx dest debugEvent s := rfl
@[simp] theorem exec_linkBringUp {p peer peerIsSwitch secretTx secretRx saltTx saltRx} (s : State) :
    exec (.linkBringUp p peer peerIsSwitch secretTx secretRx saltTx saltRx) s = execLinkBringUp p peer peerIsSwitch secretTx secretRx saltTx saltRx s := rfl
@[simp] theorem exec_flashWrite {offset bytes} (s : State) :
    exec (.flashWrite offset bytes) s = execFlashWrite offset bytes s := rfl
@[simp] theorem exec_mailboxBadCommand {tag code len} (s : State) :
    exec (.mailboxBadCommand tag code len) s = execMailboxBadCommand tag code len s := rfl

/-- An instruction that only computes on registers executes as its register operation says, in the frame of its class. -/
theorem exec_regOp (i : Instr) (o : RegOp) (s : State) (h : regOp i = some o) :
    (∃ n g, guardOf i = some g ∧ exec i s = cWord n g none (pureRegs o.run) s) ∨
    (∃ f, guardOf i = some f.g ∧ exec i s = vWord f none (pureRegs o.run) s) := by
  cases i <;> cases h <;> first | exact .inl ⟨_, _, rfl, rfl⟩ | exact .inr ⟨_, rfl, rfl⟩

/-! ### What generations and puts leave (R305, R384) -/

/-- The list of a core's puts is a field of that core. -/
@[simp] theorem State.setPuts_eq (s : State) (src : BitVec 9) (f : List SentPut → List SentPut) :
    s.setPuts src f = s.setCore (coreAt src) fun k => { k with puts := f k.puts } := rfl

/-- All that an advance which is made can be: the job is there, nothing holds the next value, and the counter takes it, its
stamps swept (R305). -/
theorem State.makeGen_eq_some {s s' : State} {job : Nat} (h : s.makeGen job = some s') :
    ∃ j, s.jobOf job = some j ∧ s.genHeld job (j.gen + 1) = false ∧
      s' = (s.setJob job fun j => { j with gen := j.gen + 1, made := j.made + 1 }).sweep job (j.gen + 1) := by
  unfold State.makeGen at h
  split at h
  · cases h
  · rename_i j hj
    split at h
    · cases h
    · rename_i hg
      exact ⟨j, hj, by simpa using hg, by simpa using h.symm⟩

/-- An advance that must be made at once is made only where none waits, and gives the next value (R305). -/
theorem State.advanceGen_eq_some {s s' : State} {job : Nat} {g : BitVec 4} (h : s.advanceGen job = some (s', g)) :
    ∃ j, s.jobOf job = some j ∧ j.asked = j.made ∧ g = j.gen + 1 ∧
      (s.setJob job fun j => { j with asked := j.asked + 1 }).makeGen job = some s' := by
  unfold State.advanceGen at h
  split at h
  · cases h
  · rename_i j hj
    split at h
    · cases h
    · rename_i hg
      obtain ⟨x, hx, he⟩ := Option.map_eq_some_iff.mp h
      cases he
      exact ⟨j, hj, by simpa using hg, rfl, hx⟩

end Machine

end Sys2Proof
end

