-- ==== Sys2Proof/Laws/Ops.lean ====
section
/-!
SUPPORT. Laws/Ops.lean: what the frame of an instruction does, said once: the task it finds, the outcome of an
executing C, V or engine word, of a word whose guard fails, and of one that does not complete.
-/

namespace Sys2Proof

namespace Machine

/-! ### The running task -/

/-- A running task stands on the current core, which is not frozen, and waits in nothing. -/
theorem State.running_cases {s : State} {t : Task} (h : s.running = some t) :
    (s.core s.cur).frozen = false ∧ (s.dies[(dieOf s.cur).val]).frozen = false ∧ (s.core s.cur).status = .running ∧
      (s.core s.cur).task = some t ∧ t.wait = .none ∧ t.mayPfull = false := by
  unfold State.running at h
  dsimp only at h
  split at h
  · simp at h
  · rename_i hf
    split at h
    · rename_i t' hs ht
      split at h
      · rename_i hw
        simp only [Option.some.injEq] at h
        subst h
        simp only [Bool.or_eq_true, not_or, Bool.not_eq_true] at hf
        refine ⟨hf.1, hf.2, hs, ht, hw.1, ?_⟩
        simpa using hw.2
      · simp at h
    · simp at h

theorem State.running_taskOf {s : State} {t : Task} (h : s.running = some t) : s.taskOf s.cur = some t :=
  (State.running_cases h).2.2.2.1

/-! ### The pair fault (R187) -/

@[simp] theorem State.pairStop_none (s : State) (c : CoreId) (t : Task) : s.pairStop c t none = none := rfl

theorem State.pairStop_of_noFault {s : State} {c : CoreId} (h : (s.core c).pairFault = false) (t : Task) (fx : Effect) :
    s.pairStop c t fx = none := by
  unfold State.pairStop
  cases fx <;> simp [h]

theorem State.pairStop_of_unpaired {s : State} {c : CoreId} {t : Task} (h : t.rs.rc.paired = false) (fx : Effect) :
    s.pairStop c t fx = none := by
  unfold State.pairStop
  cases fx <;> simp [h]

/-! ### An executing instruction -/

theorem State.perform_ok {s s' : State} {t t' : Task} {e n : Nat} {fx : Effect} {body : Body}
    (hp : s.pairStop s.cur t fx = none) (hb : body s.cur t.pc s (t.advance n) = .ok (s', t')) :
    s.perform t e n fx body = s'.setTask s.cur t' := by
  unfold State.perform
  simp only [hp, hb]

theorem State.perform_error {s : State} {t : Task} {e n : Nat} {fx : Effect} {body : Body} {x : Stop}
    (hp : s.pairStop s.cur t fx = none) (hb : body s.cur t.pc s (t.advance n) = .error x) :
    s.perform t e n fx body = s.stopAt s.cur t e x := by
  unfold State.perform
  simp only [hp, hb]

/-- A trap that an unpaired or fault-free core takes at its instruction (R40). -/
theorem State.stopAt_trap {s : State} {c : CoreId} {t : Task} {e : Nat} {x : Trap}
    (hp : s.pairStop c t (some 5) = none) :
    s.stopAt c t e (.trap x) = s.takeTrap c t x e t.pc (s.textAt c t t.pc) 0 0 := by
  unfold State.stopAt
  simp only [hp]

@[simp] theorem State.stopAt_wait (s : State) (c : CoreId) (t : Task) (e : Nat) : s.stopAt c t e .wait = s := rfl

/-! ### C words -/

theorem cWord_idle {n : Nat} {g : Guard} {fx : Effect} {body : Body} {s : State} (h : s.running = none) :
    cWord n g fx body s = .next s := by
  unfold cWord
  simp only [h]

theorem cWord_skip {n : Nat} {g : Guard} {fx : Effect} {body : Body} {s : State} {t : Task} (h : s.running = some t)
    (hg : t.passes g = false) : cWord n g fx body s = .next (s.setTask s.cur (t.advance n)) := by
  unfold cWord
  simp [h, hg]

theorem cWord_run {n : Nat} {g : Guard} {fx : Effect} {body : Body} {s s' : State} {t t' : Task}
    (h : s.running = some t) (hg : t.passes g = true) (hp : s.pairStop s.cur t fx = none)
    (hb : body s.cur t.pc s (t.advance n) = .ok (s', t')) : cWord n g fx body s = .next (s'.setTask s.cur t') := by
  unfold cWord
  simp only [h, hg, if_true, State.perform_ok hp hb]

theorem cWord_stop {n : Nat} {g : Guard} {fx : Effect} {body : Body} {s : State} {t : Task} {x : Stop}
    (h : s.running = some t) (hg : t.passes g = true) (hp : s.pairStop s.cur t fx = none)
    (hb : body s.cur t.pc s (t.advance n) = .error x) : cWord n g fx body s = .next (s.stopAt s.cur t 0 x) := by
  unfold cWord
  simp only [h, hg, if_true, State.perform_error hp hb]

/-- A C word never faults and is never refused. -/
theorem cWord_next (n : Nat) (g : Guard) (fx : Effect) (body : Body) (s : State) :
    ∃ s', cWord n g fx body s = .next s' := by
  unfold cWord
  split
  · exact ⟨_, rfl⟩
  · split <;> exact ⟨_, rfl⟩

/-- A C word that only writes registers. -/
theorem cWord_pure {n : Nat} {g : Guard} {f : Task → Task} {s : State} {t : Task} (h : s.running = some t)
    (hg : t.passes g = true) :
    cWord n g none (pureRegs f) s = .next (s.setTask s.cur (f (t.advance n))) :=
  cWord_run h hg rfl rfl

/-- A C word on the task's registers that completes. -/
theorem cWord_regs {n : Nat} {g : Guard} {f : Word64 → Task → Res Task} {s : State} {t t' : Task}
    (h : s.running = some t) (hg : t.passes g = true) (hf : f t.pc (t.advance n) = .ok t') :
    cWord n g none (regs f) s = .next (s.setTask s.cur t') :=
  cWord_run h hg rfl (by unfold regs; simp only [hf])

/-! ### V words -/

/-- Parcels of a V instruction (R77). -/
theorem vWord_skip {f : VF} {fx : Effect} {body : Body} {s : State} {t : Task} (h : s.running = some t)
    (hg : t.passes f.g = false) :
    vWord f fx body s = .next (s.setTask s.cur (t.advance (if f.lit.isSome then 5 else 3))) := by
  unfold vWord
  simp [h, hg]

theorem vWord_run {f : VF} {fx : Effect} {body : Body} {s s' : State} {t t' : Task} (h : s.running = some t)
    (hg : t.passes f.g = true) (hl : s.laneStop s.cur false = none) (hp : s.pairStop s.cur t fx = none)
    (hb : body s.cur t.pc s (t.advance (if f.lit.isSome then 5 else 3)) = .ok (s', t')) :
    vWord f fx body s = .next (s'.setTask s.cur t') := by
  unfold vWord
  simp only [h, hg, if_true, hl, State.perform_ok hp hb]

theorem vWord_stop {f : VF} {fx : Effect} {body : Body} {s : State} {t : Task} {x : Stop} (h : s.running = some t)
    (hg : t.passes f.g = true) (hl : s.laneStop s.cur false = none) (hp : s.pairStop s.cur t fx = none)
    (hb : body s.cur t.pc s (t.advance (if f.lit.isSome then 5 else 3)) = .error x) :
    vWord f fx body s = .next (s.stopAt s.cur t 1 x) := by
  unfold vWord
  simp only [h, hg, if_true, hl, State.perform_error hp hb]

/-- A V word never faults and is never refused. -/
theorem vWord_next (f : VF) (fx : Effect) (body : Body) (s : State) : ∃ s', vWord f fx body s = .next s' := by
  unfold vWord
  split
  · exact ⟨_, rfl⟩
  · dsimp only
    split
    · split <;> exact ⟨_, rfl⟩
    · exact ⟨_, rfl⟩

/-- A V word that only writes registers. -/
theorem vWord_pure {f : VF} {g : Task → Task} {s : State} {t : Task} (h : s.running = some t)
    (hg : t.passes f.g = true) (hl : s.laneStop s.cur false = none) :
    vWord f none (pureRegs g) s = .next (s.setTask s.cur (g (t.advance (if f.lit.isSome then 5 else 3)))) :=
  vWord_run h hg hl rfl rfl

theorem State.laneStop_of_noFault {s : State} {c : CoreId} (h : (s.core c).laneFault = none) (m : Bool) :
    s.laneStop c m = none := by
  unfold State.laneStop
  simp [h]

/-! ### Engine words -/

/-- What an engine word of the task asks for leave (R173, R284, R315): no waiting word of its engine, no lane fault that an
M word consumes, and no S word under COMMIT. -/
theorem engWord_run {e : Eng} {n : Nat} {fx : Effect} {body : Body} {s s' : State} {t t' : Task}
    (h : s.running = some t) (hl : e = .m → s.laneStop s.cur true = none)
    (hp : s.pairStop s.cur t (if e = .s then some 3 else fx) = none)
    (hh : (t.advance n).holds e = false) (hs : e = .s → t.rs.rc.commit = false)
    (hb : body s.cur t.pc s (t.advance n) = .ok (s', t')) : engWord e n fx body s = .next (s'.setTask s.cur t') := by
  unfold engWord
  have hl' : (if e = .m then s.laneStop s.cur true else none) = none := by
    split
    · exact hl ‹_›
    · rfl
  simp only [h, hl']
  refine congrArg _ (State.perform_ok hp ?_)
  simp only [hh]
  unfold sealMode
  have : ¬ (e = .s ∧ (t.advance n).rs.rc.commit = true) := by
    rintro ⟨he, hc⟩
    simp only [Task.advance_rs, hs he] at hc
    cases hc
  simp only [Bool.false_eq_true, if_false, this, hb]

@[simp] theorem Task.holds_advance (t : Task) (n : Nat) (e : Eng) : (t.advance n).holds e = t.holds e := by
  simp [Task.holds]

@[simp] theorem Task.stack_advance (t : Task) (n : Nat) (e : Eng) : (t.advance n).stack e = t.stack e := by
  cases e <;> simp [Task.stack]

@[simp] theorem Task.stack_setStack (t : Task) (e : Eng) (l : List Word64) : (t.setStack e l).stack e = l := by
  cases e <;> rfl

@[simp] theorem Task.stack_setStack_other (t : Task) {e f : Eng} (l : List Word64) (h : e ≠ f) :
    (t.setStack e l).stack f = t.stack f := by
  cases e <;> cases f <;> simp_all [Task.setStack, Task.stack]

@[simp] theorem Task.setStack_setStack (t : Task) (e : Eng) (l m : List Word64) :
    (t.setStack e l).setStack e m = t.setStack e m := by
  cases e <;> rfl

theorem Task.popWords_ok {t : Task} {e : Eng} {n : Nat} (h : n ≤ (t.stack e).length) :
    t.popWords e n = .ok ((t.stack e).take n, t.setStack e ((t.stack e).drop n)) := by
  unfold Task.popWords
  rw [if_neg (by omega)]

theorem Task.pushWords_ok {t : Task} {e : Eng} {vs : List Word64} (h : (t.stack e).length + vs.length ≤ 8) :
    t.pushWords e vs = .ok (t.setStack e (vs.reverse ++ t.stack e)) := by
  unfold Task.pushWords
  rw [if_neg (by omega)]

/-- A setup word that completes (R176). -/
theorem setupWord_run {e : Eng} {fx : Effect} {pops : Nat} {f : List Word64 → Task → Res Task} {s : State} {t t' : Task}
    (h : s.running = some t) (hm : e = .m → s.laneStop s.cur true = none)
    (hp : s.pairStop s.cur t (if e = .s then some 3 else fx) = none)
    (hh : t.holds e = false) (hs : e = .s → t.rs.rc.commit = false) (hl : pops ≤ (t.stack e).length)
    (hf : f ((t.stack e).take pops) ((t.advance 1).setStack e ((t.stack e).drop pops)) = .ok t') :
    setupWord e fx pops f s = .next (s.setTask s.cur t') := by
  unfold setupWord
  refine engWord_run h hm hp (by simp [hh]) hs ?_
  rw [Task.popWords_ok (by simpa using hl)]
  simp only [Task.stack_advance, bind, Except.bind, hf]

/-- A stack word that completes (R91). -/
theorem stackWord_run {e : Eng} {n pops : Nat} {f : List Word64 → List Word64} {s : State} {t : Task}
    (h : s.running = some t) (hm : e = .m → s.laneStop s.cur true = none)
    (hp : s.pairStop s.cur t (if e = .s then some 3 else none) = none)
    (hh : t.holds e = false) (hs : e = .s → t.rs.rc.commit = false) (hl : pops ≤ (t.stack e).length)
    (hf : (t.stack e).length - pops + (f ((t.stack e).take pops)).length ≤ 8) :
    stackWord e n pops f s = .next (s.setTask s.cur ((t.advance n).setStack e
      ((f ((t.stack e).take pops)).reverse ++ (t.stack e).drop pops))) := by
  unfold stackWord
  refine engWord_run h hm hp (by simp [hh]) hs ?_
  rw [Task.popWords_ok (by simpa using hl)]
  simp only [bind, Except.bind, Task.stack_advance]
  rw [Task.pushWords_ok (by simpa using hf)]
  simp

/-- A query word that completes (R176). -/
theorem queryWord_run {e : Eng} {bad : Task → Res Unit} {v : State → Task → Word64} {s : State} {t : Task}
    (h : s.running = some t) (hm : e = .m → s.laneStop s.cur true = none)
    (hp : s.pairStop s.cur t (if e = .s then some 3 else none) = none)
    (hh : t.holds e = false) (hs : e = .s → t.rs.rc.commit = false) (hb : bad (t.advance 1) = .ok ())
    (hc : (t.cmds.any fun c => decide (c.eng = e)) = false) (hl : (t.stack e).length < 8) :
    queryWord e bad v s = .next (s.setTask s.cur ((t.advance 1).setStack e (v s (t.advance 1) :: t.stack e))) := by
  unfold queryWord
  refine engWord_run h hm hp (by simp [hh]) hs ?_
  rw [hb]
  simp only [bind, Except.bind, Task.advance_cmds, hc]
  rw [Task.pushWords_ok (by simp; omega)]
  simp

end Machine

end Sys2Proof
end

