-- ==== Sys2Proof/Laws/Lanes.lean ====
section
/-!
SUPPORT. Laws/Lanes.lean: what a V instruction over queues does to them (R22 to R26, R140), and what a lane of packed
data is (R138).
-/

namespace Sys2Proof

namespace Machine

/-! ### Packed lanes -/

theorem packLanes_cons (w x : Nat) (ls : List Nat) : packLanes w (x :: ls) = x % 2 ^ w + packLanes w ls * 2 ^ w := rfl

theorem packLanes_lt (w : Nat) (ls : List Nat) : packLanes w ls < 2 ^ (w * ls.length) := by
  induction ls with
  | nil => simp [packLanes]
  | cons x ls ih =>
    rw [packLanes_cons, List.length_cons, Nat.mul_succ, Nat.pow_add]
    have hx := Nat.mod_lt x (Nat.two_pow_pos w)
    have h1 : (packLanes w ls + 1) * 2 ^ w ≤ 2 ^ (w * ls.length) * 2 ^ w := Nat.mul_le_mul_right _ ih
    rw [Nat.add_mul] at h1
    omega

theorem laneAt_packLanes (w : Nat) (ls : List Nat) (j : Nat) (h : j < ls.length) :
    laneAt w (packLanes w ls) j = ls[j] % 2 ^ w := by
  induction ls generalizing j with
  | nil => simp at h
  | cons x ls ih =>
    have hp := Nat.two_pow_pos w
    have hx := Nat.mod_lt x hp
    cases j with
    | zero =>
      simp only [laneAt, Nat.mul_zero, Nat.pow_zero, Nat.div_one, packLanes_cons, List.getElem_cons_zero,
        Nat.add_mul_mod_self_right, Nat.mod_mod]
    | succ j =>
      have hd : (x % 2 ^ w + packLanes w ls * 2 ^ w) / 2 ^ w = packLanes w ls := by
        rw [Nat.add_mul_div_right _ _ hp, Nat.div_eq_of_lt hx, Nat.zero_add]
      have := ih j (by simpa using h)
      simp only [laneAt] at this
      rw [laneAt, packLanes_cons, Nat.mul_succ, Nat.add_comm (w * j), Nat.pow_add, ← Nat.div_div_eq_div_mul, hd, this]
      simp

/-- A lane of an entry, as the number `laneAt` reads. -/
theorem entryLane_eq (d : EntryBits) (w j : Nat) : entryLane d w j = BitVec.ofNat w (laneAt w d.toNat j) := by
  apply BitVec.eq_of_toNat_eq
  simp [entryLane, laneAt, BitVec.extractLsb', Nat.shiftRight_eq_div_pow]

theorem laneAt_ofNat (w d j n : Nat) (h : w * (j + 1) ≤ n) : laneAt w (d % 2 ^ n) j = laneAt w d j := by
  have h1 : w * j + w ≤ n := by rw [Nat.mul_add, Nat.mul_one] at h; exact h
  apply Nat.eq_of_testBit_eq
  intro i
  simp only [laneAt, Nat.testBit_mod_two_pow, Nat.testBit_div_two_pow]
  by_cases hi : i < w
  · have : w * j + i < n := by omega
    simp [hi, Nat.add_comm i, this]
  · simp [hi]

/-- Lane j of an entry made from lanes of width w. -/
theorem entryLane_ofNat_packLanes (w : Nat) (ls : List Nat) (j : Nat) (h : j < ls.length) (hw : w * (j + 1) ≤ 4096) :
    entryLane (BitVec.ofNat 4096 (packLanes w ls)) w j = BitVec.ofNat w ls[j] := by
  rw [entryLane_eq, BitVec.toNat_ofNat, laneAt_ofNat _ _ _ _ hw, laneAt_packLanes _ _ _ h]
  apply BitVec.eq_of_toNat_eq
  simp

/-- The entry of some data depends on its low 4,096 bits alone. -/
theorem mkEntry_ofNat (fmt : BitVec 5) (d : Nat) : mkEntry fmt (BitVec.ofNat 4096 d).toNat = mkEntry fmt d := by
  simp only [mkEntry, BitVec.toNat_ofNat, Nat.mod_mod]
  congr 1
  apply BitVec.eq_of_toNat_eq
  simp

/-! ### Queues -/

theorem Task.popFold_v (l : List VReg) (hl : l.Nodup) (t : Task) (q : VReg) :
    (l.foldl Task.popQ t).queue q = if q ∈ l then (t.queue q).tail else t.queue q := by
  induction l generalizing t with
  | nil => simp
  | cons a l ih =>
    rw [List.nodup_cons] at hl
    rw [List.foldl_cons, ih hl.2]
    by_cases h : q = a
    · subst h
      simp [hl.1, Task.popQ, Task.queue, Task.setQueue]
    · have hv : (q.val : Nat) ≠ a.val := fun e => h (Fin.ext e)
      simp [h, Task.popQ, Task.queue, Task.setQueue, Ne.symm hv]

theorem Task.popFold_eq (l : List VReg) (t : Task) : l.foldl Task.popQ t = { t with v := (l.foldl Task.popQ t).v } := by
  induction l generalizing t with
  | nil => rfl
  | cons a l ih =>
    rw [List.foldl_cons, ih]
    rfl

theorem mem_popSet (srcs : Srcs) (q : VReg) :
    q ∈ popSet srcs ↔ srcs.any (fun x => decide (x.1 = q) && !x.2) = true := by
  simp only [popSet, List.mem_dedup, List.mem_map, List.mem_filter, List.any_eq_true, Bool.and_eq_true,
    decide_eq_true_eq, Bool.not_eq_true']
  constructor
  · rintro ⟨x, ⟨h1, h2⟩, h3⟩
    exact ⟨x, h1, h3, h2⟩
  · rintro ⟨x, h1, h2, h3⟩
    exact ⟨x, ⟨h1, h3⟩, h2⟩

theorem Task.pushAll_eq (l : List (VReg × Entry)) (t : Task) : t.pushAll l = { t with v := (t.pushAll l).v } := by
  induction l generalizing t with
  | nil => rfl
  | cons a l ih =>
    obtain ⟨q, e⟩ := a
    show (t.pushQ q e).pushAll l = _
    rw [ih]
    rfl

theorem Task.pushAll_queue (l : List (VReg × Entry)) (t : Task) (q : VReg) :
    (t.pushAll l).queue q = t.queue q ++ (l.filter fun e => decide (e.1 = q)).map Prod.snd := by
  induction l generalizing t with
  | nil => simp [Task.pushAll]
  | cons a l ih =>
    obtain ⟨r, e⟩ := a
    show ((t.pushQ r e).pushAll l).queue q = _
    rw [ih]
    by_cases h : r = q
    · subst h
      simp [Task.pushQ, Task.queue, Task.setQueue]
    · have hv : (r.val : Nat) ≠ q.val := fun x => h (Fin.ext x)
      simp [h, Task.pushQ, Task.queue, Task.setQueue, hv]

theorem Task.queue_ext {a b : Vector (List Entry) 32} (h : ∀ q : VReg, a[q.val] = b[q.val]) : a = b := by
  apply Vector.ext
  intro i hi
  exact h ⟨i, hi⟩

theorem Task.popAll_queue (t : Task) (srcs : Srcs) (q : VReg) :
    (t.popAll srcs).queue q = (t.queuesAfter srcs [])[q.val] := by
  have h := Task.popFold_v (popSet srcs) (List.nodup_dedup _) t q
  rw [Task.popAll, h, Task.queuesAfter]
  simp only [mem_popSet, List.filter_nil, List.map_nil, List.append_nil, Vector.getElem_ofFn, Fin.eta]

/-- What the pops of an instruction leave. -/
theorem Task.popAll_eq (t : Task) (srcs : Srcs) : t.popAll srcs = { t with v := t.queuesAfter srcs [] } := by
  have h : (t.popAll srcs).v = t.queuesAfter srcs [] := Task.queue_ext fun q => Task.popAll_queue t srcs q
  rw [← h]
  exact Task.popFold_eq (popSet srcs) t

/-- What the pops and then the pushes of an instruction leave. -/
theorem Task.pushAll_popAll (t p : Task) (srcs : Srcs) (l : List (VReg × Entry)) (hp : p.v = t.queuesAfter srcs []) :
    p.pushAll l = { p with v := t.queuesAfter srcs l } := by
  have h : (p.pushAll l).v = t.queuesAfter srcs l := by
    apply Task.queue_ext
    intro q
    have := Task.pushAll_queue l p q
    simp only [Task.queue] at this
    rw [this, hp]
    simp [Task.queuesAfter]
  rw [← h]
  exact Task.pushAll_eq l p

theorem Task.takeSources_ok {t : Task} {srcs : Srcs} {dsts : List VReg} (h1 : ∀ x ∈ srcs, t.queue x.1 ≠ [])
    (h2 : ∀ d ∈ dsts, ((t.queuesAfter srcs [])[d.val]).length < 4) :
    t.takeSources srcs dsts = .ok { t with v := t.queuesAfter srcs [] } := by
  unfold Task.takeSources
  rw [if_neg, if_neg, Task.popAll_eq]
  · simp only [Bool.not_eq_true, List.any_eq_false, decide_eq_true_eq, Nat.not_le]
    intro d hd
    rw [Task.popAll_queue]
    exact h2 d hd
  · simp only [Bool.not_eq_true, List.any_eq_false, List.isEmpty_iff]
    exact h1

/-! ### Advancing -/

@[simp] theorem Task.advance_queue (t : Task) (n : Nat) (q : VReg) : (t.advance n).queue q = t.queue q := by
  simp [Task.queue]
@[simp] theorem Task.advance_head (t : Task) (n : Nat) (q : VReg) : (t.advance n).head q = t.head q := by
  simp [Task.head]
@[simp] theorem Task.advance_headBits (t : Task) (n : Nat) (q : VReg) : (t.advance n).headBits q = t.headBits q := by
  simp [Task.headBits]
@[simp] theorem Task.advance_getX (t : Task) (n : Nat) (r : XReg) : (t.advance n).getX r = t.getX r := by
  simp [Task.getX]
@[simp] theorem Task.advance_getK (t : Task) (n : Nat) (r : KReg) : (t.advance n).getK r = t.getK r := by
  simp [Task.getK]
@[simp] theorem Task.advance_arithMode (t : Task) (n : Nat) : (t.advance n).arithMode = t.arithMode := by
  simp [Task.arithMode]
@[simp] theorem Task.advance_queuesAfter (t : Task) (n : Nat) (srcs : Srcs) (l : List (VReg × Entry)) :
    (t.advance n).queuesAfter srcs l = t.queuesAfter srcs l := by
  simp [Task.queuesAfter]

/-! ### A V instruction over queues -/

theorem State.laneStop_of_sound {s : State} (h : s.Sound s.cur) (m : Bool) : s.laneStop s.cur m = none := by
  unfold State.laneStop
  rw [h.2]

/-- The body of a V instruction over queues that completes: the entries of its result pushed, its flags set. -/
theorem queueBody_ok {s : State} {t : Task} {srcs : Srcs} {dsts : List VReg} {g : VResult} {sys : SysRegs} (c : CoreId)
    (h : Word64) (h1 : ∀ x ∈ srcs, t.queue x.1 ≠ [])
    (h2 : ∀ d ∈ dsts, ((t.queuesAfter srcs [])[d.val]).length < 4)
    (hs : (g t).2 { t with v := t.queuesAfter srcs [] } = { t with v := t.queuesAfter srcs [], sys := sys }) :
    queueBody srcs dsts true g c h s t =
      .ok (s, { t with v := t.queuesAfter srcs (dsts.zip (g t).1), sys := sys }) := by
  unfold queueBody
  rw [Task.takeSources_ok h1 h2]
  show Except.ok (s, ((g t).2 { t with v := t.queuesAfter srcs [] }).pushAll (dsts.zip (g t).1)) = _
  rw [hs, Task.pushAll_popAll t { t with v := t.queuesAfter srcs [], sys := sys } srcs (dsts.zip (g t).1) rfl]

/-- What a V instruction over queues does when it completes. -/
theorem queueBody_done {s : State} {t : Task} {f : VF} {srcs : Srcs} {dsts : List VReg} {g : VResult} {sys : SysRegs}
    (h : s.VReady f t srcs dsts)
    (hs : ∀ p : Task, p.sys = t.sys → (g (t.advance (if f.lit.isSome then 5 else 3))).2 p = { p with sys := sys }) :
    vWord f none (queueBody srcs dsts true g) s =
      onlyTask s (t.vDone f srcs (dsts.zip (g (t.advance (if f.lit.isSome then 5 else 3))).1) sys) := by
  obtain ⟨⟨hr, hg⟩, hsd, h1, h2⟩ := h
  unfold onlyTask Task.vDone
  have ha := Task.advance_queuesAfter t (if f.lit.isSome then 5 else 3) srcs
  refine vWord_run hr hg (State.laneStop_of_sound hsd _) rfl ?_
  have h1' : ∀ x ∈ srcs, (t.advance (if f.lit.isSome then 5 else 3)).queue x.1 ≠ [] := by simpa using h1
  have h2' : ∀ d ∈ dsts, (((t.advance (if f.lit.isSome then 5 else 3)).queuesAfter srcs [])[d.val]).length < 4 := by
    simpa using h2
  have hy := Task.advance_sys t (if f.lit.isSome then 5 else 3)
  generalize t.advance (if f.lit.isSome then 5 else 3) = u at *
  rw [← ha]
  exact queueBody_ok s.cur t.pc h1' h2' (hs _ hy)

/-- A count that nothing raises. -/
@[simp] theorem satCount_zero (w : Word64) : satCount w 0 = w := by
  apply BitVec.eq_of_toNat_eq
  have := w.isLt
  simp only [satCount, BitVec.toNat_ofNat, Nat.add_zero]
  omega

theorem Task.noteLanes_eq (t : Task) (ls : List (Nat × Nat)) : t.noteLanes ls = { t with sys := (t.noteLanes ls).sys } :=
  rfl

/-- The lanes of a one-register result, from the list its body builds. -/
theorem yields_one {s : State} {i : Instr} {f : VF} {t : Task} {srcs : Srcs} {g : VResult} {sys : SysRegs} {w n : Nat}
    {fmt : BitVec 5} {ls : List (Nat × Nat)} {val : Nat → BitVec w}
    (hi : exec i s = vWord f none (queueBody srcs [f.vd] true g) s) (h : s.VReady f t srcs [f.vd])
    (hg : (g (t.advance (if f.lit.isSome then 5 else 3))).1 = [mkEntry fmt (laneBits w ls)])
    (hs : ∀ p : Task, p.sys = t.sys → (g (t.advance (if f.lit.isSome then 5 else 3))).2 p = { p with sys := sys })
    (hl : ls.length = n) (hn : w * n ≤ 4096) (hw : n ≤ 4096 / w)
    (hv : ∀ j (hj : j < ls.length), val j = BitVec.ofNat w ls[j].1) :
    s.Yields i f t srcs f.vd 1 fmt w n val sys := by
  have hlt := packLanes_lt w (ls.map Prod.fst)
  rw [List.length_map, hl] at hlt
  refine ⟨fun _ => BitVec.ofNat 4096 (laneBits w ls), ?_, ?_, ?_⟩
  · have hr : groupReg f.vd 0 = f.vd := by simp [groupReg]
    rw [hi, queueBody_done h hs, hg]
    show _ = onlyTask s (t.vDone f srcs
      [(groupReg f.vd 0, mkEntry fmt (BitVec.ofNat 4096 (laneBits w ls)).toNat)] sys)
    rw [mkEntry_ofNat, hr]
    rfl
  · intro j hj
    have hj' : j < 4096 / w := by omega
    rw [Nat.mod_eq_of_lt hj', laneBits, entryLane_ofNat_packLanes w _ j (by simpa [hl] using hj), hv j (by omega)]
    · simp
    · calc w * (j + 1) ≤ w * n := Nat.mul_le_mul_left _ hj
        _ ≤ 4096 := hn
  · intro _
    rw [BitVec.toNat_ofNat]
    exact lt_of_le_of_lt (Nat.mod_le _ _) hlt

theorem lanesIn_le (et : BitVec 4) : lanesIn (etWidth et) ≤ 1024 := by
  revert et; decide

theorem etWidth_mul (et : BitVec 4) : etWidth et * lanesIn (etWidth et) ≤ 4096 := by
  revert et; decide

theorem activeAt_lt {m : MaskBits} {j : Nat} (h : j < 1024) : activeAt m j = m.getLsbD j := by
  rw [activeAt, Nat.mod_eq_of_lt h]

theorem laneAt_entry (t : Task) (q : VReg) (w j : Nat) :
    entryLane (t.head q).data w j = BitVec.ofNat w (laneAt w (t.headBits q) j) := entryLane_eq _ _ _

/-- Lanes without a flag leave flags and counts alone. -/
theorem Task.noteLanes_zero (p : Task) (ls : List (Nat × Nat)) (h : ∀ x ∈ ls, x.2 = 0) : p.noteLanes ls = p := by
  have h1 : ∀ (l : List (Nat × Nat)) a, (∀ x ∈ l, x.2 = 0) → l.foldl (fun a l => a ||| l.2) a = a := by
    intro l
    induction l with
    | nil => simp
    | cons x l ih =>
      intro a hl
      rw [List.foldl_cons, ih _ (fun y hy => hl y (by simp [hy])), hl x (by simp)]
      simp
  have h2 : ∀ b, (ls.filter fun l => decide (l.2 &&& b ≠ 0)).length = 0 := by
    intro b
    simp only [List.length_eq_zero_iff, List.filter_eq_nil_iff]
    intro x hx
    simp [h x hx]
  unfold Task.noteLanes Task.flag Task.count
  simp only [h1 ls 0 h, h2, satCount_zero]
  simp

end Machine

end Sys2Proof
end

