-- ==== Sys2Proof/Laws/Memory.lean ====
section
/-!
SUPPORT. Laws/Memory.lean: the canonical form of a memory is kept by every operation over memory, and what a read gives
after a write.
-/

namespace Sys2Proof

namespace Machine

/-! ### The canonical form -/

theorem Memory.above_cons (lo : Option Nat) (a : Nat) (b : Byte) (m : List Host.Cell) :
    Memory.above lo ((a, b) :: m) = true ↔ (∀ l, lo = some l → l < a) ∧ b ≠ 0 ∧ Memory.above (some a) m = true := by
  cases lo <;> simp [Memory.above, and_assoc]

/-- A lower bound may be weakened. -/
theorem Memory.above_weaken {l k : Nat} (h : k ≤ l) (m : List Host.Cell) (hm : Memory.above (some l) m = true) :
    Memory.above (some k) m = true := by
  cases m with
  | nil => rfl
  | cons e m =>
    obtain ⟨a, b⟩ := e
    rw [Memory.above_cons] at hm ⊢
    exact ⟨fun x hx => by cases hx; exact Nat.lt_of_le_of_lt h (hm.1 l rfl), hm.2⟩

theorem Memory.above_none {l : Nat} (m : List Host.Cell) (hm : Memory.above (some l) m = true) : Memory.wf m = true := by
  cases m with
  | nil => rfl
  | cons e m =>
    obtain ⟨a, b⟩ := e
    unfold Memory.wf
    rw [Memory.above_cons] at hm ⊢
    exact ⟨fun x hx => (by cases hx), hm.2⟩

/-- A bound below every address of a canonical list. -/
theorem Memory.above_of_lt {l : Nat} (m : List Host.Cell) (hm : Memory.wf m = true) (h : ∀ e ∈ m, l < e.1) :
    Memory.above (some l) m = true := by
  cases m with
  | nil => rfl
  | cons e m =>
    obtain ⟨a, b⟩ := e
    unfold Memory.wf at hm
    rw [Memory.above_cons] at hm ⊢
    exact ⟨fun x hx => by cases hx; exact h (a, b) (by simp), hm.2⟩

/-- A canonical list's addresses lie above its bound. -/
theorem Memory.lt_of_above {l : Nat} (m : List Host.Cell) (hm : Memory.above (some l) m = true) :
    ∀ e ∈ m, l < e.1 := by
  induction m generalizing l with
  | nil => simp
  | cons e m ih =>
    obtain ⟨a, b⟩ := e
    rw [Memory.above_cons] at hm
    intro x hx
    have hl := hm.1 l rfl
    rcases List.mem_cons.mp hx with rfl | hx
    · exact hl
    · exact Nat.lt_trans hl (ih hm.2.2 x hx)

theorem Memory.wf_nil : Memory.wf [] = true := rfl

theorem Memory.wf_cons (a : Nat) (b : Byte) (m : List Host.Cell) :
    Memory.wf ((a, b) :: m) = true ↔ b ≠ 0 ∧ Memory.above (some a) m = true := by
  unfold Memory.wf
  rw [Memory.above_cons]
  simp

/-- Writing one byte keeps the form. -/
theorem Memory.above_set (lo : Option Nat) (m : List Host.Cell) (x : Nat) (v : Byte) (hm : Memory.above lo m = true)
    (hx : ∀ l, lo = some l → l < x) : Memory.above lo (Memory.set m x v) = true := by
  induction m generalizing lo with
  | nil =>
    unfold Memory.set
    split
    · rfl
    · rw [Memory.above_cons]; exact ⟨hx, by assumption, rfl⟩
  | cons e m ih =>
    obtain ⟨a, b⟩ := e
    have hm' := (Memory.above_cons lo a b m).mp hm
    unfold Memory.set
    split
    · rename_i hlt
      split
      · exact hm
      · rw [Memory.above_cons, Memory.above_cons]
        exact ⟨hx, by assumption, fun l hl => by cases hl; exact hlt, hm'.2⟩
    · split
      · rename_i hne heq
        subst heq
        split
        · cases lo with
          | none => exact Memory.above_none m hm'.2.2
          | some l => exact Memory.above_weaken (Nat.le_of_lt (hm'.1 l rfl)) m hm'.2.2
        · rw [Memory.above_cons]; exact ⟨hm'.1, by assumption, hm'.2.2⟩
      · rename_i hnlt hne
        rw [Memory.above_cons]
        exact ⟨hm'.1, hm'.2.1, ih (some a) hm'.2.2 fun l hl => by cases hl; omega⟩

theorem Memory.wf_set (m : List Host.Cell) (x : Nat) (v : Byte) (hm : Memory.wf m = true) :
    Memory.wf (Memory.set m x v) = true :=
  Memory.above_set none m x v hm fun _ h => by cases h

/-- Writing bytes keeps the form. -/
theorem Memory.wf_write (bs : List Byte) (m : List Host.Cell) (a : Nat) (hm : Memory.wf m = true) :
    Memory.wf (Memory.write m a bs) = true := by
  induction bs generalizing m a with
  | nil => exact hm
  | cons b bs ih => exact ih _ _ (Memory.wf_set m a b hm)

/-- Leaving out entries keeps the form. -/
theorem Memory.above_filter (p : Host.Cell → Bool) (lo : Option Nat) (m : List Host.Cell) (hm : Memory.above lo m = true) :
    Memory.above lo (m.filter p) = true := by
  induction m generalizing lo with
  | nil => exact hm
  | cons e m ih =>
    obtain ⟨a, b⟩ := e
    have h := (Memory.above_cons lo a b m).mp hm
    rw [List.filter_cons]
    split
    · rw [Memory.above_cons]; exact ⟨h.1, h.2.1, ih _ h.2.2⟩
    · apply ih
      cases lo with
      | none => exact Memory.above_none m h.2.2
      | some l => exact Memory.above_weaken (Nat.le_of_lt (h.1 l rfl)) m h.2.2

theorem Memory.wf_filter (p : Host.Cell → Bool) (m : List Host.Cell) (hm : Memory.wf m = true) :
    Memory.wf (m.filter p) = true := Memory.above_filter p none m hm

theorem Memory.wf_outside (lo hi : Nat) (m : List Host.Cell) (hm : Memory.wf m = true) :
    Memory.wf (outside lo hi m) = true := Memory.wf_filter _ m hm

/-- Two canonical lists, the second above the first, make one. -/
theorem Memory.above_append (lo : Option Nat) (m k : List Host.Cell) (hm : Memory.above lo m = true)
    (hk : Memory.above lo k = true) (h : ∀ e ∈ m, ∀ f ∈ k, e.1 < f.1) : Memory.above lo (m ++ k) = true := by
  induction m generalizing lo with
  | nil => exact hk
  | cons e m ih =>
    obtain ⟨a, b⟩ := e
    have h1 := (Memory.above_cons lo a b m).mp hm
    rw [List.cons_append, Memory.above_cons]
    refine ⟨h1.1, h1.2.1, ih (some a) h1.2.2 ?_ fun e he f hf => h e (List.mem_cons_of_mem _ he) f hf⟩
    apply Memory.above_of_lt
    · cases lo with
      | none => exact hk
      | some l => exact Memory.above_none k hk
    · exact fun f hf => h (a, b) (by simp) f hf

theorem Memory.wf_append (m k : List Host.Cell) (hm : Memory.wf m = true) (hk : Memory.wf k = true)
    (h : ∀ e ∈ m, ∀ f ∈ k, e.1 < f.1) : Memory.wf (m ++ k) = true := Memory.above_append none m k hm hk h

/-- Moving every address up by a base keeps the form. -/
theorem Memory.above_rebased (lo : Nat) (b : Option Nat) (m : List Host.Cell) (hm : Memory.above b m = true) :
    Memory.above (b.map (lo + ·)) (rebased lo m) = true := by
  induction m generalizing b with
  | nil => rfl
  | cons e m ih =>
    obtain ⟨a, v⟩ := e
    have h := (Memory.above_cons b a v m).mp hm
    show Memory.above _ ((lo + a, v) :: rebased lo m) = true
    rw [Memory.above_cons]
    refine ⟨fun l hl => ?_, h.2.1, ih (some a) h.2.2⟩
    cases b with
    | none => cases hl
    | some k => cases hl; have := h.1 k rfl; dsimp only; omega

theorem Memory.wf_rebased (lo : Nat) (m : List Host.Cell) (hm : Memory.wf m = true) : Memory.wf (rebased lo m) = true :=
  Memory.above_rebased lo none m hm

/-- Counting every address of a range from its start keeps the form. -/
theorem Memory.wf_within (lo hi : Nat) (m : List Host.Cell) (hm : Memory.wf m = true) : Memory.wf (within lo hi m) = true := by
  have key : ∀ (l : List Host.Cell) (b : Option Nat), Memory.above b l = true → (∀ e ∈ l, lo ≤ e.1) →
      (∀ k, b = some k → lo ≤ k) → Memory.above (b.map (· - lo)) (l.map fun e => (e.1 - lo, e.2)) = true := by
    intro l
    induction l with
    | nil => intros; rfl
    | cons e l ih =>
      obtain ⟨a, v⟩ := e
      intro b h1 h2 h3
      have h := (Memory.above_cons b a v l).mp h1
      have ha : lo ≤ a := h2 (a, v) (by simp)
      rw [List.map_cons, Memory.above_cons]
      refine ⟨fun l hl => ?_, h.2.1, ih (some a) h.2.2 (fun e he => h2 e (List.mem_cons_of_mem _ he))
        fun k hk => by cases hk; exact ha⟩
      cases b with
      | none => cases hl
      | some k => cases hl; have := h.1 k rfl; have := h3 k rfl; dsimp only; omega
  refine key _ none (Memory.wf_filter _ m hm) (fun e he => ?_) fun _ h => by cases h
  have := (List.mem_filter.mp he).2
  simp at this
  exact this.1

/-- Replacing a range keeps the form. -/
theorem Memory.wf_splice (lo hi : Nat) (mid m : List Host.Cell) (hm : Memory.wf m = true) (hmid : Memory.wf mid = true)
    (h : ∀ e ∈ mid, lo ≤ e.1 ∧ e.1 < hi) (hle : lo ≤ hi) : Memory.wf (splice lo hi mid m) = true := by
  unfold splice
  apply Memory.wf_append
  · exact Memory.wf_append _ _ (Memory.wf_filter _ m hm) hmid fun e he f hf => by
      have := (List.mem_filter.mp he).2
      simp at this
      exact Nat.lt_of_lt_of_le this (h f hf).1
  · exact Memory.wf_filter _ m hm
  · intro e he f hf
    have hf := (List.mem_filter.mp hf).2
    simp at hf
    rcases List.mem_append.mp he with he | he
    · have he := (List.mem_filter.mp he).2
      simp at he
      omega
    · have := h e he
      omega

/-! ### Reads after writes -/

/-- An address below every listed one reads as an unlisted address does. -/
theorem Memory.get_above {l x : Nat} (m : List Host.Cell) (hm : Memory.above (some l) m = true) (h : x ≤ l) :
    Memory.get m x = 0 := by
  induction m generalizing l with
  | nil => rfl
  | cons e m ih =>
    obtain ⟨a, b⟩ := e
    have h' := (Memory.above_cons _ a b m).mp hm
    have ha := h'.1 l rfl
    unfold Memory.get
    rw [if_neg (by omega)]
    exact ih h'.2.2 (by omega)

/-- A byte written reads back; every other byte reads as before. -/
theorem Memory.get_set (m : List Host.Cell) (hm : Memory.wf m = true) (x y : Nat) (v : Byte) :
    Memory.get (Memory.set m x v) y = if y = x then v else Memory.get m y := by
  have key : ∀ (m : List Host.Cell) (lo : Option Nat), Memory.above lo m = true →
      Memory.get (Memory.set m x v) y = if y = x then v else Memory.get m y := by
    intro m
    induction m with
    | nil =>
      intro lo _
      unfold Memory.set
      split
      · rename_i h; subst h; simp [Memory.get]
      · simp only [Memory.get]; split <;> rename_i h
        · rw [if_pos h.symm]
        · rw [if_neg fun e => h e.symm]
    | cons e m ih =>
      obtain ⟨a, b⟩ := e
      intro lo hm
      have h := (Memory.above_cons lo a b m).mp hm
      unfold Memory.set
      split
      · rename_i hlt
        split
        · rename_i hv
          by_cases hy : y = x
          · subst hy hv
            rw [if_pos rfl]
            unfold Memory.get
            rw [if_neg (by omega)]
            exact Memory.get_above m h.2.2 (Nat.le_of_lt hlt)
          · rw [if_neg hy]
        · by_cases hy : y = x
          · subst hy; simp [Memory.get]
          · rw [if_neg hy]
            conv_lhs => unfold Memory.get
            rw [if_neg fun e => hy e.symm]
      · split
        · rename_i hnlt heq
          subst heq
          split
          · rename_i hv
            subst hv
            by_cases hy : y = x
            · subst hy
              rw [if_pos rfl]
              exact Memory.get_above m h.2.2 (Nat.le_refl _)
            · rw [if_neg hy]
              conv_rhs => unfold Memory.get
              rw [if_neg fun e => hy e.symm]
          · by_cases hy : y = x
            · subst hy; simp [Memory.get]
            · rw [if_neg hy]
              simp only [Memory.get]
              rw [if_neg fun e => hy e.symm, if_neg fun e => hy e.symm]
        · rename_i hnlt hne
          simp only [Memory.get]
          by_cases ha : a = y
          · rw [if_pos ha]
            have : y ≠ x := by omega
            rw [if_neg this, if_pos ha]
          · rw [if_neg ha, if_neg ha]
            exact ih (some a) h.2.2
  exact key m none hm

theorem Memory.get_set_same (m : List Host.Cell) (hm : Memory.wf m = true) (x : Nat) (v : Byte) :
    Memory.get (Memory.set m x v) x = v := by simp [Memory.get_set m hm]

theorem Memory.get_set_other (m : List Host.Cell) (hm : Memory.wf m = true) (x y : Nat) (v : Byte) (h : y ≠ x) :
    Memory.get (Memory.set m x v) y = Memory.get m y := by simp [Memory.get_set m hm, h]

/-- Bytes written: inside they read back, outside memory is as before. -/
theorem Memory.get_write (bs : List Byte) (m : List Host.Cell) (hm : Memory.wf m = true) (a y : Nat) :
    Memory.get (Memory.write m a bs) y = if a ≤ y ∧ y < a + bs.length then bs.getD (y - a) 0 else Memory.get m y := by
  induction bs generalizing m a with
  | nil =>
    have : ¬(a ≤ y ∧ y < a + 0) := by omega
    simp only [Memory.write, List.length_nil, if_neg this]
  | cons b bs ih =>
    rw [Memory.write, ih _ (Memory.wf_set m a b hm), Memory.get_set m hm, List.length_cons]
    by_cases h1 : y = a
    · subst h1
      rw [if_neg (by omega), if_pos rfl, if_pos (by omega)]
      simp
    · by_cases h2 : a + 1 ≤ y ∧ y < a + 1 + bs.length
      · rw [if_pos h2, if_pos (by omega)]
        obtain ⟨k, hk⟩ : ∃ k, y - a = k + 1 := ⟨y - a - 1, by omega⟩
        rw [hk, show y - (a + 1) = k by omega]
        simp
      · rw [if_neg h2, if_neg h1, if_neg (by omega)]

theorem Memory.get_write_outside (bs : List Byte) (m : List Host.Cell) (hm : Memory.wf m = true) (a y : Nat)
    (h : y < a ∨ a + bs.length ≤ y) : Memory.get (Memory.write m a bs) y = Memory.get m y := by
  rw [Memory.get_write bs m hm, if_neg (by omega)]

/-- Bytes written read back. -/
theorem Memory.read_write (bs : List Byte) (m : List Host.Cell) (hm : Memory.wf m = true) (a : Nat) :
    Memory.read (Memory.write m a bs) a bs.length = bs := by
  unfold Memory.read
  apply List.ext_getElem
  · simp
  · intro i h1 h2
    have hi : i < bs.length := by simpa using h1
    rw [List.getElem_map, List.getElem_range, Memory.get_write bs m hm, if_pos (by omega)]
    simp [hi]

/-! ### Physical memory -/

/-- The memory after bytes written to a physical address, whatever lines, versions and MACs do. -/
theorem State.failLine_mem (s : State) (l : Nat) : (s.failLine l).mem = s.mem := by
  unfold State.failLine
  split <;> rfl

theorem State.bumpLine_mem (s : State) (l : Nat) : (s.bumpLine l).mem = s.mem := by
  unfold State.bumpLine
  dsimp only
  split
  · split <;> rfl
  · rfl

theorem State.writeLine_mem (pa n : Nat) (s : State) (l : Nat) : (State.writeLine pa n s l).mem = s.mem := by
  unfold State.writeLine
  dsimp only
  rw [State.bumpLine_mem]
  split
  · split
    · rfl
    · exact State.failLine_mem s l
  · rfl

theorem State.foldl_writeLine_mem (pa n : Nat) (ls : List Nat) (s : State) :
    (ls.foldl (State.writeLine pa n) s).mem = s.mem := by
  induction ls generalizing s with
  | nil => rfl
  | cons l ls ih => rw [List.foldl_cons, ih, State.writeLine_mem]

theorem State.clearCovered_mem (s : State) (pa n : Nat) : (s.clearCovered pa n).mem = s.mem := by
  unfold State.clearCovered
  dsimp only
  split <;> rfl

theorem State.writeRaw_mem (s : State) (pa : Nat) (bs : List Byte) : (s.writeRaw pa bs).mem = Memory.write s.mem pa bs := by
  unfold State.writeRaw
  dsimp only
  split
  · rw [State.foldl_writeLine_mem]
  · rfl

/-- What a physical write does to memory: its bytes, and nothing else. -/
theorem State.writePa_mem (s : State) (pa : Nat) (bs : List Byte) : (s.writePa pa bs).mem = Memory.write s.mem pa bs := by
  unfold State.writePa
  rw [State.clearCovered_mem, State.writeRaw_mem]

theorem State.writeRaw_wf (s : State) (pa : Nat) (bs : List Byte) (h : Memory.wf s.mem = true) :
    Memory.wf (s.writeRaw pa bs).mem = true := by
  rw [State.writeRaw_mem]
  exact Memory.wf_write bs s.mem pa h

theorem State.writePa_wf (s : State) (pa : Nat) (bs : List Byte) (h : Memory.wf s.mem = true) :
    Memory.wf (s.writePa pa bs).mem = true := by
  rw [State.writePa_mem]
  exact Memory.wf_write bs s.mem pa h

theorem State.reset_mem_wf : Memory.wf State.reset.mem = true := rfl
theorem State.reset_wmem_wf : Memory.wf State.reset.wmem = true := rfl
theorem State.reset_flash_wf : Memory.wf State.reset.flash = true := rfl

end Machine

end Sys2Proof
end

