-- ==== Sys2Proof/Laws/Units.lean ====
section
/-!
SUPPORT. Laws/Units.lean: what a unit of a command does, said once: it is the unit's own result whenever the command may
run and no fault of the core waits.
-/

namespace Sys2Proof

namespace Machine

/-- Putting a core's own task back changes nothing. -/
theorem State.setTask_self (s : State) (c : CoreId) (t : Task) (h : s.taskOf c = some t) : s.setTask c t = s := by
  unfold State.setTask State.setCore
  have e : (fun k : Core => ({ k with task := some t } : Core)) s.cores[c.val] = s.cores[c.val] := by
    unfold State.taskOf State.core at h
    simp only [← h]
  rw [e]
  simp

/-- The task that engines run is the core's. -/
theorem State.taskOf_of_engineTask {s : State} {c : CoreId} {t : Task} (h : s.engineTask c = some t) :
    s.taskOf c = some t := by
  unfold State.engineTask at h
  simp only at h
  split at h
  · cases h
  · split at h
    · rename_i h1 h2
      split at h <;> first | contradiction | (cases h; exact h2)
    · cases h

/-- A unit of a command that may run: its result, its event, or nothing. -/
theorem State.unit_eq {s : State} {c : CoreId} {t : Task} {q : Cmd} (fx : Effect) (f : Task → Cmd → Unit_)
    (ht : s.engineTask c = some t) (hq : t.cmds.find? (fun p => decide (p.seq = q.seq)) = some q)
    (hr : t.ready q = true) (hp : (s.core c).pairFault = false) (hl : (s.core c).laneFault = none) :
    s.unit c q.seq fx f = match f t q with
      | .ok r => r.1.setTask c r.2
      | .error (.event e) => s.failCmd c t e q
      | .error (.trap x) => s.takeTrap c t x (engCode q.eng) q.addr (s.textAt c t q.addr) 0 0
      | .error .wait => s := by
  have h1 := State.pairStop_of_noFault hp t fx
  have h2 : (if q.eng = .m then s.laneStop c true else none) = none := by
    simp [State.laneStop_of_noFault hl true]
  unfold State.unit
  simp only [ht, hq, hr, h1, h2, Bool.not_true, Bool.false_eq_true, if_false]
  rcases f t q with (e | x | _) | r <;> simp [State.stopCmd, State.pairStop_of_noFault hp]

/-- A unit that completes. -/
theorem State.unit_ok {s : State} {c : CoreId} {t : Task} {q : Cmd} (fx : Effect) (f : Task → Cmd → Unit_)
    {r : State × Task} (ht : s.engineTask c = some t)
    (hq : t.cmds.find? (fun p => decide (p.seq = q.seq)) = some q) (hr : t.ready q = true)
    (hp : (s.core c).pairFault = false) (hl : (s.core c).laneFault = none) (hf : f t q = .ok r) :
    s.unit c q.seq fx f = r.1.setTask c r.2 := by
  rw [State.unit_eq fx f ht hq hr hp hl, hf]

end Machine

end Sys2Proof
end

