-- ==== Sys2Proof/Machine/Block.lean ====
section
/-!
DEFINITION. Machine/Block.lean: what a portable block means (R368, R369): its operations on values, its memory effects in
ascending order of key, its joint commit, its successor, and a fault that leaves the state of its entry. A translation
preserves these rules; the record's own layout of operands is log 77's.
-/

namespace Sys2Proof

namespace Machine

/-! ### Values -/

/-- A value of a block: what its operation leaves in the register that it names as destination, of each kind an instruction
may write. -/
structure BlockValue where
  x : Word64
  p : Bool
  k : MaskBits
  v : List Entry
  deriving DecidableEq, Repr

/-- The value of an operand that is absent, or of an operation that produces none. -/
def BlockValue.zero : BlockValue := ⟨0, false, 0, []⟩

/-- The numbers of the registers that an operation's instruction names: operands a, b and c, and the destination, whose mask
or predicate register is that of the number modulo 8. A group of registers begins at its number. -/
def regA : Nat := 2
def regB : Nat := 6
def regC : Nat := 10
def regD : Nat := 12

/-- Queues that hold the entries of a value from a number on, one each. -/
def holdEntries : Nat → List Entry → Vector (List Entry) 32 → Vector (List Entry) 32
  | _, [], q => q
  | n, e :: rest, q => holdEntries (n + 1) rest (q.set (n % 32) [e] (Nat.mod_lt _ (by decide)))

/-- A task whose registers of a number hold a value. -/
def Task.holding (t : Task) (n : Nat) (b : BlockValue) : Task :=
  { t with x := t.x.set (n % 32) b.x (Nat.mod_lt _ (by decide)), v := holdEntries n b.v t.v }

/-- The same for the mask and predicate registers. -/
def Task.holdingMask (t : Task) (n : Nat) (b : BlockValue) : Task :=
  { t with p := t.p.set (n % 8) b.p (Nat.mod_lt _ (by decide)), k := t.k.set (n % 8) b.k (Nat.mod_lt _ (by decide)) }

/-- The value that a task's destination registers hold. -/
def Task.produced (t : Task) : BlockValue :=
  { x := t.getX (Fin.ofNat 32 regD), p := t.getP (Fin.ofNat 8 regD), k := t.getK (Fin.ofNat 8 regD),
    v := (List.range 4).flatMap fun i => (t.queue (Fin.ofNat 32 (regD + i))).take 1 }

/-! ### The instruction of a record (R369, log 77) -/

/-- Whether a record's operand field names a value. -/
def hasOperand (r : List Byte) (o : Nat) : Bool := bitAt (field r o 2) 15

/-- The number of an operand's register, zero where the record names none. -/
def operandReg (r : List Byte) (o n : Nat) : Nat := if hasOperand r o then n else 0

/-- Whether a record has an immediate. -/
def hasImmediate (r : List Byte) : Bool := bitAt (field r 14 1) 0

/-- The immediate of a record. -/
def recordImmediate (r : List Byte) : Nat := if hasImmediate r then field r 8 4 else 0

/-- P1 of a C form: the fields of its layout (R84), every other one zero (R83). SEXT and ZEXT take their width from the
immediate, which must fit the field. -/
def blockP1 (r : List Byte) (op sub : Nat) : Nat :=
  let a := operandReg r 2 regA
  let b := operandReg r 4 regB
  let d := regD * 2048
  let pd := regD % 8
  match op with
  | 0x00 => 0
  | 0x02 => if sub = 1 then d else d + a * 64
  | 0x04 => if 4 ≤ sub ∧ sub ≤ 6 then d + a * 64 else d + a * 64 + b * 2
  | 0x05 => if sub ≤ 1 ∧ recordImmediate r < 64 then d + a * 64 + recordImmediate r else d + a * 64
  | 0x07 => a * 2048 + b * 64 + pd * 8
  | 0x08 => a * 2048 + pd * 8
  | 0x09 => pd * 8192 + (if sub ≤ 5 then a * 1024 else 0) + (if sub ≤ 3 then b * 128 else 0)
  | 0x0C => d + a * 64
  | 0x0D => d + a * 64
  | 0x0E => d + a * 64
  | 0x0F => d + a * 64
  | 0x10 => b * 2048 + a * 64
  | 0x11 => b * 2048 + a * 64
  | 0x12 => b * 2048 + a * 64
  | 0x13 => b * 2048 + a * 64
  | 0x17 => if sub = 0 then a * 64 else 0
  | 0x1A => if sub = 3 then pd * 2048 + a * 64 + b * 2 else if sub = 2 then d + a * 64 + b * 2 else d + a * 64
  | _ => d + a * 64 + b * 2

/-- The parcels of a C record: the alias class stands in the sub-code of a load or store (R38). -/
def blockC (r : List Byte) : List Nat :=
  let h := field r 0 2
  let op := bitsAt h 8 5
  let sub := bitsAt h 0 3
  let cls := bitsAt (field r 14 1) 1 2
  let lit := hasImmediate r && !(decide (op = 0x05) && decide (sub ≤ 1))
  [(if 0x0C ≤ op ∧ op ≤ 0x13 then h ||| cls * 2 else h) + bitNat lit * 8, blockP1 r op sub] ++
    (if lit then [field r 8 2, field r 10 2] else [])

/-- What a register field of a V form holds (R88): the number of a register, where it names one. -/
def slotField (cls n : Nat) : Slot → Nat
  | .queue => n
  | .xreg => n
  | .mask => n % 8
  | .zero => 0
  | .aliasClass => cls
  | .one => 1

/-- The parcels of a V record, its fields those of its form (R88). -/
def blockV (r : List Byte) : List Nat :=
  let h := field r 0 2
  let op := bitsAt h 8 5
  let put := slotField (bitsAt (field r 14 1) 1 2)
  let bare : VF := { bareV (bitsAt h 1 4) with lit := if hasImmediate r then some 0 else none }
  match (vCand op (bitsAt h 5 3) bare).bind vForm with
  | none => [h, 0, 0]
  | some (fm, _) =>
    [h + bitNat (hasImmediate r),
     put (if op = 1 then operandReg r 6 regC else regD) fm.vd * 2048 + put (operandReg r 2 regA) fm.va * 64 +
       put (operandReg r 4 regB) fm.vb * 2,
     put (operandReg r 6 regC) fm.vc * 2048] ++ (if hasImmediate r then [field r 8 2, field r 10 2] else [])

/-- The parcels of a record's instruction. -/
def blockParcels (r : List Byte) : List Parcel :=
  (if bitsAt (field r 0 2) 13 3 = 0 then blockC r else blockV r).map (BitVec.ofNat 16)

/-! ### One operation -/

/-- What an operation ends in. -/
inductive OpEnd where
  | value (s : State) (v : BlockValue)
  | waits
  | faults

/-- The registers of a task before an operation: its operands, everything else as a task has it at dispatch. The word on the
M stack marks that no event has unwound it (R277). -/
def Task.forBlock (t : Task) (a b c : BlockValue) : Task :=
  let t := { t with
    x := Vector.replicate 32 0, p := (Vector.replicate 8 false).set 0 true,
    k := (Vector.replicate 8 0).set 0 (BitVec.allOnes 1024), v := Vector.replicate 32 [], rep := Repeat.zero, dist := 0,
    mStack := [0], wait := .none }
  let t := ((t.holding regA a).holdingMask regA a).holding regB b |>.holdingMask regB b
  let t := ((t.holding regC c).holdingMask regD c)
  { t with x := t.x.set regD c.x }

/-- A task behind an operation: memory and system registers as the operation left them, its registers its own again. -/
def Task.afterBlock (t : Task) (old : Task) : Task :=
  { t with x := old.x, p := old.p, k := old.k, v := old.v, rep := old.rep, dist := old.dist, mStack := old.mStack,
           pc := old.pc }

/-- An operation of a block on the current core's task: the meaning of its instruction, on values in place of registers. -/
def State.blockOp (s : State) (r : List Byte) (vals : List (Nat × BlockValue)) : OpEnd :=
  let val (o : Nat) : BlockValue :=
    if hasOperand r o then (lookupKey (bitsAt (field r o 2) 0 9) vals).getD BlockValue.zero else BlockValue.zero
  match s.taskOf s.cur, decodeParcels (blockParcels r) with
  | some t, .instr i =>
    let t1 := t.forBlock (val 2) (val 4) (val 6)
    match exec i (s.setTask s.cur t1) with
    | .next s' =>
      match (s'.core s.cur).status, s'.taskOf s.cur with
      | .running, some t2 =>
        if t2.wait ≠ .none ∨ t2.mStack ≠ [0] then .faults
        else if t2.pc = t1.pc then .waits
        else .value (s'.setTask s.cur (t2.afterBlock t)) t2.produced
      | _, _ => .faults
    | _ => .faults
  | _, _ => .faults

/-! ### A block (R368) -/

/-- How a block ends: it commits its memory effects and its outputs together, with the number of its successor or none; it
faults, and every state is as at its entry; or it still waits. -/
inductive BlockEnd where
  | commits (s : State) (outs : List BlockValue) (next : Option Nat)
  | faults (s : State)
  | waits (s : State)

/-- Whether the values that a record names are there. -/
def operandsReady (r : List Byte) (vals : List (Nat × BlockValue)) : Bool :=
  [2, 4, 6].all fun o => !hasOperand r o || (lookupKey (bitsAt (field r o 2) 0 9) vals).isSome

/-- Whether an operation may be performed: its operands are there, and a load or a store is the next by its order key. -/
def blockReady (b : List Byte) (pending : List Nat) (vals : List (Nat × BlockValue)) (j : Nat) : Bool :=
  let key (i : Nat) : Nat := field (opRecord b i) 12 2
  let mem (i : Nat) : Bool := headMem (field (opRecord b i) 0 2)
  operandsReady (opRecord b j) vals && (!mem j || pending.all fun i => !mem i || decide (key j ≤ key i))

/-- The operations of a block performed, one ready operation after another. Loads and stores that wait for each other's values
against their keys can never be performed, and the block faults (log 77). -/
def State.blockOps (b : List Byte) : Nat → List Nat → List (Nat × BlockValue) → State → Option (State × List (Nat × BlockValue)) × Bool
  | 0, _, vals, s => (some (s, vals), false)
  | n + 1, pending, vals, s =>
    match pending.find? (blockReady b pending vals) with
    | none => (none, false)
    | some j =>
      match s.blockOp (opRecord b j) vals with
      | .faults => (none, false)
      | .waits => (none, true)
      | .value s' v => State.blockOps b n (pending.filter fun i => decide (i ≠ j)) ((32 + j, v) :: vals) s'

/-- The value that a field of a block names: none where its bit 15 is clear. -/
def namedValue (w : Nat) (vals : List (Nat × BlockValue)) : Option BlockValue :=
  if bitAt w 15 then some ((lookupKey (bitsAt w 0 9) vals).getD BlockValue.zero) else none

/-- The successor of a block: the first for a non-zero selector value or none, the second for zero; none ends the code. -/
def successorOf (b : List Byte) (vals : List (Nat × BlockValue)) : Option Nat :=
  let first := match namedValue (field b 12 2) vals with
    | some v => decide (v.x ≠ 0) || v.p
    | none => true
  let n := if first then field b 16 4 else field b 20 4
  if n = 0xFFFFFFFF then none else some n

/-- What a block's values deliver: output k is the value that entry k of its table names. -/
def outputsOf (b : List Byte) (vals : List (Nat × BlockValue)) : List BlockValue :=
  (List.range (field b 5 1)).map fun k =>
    (namedValue (field b (32 + 16 * Machine.blockOps b + 2 * k) 2) vals).getD BlockValue.zero

/-- A block run from its inputs (R368). -/
def State.runBlock (s : State) (b : List Byte) (inputs : List BlockValue) : BlockEnd :=
  let n := Machine.blockOps b
  match State.blockOps b n (List.range n) ((inputs.take (field b 4 1)).zipIdx.map fun e => (e.2, e.1)) s with
  | (some (s', vals), _) => .commits s' (outputsOf b vals) (successorOf b vals)
  | (none, true) => .waits s
  | (none, false) => .faults s

/-- Portable code run from a block, at most `fuel` blocks of it: output k of a block is input k of the block that follows. A
fault stands at the entry of the block that faults. -/
def State.runBlocks (blocks : List (List Byte)) : Nat → Nat → List BlockValue → State → BlockEnd
  | 0, _, _, s => .waits s
  | fuel + 1, n, inputs, s =>
    match blocks.find? fun b => decide (field b 8 4 = n) with
    | none => .faults s
    | some b =>
      match s.runBlock b inputs with
      | .commits s' outs (some m) => State.runBlocks blocks fuel m outs s'
      | e => e

end Machine

end Sys2Proof
end

