-- ==== Sys2Proof/Tests/Slice0.lean ====
section
/-!
SUPPORT. Tests/Slice0.lean: ill-formed terms that the checks refuse, words from the encodings of spec/, single steps on
small states.
-/

namespace Sys2Proof

namespace Tests

open Sys2Proof.Machine

set_option Elab.async false

/-! ### Decoding -/

/-- R84 op 0x00, R17, R32. -/
theorem test_decode_system : ([
  (32, 0x50, .nop ⟨2, true⟩),
  (32, 0xBEEF0001, .trap ⟨0, false⟩ 0xBEEF),
  (32, 0x12340002, .brk ⟨0, false⟩ 0x1234),
  (64, 0xDEADBEEF0512000B, .mile ⟨0, false⟩ 5 0x12 0xDEADBEEF),
  (32, 0x26800004, .rep ⟨0, false⟩ 9 true false true false),
  (32, 0x5, .ntdrain ⟨0, false⟩),
  (32, 0x66, .exit ⟨3, false⟩)] : List (Nat × Nat × Instr)).all (fun e => decide (decodeTableWord e.1 e.2.1 = some e.2.2)) = true := by decide +kernel

/-- R81 CR layout, R84 ops 0x01, 0x03, 0x04. -/
theorem test_decode_alu : ([
  (32, 0x3B1F0120, .add ⟨1, false⟩ true 7 12 15),
  (32, 0x75F80141, .sub ⟨2, false⟩ false 14 23 28),
  (32, 0xA8930162, .and ⟨3, false⟩ true 21 2 9),
  (32, 0xE36C0183, .or ⟨4, false⟩ false 28 13 22),
  (32, 0x1E0701A4, .xor ⟨5, false⟩ true 3 24 3),
  (32, 0x50E001C5, .shl ⟨6, false⟩ false 10 3 16),
  (32, 0x8BBB01E6, .shr ⟨7, false⟩ true 17 14 29),
  (32, 0xC6540107, .sra ⟨0, false⟩ false 24 25 10),
  (32, 0xF92F0320, .mul ⟨1, false⟩ true 31 4 23),
  (32, 0x33C80341, .mulh ⟨2, false⟩ false 6 15 4),
  (32, 0x6EA30362, .mulhu ⟨3, false⟩ true 13 26 17),
  (32, 0xA17C0383, .div ⟨4, false⟩ false 20 5 30),
  (32, 0xDC1703A4, .divu ⟨5, false⟩ true 27 16 11),
  (32, 0x16F003C5, .rem ⟨6, false⟩ false 2 27 24),
  (32, 0x498B03E6, .remu ⟨7, false⟩ true 9 6 5),
  (32, 0x84640400, .min ⟨0, false⟩ false 16 17 18),
  (32, 0xBF3F0421, .max ⟨1, false⟩ true 23 28 31),
  (32, 0xF1D80442, .minu ⟨2, false⟩ false 30 7 12),
  (32, 0x2CB30463, .maxu ⟨3, false⟩ true 5 18 25),
  (32, 0x1A410404, .clz ⟨0, false⟩ true 3 9),
  (32, 0x1A410405, .ctz ⟨0, false⟩ true 3 9),
  (32, 0x1A410406, .popc ⟨0, false⟩ true 3 9),
  (32, 0x1A490407, .rol ⟨0, false⟩ true 3 9 4)] : List (Nat × Nat × Instr)).all (fun e => decide (decodeTableWord e.1 e.2.1 = some e.2.2)) = true := by decide +kernel

/-- R81 CI layout, R82, R84 ops 0x02, 0x05, 0x06. -/
theorem test_decode_imm : ([
  (32, 0x29E30200, .addi ⟨0, false⟩ 5 7 35),
  (64, 0x8000000029C00208, .addiLit ⟨0, false⟩ 5 7 0x80000000),
  (32, 0x282C0201, .movi ⟨0, false⟩ 5 44),
  (64, 0x8000000128000209, .moviLit ⟨0, false⟩ 5 0x80000001),
  (32, 0x29F50202, .andi ⟨0, false⟩ 5 7 53),
  (64, 0x8000000229C0020A, .andiLit ⟨0, false⟩ 5 7 0x80000002),
  (32, 0x29FE0203, .ori ⟨0, false⟩ 5 7 62),
  (64, 0x8000000329C0020B, .oriLit ⟨0, false⟩ 5 7 0x80000003),
  (32, 0x29C70204, .xori ⟨0, false⟩ 5 7 7),
  (64, 0x8000000429C0020C, .xoriLit ⟨0, false⟩ 5 7 0x80000004),
  (32, 0x29D00205, .shli ⟨0, false⟩ 5 7 16),
  (64, 0x8000000529C0020D, .shliLit ⟨0, false⟩ 5 7 0x80000005),
  (32, 0x29D90206, .shri ⟨0, false⟩ 5 7 25),
  (64, 0x8000000629C0020E, .shriLit ⟨0, false⟩ 5 7 0x80000006),
  (32, 0x29E20207, .srai ⟨0, false⟩ 5 7 34),
  (64, 0x8000000729C0020F, .sraiLit ⟨0, false⟩ 5 7 0x80000007),
  (32, 0x10FF0500, .sext ⟨0, false⟩ 2 3 63),
  (32, 0x10C10501, .zext ⟨0, false⟩ 2 3 1),
  (64, 0x2C1410C0050A, .bfx ⟨0, false⟩ 2 3 20 44),
  (64, 0x400010C0050B, .bfi ⟨0, false⟩ 2 3 0 64),
  (32, 0x8860605, .lea ⟨0, false⟩ 5 1 2 3)] : List (Nat × Nat × Instr)).all (fun e => decide (decodeTableWord e.1 e.2.1 = some e.2.2)) = true := by decide +kernel

/-- R81 CP and CS layouts, R83, R84 ops 0x07 to 0x09. -/
theorem test_decode_pred : ([
  (32, 0x4C5D0700, .cmp ⟨0, false⟩ .eq 3 5 9 17),
  (32, 0x4C5D0701, .cmp ⟨0, false⟩ .ne 3 5 9 17),
  (32, 0x4C5D0702, .cmp ⟨0, false⟩ .lt 3 5 9 17),
  (32, 0x4C5D0703, .cmp ⟨0, false⟩ .ge 3 5 9 17),
  (32, 0x4C5D0704, .cmp ⟨0, false⟩ .ltu 3 5 9 17),
  (32, 0x4C5D0705, .cmp ⟨0, false⟩ .geu 3 5 9 17),
  (32, 0x4C5D0706, .cmp ⟨0, false⟩ .tst 3 5 9 17),
  (32, 0x4FDD0804, .cmpi ⟨0, false⟩ .ltu 3 5 9 31),
  (64, 0xFFFFFFFF4818080B, .cmpiLit ⟨0, false⟩ .ge 3 0 9 0xFFFFFFFF),
  (32, 0xD5800930, .pand ⟨1, true⟩ 6 5 3),
  (32, 0xD5800931, .por ⟨1, true⟩ 6 5 3),
  (32, 0xD5800932, .pxor ⟨1, true⟩ 6 5 3),
  (32, 0xD5800933, .pandn ⟨1, true⟩ 6 5 3),
  (32, 0xD4000904, .pnot ⟨0, false⟩ 6 5),
  (32, 0xD4000905, .pmov ⟨0, false⟩ 6 5),
  (32, 0xC0000906, .pset ⟨0, false⟩ 6),
  (32, 0xC0000907, .pclr ⟨0, false⟩ 6)] : List (Nat × Nat × Instr)).all (fun e => decide (decodeTableWord e.1 e.2.1 = some e.2.2)) = true := by decide +kernel

/-- R84 ops 0x0A, 0x0B. -/
theorem test_decode_control : ([
  (32, 0x80010A00, .br ⟨0, false⟩ 0x8001),
  (32, 0x7FFF0A01, .call ⟨0, false⟩ 0x7FFF),
  (32, 0x5400B00, .jmp ⟨0, false⟩ 21),
  (32, 0x9D400B01, .callr ⟨0, false⟩ 19 21),
  (32, 0x400B02, .ret ⟨0, false⟩ 1)] : List (Nat × Nat × Instr)).all (fun e => decide (decodeTableWord e.1 e.2.1 = some e.2.2)) = true := by decide +kernel

/-- R81 CM layout, R84 ops 0x0C to 0x15. -/
theorem test_decode_mem : ([
  (32, 0xA2AA0C05, .ldB ⟨0, false⟩ 2 true 20 10 0x2A),
  (64, 0x12345678A2800C0B, .ldBLit ⟨0, false⟩ 1 true 20 10 0x12345678),
  (32, 0xA2951007, .stB ⟨0, false⟩ 3 true 20 10 0x15),
  (64, 0x87654321A2801008, .stBLit ⟨0, false⟩ 0 false 20 10 0x87654321),
  (32, 0xA2AA0D05, .ldH ⟨0, false⟩ 2 true 20 10 0x2A),
  (64, 0x12345678A2800D0B, .ldHLit ⟨0, false⟩ 1 true 20 10 0x12345678),
  (32, 0xA2951107, .stH ⟨0, false⟩ 3 true 20 10 0x15),
  (64, 0x87654321A2801108, .stHLit ⟨0, false⟩ 0 false 20 10 0x87654321),
  (32, 0xA2AA0E05, .ldW ⟨0, false⟩ 2 true 20 10 0x2A),
  (64, 0x12345678A2800E0B, .ldWLit ⟨0, false⟩ 1 true 20 10 0x12345678),
  (32, 0xA2951207, .stW ⟨0, false⟩ 3 true 20 10 0x15),
  (64, 0x87654321A2801208, .stWLit ⟨0, false⟩ 0 false 20 10 0x87654321),
  (32, 0xA2AA0F04, .ldD ⟨0, false⟩ 2 20 10 0x2A),
  (64, 0x12345678A2800F0A, .ldDLit ⟨0, false⟩ 1 20 10 0x12345678),
  (32, 0xA2951307, .stD ⟨0, false⟩ 3 true 20 10 0x15),
  (64, 0x87654321A2801308, .stDLit ⟨0, false⟩ 0 false 20 10 0x87654321),
  (32, 0x674C1480, .aadd ⟨4, false⟩ false 12 29 6),
  (32, 0x9A2714A1, .aand ⟨5, false⟩ true 19 8 19),
  (32, 0xD4C014C2, .aor ⟨6, false⟩ false 26 19 0),
  (32, 0xF9B14E3, .axor ⟨7, false⟩ true 1 30 13),
  (32, 0x42741404, .amin ⟨0, false⟩ false 8 9 26),
  (32, 0x7D0F1425, .amax ⟨1, false⟩ true 15 20 7),
  (32, 0xB7E81446, .aswap ⟨2, false⟩ false 22 31 20),
  (32, 0xEA831560, .cas ⟨3, false⟩ true 29 10 1)] : List (Nat × Nat × Instr)).all (fun e => decide (decodeTableWord e.1 e.2.1 = some e.2.2)) = true := by decide +kernel

/-- R84 ops 0x16 to 0x1A. -/
theorem test_decode_tasks : ([
  (32, 0x8861600, .spawn ⟨0, false⟩ 1 2 3),
  (32, 0x21401601, .launch ⟨0, false⟩ 4 5),
  (64, 0x1000131D0160A, .join ⟨0, false⟩ 6 7 8 0x10001),
  (32, 0x4A801603, .cancel ⟨0, false⟩ 9 10),
  (32, 0x2D81604, .waitc ⟨0, false⟩ 11 12),
  (32, 0x1605, .bar ⟨0, false⟩),
  (32, 0x68001606, .tid ⟨0, false⟩ 13),
  (32, 0x3801700, .ctopen ⟨0, false⟩ 14),
  (32, 0x1701, .ctclose ⟨0, false⟩),
  (32, 0x78101800, .csrr ⟨0, false⟩ 15 0x10),
  (32, 0x78171801, .csrw ⟨0, false⟩ 15 0x17),
  (32, 0x78831802, .csrs ⟨0, false⟩ 15 0x83),
  (32, 0x78C01803, .csrc ⟨0, false⟩ 15 0xC0),
  (32, 0x87E41900, .vget ⟨0, false⟩ .b 16 31 18),
  (32, 0x87E41901, .vget ⟨0, false⟩ .h 16 31 18),
  (32, 0x87E41902, .vget ⟨0, false⟩ .w 16 31 18),
  (32, 0x87E41903, .vget ⟨0, false⟩ .d 16 31 18),
  (32, 0x9C01A00, .kpopc ⟨0, false⟩ 1 7),
  (32, 0x9801A01, .kfirst ⟨0, false⟩ 1 6),
  (32, 0x9521A02, .kgetw ⟨0, false⟩ 1 5 9),
  (32, 0x21521A03, .ksetw ⟨0, false⟩ 4 5 9)] : List (Nat × Nat × Instr)).all (fun e => decide (decodeTableWord e.1 e.2.1 = some e.2.2)) = true := by decide +kernel

/-- R86, R88, R89 ops 0x00 to 0x02. -/
theorem test_decode_vMem : ([
  (48, 0x1D8008802000, .vld ⟨0, 1, 2, 0, false, 3, 5, true, false, false, false, ⟨0, false⟩, none⟩),
  (48, 0x80008862030, .vlds ⟨8, 1, 2, 3, false, 1, 0, false, false, false, false, ⟨0, false⟩, none⟩),
  (80, 0xFFFFFFFC10200886204D, .vldg ⟨6, 1, 2, 3, false, 2, 0, false, false, true, false, ⟨0, false⟩, some 0xFFFFFFFC⟩),
  (48, 0x8802060, .vldt ⟨0, 1, 2, 0, false, 0, 0, false, false, false, false, ⟨0, false⟩, none⟩),
  (48, 0x8812060, .vldth ⟨0, 1, 2, 0, true, 0, 0, false, false, false, false, ⟨0, false⟩, none⟩),
  (48, 0x8070880208E, .vldb ⟨7, 1, 2, 0, false, 1, 0, false, false, false, false, ⟨3, true⟩, none⟩),
  (48, 0xA0000922100, .vst ⟨0, 0, 2, 9, false, 1, 2, false, false, false, false, ⟨0, false⟩, none⟩),
  (48, 0x2020922122, .vsts ⟨1, 4, 2, 9, false, 0, 0, false, false, true, false, ⟨0, false⟩, none⟩),
  (48, 0x20922144, .vstx ⟨2, 4, 2, 9, false, 0, 0, false, false, false, false, ⟨0, false⟩, none⟩),
  (48, 0x922160, .vstt ⟨0, 0, 2, 9, false, 0, 0, false, false, false, false, ⟨0, false⟩, none⟩),
  (80, 0x40000000922191, .vstn ⟨8, 0, 2, 9, false, 0, 0, false, false, false, false, ⟨0, false⟩, some 0x40⟩),
  (48, 0x3000190B2204, .vamo .add ⟨2, 3, 4, 5, true, 6, 0, false, false, false, false, ⟨0, false⟩, none⟩),
  (48, 0x3000190B2224, .vamo .or ⟨2, 3, 4, 5, true, 6, 0, false, false, false, false, ⟨0, false⟩, none⟩),
  (48, 0x3000190B2244, .vamo .and ⟨2, 3, 4, 5, true, 6, 0, false, false, false, false, ⟨0, false⟩, none⟩),
  (48, 0x3000190B2264, .vamo .xor ⟨2, 3, 4, 5, true, 6, 0, false, false, false, false, ⟨0, false⟩, none⟩),
  (48, 0x3100010A2290, .vamo .min ⟨8, 0, 4, 5, false, 6, 1, false, false, false, false, ⟨0, false⟩, none⟩),
  (48, 0x3100010A22B0, .vamo .max ⟨8, 0, 4, 5, false, 6, 1, false, false, false, false, ⟨0, false⟩, none⟩)] : List (Nat × Nat × Instr)).all (fun e => decide (decodeTableWord e.1 e.2.1 = some e.2.2)) = true := by decide +kernel

/-- R86, R89 ops 0x03 to 0x06. -/
theorem test_decode_vInt : ([
  (48, 0x20553C2304, .vadd ⟨2, 10, 20, 30, false, 0, 0, false, false, true, false, ⟨0, false⟩, none⟩),
  (48, 0x1E05D3C2324, .vsub ⟨2, 11, 20, 30, false, 0, 1, true, true, true, false, ⟨0, false⟩, none⟩),
  (48, 0x2A0653C2344, .vmul ⟨2, 12, 20, 30, false, 0, 2, true, false, true, false, ⟨0, false⟩, none⟩),
  (48, 0x3E06D3C2364, .vmulh ⟨2, 13, 20, 30, false, 0, 3, true, true, true, false, ⟨0, false⟩, none⟩),
  (48, 0x4A0753C2384, .vmin ⟨2, 14, 20, 30, false, 0, 4, true, false, true, false, ⟨0, false⟩, none⟩),
  (48, 0x5E07D3C23A4, .vmax ⟨2, 15, 20, 30, false, 0, 5, true, true, true, false, ⟨0, false⟩, none⟩),
  (48, 0x680850023C4, .vabs ⟨2, 16, 20, 0, false, 0, 6, true, false, false, false, ⟨0, false⟩, none⟩),
  (48, 0x7C08D0023E4, .vneg ⟨2, 17, 20, 0, false, 0, 7, true, true, false, false, ⟨0, false⟩, none⟩),
  (48, 0x3820553C2402, .vmad ⟨1, 10, 20, 30, false, 7, 0, false, false, true, false, ⟨0, false⟩, none⟩),
  (48, 0x39E05D3C2422, .vmsub ⟨1, 11, 20, 30, false, 7, 1, true, true, true, false, ⟨0, false⟩, none⟩),
  (48, 0x2A0653C2442, .vaddsat ⟨1, 12, 20, 30, false, 0, 2, true, false, true, false, ⟨0, false⟩, none⟩),
  (48, 0x3E06D3C2462, .vsubsat ⟨1, 13, 20, 30, false, 0, 3, true, true, true, false, ⟨0, false⟩, none⟩),
  (48, 0x20553C2500, .vand ⟨0, 10, 20, 30, false, 0, 0, false, false, true, false, ⟨0, false⟩, none⟩),
  (48, 0x1E05D3C2520, .vor ⟨0, 11, 20, 30, false, 0, 1, true, true, true, false, ⟨0, false⟩, none⟩),
  (48, 0x2A0653C2540, .vxor ⟨0, 12, 20, 30, false, 0, 2, true, false, true, false, ⟨0, false⟩, none⟩),
  (48, 0x3E06D3C2560, .vandn ⟨0, 13, 20, 30, false, 0, 3, true, true, true, false, ⟨0, false⟩, none⟩),
  (48, 0x48075002580, .vnot ⟨0, 14, 20, 0, false, 0, 4, true, false, false, false, ⟨0, false⟩, none⟩),
  (48, 0x5E07D3C25A0, .vshl ⟨0, 15, 20, 30, false, 0, 5, true, true, true, false, ⟨0, false⟩, none⟩),
  (48, 0x6A0853C25C0, .vshr ⟨0, 16, 20, 30, false, 0, 6, true, false, true, false, ⟨0, false⟩, none⟩),
  (48, 0x7E08D3C25E0, .vsra ⟨0, 17, 20, 30, false, 0, 7, true, true, true, false, ⟨0, false⟩, none⟩),
  (48, 0x55002604, .vpopc ⟨2, 10, 20, 0, false, 0, 0, false, false, false, false, ⟨0, false⟩, none⟩),
  (48, 0x1C05D002624, .vclz ⟨2, 11, 20, 0, false, 0, 1, true, true, false, false, ⟨0, false⟩, none⟩),
  (48, 0x28065002644, .vctz ⟨2, 12, 20, 0, false, 0, 2, true, false, false, false, ⟨0, false⟩, none⟩),
  (48, 0x3C06D002664, .vbrev ⟨2, 13, 20, 0, false, 0, 3, true, true, false, false, ⟨0, false⟩, none⟩)] : List (Nat × Nat × Instr)).all (fun e => decide (decodeTableWord e.1 e.2.1 = some e.2.2)) = true := by decide +kernel

/-- R86, R89 ops 0x07 to 0x0A. -/
theorem test_decode_vFlt : ([
  (48, 0x20553C2710, .vfadd ⟨8, 10, 20, 30, false, 0, 0, false, false, true, false, ⟨0, false⟩, none⟩),
  (48, 0x1E05D3C2730, .vfsub ⟨8, 11, 20, 30, false, 0, 1, true, true, true, false, ⟨0, false⟩, none⟩),
  (48, 0x2A0653C2750, .vfmul ⟨8, 12, 20, 30, false, 0, 2, true, false, true, false, ⟨0, false⟩, none⟩),
  (48, 0x3E06D3C2770, .vfmin ⟨8, 13, 20, 30, false, 0, 3, true, true, true, false, ⟨0, false⟩, none⟩),
  (48, 0x4A0753C2790, .vfmax ⟨8, 14, 20, 30, false, 0, 4, true, false, true, false, ⟨0, false⟩, none⟩),
  (48, 0x5C07D0027B0, .vfabs ⟨8, 15, 20, 0, false, 0, 5, true, true, false, false, ⟨0, false⟩, none⟩),
  (48, 0x680850027D0, .vfneg ⟨8, 16, 20, 0, false, 0, 6, true, false, false, false, ⟨0, false⟩, none⟩),
  (48, 0x7E08D3C27F0, .vfsgn ⟨8, 17, 20, 30, false, 0, 7, true, true, true, false, ⟨0, false⟩, none⟩),
  (48, 0x3820553C280C, .vfma ⟨6, 10, 20, 30, false, 7, 0, false, false, true, false, ⟨0, false⟩, none⟩),
  (48, 0x39E05D3C282C, .vfms ⟨6, 11, 20, 30, false, 7, 1, true, true, true, false, ⟨0, false⟩, none⟩),
  (48, 0x3AA0653C284C, .vfnma ⟨6, 12, 20, 30, false, 7, 2, true, false, true, false, ⟨0, false⟩, none⟩),
  (48, 0x3BE06D3C286C, .vfnms ⟨6, 13, 20, 30, false, 7, 3, true, true, true, false, ⟨0, false⟩, none⟩),
  (48, 0x55002910, .vrsqa ⟨8, 10, 20, 0, false, 0, 0, false, false, false, false, ⟨0, false⟩, none⟩),
  (48, 0x1C05D002930, .vrcpa ⟨8, 11, 20, 0, false, 0, 1, true, true, false, false, ⟨0, false⟩, none⟩),
  (48, 0x28065002950, .vexpa ⟨8, 12, 20, 0, false, 0, 2, true, false, false, false, ⟨0, false⟩, none⟩),
  (48, 0x3C06D002970, .vloga ⟨8, 13, 20, 0, false, 0, 3, true, true, false, false, ⟨0, false⟩, none⟩),
  (48, 0x48075002990, .vsqrt ⟨8, 14, 20, 0, false, 0, 4, true, false, false, false, ⟨0, false⟩, none⟩),
  (48, 0x5E07D3C29B0, .vfdiv ⟨8, 15, 20, 30, false, 0, 5, true, true, true, false, ⟨0, false⟩, none⟩),
  (48, 0x280353C2A10, .vcmp .eq ⟨8, 6, 20, 30, false, 0, 2, true, false, false, false, ⟨0, false⟩, none⟩),
  (48, 0x280353C2A30, .vcmp .ne ⟨8, 6, 20, 30, false, 0, 2, true, false, false, false, ⟨0, false⟩, none⟩),
  (48, 0x280353C2A50, .vcmp .lt ⟨8, 6, 20, 30, false, 0, 2, true, false, false, false, ⟨0, false⟩, none⟩),
  (48, 0x280353C2A70, .vcmp .le ⟨8, 6, 20, 30, false, 0, 2, true, false, false, false, ⟨0, false⟩, none⟩),
  (48, 0x280353C2A90, .vcmp .gt ⟨8, 6, 20, 30, false, 0, 2, true, false, false, false, ⟨0, false⟩, none⟩),
  (48, 0x280353C2AB0, .vcmp .ge ⟨8, 6, 20, 30, false, 0, 2, true, false, false, false, ⟨0, false⟩, none⟩),
  (48, 0x280353C2AD0, .vcmp .un ⟨8, 6, 20, 30, false, 0, 2, true, false, false, false, ⟨0, false⟩, none⟩)] : List (Nat × Nat × Instr)).all (fun e => decide (decodeTableWord e.1 e.2.1 = some e.2.2)) = true := by decide +kernel

/-- R86, R89 ops 0x0B to 0x12. -/
theorem test_decode_vMove : ([
  (48, 0x40008862B04, .vsel ⟨2, 1, 2, 3, false, 0, 4, false, false, false, false, ⟨0, false⟩, none⟩),
  (48, 0x44008802B24, .vmov ⟨2, 1, 2, 0, false, 0, 4, false, true, false, false, ⟨0, false⟩, none⟩),
  (48, 0x48008002B44, .viota ⟨2, 1, 0, 0, false, 0, 4, true, false, false, false, ⟨0, false⟩, none⟩),
  (48, 0xFC02B64, .vbcast ⟨2, 1, 31, 0, false, 0, 0, false, false, false, false, ⟨0, false⟩, none⟩),
  (48, 0x802B84, .vpop ⟨2, 0, 2, 0, false, 0, 0, false, false, false, false, ⟨0, false⟩, none⟩),
  (48, 0x8862C00, .vperm ⟨0, 1, 2, 3, false, 0, 0, false, false, false, false, ⟨0, false⟩, none⟩),
  (48, 0x8862C20, .vslideup ⟨0, 1, 2, 3, false, 0, 0, false, false, false, false, ⟨0, false⟩, none⟩),
  (80, 0x7000008802C21, .vslideup ⟨0, 1, 2, 0, false, 0, 0, false, false, false, false, ⟨0, false⟩, some 0x7⟩),
  (80, 0xFFFFFFFF000008802C41, .vslidedn ⟨0, 1, 2, 0, false, 0, 0, false, false, false, false, ⟨0, false⟩, some 0xFFFFFFFF⟩),
  (48, 0x20862C60, .vzip ⟨0, 4, 2, 3, false, 0, 0, false, false, false, false, ⟨0, false⟩, none⟩),
  (48, 0x30862C80, .vunzip ⟨0, 6, 2, 3, false, 0, 0, false, false, false, false, ⟨0, false⟩, none⟩),
  (48, 0xE08802CA0, .vrev ⟨0, 1, 2, 0, false, 0, 0, false, false, false, false, ⟨7, false⟩, none⟩),
  (48, 0x10008802D02, .vrsum ⟨1, 1, 2, 0, false, 0, 1, false, false, false, false, ⟨0, false⟩, none⟩),
  (48, 0x10008802D22, .vrmin ⟨1, 1, 2, 0, false, 0, 1, false, false, false, false, ⟨0, false⟩, none⟩),
  (48, 0x10008802D42, .vrmax ⟨1, 1, 2, 0, false, 0, 1, false, false, false, false, ⟨0, false⟩, none⟩),
  (48, 0x10008802D70, .vfrsum ⟨8, 1, 2, 0, false, 0, 1, false, false, false, false, ⟨0, false⟩, none⟩),
  (48, 0x10008802D90, .vfrmin ⟨8, 1, 2, 0, false, 0, 1, false, false, false, false, ⟨0, false⟩, none⟩),
  (48, 0x10008802DB0, .vfrmax ⟨8, 1, 2, 0, false, 0, 1, false, false, false, false, ⟨0, false⟩, none⟩),
  (48, 0x10008802DC2, .vrand ⟨1, 1, 2, 0, false, 0, 1, false, false, false, false, ⟨0, false⟩, none⟩),
  (48, 0x10008802DE2, .vror ⟨1, 1, 2, 0, false, 0, 1, false, false, false, false, ⟨0, false⟩, none⟩),
  (48, 0x20862E00, .vwadd ⟨0, 4, 2, 3, false, 0, 0, false, false, false, false, ⟨0, false⟩, none⟩),
  (48, 0x20872E22, .vwmul ⟨1, 4, 2, 3, true, 0, 0, false, false, false, false, ⟨0, false⟩, none⟩),
  (48, 0x400020862E4C, .vwmad ⟨6, 4, 2, 3, false, 8, 0, false, false, false, false, ⟨0, false⟩, none⟩),
  (48, 0x20802E6E, .vwcvt ⟨7, 4, 2, 0, false, 0, 0, false, false, false, false, ⟨0, false⟩, none⟩),
  (48, 0x40822E66, .vwcvt4 ⟨3, 8, 2, 1, false, 0, 0, false, false, false, false, ⟨0, false⟩, none⟩),
  (48, 0x2A002F00, .vnsat ⟨0, 5, 8, 0, false, 0, 0, false, false, false, false, ⟨0, false⟩, none⟩),
  (48, 0x2A802F22, .vntrunc ⟨1, 5, 10, 0, false, 0, 0, false, false, false, false, ⟨0, false⟩, none⟩),
  (80, 0x1E3000020803011, .vcvt ⟨8, 4, 2, 0, false, 0, 0, false, false, false, false, ⟨0, false⟩, some 0x1E3⟩),
  (80, 0x200000020863021, .vcvts ⟨0, 4, 2, 3, false, 0, 0, false, false, false, false, ⟨0, false⟩, some 0x200⟩),
  (80, 0x203000020803051, .vcvtd ⟨8, 4, 2, 0, false, 0, 0, false, false, false, false, ⟨0, false⟩, some 0x203⟩),
  (80, 0x11000020803071, .vcvtq ⟨8, 4, 2, 0, false, 0, 0, false, false, false, false, ⟨0, false⟩, some 0x11⟩),
  (48, 0x8803100, .vcks ⟨0, 1, 2, 0, false, 0, 0, false, false, false, false, ⟨0, false⟩, none⟩),
  (48, 0x803120, .vckv ⟨0, 0, 2, 0, false, 0, 0, false, false, false, false, ⟨0, false⟩, none⟩),
  (48, 0x4008803140, .vckx ⟨0, 1, 2, 0, false, 0, 0, false, true, false, false, ⟨0, false⟩, none⟩),
  (48, 0x8863160, .vcki ⟨0, 1, 2, 3, false, 0, 0, false, false, false, false, ⟨0, false⟩, none⟩),
  (48, 0x886321E, .kand ⟨15, 1, 2, 3, false, 0, 0, false, false, false, false, ⟨0, false⟩, none⟩),
  (48, 0x8863220, .kor ⟨0, 1, 2, 3, false, 0, 0, false, false, false, false, ⟨0, false⟩, none⟩),
  (48, 0x8863240, .kxor ⟨0, 1, 2, 3, false, 0, 0, false, false, false, false, ⟨0, false⟩, none⟩),
  (48, 0x8863260, .kandn ⟨0, 1, 2, 3, false, 0, 0, false, false, false, false, ⟨0, false⟩, none⟩),
  (48, 0x8803280, .knot ⟨0, 1, 2, 0, false, 0, 0, false, false, false, false, ⟨0, false⟩, none⟩),
  (48, 0x88032A0, .kmov ⟨0, 1, 2, 0, false, 0, 0, false, false, false, false, ⟨0, false⟩, none⟩),
  (48, 0x80032C0, .kset ⟨0, 1, 0, 0, false, 0, 0, false, false, false, false, ⟨0, false⟩, none⟩),
  (48, 0x80032E0, .kclr ⟨0, 1, 0, 0, false, 0, 0, false, false, false, false, ⟨0, false⟩, none⟩)] : List (Nat × Nat × Instr)).all (fun e => decide (decodeTableWord e.1 e.2.1 = some e.2.2)) = true := by decide +kernel

/-- R90, R91, R94, R215 to R226, R240 to R254, R318, R97. -/
theorem test_decode_engine : ([
  (16, 0x4080, .lit .m 128),
  (16, 0x417F, .lith .m 0x7F),
  (48, 0xABCD01234200, .lit32 .m 0xABCD0123),
  (16, 0x4300, .dup .m),
  (16, 0x4301, .drop .m),
  (16, 0x4302, .swap .m),
  (16, 0x4303, .over .m),
  (16, 0x4304, .rot .m),
  (16, 0x6081, .lit .x 129),
  (16, 0x617F, .lith .x 0x7F),
  (48, 0xABCD01236200, .lit32 .x 0xABCD0123),
  (16, 0x6300, .dup .x),
  (16, 0x6301, .drop .x),
  (16, 0x6302, .swap .x),
  (16, 0x6303, .over .x),
  (16, 0x6304, .rot .x),
  (16, 0x8082, .lit .p 130),
  (16, 0x817F, .lith .p 0x7F),
  (48, 0xABCD01238200, .lit32 .p 0xABCD0123),
  (16, 0x8300, .dup .p),
  (16, 0x8301, .drop .p),
  (16, 0x8302, .swap .p),
  (16, 0x8303, .over .p),
  (16, 0x8304, .rot .p),
  (16, 0xA083, .lit .s 131),
  (16, 0xA17F, .lith .s 0x7F),
  (48, 0xABCD0123A200, .lit32 .s 0xABCD0123),
  (16, 0xA300, .dup .s),
  (16, 0xA301, .drop .s),
  (16, 0xA302, .swap .s),
  (16, 0xA303, .over .s),
  (16, 0xA304, .rot .s),
  (16, 0x441A, .mSbase true 10),
  (16, 0x450B, .mSfmt 11),
  (16, 0x460C, .mSgeo 12),
  (16, 0x470D, .mSscl 13),
  (16, 0x480E, .mSidx 14),
  (16, 0x490F, .mSout 15),
  (16, 0x4A05, .mNest 5),
  (16, 0x4B00, .mNclr),
  (16, 0x4C0F, .mTrack 15),
  (16, 0x4D09, .mGo false true 1),
  (16, 0x4D16, .mGo true false 6),
  (16, 0x4E07, .mZero 7),
  (16, 0x4F0A, .mLoad true 2),
  (16, 0x5003, .mStore 3),
  (16, 0x5117, .mStat 0x17),
  (16, 0x5200, .mWaitc),
  (16, 0x531F, .mTol 31),
  (16, 0x5400, .mDith),
  (16, 0x6402, .xSrc 2),
  (16, 0x6503, .xDst 3),
  (16, 0x6600, .xLen),
  (16, 0x6700, .xStr),
  (16, 0x6802, .xCk 2),
  (16, 0x6900, .xCke),
  (16, 0x6A33, .xGo true true 3),
  (16, 0x6B15, .xFill false true 5),
  (16, 0x6C00, .xMod),
  (16, 0x6D00, .xWaitc),
  (16, 0x6E00, .xCkget),
  (16, 0x6F2E, .xWprog true 14),
  (16, 0x7001, .xWverify false 1),
  (16, 0x8400, .pCfg),
  (16, 0x8500, .pClr),
  (16, 0x8600, .pIns),
  (16, 0x8700, .pMerge),
  (16, 0x8800, .pSave),
  (16, 0x8900, .pLoad),
  (16, 0x8A00, .pCnt),
  (16, 0x8B00, .pSpill),
  (16, 0x8C05, .pStat 5),
  (16, 0xA4FD, .sOpen 0xFD),
  (16, 0xA53F, .sAbs 63),
  (16, 0xA600, .sMeta),
  (16, 0xA701, .sFin 1),
  (16, 0xA802, .sAbt 2),
  (16, 0xA903, .sQry 3),
  (64, 0x9ABC12345678D8FF, .future 0xD8FF [0x5678, 0x1234, 0x9ABC])] : List (Nat × Nat × Instr)).all (fun e => decide (decodeTableWord e.1 e.2.1 = some e.2.2)) = true := by decide +kernel

/-- R95, R96, R78: words that mean nothing, each with its detail. -/
theorem test_decode_illegal : ([
  ([0x00, 0x1B, 0x00, 0x00], .opcode), ([0x07, 0x00, 0x00, 0x00], .subcode), ([0x03, 0x0F, 0x00, 0x00], .subcode),
  ([0x03, 0x00, 0x00, 0x00], .literal), ([0x08, 0x01, 0x00, 0x00, 0x00, 0x00, 0x00, 0x00], .literal),
  ([0x00, 0x00, 0x01, 0x00], .field), ([0x10, 0x00, 0x00, 0x00], .guard), ([0x00, 0x55], .opcode),
  ([0x05, 0x43], .subcode), ([0x08, 0x4A], .field),
  ([0x00, 0x2E, 0x80, 0x18, 0x00, 0x00], .align), ([0x01, 0x23, 0x00, 0x00, 0x00, 0x00, 0x00, 0x00, 0x00, 0x00], .literal),
  ([0x0A, 0x23, 0x00, 0x00, 0x00, 0x00], .elemtype)] : List (List Byte × IllDetail)).all
    (fun e => decide (decode e.1 = .illegal e.2)) = true := by decide +kernel

/-! ### Well-formedness: each check refuses an ill-formed term -/

/-- A vector form with queues 4, 6 and 8 under mask 0. -/
def vf (et : BitVec 4) : VF := ⟨et, 4, 6, 8, false, 0, 0, false, false, false, false, ⟨0, false⟩, none⟩

/-- R80, R83 to R85, R17, R97: guards, empty widths, fields past 64 bits, equal compare destinations, unassigned system
registers, a flag field above its width, the length of a head of spaces 6 and 7. -/
theorem test_illFormed_words :
    illegalOf (.nop ⟨0, true⟩) = some .guard ∧ illegalOf (.sext ⟨0, false⟩ 1 2 0) = some .field ∧
    illegalOf (.zext ⟨0, false⟩ 1 2 0) = some .field ∧ illegalOf (.bfx ⟨0, false⟩ 1 2 0 0) = some .field ∧
    illegalOf (.bfi ⟨0, false⟩ 1 2 33 32) = some .field ∧ illegalOf (.cmp ⟨0, false⟩ .eq 3 3 1 2) = some .field ∧
    illegalOf (.cmpi ⟨0, false⟩ .eq 3 3 1 2) = some .field ∧ illegalOf (.cmpiLit ⟨0, false⟩ .eq 7 7 1 2) = some .field ∧
    illegalOf (.cmp ⟨0, false⟩ .eq 0 0 1 2) = none ∧ illegalOf (.csrr ⟨0, false⟩ 1 0x005) = some .field ∧
    illegalOf (.csrw ⟨0, false⟩ 1 0x7FF) = some .field ∧ illegalOf (.csrs ⟨0, false⟩ 1 0x019) = some .field ∧
    illegalOf (.csrc ⟨0, false⟩ 1 0x0C1) = some .field ∧ illegalOf (.mile ⟨0, false⟩ 0 0x20 0) = some .field ∧
    illegalOf (.future 0xBFFF []) = some .future ∧ illegalOf (.future 0xC800 []) = some .future := by decide +kernel

/-- R26, R50, R87, R95, R165: literals, fields, guards, alignment and element types of the vector forms. -/
theorem test_illFormed_vector :
    illegalOf (.vadd { vf 0 with lit := some 0 }) = some .literal ∧ illegalOf (.vcvt (vf 0)) = some .literal ∧
    illegalOf (.vadd { vf 0 with vc := 1 }) = some .field ∧ illegalOf (.vadd { vf 0 with kz := true }) = some .field ∧
    illegalOf (.vfadd { vf 8 with u := true }) = some .field ∧ illegalOf (.vsel { vf 0 with kz := true, k := 1 }) = some .field ∧
    illegalOf (.vbcast { vf 0 with qa := true, vb := 0 }) = some .field ∧
    illegalOf (.kand { vf 0 with va := 8, vb := 0 }) = some .field ∧
    illegalOf (.vcvt { vf 8 with vb := 0, lit := some 0x400 }) = some .field ∧
    illegalOf (.vcvtq { vf 8 with vb := 0, lit := some 0x03 }) = some .field ∧
    illegalOf (.vadd { vf 0 with g := ⟨0, true⟩ }) = some .guard ∧
    illegalOf (.vzip { vf 0 with vd := 5 }) = some .align ∧ illegalOf (.vnsat { vf 0 with va := 7, vb := 0 }) = some .align ∧
    illegalOf (.vwcvt4 { vf 0 with vd := 6, vb := 1 }) = some .align ∧
    illegalOf (.vcvtd { vf 8 with vd := 31, vb := 0, lit := some 0x03 }) = some .align ∧
    illegalOf (.vadd (vf 8)) = some .elemtype ∧ illegalOf (.vfadd (vf 2)) = some .elemtype ∧
    illegalOf (.vrsqa { vf 6 with vb := 0 }) = some .elemtype ∧ illegalOf (.vmov { vf 10 with vb := 0 }) = some .elemtype ∧
    illegalOf (.vadd (vf 0)) = none := by decide +kernel

/-! ### Small states -/

/-- A loaded NOP on core 0, with the third and fourth GiB of D-space on host memory and W-space, the whole weight tier of
die 0 in place, and a page of the scratchpad in the core's TLB. -/
@[irreducible] def base : State :=
  let s := ((State.reset.withFetchWord 16 0).writePa (loadRoot + 16)
    (bytesOf 16 (hostBase + 0xEB + 2 ^ 64 * 0xF3))).setDie 0 fun d => { d with wsize := 1024 }
  { s with tlb := [⟨.core 0, 0, false, 0x40000000, 0x10000, 0xE3⟩] }

/-- The task of that core, which may write one page of LPDDR and one of host memory. -/
def task0 : Task := newTask { loadRec with wr := [⟨0x401000, 0x1000⟩, ⟨0x80000000, 0x1000⟩] } (slotOf 0 0) 0 4096 false

/-- Core 0 is the current one and can run a task. -/
def Live (s : State) : Prop :=
  s.cur = 0 ∧ (s.core 0).frozen = false ∧ (s.dies[(dieOf 0).val]).frozen = false ∧ (s.core 0).status = .running ∧
    (s.core 0).pairFault = false ∧ (s.core 0).laneFault = none

theorem core_setTask (s : State) (c : CoreId) (t : Task) : (s.setTask c t).core c = { s.core c with task := some t } := by
  show ((s.cores.set c.val _)[c.val]) = _
  rw [Vector.getElem_set_self]
  rfl

theorem Live.running {s : State} (l : Live s) (t : Task) (h : t.wait = .none) (hp : t.mayPfull = false) :
    (s.setTask 0 t).running = some t := by
  obtain ⟨hc, hf, hd, hs, _⟩ := l
  unfold State.running
  simp only [show (s.setTask 0 t).cur = 0 from hc, show (s.setTask 0 t).dies = s.dies from rfl, core_setTask]
  simp [h, hp, hf, hd, hs]

theorem Live.executes {s : State} (l : Live s) (t : Task) (g : Guard) (h : t.wait = .none) (hp : t.mayPfull = false)
    (hg : t.passes g = true) : (s.setTask 0 t).Executes g t := ⟨l.running t h hp, hg⟩

theorem Live.sound {s : State} (l : Live s) (t : Task) : (s.setTask 0 t).Sound (s.setTask 0 t).cur := by
  obtain ⟨hc, _, _, _, h1, h2⟩ := l
  rw [show (s.setTask 0 t).cur = 0 from hc]
  unfold State.Sound
  rw [core_setTask]
  exact ⟨h1, h2⟩

theorem Live.engineRuns {s : State} (l : Live s) (t : Task) (e : Eng) (h : t.wait = .none) (hp : t.mayPfull = false)
    (he : t.holds e = false) (hs : t.rs.rc.commit = false) : (s.setTask 0 t).EngineRuns t e :=
  ⟨l.running t h hp, l.sound t, he, fun x => by rw [hs] at x; exact Bool.noConfusion x.2⟩

theorem Live.engineTask {s : State} (l : Live s) (t : Task) (h : t.wait = .none) :
    (s.setTask 0 t).engineTask 0 = some t := by
  obtain ⟨_, hf, hd, hs, _⟩ := l
  unfold State.engineTask
  simp only [show (s.setTask 0 t).dies = s.dies from rfl, core_setTask]
  simp [h, hf, hd, hs]

theorem live_base : Live base := by unfold Live; decide +kernel

/-- The state with another task on the core. -/
def on (t : Task) : State := base.setTask 0 t

theorem on_executes (t : Task) (g : Guard) (h : t.wait = .none) (hp : t.mayPfull = false) (hg : t.passes g = true) :
    (on t).Executes g t := live_base.executes t g h hp hg

theorem on_sound (t : Task) : (on t).Sound (on t).cur := live_base.sound t

/-! ### Numbers: the worked values of spec/03_numbers.md and spec/10_checksums.md -/

theorem test_ds8_canonical :
    (convert 0x11 .ne (elemValue 0x11 0xB1).1).bits = 0x1B ∧ (convert 0x11 .ne (elemValue 0x11 0x3A).1).bits = 0x11 ∧
    (convert 0x11 .ne (elemValue 0x11 0x19).1).bits = 0x80 ∧ (elemValue 0x11 0x77).1 = .fin false 256 0 := by decide +kernel

theorem test_dithered_quarters :
    (List.range 8).map (fun i => (convert 0x0A (.dith (ditherOf 0 0 0 i)) (.fin false 1 (-2))).bits) =
      [0, 0, 0, 1, 0, 0, 0, 1] := by decide +kernel

theorem test_int8_top :
    convert 0x0A .tz (.fin false 255 (-1)) = ⟨127, false, false, false⟩ ∧
    convert 0x0A .ne (.fin false 255 (-1)) = ⟨127, true, false, false⟩ := by decide +kernel

theorem test_row_checksums :
    (checksum 0x03 (List.replicate 63 0x30 ++ [0x7E])).1 = 0x43EFC000 ∧
    (checksum 0x11 (List.replicate 64 0x77)).1 = 0x4000 := by decide +kernel

theorem test_vrsqa_two_sixteen : vrsqa 0x40000000 = (0x3F345000, 0) ∧ vrsqa 0x41800000 = (0x3E800000, 0) := by
  decide +kernel

/-- The worked integer tile: element (3, 10) is put back. -/
def intTile : List (List Nat) := (List.range 64).map fun i => List.replicate 64 i
theorem test_tile_corrected :
    judgeTile 0x0A (intTile.modify 3 fun r => r.set 10 0x43) ((List.range 64).map (64 * ·)) (List.replicate 64 2016)
      true false 16 = .fixed 3 10 3 := by decide +kernel

/-! ### Single steps -/

/-- What a function of the task gives after an instruction that answers a next state. -/
def after {α : Type} (i : Instr) (t : Task) (f : Task → α) : Option α :=
  match exec i (on t) with
  | .next s => (s.taskOf 0).map f
  | _ => none

/-- The word at the pc after reset, run by `step`; then a register. -/
def stepped (nbits w : Nat) (r : XReg) : Option Word64 :=
  match step (State.reset.withFetchWord nbits w) with
  | .next s => (s.taskOf 0).map fun t => t.getX r
  | _ => none

/-- Registers 5 and 6 as given. -/
def regs (a b : Word64) : Task := (task0.setX 5 a).setX 6 b

/-- `movi x5, -29` and `addi x4, x0, 7` from their words, through fetch and decode. -/
theorem test_step_movi : stepped 32 0x28230201 5 = some (-29) := by decide +kernel
theorem test_step_addi : stepped 32 0x20070200 4 = some 7 := by decide +kernel

theorem test_div_border : after (.div ⟨0, false⟩ false 4 5 6) (regs 0x8000000000000000 (-1)) (·.getX 4) =
    some 0x8000000000000000 := by decide +kernel
theorem test_rem_sign : after (.rem ⟨0, false⟩ false 4 5 6) (regs (-7) 2) (·.getX 4) = some (-1) := by decide +kernel
theorem test_mulh_negative : after (.mulh ⟨0, false⟩ true 4 5 6) (regs 0x80000000 2) (·.getX 4) = some (-1) := by
  decide +kernel
theorem test_sra_word : after (.sra ⟨0, false⟩ true 4 5 6) (regs 0x80000000 33) (·.getX 4) = some 0xFFFFFFFFC0000000 := by
  decide +kernel
theorem test_sub_source_is_destination : after (.sub ⟨0, false⟩ true 5 5 6) (regs 1 2) (·.getX 5) = some (-1) := by
  decide +kernel
theorem test_lea_wraps : after (.lea ⟨0, false⟩ 3 4 5 6) (regs (-8) 2) (·.getX 4) = some 8 := by decide +kernel
theorem test_bfi_top : after (.bfi ⟨0, false⟩ 5 6 60 4) (regs 0xA5 0x1F) (·.getX 5) = some 0xF0000000000000A5 := by
  decide +kernel
theorem test_cmp_complement : after (.cmp ⟨0, false⟩ .ltu 2 3 5 6) (regs 1 (-1)) (fun t => (t.getP 2, t.getP 3)) =
    some (true, false) := by decide +kernel
theorem test_call_links : after (.call ⟨0, false⟩ 0xFFFE) task0 (fun t => (t.getX 1, t.pc)) = some (0x400004, 0x3FFFFC) := by
  decide +kernel
theorem test_x0_discards : after (.addi ⟨0, false⟩ 0 5 1) (regs 1 2) (·.getX 0) = some 0 := by decide +kernel
theorem test_slipw_clamped : after (.csrw ⟨0, false⟩ 5 0) (regs 3 0) (·.sys.slipw) = some 64 := by decide +kernel
theorem test_tid : after (.tid ⟨0, false⟩ 4) { task0 with rs := { loadRec with rc := { loadRec.rc with launch := 3, index := 9 } } }
    (·.getX 4) = some 0x300000009 := by decide +kernel
/-- The example of R93: 5, 7, 3 from the bottom. -/
theorem test_rot : after (.rot .m) { task0 with mStack := [7, 5, 3] } (·.mStack) = some [3, 7, 5] := by decide +kernel

/-- A taken trap: the core is parked with a record in slot 0 that holds the cause and the address. -/
def trapped (i : Instr) (t : Task) : Option (Nat × Nat × Nat × Nat) :=
  match exec i (on t) with
  | .next s => some (s.readNat (trapRecPa 0 0) 1, s.readNat (trapRecPa 0 0 + 1) 1, s.readNat (trapRecPa 0 0 + 2) 1,
      s.readNat (trapRecPa 0 0 + 24) 8)
  | _ => none
theorem test_trap_misaligned : trapped (.ldW ⟨0, false⟩ 0 false 4 5 0) (regs 0x401002 0) = some (1, 7, 0, 0x401002) := by
  decide +kernel
/-- Where a core is parked: kind, cause and detail of its trap, and the slot of its record. -/
def parkedFor (i : Instr) (t : Task) : Option (Nat × Nat × Nat × Option Nat) :=
  match exec i (on t) with
  | .next s => match (s.core 0).status with
    | .trapped r n => some (r.kind.toNat, r.cause.toNat, r.detail.toNat, n)
    | _ => none
  | _ => none
theorem test_trap_target : parkedFor (.jmp ⟨0, false⟩ 5) (regs 0x401001 0) = some (0, 2, 2, some 0) := by decide +kernel
theorem test_trap_underflow : parkedFor (.vadd (vf 0)) task0 = some (0, 3, 0, some 0) := by decide +kernel
theorem test_trap_index : parkedFor (.kgetw ⟨0, false⟩ 4 0 5) (regs 16 0) = some (0, 2, 6, some 0) := by decide +kernel

/-- The same state with bytes at D-space address 0x401000. -/
def loaded (t : Task) (bs : List Byte) : State := (on t).writePa 0x1000401000 bs
theorem test_load_sign : (match exec (.ldB ⟨0, false⟩ 0 true 4 5 1) (loaded (regs 0x401000 0) [0x7F, 0x80]) with
    | .next s => (s.taskOf 0).map (·.getX 4) | _ => none) = some 0xFFFFFFFFFFFFFF80 := by decide +kernel
theorem test_store_order : (match exec (.stW ⟨0, false⟩ 0 false 6 5 1) (on (regs 0x401000 0x11223344)) with
    | .next s => some (s.readPa 0x1000401000 9) | _ => none) = some [0, 0, 0, 0, 0x44, 0x33, 0x22, 0x11, 0] := by
  decide +kernel
theorem test_cas_fails : (match exec (.cas ⟨0, false⟩ true 4 5 6) (loaded ((regs 0x401000 9).setX 4 7) [8]) with
    | .next s => (s.taskOf 0).map fun t => (t.getX 4, s.readPa 0x1000401000 4) | _ => none) = some (8, [8, 0, 0, 0]) := by
  decide +kernel

/-- A task with entries at the heads of queues 6 and 8. -/
def queues (fmt : BitVec 5) (a b : Nat) : Task :=
  { task0 with v := (task0.v.set 6 [mkEntry fmt a]).set 8 [mkEntry fmt b] }
/-- Lane j of the entry pushed to queue 4. -/
def pushed (w j : Nat) (t : Task) : Nat := (((t.queue 4).head?.map fun e => (entryLane e.data w j).toNat)).getD 0
theorem test_vadd_wraps : after (.vadd (vf 0)) (queues 0x0A 0x80FF 0x8001) (fun t => (pushed 8 0 t, pushed 8 1 t, t.queue 6)) =
    some (0, 0, []) := by decide +kernel
theorem test_vaddsat_clamps : after (.vaddsat (vf 0)) (queues 0x0A 0x807F 0xFF01) (fun t => (pushed 8 0 t, pushed 8 1 t)) =
    some (0x7F, 0x80) := by decide +kernel
/-- The tree of R161: 2^24, 1, 1 and -2^24 sum to 1. -/
theorem test_vfrsum_tree : after (.vfrsum { vf 8 with vb := 0 }) (queues 0x00 0xCB8000003F8000003F8000004B800000 0) (pushed 32 0) =
    some 0x3F800000 := by decide +kernel
theorem test_vfadd_half_tie : after (.vfadd (vf 6)) (queues 0x02 0x6800 0x3C00) (pushed 16 0) = some 0x6800 := by decide +kernel
theorem test_vrsum_reduces : after (.vrsum { vf 0 with vb := 0 }) (queues 0x0A 0xFF0302 0) (fun t => (pushed 8 0 t, pushed 8 1 t)) =
    some (4, 0) := by decide +kernel
theorem test_vcmp_nan : after (.vcmp .ne { vf 8 with vd := 2 }) (queues 0x00 0x7FC00000 0x7FC00000) (fun t => (t.getK 2).getLsbD 0) =
    some true := by decide +kernel

/-- Behind a store and a jump the path goes on at the register's value, where the M strand's word stands (R27). -/
theorem test_path_store : (let s := (base.writePa 0x1000400000 ((([.stW ⟨0, false⟩ 0 false 6 5 0, .jmp ⟨0, false⟩ 7] : List Instr).flatMap
      encode).flatMap fun p => bytesOf 2 p.toNat)).writePa 0x1000400040 [0x05, 0x40]
    (s.walkPath 0 3 (List.replicate 6 none) ((regs 0x401000 0).setX 7 0x400040).path)[2]?) = some (some 0x400040) := by
  decide +kernel

/-- AES-256-GCM (R378, R381) on test case 14 of its submitters: key, vector and block of zeros. -/
theorem test_gcm : gcmSeal (List.replicate 32 0) (List.replicate 12 0) [] (List.replicate 16 0) =
    (beBytes 16 0xCEA7403D4D606B6E074EC5D3BAF39D18, beBytes 16 0xD0D1C8A799996BF0265B98B5D48AB919) := by decide +kernel

end Tests

end Sys2Proof
end

