-- ==== Sys2Proof/Tests/Witness.lean ====
section
/-!
SUPPORT. Tests/Witness.lean: for the statements about instructions, states and operands that meet the hypotheses of each
clause, at the borders of its ranges.
-/

namespace Sys2Proof

namespace Tests

open Sys2Proof.Machine

set_option Elab.async false

/-- The guard that always passes. -/
def g0 : Guard := ⟨0, false⟩

theorem task0_executes : (on task0).Executes g0 task0 := on_executes _ _ rfl rfl rfl
theorem regs_executes (a b : Word64) : (on (regs a b)).Executes g0 (regs a b) := on_executes _ _ rfl rfl rfl

/-! ### The control strand -/

/-- ScalarArithmeticResults, BitCountResults, ImmediateResults, PredicateResults, SystemGroupEffects: an instruction
executes, also under a guard that is negated. -/
theorem hyp_executes : (on task0).Executes g0 task0 ∧ (on task0).Executes ⟨3, true⟩ task0 :=
  ⟨task0_executes, on_executes _ _ rfl rfl rfl⟩

/-- DivisionNeverTraps: the divisor zero, the border, and neither, at 64 and 32 bits. -/
theorem hyp_DivisionNeverTraps :
    ((on (regs 7 0)).Executes g0 (regs 7 0) ∧ (regs 7 0).getX 6 = 0) ∧
    ((on (regs 0x8000000000000000 (-1))).Executes g0 (regs 0x8000000000000000 (-1)) ∧
      (regs 0x8000000000000000 (-1)).getX 5 = BitVec.intMin 64 ∧ (regs 0x8000000000000000 (-1)).getX 6 = -1) ∧
    ((on (regs 0x80000000 0xFFFFFFFF)).Executes g0 (regs 0x80000000 0xFFFFFFFF) ∧
      ((regs 0x80000000 0xFFFFFFFF).getX 5).setWidth 32 = BitVec.intMin 32 ∧
      ((regs 0x80000000 0xFFFFFFFF).getX 6).setWidth 32 = (-1 : Word32)) ∧
    ((on (regs (-7) 2)).Executes g0 (regs (-7) 2) ∧ (regs (-7) 2).getX 6 ≠ 0) := by
  refine ⟨⟨regs_executes _ _, ?_⟩, ⟨regs_executes _ _, ?_⟩, ⟨regs_executes _ _, ?_⟩, ⟨regs_executes _ _, ?_⟩⟩ <;>
    decide +kernel

/-- AddressesAndFields: widths 1 and 63, fields that end at bit 63. -/
theorem hyp_AddressesAndFields : (on task0).Executes g0 task0 ∧ 1 ≤ (1 : BitVec 6).toNat ∧ 1 ≤ (63 : BitVec 6).toNat ∧
    (1 ≤ (64 : BitVec 7).toNat ∧ (0 : BitVec 6).toNat + (64 : BitVec 7).toNat ≤ 64) ∧
    (1 ≤ (1 : BitVec 7).toNat ∧ (63 : BitVec 6).toNat + (1 : BitVec 7).toNat ≤ 64) :=
  ⟨task0_executes, by decide, by decide, by decide, by decide⟩

/-- BranchTargets: an even and an odd target. -/
theorem hyp_BranchTargets :
    ((on (regs 0x400010 0)).Executes g0 (regs 0x400010 0) ∧ ((regs 0x400010 0).getX 5).getLsbD 0 = false) ∧
    ((on (regs 0x400011 0)).Executes g0 (regs 0x400011 0) ∧ ((regs 0x400011 0).getX 5).getLsbD 0 = true ∧
      (on (regs 0x400011 0)).Sound (on (regs 0x400011 0)).cur) :=
  ⟨⟨regs_executes _ _, by decide +kernel⟩, regs_executes _ _, by decide +kernel, on_sound _⟩

/-- A result that is compared and found equal is that result. -/
theorem ok_of {α : Type} [DecidableEq α] {r : Res α} {x : α}
    (h : (match r with | .ok y => decide (y = x) | .error _ => false) = true) : r = .ok x := by
  cases r with
  | error e => exact Bool.noConfusion h
  | ok y => rw [of_decide_eq_true h]

/-- An address of each memory: LPDDR, SRAM, host memory, W-space. -/
theorem translates :
    (on (regs 0x401000 0)).translate 0 0 0x401000 .read = .ok ⟨0x1000401000, .lpddr, 0, 0x40000000⟩ ∧
    (on (regs 0x401000 0)).translate 0 0 0x40000000 .write = .ok ⟨0, .sram, 0x40000000, 0x10000⟩ ∧
    (on (regs 0x401000 0)).translate 0 0 0x80000000 .atomic = .ok ⟨hostBase, .host, 0x80000000, 0x40000000⟩ ∧
    (on (regs 0x401000 0)).translate 0 0 0xC0000000 .read = .ok ⟨0, .wap, 0xC0000000, 0x40000000⟩ :=
  ⟨ok_of (by decide +kernel), ok_of (by decide +kernel), ok_of (by decide +kernel), ok_of (by decide +kernel)⟩

/-- A Boolean test of a result shows what it is. -/
theorem some_of {α : Type} {o : Option α} (h : o.isSome = true) : ∃ x, o = some x := Option.isSome_iff_exists.mp h
theorem ok_exists {α : Type} {r : Res α} (h : (match r with | .ok _ => true | .error _ => false) = true) : ∃ x, r = .ok x := by
  cases r with
  | error e => exact Bool.noConfusion h
  | ok y => exact ⟨y, rfl⟩

/-- ScalarLoadsComplete: the aperture, ready and not; LPDDR, SRAM and host memory, without a fault. -/
theorem hyp_ScalarLoadsComplete_aperture :
    let t := regs 0xC0000000 0;
    let ready := base.setDie 0 fun d => { d with wready := true };
    (Instr.ldD g0 0 4 5 0, 8, false, 2, (0 : Word64)) ∈ loadForms g0 0 false 4 5 0 0 ∧
    ((on t).Executes g0 t ∧ (t.getX 5 + 0).toNat % 8 = 0 ∧
      (on t).translate (on t).cur t.rs.rc.job (t.getX 5 + 0).toNat .read = .ok ⟨0, .wap, 0xC0000000, 0x40000000⟩ ∧
      (((on t).dies[(wDie 0).val]).wready = false) ∧ (on t).Sound (on t).cur) ∧
    ((ready.setTask 0 t).Executes g0 t ∧
      (ready.setTask 0 t).translate (ready.setTask 0 t).cur t.rs.rc.job (t.getX 5 + 0).toNat .read =
        .ok ⟨0, .wap, 0xC0000000, 0x40000000⟩ ∧
      (((ready.setTask 0 t).dies[(wDie 0).val]).wready = true) ∧ (ready.setTask 0 t).poisonedRow 0 8 = none) := by
  refine ⟨by simp [loadForms], ⟨regs_executes _ _, by decide +kernel, ok_of (by decide +kernel), by decide +kernel,
    on_sound _⟩, ?_, ok_of (by decide +kernel), by decide +kernel, by decide +kernel⟩
  exact Live.executes (by unfold Live; decide +kernel) _ _ rfl rfl rfl

theorem hyp_ScalarLoadsComplete :
    (∀ va ∈ [(0x401000 : Word64), 0x40000000, 0x80000000], let t := regs va 0;
      (on t).Executes g0 t ∧ (t.getX 5 + 0).toNat % 8 = 0 ∧ ∃ x, (on t).translate (on t).cur t.rs.rc.job (t.getX 5 + 0).toNat .read = .ok x ∧
        (x.typ = .sram ∨ x.typ = .lpddr ∨ x.typ = .host) ∧ t.blocked x.pa 8 false = false ∧
        (x.typ = .sram → ((on t).touchAccess t x.pa 8 false false (some 0)).isSome = true) ∧
        (((on t).viewOf t).checkMacs x.pa 8).poisonedAt x.pa 8 = none) := by
  intro va hva
  simp only [List.mem_cons, List.not_mem_nil, or_false] at hva
  rcases hva with rfl | rfl | rfl
  · exact ⟨regs_executes _ _, by decide +kernel, ⟨0x1000401000, .lpddr, 0, 0x40000000⟩, ok_of (by decide +kernel),
      .inr (.inl rfl), by decide +kernel, (fun h => by cases h), by decide +kernel⟩
  · exact ⟨regs_executes _ _, by decide +kernel, ⟨0, .sram, 0x40000000, 0x10000⟩, ok_of (by decide +kernel),
      .inl rfl, by decide +kernel, fun _ => by decide +kernel, by decide +kernel⟩
  · exact ⟨regs_executes _ _, by decide +kernel, ⟨hostBase, .host, 0x80000000, 0x40000000⟩, ok_of (by decide +kernel),
      .inr (.inr rfl), by decide +kernel, (fun h => by cases h), by decide +kernel⟩

/-- The task under COMMIT, or of a gang. -/
def commitTask (t : Task) : Task := { t with rs := { t.rs with rc := { t.rs.rc with commit := true } } }
def gangTask (t : Task) : Task := { t with rs := { t.rs with rc := { t.rs.rc with gang := true } } }

/-- ScalarStoresComplete: an ordinary store to each memory, a non-temporal one, one under COMMIT. -/
theorem hyp_ScalarStoresComplete :
    (Instr.stD g0 0 false 6 5 0, 8, 2, (0 : Word64)) ∈ storeForms g0 0 false 6 5 0 0 ∧ Memory.wf (on task0).mem = true ∧
    (∀ va ∈ [(0x401000 : Word64), 0x40000000, 0x80000000], let t := regs va 0;
      (on t).Executes g0 t ∧ (on t).Sound (on t).cur ∧ (t.getX 5 + 0).toNat % 8 = 0 ∧ t.rs.rc.commit = false ∧ t.rs.rc.nt = true ∧
      ∃ x, (on t).translate (on t).cur t.rs.rc.job (t.getX 5 + 0).toNat .write = .ok x ∧
        (x.typ = .sram ∨ x.typ = .lpddr ∨ x.typ = .host) ∧ t.blocked x.pa 8 true = false ∧
        (x.typ = .sram → ∃ s1, (on t).touchAccess t x.pa 8 true false (some 0) = some s1) ∧
        (x.typ ≠ .sram → t.inWriteRange (t.getX 5 + 0).toNat 8 = true) ∧ (∀ y ∈ t.nt, y.meets x.pa 8 = false)) ∧
    (let t := commitTask (regs 0x401000 0);
      (on t).Executes g0 t ∧ t.rs.rc.commit = true ∧ t.inWriteRange (t.getX 5 + 0).toNat 8 = true ∧
      (on t).translate (on t).cur t.rs.rc.job (t.getX 5 + 0).toNat .write = .ok ⟨0x1000401000, .lpddr, 0, 0x40000000⟩ ∧
      commitGranules (t.commit ++ bufferBytes 0x1000401000 (bytesOf 8 (t.getX 6).toNat)) ≤ 768 ∧
      ownSpad (on t).cur 0x1000401000 = false) := by
  refine ⟨by simp [storeForms], by decide +kernel, ?_, on_executes _ _ rfl rfl rfl, rfl, by decide +kernel,
    ok_of (by decide +kernel), by decide +kernel, by decide +kernel⟩
  intro va hva
  simp only [List.mem_cons, List.not_mem_nil, or_false] at hva
  rcases hva with rfl | rfl | rfl
  · exact ⟨regs_executes _ _, on_sound _, by decide +kernel, rfl, rfl, ⟨0x1000401000, .lpddr, 0, 0x40000000⟩, ok_of (by decide +kernel),
      .inr (.inl rfl), by decide +kernel, (fun h => by cases h), fun _ => by decide +kernel, fun y h => nomatch h⟩
  · exact ⟨regs_executes _ _, on_sound _, by decide +kernel, rfl, rfl, ⟨0, .sram, 0x40000000, 0x10000⟩, ok_of (by decide +kernel),
      .inl rfl, by decide +kernel, fun _ => some_of (by decide +kernel), fun h => absurd rfl h, fun y h => nomatch h⟩
  · exact ⟨regs_executes _ _, on_sound _, by decide +kernel, rfl, rfl, ⟨hostBase, .host, 0x80000000, 0x40000000⟩, ok_of (by decide +kernel),
      .inr (.inr rfl), by decide +kernel, (fun h => by cases h), fun _ => by decide +kernel, fun y h => nomatch h⟩

/-- The core holds a page of device registers and one of another core's scratchpad as well. -/
def wired : State :=
  { base with tlb := base.tlb ++ [⟨.core 0, 0, false, 0x50000000, 0x10000, 0x400000EF⟩, ⟨.core 0, 0, false, 0x50010000, 0x10000, 0x1000E3⟩] }
theorem wired_executes (t : Task) (h : t.wait = .none) (hp : t.mayPfull = false) (hg : t.passes g0 = true) :
    (wired.setTask 0 t).Executes g0 t := Live.executes (by unfold Live; decide +kernel) _ _ h hp hg

/-- ScalarLoadsComplete, ScalarStoresComplete: a device register that may be read and written with eight bytes, and the stores
of a COMMIT task to it, to host memory and to another core's scratchpad. -/
theorem hyp_Scalar_registers :
    (let t := regs 0x50000000 0; let s := wired.setTask 0 t;
      s.Executes g0 t ∧ (t.getX 5 + 0).toNat % 8 = 0 ∧
      s.translate s.cur t.rs.rc.job (t.getX 5 + 0).toNat .read = .ok ⟨0x40000000, .mmio, 0x50000000, 0x10000⟩ ∧
      (∃ reg, s.mmioRead 0x40000000 8 = some reg) ∧ t.blocked 0x40000000 8 false = false ∧
      s.translate s.cur t.rs.rc.job (t.getX 5 + 0).toNat .write = .ok ⟨0x40000000, .mmio, 0x50000000, 0x10000⟩ ∧
      s.blocked t 0x40000000 8 true = false ∧ t.rs.rc.commit = false ∧ (s.mmioWrite 0x40000000 8 0 false).isSome = true ∧
      ∃ s1, s.mmioWrite 0x40000000 8 (BitVec.ofNat 64 (leNat (bytesOf 8 (t.getX 6).toNat))) false = some s1) ∧
    (∀ va ∈ [(0x80000000 : Word64), 0x50010000, 0x50000000], let t := commitTask (regs va 0); let s := wired.setTask 0 t;
      s.Executes g0 t ∧ ∃ x, s.translate s.cur t.rs.rc.job (t.getX 5 + 0).toNat .write = .ok x ∧ s.blocked t x.pa 8 true = false ∧
        ownSpad s.cur x.pa = false ∧ commitGranules (t.commit ++ bufferBytes x.pa (bytesOf 8 (t.getX 6).toNat)) ≤ 768 ∧
        (x.typ = .host ∧ t.inWriteRange (t.getX 5 + 0).toNat 8 = true ∨
          x.typ = .sram ∧ (∃ s1, s.touchAccess t x.pa 8 true false (some 0) = some s1) ∧
            (tilesIn (s.viewOf t).tiles x.pa 8) = [] ∨
          x.typ = .mmio ∧ (s.mmioWrite x.pa 8 0 false).isSome = true ∧
            (s.mmioWrite x.pa 8 (BitVec.ofNat 64 (leNat (bytesOf 8 (t.getX 6).toNat))) false).isSome = true)) := by
  refine ⟨⟨wired_executes _ rfl rfl rfl, by decide +kernel, ok_of (by decide +kernel), some_of (by decide +kernel), by decide +kernel,
    ok_of (by decide +kernel), by decide +kernel, rfl, by decide +kernel, some_of (by decide +kernel)⟩, ?_⟩
  intro va hva
  simp only [List.mem_cons, List.not_mem_nil, or_false] at hva
  rcases hva with rfl | rfl | rfl
  · exact ⟨wired_executes _ rfl rfl rfl, ⟨hostBase, .host, 0x80000000, 0x40000000⟩, ok_of (by decide +kernel), by decide +kernel,
      by decide +kernel, by decide +kernel, .inl ⟨rfl, by decide +kernel⟩⟩
  · exact ⟨wired_executes _ rfl rfl rfl, ⟨0x100000, .sram, 0x50010000, 0x10000⟩, ok_of (by decide +kernel), by decide +kernel,
      by decide +kernel, by decide +kernel, .inr (.inl ⟨rfl, some_of (by decide +kernel), by decide +kernel⟩)⟩
  · exact ⟨wired_executes _ rfl rfl rfl, ⟨0x40000000, .mmio, 0x50000000, 0x10000⟩, ok_of (by decide +kernel), by decide +kernel,
      by decide +kernel, by decide +kernel, .inr (.inr ⟨rfl, by decide +kernel, by decide +kernel⟩)⟩

/-- MisalignmentTraps: a load, a store and an atomic one byte past an aligned address. -/
theorem hyp_MisalignmentTraps : let t := regs 0x401001 0;
    (on t).Executes g0 t ∧ (on t).Sound (on t).cur ∧
    (Instr.ldH g0 0 true 4 5 0, 2, true, 2, (0 : Word64) * 2) ∈ loadForms g0 0 true 4 5 0 0 ∧ (t.getX 5 + 0 * 2).toNat % 2 ≠ 0 ∧
    (Instr.stW g0 0 true 4 5 0, 4, 2, (0 : Word64) * 4) ∈ storeForms g0 0 true 4 5 0 0 ∧ (t.getX 5 + 0 * 4).toNat % 4 ≠ 0 ∧
    atomicForms g0 true 4 5 6 ≠ [] ∧ (t.getX 5).toNat % 4 ≠ 0 ∧ (t.getX 5).toNat % 8 ≠ 0 :=
  ⟨regs_executes _ _, on_sound _, by simp [loadForms], by decide +kernel, by simp [storeForms], by decide +kernel,
    by simp [atomicForms], by decide +kernel, by decide +kernel⟩

/-- MilestoneAndRepeat: a live queue, a flag without live state, neither; a target that may be repeated and one not. -/
theorem hyp_MilestoneAndRepeat :
    (let t : Task := { task0 with v := task0.v.set 3 [mkEntry 0 0] };
      (on t).Executes g0 t ∧ t.cmds = [] ∧ (∃ q : Fin 32, (0 : Word32).getLsbD q.val = false ∧ t.v[q.val] ≠ []) ∧
      (on t).Sound (on t).cur) ∧
    (let t : Task := { task0 with sys := { task0.sys with acflags := 1, acen := 1 } };
      (on t).Executes g0 t ∧ t.cmds = [] ∧ t.sys.acflags &&& t.sys.acen ≠ 0 ∧ (∀ q : Fin 32, t.v[q.val] = []) ∧ t.mStack = [] ∧
      t.xStack = [] ∧ t.pStack = [] ∧ t.sStack = []) ∧
    (task0.sys.acflags &&& task0.sys.acen = 0 ∧ (∀ q : Fin 32, task0.v[q.val] = []) ∧ task0.mStack = [] ∧ task0.xStack = [] ∧
      task0.pStack = [] ∧ task0.sStack = [] ∧ task0.cancel = false ∧ ((on task0).core (on task0).cur).preempt = false) ∧
    (let s := (base.writePa 0x1000400004 [0x00, 0x01]).setTask 0 task0;
      s.running = some task0 ∧ s.fetchParcel s.cur task0 (task0.pc.toNat + 4) = .ok 0x0100 ∧ task0.passes g0 = true) ∧
    ((on task0).running = some task0 ∧ (on task0).fetchParcel (on task0).cur task0 (task0.pc.toNat + 4) = .ok 0) := by
  refine ⟨⟨on_executes _ _ rfl rfl rfl, rfl, ⟨3, by decide, by decide +kernel⟩, on_sound _⟩,
    ⟨on_executes _ _ rfl rfl rfl, rfl, by decide +kernel, by decide +kernel, rfl, rfl, rfl, rfl⟩,
    ⟨by decide +kernel, by decide +kernel, rfl, rfl, rfl, rfl, rfl, by decide +kernel⟩,
    ⟨Live.running (by unfold Live; decide +kernel) _ rfl rfl, ok_of (by decide +kernel), rfl⟩,
    task0_executes.1, ok_of (by decide +kernel)⟩

/-- SoftwareTraps: with and without a debugger. -/
theorem hyp_SoftwareTraps : (on task0).Executes g0 task0 ∧ (on task0).Sound (on task0).cur ∧ task0.attached = false ∧
    (let t : Task := { task0 with attached := true };
     (on t).Executes g0 t ∧ (on t).Sound (on t).cur ∧ t.attached = true) :=
  ⟨task0_executes, on_sound _, rfl, on_executes _ _ rfl rfl rfl, on_sound _, rfl⟩

/-- WaitingAndRegions: counter 15 just reached and just not, counter 16, a gang and none, an even and an odd handler, three
regions and four, none. -/
theorem hyp_WaitingAndRegions :
    (let t : Task := { regs 15 0 with cc := (regs 15 0).cc.set 15 0x7FFFFFFF };
      (on t).Executes g0 t ∧ (t.getX 5).toNat = (15 : Fin 16).val ∧
      ((t.cc[(15 : Fin 16).val]).toNat + 2 ^ 32 - ((t.getX 6).setWidth 32).toNat) % 2 ^ 32 < 2 ^ 31) ∧
    (let t : Task := { regs 15 0 with cc := (regs 15 0).cc.set 15 0x80000000 };
      (on t).Executes g0 t ∧ t.cancel = false ∧
      2 ^ 31 ≤ ((t.cc[(15 : Fin 16).val]).toNat + 2 ^ 32 - ((t.getX 6).setWidth 32).toNat) % 2 ^ 32) ∧
    ((on (regs 16 0)).Executes g0 (regs 16 0) ∧ 15 < ((regs 16 0).getX 5).toNat ∧ (on (regs 16 0)).Sound (on (regs 16 0)).cur) ∧
    ((on (gangTask task0)).Executes g0 (gangTask task0) ∧ (gangTask task0).rs.rc.gang = true ∧ (gangTask task0).cmds = []) ∧
    (task0.rs.rc.gang = false ∧ task0.regions = [] ∧ ((regs 16 0).getX 5).getLsbD 0 = false ∧
      ((regs 17 0).getX 5).getLsbD 0 = true) ∧
    (let t (n : Nat) : Task := { regs 16 0 with regions := List.replicate n ⟨0x400000, 0⟩ };
      (on (t 3)).Executes g0 (t 3) ∧ (t 3).regions.length < 4 ∧ (t 3).regions ≠ [] ∧ (t 3).cmds = [] ∧
      (on (t 4)).Executes g0 (t 4) ∧ 4 ≤ (t 4).regions.length) ∧
    (let x : Session := { num := 1, depth := 2, count := 0, sha := ShaState.init, key := 0, frame := 0, alg := 0, closing := false }
     let t : Task := { regs 16 0 with regions := List.replicate 2 ⟨0x400000, 0⟩, sessions := [x] };
      (on t).Executes g0 t ∧ t.regions ≠ [] ∧ t.cmds = [] ∧ t.sessions = [x] ∧ t.regions.length - 1 < x.depth) := by
  refine ⟨⟨on_executes _ _ rfl rfl rfl, by decide +kernel, by decide +kernel⟩,
    ⟨on_executes _ _ rfl rfl rfl, rfl, by decide +kernel⟩, ⟨regs_executes _ _, by decide +kernel, on_sound _⟩,
    ⟨on_executes _ _ rfl rfl rfl, rfl, rfl⟩, ⟨rfl, rfl, by decide +kernel, by decide +kernel⟩,
    ⟨on_executes _ _ rfl rfl rfl, by decide, by decide, rfl, on_executes _ _ rfl rfl rfl, by decide⟩,
    on_executes _ _ rfl rfl rfl, by decide, rfl, rfl, by decide⟩

/-- SystemRegisters: an ordered register without commands, one that tasks may not write, the one they may not read. -/
theorem hyp_SystemRegisters : (on task0).Executes g0 task0 ∧ (on task0).Sound (on task0).cur ∧ task0.cmds = [] ∧
    csrClosed 0x010 = false ∧ csrOrdered 0x010 = true ∧ csrNoWrite 0x010 = false ∧ csrClosed 0x043 = false ∧
    csrNoWrite 0x043 = true ∧ csrClosed 0x0C0 = true ∧ csrNoWrite 0x000 = false :=
  ⟨task0_executes, on_sound _, rfl, by decide, by decide, by decide, by decide, by decide, by decide, by decide⟩

/-- MaskAndLaneTransfers: indexes 15 and 16; the last lane and the first beyond, of a queue that holds an entry; none. -/
theorem hyp_MaskAndLaneTransfers :
    (let t := regs 0 15; (on t).Executes g0 t ∧ (t.getX 6).toNat ≤ 15) ∧
    (let t := regs 0 16; (on t).Executes g0 t ∧ (on t).Sound (on t).cur ∧ 15 < (t.getX 6).toNat ∧ t.queue 6 = []) ∧
    (let t := regs 0 512; (on t).Executes g0 t ∧ (∀ w ∈ [8, 16, 32, 64], 4096 / w ≤ (t.getX 6).toNat) ∧ t.queue 6 = []) ∧
    (∀ w ∈ [8, 16, 32, 64], let t (n : Nat) : Task := { regs 0 (BitVec.ofNat 64 n) with v := task0.v.set 6 [mkEntry 0 0] };
      (on (t (4096 / w - 1))).Executes g0 (t (4096 / w - 1)) ∧ (t (4096 / w - 1)).queue 6 = [mkEntry 0 0] ∧
      ((t (4096 / w - 1)).getX 6).toNat < 4096 / w ∧
      (on (t (4096 / w))).Executes g0 (t (4096 / w)) ∧ 4096 / w ≤ ((t (4096 / w)).getX 6).toNat) := by
  refine ⟨⟨regs_executes _ _, by decide +kernel⟩, ⟨regs_executes _ _, on_sound _, by decide +kernel, by decide +kernel⟩,
    ⟨regs_executes _ _, by decide +kernel, by decide +kernel⟩, ?_⟩
  intro w hw
  simp only [List.mem_cons, List.not_mem_nil, or_false] at hw
  rcases hw with rfl | rfl | rfl | rfl <;>
    exact ⟨on_executes _ _ rfl rfl rfl, by decide +kernel, by decide +kernel, on_executes _ _ rfl rfl rfl, by decide +kernel⟩

/-- JoinSpawnLaunchCancel: a child in a launch that waits for another, and in one that does not; a launch that a task under
COMMIT holds back is seen by that task alone. -/
def behind : State := { base with jobs := [{ loadJob with launches := loadJob.launches.map fun l : Launch => { l with after := some 1 } }] }
def holding : Task := commitTask { task0 with held := [.launch 0 [] false] }
theorem hyp_JoinSpawnLaunchCancel_hidden :
    (behind.setTask 0 task0).afterOf task0 = true ∧ (on task0).afterOf task0 = false ∧
    (on holding).hides none 0 0 = true ∧ (on holding).hides (some task0) 0 0 = true ∧ (on holding).hides (some holding) 0 0 = false := by
  decide +kernel

/-- A descriptor of one task, without footprint lists, at 0x401000. -/
def oneTask : List Byte := fixLen 64 (bytesOf 8 0x400000 ++ bytesOf 8 0 ++ bytesOf 4 0 ++ bytesOf 4 1 ++ bytesOf 4 0 ++ bytesOf 4 0xFFFFFF)
def described : State := (base.writePa 0x1000401000 oneTask).setTask 0 (regs 0x401000 0)

/-- JoinSpawnLaunchCancel: an odd code pointer, a successor that cannot be attached, a free generation; a descriptor of no
task, one of a higher priority, one that is accepted; a value with other bits, another job, no work, work complete, live. -/
theorem hyp_JoinSpawnLaunchCancel_records :
    (((regs 0x400001 0).getX 5).getLsbD 0 = true ∧ (on (regs 0x400001 0)).Executes g0 (regs 0x400001 0) ∧
      (on (regs 0x400001 0)).Sound (on (regs 0x400001 0)).cur) ∧
    (let t := (regs 0x400000 0).setX 4 1; (on t).Executes g0 t ∧ (t.getX 5).getLsbD 0 = false ∧ t.getX 4 ≠ 0 ∧ t.held = [] ∧
      (on t).recOf (t.getX 4) = none ∧ t.rs.rc.commit = false ∧ ∃ x, (on t).askGen t.rs.rc.job = x) := by
  exact ⟨⟨by decide +kernel, regs_executes _ _, on_sound _⟩, on_executes _ _ rfl rfl rfl, by decide +kernel, by decide +kernel, rfl,
    Option.isNone_iff_eq_none.mp (by decide +kernel), rfl, _, rfl⟩

/-- A record of the task's launch that JOIN made and that waits for two, in the store, and held back under COMMIT. -/
def succRec : RecSlot := { loadRec with slot := 5, tenure := 3, rc := { loadRec.rc with origin := 2, join := 2, hasbgen := false } }
def stocked : State := base.setCluster 0 fun k => { k with recs := [succRec] }
def spawner : Task := (regs 0x400000 0).setX 4 (handleOf 0 5 3)
def holder : Task := commitTask { spawner with held := [.record 0 succRec false] }
theorem hyp_JoinSpawnLaunchCancel_attach :
    ((stocked.setTask 0 spawner).Executes g0 spawner ∧ spawner.getX 4 ≠ 0 ∧ (spawner.getX 5).getLsbD 0 = false ∧
      spawner.heldRec (spawner.getX 4) = none ∧ (stocked.setTask 0 spawner).recOf (spawner.getX 4) = some (0, succRec) ∧
      spawner.mayAttach succRec ∧ spawner.rs.rc.commit = false ∧ ∃ x, (stocked.setTask 0 spawner).askGen spawner.rs.rc.job = x) ∧
    ((on holder).Executes g0 holder ∧ holder.heldRec (holder.getX 4) = some succRec ∧ holder.mayAttach succRec ∧
      holder.rs.rc.commit = true ∧ ∃ x, (on holder).askGen holder.rs.rc.job = x) := by
  refine ⟨⟨Live.executes (by unfold Live; decide +kernel) _ _ rfl rfl rfl, by decide +kernel, by decide +kernel,
    Option.isNone_iff_eq_none.mp (by decide +kernel), ?_, by unfold Task.mayAttach; decide, rfl, _, rfl⟩,
    on_executes _ _ rfl rfl rfl, by decide +kernel, by unfold Task.mayAttach; decide, rfl, _, rfl⟩
  decide +kernel

theorem hyp_JoinSpawnLaunchCancel_launch :
    (let t := regs 0x401000 0;
      (on t).Executes g0 t ∧ ∃ s1 bs j mine, readDesc (on t).cur 8 (t.getX 5).toNat (on t) (t.advance 2) = .ok (s1, bs) ∧
        s1.jobOf t.rs.rc.job = some j ∧ s1.launchOf t.rs.rc.job t.rs.rc.launch = some mine ∧ (parseDesc bs).count = 0) ∧
    (let t := regs 0x401000 0;
      described.Executes g0 t ∧ ∃ s1 bs j mine num, readDesc described.cur 8 (t.getX 5).toNat described (t.advance 2) = .ok (s1, bs) ∧
        s1.jobOf t.rs.rc.job = some j ∧ s1.launchOf t.rs.rc.job t.rs.rc.launch = some mine ∧
        (let d := parseDesc bs;
         d.reserved = false ∧ d.count = 1 ∧ d.code.getLsbD 0 = false ∧ d.after = none ∧ d.nin = 0 ∧ d.nout = 0 ∧ d.succ = 0 ∧
         d.prio.toNat ≤ t.rs.rc.prio.toNat ∧ d.nt = false ∧ d.gang = false) ∧ t.rs.rc.commit = false ∧
        j.freeLaunch = some num) := by
  constructor
  · refine ⟨regs_executes _ _, ?_⟩
    have h : (match readDesc (on (regs 0x401000 0)).cur 8 ((regs 0x401000 0).getX 5).toNat (on (regs 0x401000 0))
        ((regs 0x401000 0).advance 2) with
      | .ok r => (r.1.jobOf 0).isSome && (r.1.launchOf 0 0).isSome && decide ((parseDesc r.2).count = 0) | .error _ => false) = true := by
      decide +kernel
    split at h
    · rename_i r e
      simp only [Bool.and_eq_true, decide_eq_true_eq, Option.isSome_iff_exists] at h
      obtain ⟨⟨⟨j, hj⟩, m, hm⟩, hc⟩ := h
      exact ⟨r.1, r.2, j, m, e, hj, hm, hc⟩
    · cases h
  · refine ⟨Live.executes (by unfold Live; decide +kernel) _ _ rfl rfl rfl, ?_⟩
    have h : (match readDesc described.cur 8 ((regs 0x401000 0).getX 5).toNat described ((regs 0x401000 0).advance 2) with
      | .ok r => (match r.1.jobOf 0 with | some j => j.freeLaunch.isSome | none => false) && (r.1.launchOf 0 0).isSome && decide (let d := parseDesc r.2;
           d.reserved = false ∧ d.count = 1 ∧ d.code.getLsbD 0 = false ∧ d.after = none ∧ d.nin = 0 ∧ d.nout = 0 ∧ d.succ = 0 ∧
           d.prio.toNat ≤ 0 ∧ d.nt = false ∧ d.gang = false)
      | .error _ => false) = true := by decide +kernel
    split at h
    · rename_i r e
      simp only [Bool.and_eq_true, decide_eq_true_eq] at h
      obtain ⟨⟨hj, hm⟩, hd⟩ := h
      split at hj
      · rename_i j hj'
        obtain ⟨num, hn⟩ := some_of hj
        obtain ⟨m, hm⟩ := some_of hm
        exact ⟨r.1, r.2, j, m, num, e, hj', hm, hd, rfl, hn⟩
      · cases hj
    · cases h

/-- A descriptor as a LAUNCH of `described` reads it meets a test that its job, its launch and its bytes decide. -/
def launchMeets (s0 : State) (bs : List Byte) (ok : State → Job → Launch → LaunchDesc → Bool) : Bool :=
  let t := regs 0x401000 0
  let s := (s0.writePa 0x1000401000 bs).setTask 0 t
  match readDesc s.cur 8 (t.getX 5).toNat s (t.advance 2) with
  | .ok r =>
    match r.1.jobOf 0, r.1.launchOf 0 0 with
    | some j, some m => ok r.1 j m (parseDesc r.2)
    | _, _ => false
  | .error _ => false

/-- A descriptor with given count, flags word, after and successor. -/
def descOf (count flags after succ : Nat) : List Byte :=
  fixLen 64 (bytesOf 8 0x400000 ++ bytesOf 8 0 ++ bytesOf 4 0 ++ bytesOf 4 count ++ bytesOf 4 flags ++ bytesOf 4 after ++
    bytesOf 8 0 ++ bytesOf 4 0 ++ bytesOf 4 0 ++ bytesOf 8 succ)

/-- JoinSpawnLaunchCancel: a successor and an after that LAUNCH takes, a successor that it does not, a higher priority, the NT
privilege under COMMIT, a gang of 17. -/
theorem hyp_JoinSpawnLaunchCancel_launch_forms :
    launchMeets stocked (descOf 1 0 0 (handleOf 0 5 3).toNat) (fun s j m d =>
      s.succOk ((regs 0x401000 0).advance 2) d.succ && decide (d.succ ≠ 0) && decide (d.after = some 0) &&
      ((s.seen (some ((regs 0x401000 0).advance 2)) j).launches.any fun l => decide (l.num = 0) && decide (l.graph = m.graph)) &&
      !d.reserved && j.freeLaunch.isSome) = true ∧
    launchMeets base (descOf 1 0 0xFFFFFF (handleOf 0 5 3).toNat) (fun s _ _ d =>
      !s.succOk ((regs 0x401000 0).advance 2) d.succ && !d.reserved) = true ∧
    launchMeets base (descOf 1 3 0xFFFFFF 0) (fun _ _ _ d =>
      decide ((regs 0x401000 0).rs.rc.prio.toNat < d.prio.toNat) && !d.reserved) = true ∧
    launchMeets base (descOf 1 0x24 0xFFFFFF 0) (fun _ _ _ d =>
      d.nt && d.commit && decide (d.prio = 0) && !d.reserved) = true ∧
    launchMeets base (descOf 17 0x10 0xFFFFFF 0) (fun _ _ _ d =>
      d.gang && decide (d.count = 17) && !d.nt && decide (d.prio = 0) && !d.reserved) = true := by
  refine ⟨?_, ?_, ?_, ?_, ?_⟩ <;> decide +kernel

theorem hyp_JoinSpawnLaunchCancel_cancel :
    (let v := ((regs 0x100000000 0).getX 5).toNat; v / 2 ^ 32 % 2 ^ 30 ≠ 0) ∧
    (let v := ((regs 0xC000000000000001 0).getX 5).toNat;
      v / 2 ^ 32 % 2 ^ 30 = 0 ∧ v / 2 ^ 62 = 3 ∧ v % 2 ^ 32 ≠ (regs 0 0).rs.rc.job) ∧
    (let s := on (regs 9 0); s.work (some ((regs 9 0).advance 2)) 0 0 9 = none) ∧
    (let s := on (regs 0 0); ∃ ls, s.work (some ((regs 0 0).advance 2)) 0 0 0 = some ls ∧ (∃ l ∈ ls, l.done = false)) ∧
    (let s := { on (regs 0 0) with jobs := [{ loadJob with launches := loadJob.launches.map fun l : Launch => { l with done := true } }] };
     ∃ ls, s.work (some ((regs 0 0).advance 2)) 0 0 0 = some ls ∧ ∀ l ∈ ls, l.done = true) := by
  refine ⟨by decide +kernel, by decide +kernel, Option.isNone_iff_eq_none.mp (by decide +kernel),
    ⟨loadJob.launches, by decide +kernel, by decide +kernel⟩,
    loadJob.launches.map fun l : Launch => { l with done := true }, by decide +kernel, by decide +kernel⟩

/-! ### Decoding, stepping and the whole machine -/

/-- DecodeOfEncode, EncodeOfDecode: a well-formed instruction of each format, and the parcels of one. -/
theorem hyp_DecodeOfEncode : (∀ i ∈ [Instr.add g0 true 1 2 3, .bfi g0 1 2 0 64, .vadd (vf 0), .mGo true true 7, .future 0xC000 []],
    isWord i = true ∧ WellFormed i) ∧ decodeParcels [0x0903, 0x0000] = .instr (.pandn g0 0 0 0) := by
  unfold WellFormed
  decide +kernel

/-- StepRunsTheDecodedInstruction: the loaded NOP, by default and when the script names the core. -/
theorem hyp_StepRunsTheDecodedInstruction : let s := on task0;
    s.running = some task0 ∧ s.fetchText s.cur task0 task0.pc = .ok [0, 0] ∧ decodeParcels [0, 0] = .instr (.nop g0) ∧
    task0.rep.vactive = false ∧ task0.rep.cactive = false ∧ task0.dist + headParcels ([(0 : Parcel), 0].headD 0) ≤ task0.limit ∧
    s.waitsAtomic s.cur = false ∧ s.script = [] ∧ task0.cmds = [] ∧
    s = { ({ s with script := [.run s.cur] } : State) with script := [], cur := s.cur } := by
  refine ⟨task0_executes.1, ok_of (by decide +kernel), by decide +kernel, rfl, rfl, by decide +kernel, by decide +kernel, ?_, rfl, ?_⟩
  · show base.script = []
    decide +kernel
  · have : (on task0).script = [] := by show base.script = []; decide +kernel
    rw [← this]

/-- GuardedOffDoesNothing: an ADD, and a REP before an ADD. -/
theorem hyp_GuardedOffDoesNothing :
    (on task0).running = some task0 ∧ guardOf (.add ⟨1, false⟩ true 1 2 3) = some ⟨1, false⟩ ∧ task0.passes ⟨1, false⟩ = false ∧
    (let s := (base.writePa 0x1000400004 [0x00, 0x01]).setTask 0 task0;
      s.running = some task0 ∧ guardOf (.rep ⟨1, false⟩ 3 true true true false) = some ⟨1, false⟩ ∧
      s.fetchParcel s.cur task0 (task0.pc.toNat + 4) = .ok 0x0100 ∧ repTargetOk 0x0100 false = true) :=
  ⟨task0_executes.1, rfl, rfl, Live.running (by unfold Live; decide +kernel) _ rfl rfl, rfl, ok_of (by decide +kernel), by decide⟩

/-- HardWiredRegisters: a register that is not hard-wired, next to one that is. -/
theorem hyp_HardWiredRegisters : (31 : XReg) ≠ 0 ∧ (1 : PReg) ≠ 0 ∧ (7 : KReg) ≠ 0 ∧ (0 : XReg) ≠ 31 := by decide

/-- CanonicalKeptByEveryStep, FlashWrittenOnlyByTheBoard: a canonical state that steps, with no FLASH_WRITE in its script. -/
theorem hyp_Steps : base.Canonical ∧ base.script = [] ∧ ∃ s', step base = .next s' := by
  refine ⟨⟨by decide +kernel, by decide +kernel, by decide +kernel, ?_⟩, by decide +kernel, ?_⟩
  · intro k p hp
    have h : ∀ k : ClusterId, (base.clusters[k.val]).parked = [] := by decide +kernel
    rw [h k] at hp
    cases hp
  · have h : (match step base with | .next _ => true | _ => false) = true := by decide +kernel
    split at h
    · rename_i s' e
      exact ⟨s', e⟩
    · cases h

end Tests

end Sys2Proof
end

