-- ==== Sys2Proof/Tests/VectorWitness.lean ====
section
/-!
SUPPORT. Tests/VectorWitness.lean: for the statements about the vector strand, states and operands that meet the hypotheses
of each clause.
-/

namespace Sys2Proof

namespace Tests

open Sys2Proof.Machine

set_option Elab.async false

/-- A task whose queues 6 to 11 hold one entry of zeros, under a mask 1 of lane 0 alone. -/
def tv : Task := { regs 0x401000 0 with
  v := Vector.ofFn fun q => if 6 ≤ q.val ∧ q.val < 12 then [mkEntry 0x08 0] else []
  k := task0.k.set 1 1 }

theorem tv_ready (f : VF) (hg : f.g = g0) (srcs : Srcs) (dsts : List VReg)
    (h : (srcs.all (fun x => decide (6 ≤ x.1.val ∧ x.1.val < 12)) && dsts.all fun d => decide (d.val < 6 ∨ 12 ≤ d.val)) = true) :
    (on tv).VReady f tv srcs dsts := by
  simp only [Bool.and_eq_true, List.all_eq_true, decide_eq_true_eq] at h
  have hq : ∀ q : VReg, tv.queue q = if 6 ≤ q.val ∧ q.val < 12 then [mkEntry 0x08 0] else [] := by
    intro q
    unfold Task.queue tv
    simp
  refine ⟨?_, on_sound _, ?_, ?_⟩
  · rw [hg]
    exact on_executes _ _ rfl rfl rfl
  · intro x hx
    rw [hq, if_pos (h.1 x hx)]
    exact List.cons_ne_nil _ _
  · intro d hd
    have hd' : ¬(6 ≤ d.val ∧ d.val < 12) := by have := h.2 d hd; omega
    unfold Task.queuesAfter
    simp only [Vector.getElem_ofFn, hq, hd']
    simp

/-- Three sources, of which an instruction takes the first ones. -/
def three : VF := { vf 0 with vc := 10, k := 1 }

/-- IntegerLanes, FloatLanes: every form of each, for an element type of each. -/
theorem hyp_IntegerLanes : etIsInt three.et = true ∧ ∀ x ∈ intForms three.u (etWidth three.et),
    (on tv).VReady three tv ([(three.va, three.qa), (three.vb, three.qb), (three.vc, three.qc)].take x.2.1) [three.vd] := by
  refine ⟨by decide, ?_⟩
  have h : ∀ k : Nat, (on tv).VReady three tv ([(three.va, three.qa), (three.vb, three.qb), (three.vc, three.qc)].take k) [three.vd] := by
    intro k
    rcases k with _ | _ | _ | k <;> exact tv_ready three rfl _ _ (by simp [three, vf])
  exact fun x _ => h x.2.1

theorem hyp_FloatLanes : ∀ et ∈ [(6 : BitVec 4), 7, 8], (et = 6 ∨ et = 7 ∨ et = 8) ∧ ∀ k : Nat,
    (on tv).VReady { three with et := et } tv ([(6, false), (8, false), (10, false)].take k) [4] := by
  intro et h
  refine ⟨by simpa using h, fun k => ?_⟩
  rcases k with _ | _ | _ | k <;> exact tv_ready _ rfl _ _ (by simp)

/-- CompareLanes: an integer and a floating type. -/
theorem hyp_CompareLanes : ∀ et ∈ [(3 : BitVec 4), 8],
    let f : VF := { vf et with vd := 7 };
    f.vd.val = (7 : KReg).val ∧ etWidth f.et ≠ 0 ∧ (on tv).VReady f tv [(f.va, f.qa), (f.vb, f.qb)] [] := by
  intro et h
  simp only [List.mem_cons, List.not_mem_nil, or_false] at h
  rcases h with rfl | rfl <;> exact ⟨rfl, by decide, tv_ready _ rfl _ _ (by simp [vf])⟩

/-- MovesAndPermutes, Reductions: none, one or two sources, one or two destinations. -/
theorem hyp_MovesAndPermutes : etIsInt three.et = true ∧
    (on tv).VReady three tv [] [three.vd] ∧ (on tv).VReady three tv [(three.va, three.qa)] [] ∧
    (on tv).VReady three tv [(three.va, three.qa)] [three.vd] ∧
    (on tv).VReady three tv [(three.va, three.qa), (three.vb, three.qb)] [three.vd] ∧
    (on tv).VReady three tv [(three.va, three.qa), (three.vb, three.qb)] [three.vd, groupReg three.vd 1] :=
  ⟨by decide, tv_ready _ rfl _ _ (by simp [three, vf]), tv_ready _ rfl _ _ (by simp [three, vf]), tv_ready _ rfl _ _ (by simp [three, vf]),
    tv_ready _ rfl _ _ (by simp [three, vf]), tv_ready _ rfl _ _ (by decide)⟩
theorem hyp_Reductions : ∀ et ∈ [(0 : BitVec 4), 6, 7, 8], (etIsInt et = true ∨ et = 6 ∨ et = 7 ∨ et = 8) ∧
    (on tv).VReady { vf et with k := 1 } tv [(6, false)] [4] := by
  intro et h
  simp only [List.mem_cons, List.not_mem_nil, or_false] at h
  rcases h with rfl | rfl | rfl | rfl <;> exact ⟨by decide, tv_ready _ rfl _ _ (by decide)⟩

/-- NarrowingAndWidening: an integer and a floating pair, and a quad. -/
theorem hyp_NarrowingAndWidening :
    (∀ p ∈ [((0 : BitVec 4), (1 : BitVec 4)), (6, 8)], p ∈ ([(3, 0), (0, 1), (1, 2), (6, 8), (7, 8)] : List (BitVec 4 × BitVec 4)) ∧
      (on tv).VReady (vf p.1) tv [(6, false), (groupReg 6 1, false)] [4] ∧
      (on tv).VReady { vf p.1 with vc := 10 } tv [(6, false), (8, false)] (groupRegs 4 2) ∧
      (on tv).VReady { vf p.1 with vc := 10 } tv ([(6, false), (8, false)] ++ [(10, false), (groupReg 10 1, false)]) (groupRegs 4 2) ∧
      (on tv).VReady { vf p.1 with vc := 10 } tv [(6, false)] (groupRegs 4 2)) ∧
    (((0 : BitVec 4), (2 : BitVec 4)) ∈ ([(3, 1), (0, 2)] : List (BitVec 4 × BitVec 4)) ∧
      (on tv).VReady { vf 0 with vd := 12 } tv [(6, false)] (groupRegs 12 4)) := by
  refine ⟨?_, by decide, tv_ready _ rfl _ _ (by decide)⟩
  intro p h
  simp only [List.mem_cons, List.not_mem_nil, or_false] at h
  rcases h with rfl | rfl <;>
    exact ⟨by decide, tv_ready _ rfl _ _ (by decide), tv_ready _ rfl _ _ (by decide), tv_ready _ rfl _ _ (by decide),
      tv_ready _ rfl _ _ (by decide)⟩

/-- Conversions: FP32 to FP8, plain, scaled and with derived scales, with statistics and without; FP32 to FP4. -/
def cv (l : Word32) : VF := { vf 8 with lit := some l }
theorem hyp_Conversions : ∀ l ∈ [(0x003 : Word32), 0x203, 0x0E3, 0x183, 0x011], (cv l).lit = some l ∧ tv.statsPending = false ∧
    cvtGroup (cv l).et l = 1 ∧ ¬(fmtWidth (l.setWidth 5) = 6 ∧ etWidth (cv l).et = 4) ∧
    (on tv).VReady (cv l) tv [(6, false)] (groupRegs 4 (cvtGroup (cv l).et l)) ∧
    (on tv).VReady (cv l) tv [(6, false), (8, false)] (groupRegs 4 (cvtGroup (cv l).et l)) ∧
    (on tv).VReady (cv l) tv [(6, false)] [4, groupReg 4 1] := by
  intro l h
  simp only [List.mem_cons, List.not_mem_nil, or_false] at h
  rcases h with rfl | rfl | rfl | rfl | rfl <;>
    exact ⟨rfl, by decide, by decide, by decide, tv_ready _ rfl _ _ (by decide), tv_ready _ rfl _ _ (by decide),
      tv_ready _ rfl _ _ (by decide)⟩

/-- ChecksumsAndMasks: an entry whose words agree with its data. -/
theorem hyp_ChecksumsAndMasks :
    (on tv).VReady (vf 2) tv [(6, false)] [4] ∧ (on tv).VReady (vf 2) tv [(6, false), (8, false)] [4] ∧
    (on tv).VReady (vf 2) tv [(6, false)] [] ∧
    (((tv.head 6).under (etFmt 2)).segs.map BitVec.toNat =
      (segmentsOf (etFmt 2).toNat ((tv.head 6).under (etFmt 2)).data.toNat).1) ∧
    (on tv).Executes (vf 2).g tv ∧ (on tv).Sound (on tv).cur := by
  exact ⟨tv_ready _ rfl _ _ (by decide), tv_ready _ rfl _ _ (by decide), tv_ready _ rfl _ _ (by decide), by decide +kernel,
    on_executes _ _ rfl rfl rfl, on_sound _⟩

/-- QueueTraps: an empty source; a destination of four entries behind sources that are there; a type without the form. -/
theorem hyp_QueueTraps :
    ((on task0).Executes (vf 0).g task0 ∧ (on task0).Sound (on task0).cur ∧ task0.queue 6 = []) ∧
    (let t : Task := { tv with v := tv.v.set 4 (List.replicate 4 (mkEntry 0x08 0)) };
      (on t).Executes (vf 0).g t ∧ (∀ q ∈ [((6 : VReg), false), (8, false)], t.queue q.1 ≠ []) ∧
      4 ≤ ((t.queuesAfter [(6, false), (8, false)] [])[(4 : VReg).val]).length) ∧
    ((on tv).VReady (vf 8) tv [(6, false)] [4] ∧ etIsInt (vf 8).et = false) ∧
    ((on tv).VReady (vf 9) tv [(6, false)] [4] ∧ ¬((vf 9).et = 6 ∨ (vf 9).et = 7 ∨ (vf 9).et = 8)) ∧
    (∀ et ∈ [(2 : BitVec 4), 8], (on tv).VReady (vf et) tv [(6, false), (8, false)] (groupRegs 4 2) ∧
      (on tv).VReady (vf et) tv (groupSrcs 6 2 false) [4]) := by
  refine ⟨⟨task0_executes, on_sound _, by decide +kernel⟩, ⟨on_executes _ _ rfl rfl rfl, by decide +kernel, by decide +kernel⟩,
    ⟨tv_ready _ rfl _ _ (by decide), by decide⟩, ⟨tv_ready _ rfl _ _ (by decide), by decide⟩, ?_⟩
  intro et h
  simp only [List.mem_cons, List.not_mem_nil, or_false] at h
  rcases h with rfl | rfl <;> exact ⟨tv_ready _ rfl _ _ (by decide), tv_ready _ rfl _ _ (by decide)⟩

/-- Lane 0 is the only active one. -/
theorem tv_lane : ∀ j, j < 1024 → (tv.getK 1).getLsbD j = true → j = 0 := by
  intro j _ h
  have e : tv.getK 1 = 1 := by unfold Task.getK tv; simp
  rw [e] at h
  simpa using h

/-- VectorLoadsComplete: lane 0 loads from LPDDR, SRAM and host memory; an INT4 entry. -/
theorem hyp_VectorLoadsComplete :
    (on tv).VReady { vf 2 with va := 5, k := 1 } tv [] [4] ∧ (on tv).VReady { vf 2 with va := 5, k := 1 } tv [(8, false)] [4] ∧
    (∀ va ∈ [0x401000, 0x40000000, 0x80000000], ∃ x, (on tv).laneLoads tv 0 va 4 x ∧ (on tv).laneLoads tv 0 va 1 x) ∧
    (∀ j, j < 1024 → (tv.getK 1).getLsbD j = true → j = 0) ∧ (tv.getX 5).toNat = 0x401000 ∧
    8 ≤ etWidth 2 ∧ etWidth 3 = 4 := by
  refine ⟨tv_ready _ rfl _ _ (by decide), tv_ready _ rfl _ _ (by decide), ?_, tv_lane, by decide +kernel, by decide, by decide⟩
  intro va hva
  simp only [List.mem_cons, List.not_mem_nil, or_false] at hva
  rcases hva with rfl | rfl | rfl
  · exact ⟨⟨0x1000401000, .lpddr, 0, 0x40000000⟩,
      ⟨by decide, ok_of (by decide +kernel), .inr ⟨.inr (.inl rfl), by decide +kernel, (fun h => by cases h), by decide +kernel⟩⟩,
      ⟨by decide, ok_of (by decide +kernel), .inr ⟨.inr (.inl rfl), by decide +kernel, (fun h => by cases h), by decide +kernel⟩⟩⟩
  · exact ⟨⟨0, .sram, 0x40000000, 0x10000⟩,
      ⟨by decide, ok_of (by decide +kernel), .inr ⟨.inl rfl, by decide +kernel, (fun _ => by decide +kernel), by decide +kernel⟩⟩,
      ⟨by decide, ok_of (by decide +kernel), .inr ⟨.inl rfl, by decide +kernel, (fun _ => by decide +kernel), by decide +kernel⟩⟩⟩
  · exact ⟨⟨hostBase, .host, 0x80000000, 0x40000000⟩,
      ⟨by decide, ok_of (by decide +kernel), .inr ⟨.inr (.inr rfl), by decide +kernel, (fun h => by cases h), by decide +kernel⟩⟩,
      ⟨by decide, ok_of (by decide +kernel), .inr ⟨.inr (.inr rfl), by decide +kernel, (fun h => by cases h), by decide +kernel⟩⟩⟩

/-- VectorLoadsComplete: lane 0 loads from W-space that is ready. -/
def awake : State := base.setDie 0 fun d => { d with wready := true }
def tw : Task := { tv with x := tv.x.set 5 0xC0000000 }
theorem hyp_VectorLoadsComplete_aperture : (awake.setTask 0 tw).Executes (vf 2).g tw ∧
    (∀ va ∈ [0xC0000000, 0xC0000004], ∃ x, (awake.setTask 0 tw).laneLoads tw 0 va 4 x ∧ x.typ = .wap) ∧
    (tw.getX 5).toNat = 0xC0000000 := by
  refine ⟨Live.executes (by unfold Live; decide +kernel) _ _ rfl rfl rfl, ?_, by decide +kernel⟩
  intro va hva
  simp only [List.mem_cons, List.not_mem_nil, or_false] at hva
  rcases hva with rfl | rfl
  · exact ⟨⟨0, .wap, 0xC0000000, 0x40000000⟩, ⟨by decide, ok_of (by decide +kernel), .inl ⟨rfl, by decide +kernel, by decide +kernel⟩⟩, rfl⟩
  · exact ⟨⟨4, .wap, 0xC0000000, 0x40000000⟩, ⟨by decide, ok_of (by decide +kernel), .inl ⟨rfl, by decide +kernel, by decide +kernel⟩⟩, rfl⟩

/-- VectorStoresComplete: an INT4 entry, of which one nibble of one byte is stored non-temporally. -/
theorem hyp_VectorStoresComplete_nibble :
    (on tv).VReady { vf 3 with va := 5, k := 1 } tv [(8, false)] [] ∧ etWidth 3 = 4 ∧ tv.rs.rc.nt = true ∧
    (((tv.head 8).under (etFmt 3)).segs.map BitVec.toNat =
      (segmentsOf (etFmt 3).toNat ((tv.head 8).under (etFmt 3)).data.toNat).1) ∧
    ((List.range 512).filter fun b => (tv.getK 1).getLsbD (2 * b) || (tv.getK 1).getLsbD (2 * b + 1)) = [0] ∧
    (tv.getK 1).getLsbD 1 = false ∧ (on tv).laneStores tv 0 0x401000 1 ⟨0x1000401000, .lpddr, 0, 0x40000000⟩ :=
  ⟨tv_ready _ rfl _ _ (by decide), by decide, rfl, by decide +kernel, by decide +kernel, by decide +kernel,
    by decide, ok_of (by decide +kernel), .inr (.inl rfl), by decide +kernel, (fun h => by cases h), fun _ => by decide +kernel⟩

/-- VectorStoresComplete: lane 0 stores to LPDDR, SRAM and host memory, an entry whose words agree; a non-temporal store. -/
theorem hyp_VectorStoresComplete :
    tv.rs.rc.commit = false ∧ tv.commit = [] ∧ tv.nt = [] ∧ tv.rs.rc.nt = true ∧ Memory.wf (on tv).mem = true ∧
    (on tv).VReady { vf 2 with va := 5, k := 1 } tv [(8, false)] [] ∧
    (on tv).VReady { vf 2 with vd := 10, va := 5, k := 1 } tv [(8, false), (10, false)] [] ∧
    (((tv.head 8).under (etFmt 2)).segs.map BitVec.toNat =
      (segmentsOf (etFmt 2).toNat ((tv.head 8).under (etFmt 2)).data.toNat).1) ∧
    (∀ va ∈ [0x401000, 0x40000000, 0x80000000], ∃ x, (on tv).laneStores tv 0 va 4 x) := by
  refine ⟨rfl, rfl, rfl, rfl, by decide +kernel, tv_ready _ rfl _ _ (by decide), tv_ready _ rfl _ _ (by decide), by decide +kernel, ?_⟩
  intro va hva
  simp only [List.mem_cons, List.not_mem_nil, or_false] at hva
  rcases hva with rfl | rfl | rfl
  · exact ⟨⟨0x1000401000, .lpddr, 0, 0x40000000⟩,
      by decide, ok_of (by decide +kernel), .inr (.inl rfl), by decide +kernel, (fun h => by cases h), fun _ => by decide +kernel⟩
  · exact ⟨⟨0, .sram, 0x40000000, 0x10000⟩,
      by decide, ok_of (by decide +kernel), .inl rfl, by decide +kernel, (fun _ => by decide +kernel), fun h => absurd rfl h⟩
  · exact ⟨⟨hostBase, .host, 0x80000000, 0x40000000⟩,
      by decide, ok_of (by decide +kernel), .inr (.inr rfl), by decide +kernel, (fun h => by cases h), fun _ => by decide +kernel⟩

/-- An INT8 tile at the start of the scratchpad, FRESH or STALE, and a task that names it. -/
def tiled (stale : Bool) : State := ({ base with tiles := [(0, ⟨0x0A, stale, false⟩)] } : State).setTask 0 tt
where tt : Task := { tv with x := tv.x.set 5 0x40000000 }

theorem tiled_ready (stale : Bool) (f : VF) (hg : f.g = g0) (srcs : Srcs) (dsts : List VReg)
    (h1 : ∀ x ∈ srcs, tiled.tt.queue x.1 ≠ []) (h2 : ∀ d ∈ dsts, ((tiled.tt.queuesAfter srcs [])[d.val]).length < 4) :
    (tiled stale).VReady f tiled.tt srcs dsts := by
  have l : Live ({ base with tiles := [(0, ⟨0x0A, stale, false⟩)] } : State) := by cases stale <;> (unfold Live; decide +kernel)
  exact ⟨by rw [hg]; exact l.executes _ _ rfl rfl rfl, l.sound _, h1, h2⟩

/-- TileRowAccess: the first rows of a FRESH tile of zeros, of a STALE one, and a store of rows. -/
theorem hyp_TileRowAccess :
    let f : VF := { vf 0 with va := 5 };
    (Memory.wf (tiled false).mem = true ∧ tiled.tt.rs.rc.commit = false ∧ tiled.tt.commit = []) ∧
    ((tiled false).VReady f tiled.tt [] [f.vd] ∧ ∃ s2, (tiled false).probeRows (tiled false).cur tiled.tt f false =
        .ok (0, 0, ⟨0x0A, false, false⟩, 0, s2)) ∧
    (((tiled false).viewOf tiled.tt).checkMacs 0 512).poisonedAt 0 512 = none ∧
    (((tiled false).viewOf tiled.tt).checkMacs 4096 32).poisonedAt 4096 32 = none ∧
    (((wordsOf 4 64 (((tiled false).viewOf tiled.tt).readPa 4096 256)).drop 0).take 8) =
      ((List.range 8).map fun i => (checksum 0x0A (tileRow 0x0A (((tiled false).viewOf tiled.tt).readNat 0 512) i)).1) ∧
    (∃ s2, (tiled true).probeRows (tiled true).cur tiled.tt { f with u := true } false = .ok (0, 0, ⟨0x0A, true, false⟩, 0, s2)) ∧
    (((tiled true).viewOf tiled.tt).checkMacs 0 4096).poisonedAt 0 4096 = none ∧ tiled.tt.nt = [] ∧
    ((tiled false).VReady f tiled.tt [(f.vb, f.qb)] [] ∧ ∃ s2, (tiled false).probeRows (tiled false).cur tiled.tt f true =
        .ok (0, 0, ⟨0x0A, false, false⟩, 0, s2)) ∧
    (((tiled.tt.head 8).under (etFmt 0)).segs.map BitVec.toNat =
      (segmentsOf (etFmt 0).toNat ((tiled.tt.head 8).under (etFmt 0)).data.toNat).1) := by
  have p {s : State} {f : VF} {w : Bool} {tl : Tile} (h : (match s.probeRows s.cur tiled.tt f w with
      | .ok (pa, o, t, g, _) => decide (pa = 0 ∧ o = 0 ∧ t = tl ∧ g = 0) | .error _ => false) = true) :
      ∃ s2, s.probeRows s.cur tiled.tt f w = .ok (0, 0, tl, 0, s2) := by
    revert h
    rcases s.probeRows s.cur tiled.tt f w with e | ⟨pa, o, t, g, s2⟩
    · exact fun h => Bool.noConfusion h
    · intro h
      obtain ⟨rfl, rfl, rfl, rfl⟩ := of_decide_eq_true h
      exact ⟨s2, rfl⟩
  exact ⟨⟨by decide +kernel, rfl, rfl⟩, ⟨tiled_ready _ _ rfl _ _ (by decide +kernel) (by decide +kernel), p (by decide +kernel)⟩,
    by decide +kernel, by decide +kernel, by decide +kernel, p (by decide +kernel), by decide +kernel, rfl,
    ⟨tiled_ready _ _ rfl _ _ (by decide +kernel) (by decide +kernel), p (by decide +kernel)⟩, by decide +kernel⟩

/-- TileRowAccess: under STRICT a STALE tile, and a FRESH one whose first row no longer sums to its word. -/
def changedRow : State :=
  (({ base with tiles := [(0, ⟨0x0A, false, false⟩)] } : State).writePa 0 [5]).setTask 0 tiled.tt
theorem hyp_TileRowAccess_faults :
    let f : VF := { vf 0 with va := 5 };
    let v := changedRow.viewOf tiled.tt;
    f.u = false ∧ (tiled true).VReady f tiled.tt [] [f.vd] ∧
    (match (tiled true).probeRows (tiled true).cur tiled.tt f false with
      | .ok (pa, o, tl, g, _) => decide (pa = 0 ∧ o = 0 ∧ tl = ⟨0x0A, true, false⟩ ∧ g = 0) | .error _ => false) = true ∧
    changedRow.VReady f tiled.tt [] [f.vd] ∧
    (match changedRow.probeRows changedRow.cur tiled.tt f false with
      | .ok (pa, o, tl, g, _) => decide (pa = 0 ∧ o = 0 ∧ tl = ⟨0x0A, false, false⟩ ∧ g = 0) | .error _ => false) = true ∧
    ((wordsOf 4 64 (v.readPa 4096 256)).take 8).getD 0 0 ≠ (checksum 0x0A (tileRow 0x0A (v.readNat 0 512) 0)).1 := by
  have l : Live (({ base with tiles := [(0, ⟨0x0A, false, false⟩)] } : State).writePa 0 [5]) := by unfold Live; decide +kernel
  exact ⟨rfl, tiled_ready _ _ rfl _ _ (by decide +kernel) (by decide +kernel), by decide +kernel,
    ⟨l.executes _ _ rfl rfl rfl, l.sound _, by decide +kernel, by decide +kernel⟩, by decide +kernel, by decide +kernel⟩

/-- A row load that meets either ends its task, with CKFAULT of kind 0 and of kind 5. -/
theorem test_row_faults :
    ∀ p ∈ [(tiled true, 0), (changedRow, 5)], (match exec (.vldt { vf 0 with va := 5 }) p.1 with
      | .next s' => decide ((s'.taskOf 0).map (fun t => t.sys.ckfault.toNat / 2 ^ 52) = some p.2)
      | _ => false) = true := by
  intro p hp
  simp only [List.mem_cons, List.not_mem_nil, or_false] at hp
  rcases hp with rfl | rfl <;> decide +kernel

/-- VectorAtomicsComplete: lane 0 on LPDDR; on SRAM in a tile; of a task under COMMIT. -/
theorem commit_ready (f : VF) (hg : f.g = g0) (srcs : Srcs) (dsts : List VReg) (h1 : ∀ x ∈ srcs, (commitTask tv).queue x.1 ≠ [])
    (h2 : ∀ d ∈ dsts, (((commitTask tv).queuesAfter srcs [])[d.val]).length < 4) :
    (on (commitTask tv)).VReady f (commitTask tv) srcs dsts :=
  ⟨by rw [hg]; exact on_executes _ _ rfl rfl rfl, on_sound _, h1, h2⟩
theorem hyp_VectorAtomicsComplete_forms :
    let f : VF := { vf 2 with vc := 5, k := 1, u := true };
    let a (t : Task) := (t.getX f.vc + (f.lit.getD 0).signExtend 64 + (entryLane (t.head f.va).data 32 0).signExtend 64).toNat;
    let live (t : Task) := (List.range 128).filter fun j => (t.getK f.k).getLsbD j;
    ((tiled false).VReady f tiled.tt [(f.va, f.qa), (f.vb, f.qb)] [f.vd] ∧ tiled.tt.rs.rc.commit = false ∧ live tiled.tt = [0] ∧
      a tiled.tt = 0x40000000 ∧
      (tiled false).translate (tiled false).cur tiled.tt.rs.rc.job 0x40000000 .atomic = .ok ⟨0, .sram, 0x40000000, 0x10000⟩ ∧
      (((tiled false).touchAtomic tiled.tt 0 4).isSome = true ∧ tilesIn ((tiled false).viewOf tiled.tt).tiles 0 4 ≠ [] ∧
        ∀ e ∈ tilesIn ((tiled false).viewOf tiled.tt).tiles 0 4, e.2.poison = false) ∧
      (tiled false).blocked tiled.tt 0 4 true = false ∧
      (((tiled false).viewOf tiled.tt).checkMacs 0 4).poisonedAt 0 4 = none) ∧
    (let t := commitTask tv;
      (on t).VReady f t [(f.va, f.qa), (f.vb, f.qb)] [f.vd] ∧ t.rs.rc.commit = true ∧ (live t).head? = some 0 ∧ a t = 0x401000 ∧
      (on t).translate (on t).cur t.rs.rc.job (a t) .atomic = .ok ⟨0x1000401000, .lpddr, 0, 0x40000000⟩) :=
  ⟨⟨tiled_ready _ _ rfl _ _ (by decide +kernel) (by decide +kernel), rfl, by decide +kernel, by decide +kernel, ok_of (by decide +kernel),
    by decide +kernel, by decide +kernel, by decide +kernel⟩, commit_ready _ rfl _ _ (by decide +kernel) (by decide +kernel), rfl,
    by decide +kernel, by decide +kernel, ok_of (by decide +kernel)⟩
theorem hyp_VectorAtomicsComplete :
    let f : VF := { vf 2 with vc := 5, k := 1, u := true };
    tv.rs.rc.commit = false ∧ tv.commit = [] ∧ tv.nt = [] ∧ Memory.wf (on tv).mem = true ∧
    (on tv).VReady f tv [(f.va, f.qa), (f.vb, f.qb)] [f.vd] ∧
    (List.range 128).filter (fun j => (tv.getK f.k).getLsbD j) = [0] ∧
    (let a := (tv.getX f.vc + (f.lit.getD 0).signExtend 64 + (entryLane (tv.head f.va).data 32 0).signExtend 64).toNat;
      a = 0x401000 ∧ (on tv).translate (on tv).cur tv.rs.rc.job a .atomic = .ok ⟨0x1000401000, .lpddr, 0, 0x40000000⟩ ∧
      tv.inWriteRange a 4 = true ∧ tv.blocked 0x1000401000 4 true = false ∧
      (((on tv).viewOf tv).checkMacs 0x1000401000 4).poisonedAt 0x1000401000 4 = none ∧
      ((on tv).checkMacs 0x1000401000 4).poisonedAt 0x1000401000 4 = none) := by
  exact ⟨rfl, rfl, rfl, by decide +kernel, tv_ready _ rfl _ _ (by decide), by decide +kernel, by decide +kernel, ok_of (by decide +kernel),
    by decide +kernel, by decide +kernel, by decide +kernel, by decide +kernel⟩

end Tests

end Sys2Proof
end

