-- ==== Sys2Proof/Tests/EngineWitness.lean ====
section
/-!
SUPPORT. Tests/EngineWitness.lean: for the statements about engine words and the commands they launch, states and operands
that meet the hypotheses of each clause.
-/

namespace Sys2Proof

namespace Tests

open Sys2Proof.Machine

set_option Elab.async false

/-- EngineSetup, StackAndQueryWords and every word below: on any parameter stack, each engine's word executes. -/
theorem stack_runs (e : Eng) (st : List Word64) :
    (on (task0.setStack e st)).EngineRuns (task0.setStack e st) e ∧ (task0.setStack e st).stack e = st ∧
    (∀ c ∈ (task0.setStack e st).cmds, c.eng ≠ e) := by
  cases e <;> exact ⟨live_base.engineRuns _ _ rfl rfl rfl rfl, rfl, fun c h => nomatch h⟩

/-- EngineSetup: values at the borders of the ranges. -/
theorem hyp_EngineSetup :
    (∀ st : List Word64, (on (task0.setStack .m st)).EngineRuns (task0.setStack .m st) .m ∧ (task0.setStack .m st).mStack = st) ∧
    (∀ st : List Word64, (on (task0.setStack .x st)).EngineRuns (task0.setStack .x st) .x ∧ (task0.setStack .x st).xStack = st) ∧
    (∀ st : List Word64, (on (task0.setStack .p st)).EngineRuns (task0.setStack .p st) .p ∧ (task0.setStack .p st).pStack = st) ∧
    (∀ st : List Word64, (on (task0.setStack .s st)).EngineRuns (task0.setStack .s st) .s ∧ (task0.setStack .s st).sStack = st ∧
      (task0.setStack .s st).metas.length < 8) ∧
    (let t : Task := { task0.setStack .s [1] with metas := List.replicate 8 0 };
      (on t).EngineRuns t .s ∧ t.sStack = [1] ∧ 8 ≤ t.metas.length) ∧
    ((0xFFFFF : Word64).toNat < 2 ^ 20 ∧ ¬(0x100000 : Word64).toNat < 2 ^ 20 ∧ (0x7FFFFFFFFF : Word64).toNat < 2 ^ 39) ∧
    ((0x13 : Word64).extractLsb' 0 5).toNat < 20 ∧ 20 ≤ ((0x14 : Word64).extractLsb' 0 5).toNat ∧
    (0x3F000000000004C3 : Word64).extractLsb' 12 20 = 0 := by
  exact ⟨fun st => ⟨(stack_runs .m st).1, rfl⟩, fun st => ⟨(stack_runs .x st).1, rfl⟩, fun st => ⟨(stack_runs .p st).1, rfl⟩,
    fun st => ⟨(stack_runs .s st).1, rfl, by show task0.metas.length < 8; decide⟩, ⟨live_base.engineRuns _ _ rfl rfl rfl rfl, rfl, by decide⟩, by decide, by decide,
    by decide, by decide⟩

/-- StackAndQueryWords: stacks of none, one, two, three, seven and eight values. -/
theorem hyp_StackAndQueryWords : ∀ e : Eng, ∀ n ∈ [0, 1, 2, 3, 7, 8],
    (on (task0.setStack e (List.replicate n 1))).EngineRuns (task0.setStack e (List.replicate n 1)) e ∧
    ((task0.setStack e (List.replicate n 1)).stack e).length = n ∧
    (∀ c ∈ (task0.setStack e (List.replicate n 1)).cmds, c.eng ≠ e) :=
  fun e n _ => ⟨(stack_runs e _).1, by rw [(stack_runs e _).2.1, List.length_replicate], (stack_runs e _).2.2⟩

/-- A product of one row and one column over 32 elements of INT8, from scratchpad and from W-space. -/
def rowStream : Stream := { Stream.zero with desc := 0x0A, base := 0x1000, rows := 1, cols := 32, pitch := 32 }
def colStream (w : Bool) : Stream := { Stream.zero with desc := 0x0A, wspace := w, base := 0x2000, rows := 32, cols := 1, pitch := 1 }
def product (w : Bool) : Task :=
  { task0 with mStack := [0, 1], m := { task0.m with streams := (task0.m.streams.set 0 rowStream).set 1 (colStream w) } }

/-- The weight tier of die 0 ready, and core 0's window over all of it; the launch may program weights. -/
def ready : State :=
  let s := (base.setDie 0 fun d => { d with wready := true }).setCore 0 fun k => { k with wwlim := 0x7FFFFFFFFF }
  { s with jobs := [{ loadJob with launches := loadJob.launches.map fun l : Launch => { l with wpriv := true } }] }
theorem live_ready : Live ready := by unfold Live; decide +kernel

/-- MatrixAndCopyLaunches: a product, a plain format, a load, a store with and without dithering, a wait. -/
theorem hyp_MatrixLaunches :
    (∀ w : Bool, let t := product w;
      let s := ready.setTask 0 t;
      let A := t.m.streams[(0 : Fin 16).val];
      let B := t.m.streams[(1 : Fin 16).val];
      let rs := goRanges A B t.m.nest (rowsOf A) B.cols A.cols false;
      s.EngineRuns t .m ∧ t.mStack = BitVec.ofNat 64 (0 : Fin 16).val :: BitVec.ofNat 64 (1 : Fin 16).val :: [] ∧
      goShape A B t.m.nest false = .ok () ∧ goTiles t A B (tilesOfNest t.m.nest 0) false = .ok () ∧ t.cmds = [] ∧
      A.blks = false ∧ B.blks = false ∧ (∀ r ∈ rs, r.w = true → s.wNotReady r.lo r.hi = false) ∧
      (∀ r ∈ rs, s.checkMRange s.cur r = .ok ())) ∧
    (let t := task0.setStack .m [0, 1]; (on t).EngineRuns t .m ∧ (t.m.streams[(0 : Fin 16).val]).fmt = 0) ∧
    (let t := task0.setStack .m [0x1000];
      let s := ({ base with tiles := [(0x1000, ⟨0x08, false, false⟩)] } : State).setTask 0 t;
      s.EngineRuns t .m ∧ tileAt s.tiles (s.cur.val * 2 ^ 20 + (0x1000 : Word64).toNat) = some ⟨0x08, false, false⟩ ∧
      (0x1000 : Word64).toNat + tileSize 0x08 + 512 ≤ 0x70000 ∧ t.blocked (s.cur.val * 2 ^ 20 + (0x1000 : Word64).toNat) (16384 + 512) false = false) ∧
    (∀ d ∈ [(0x10A : Word64), 0x18A, 0x30A, 0x0E3], d.toNat < 1024 ∧ (d.setWidth 5 : BitVec 5).toNat < 20 ∧
      (d.extractLsb' 5 3).toNat ≠ 5 ∧ (d.extractLsb' 5 3).toNat ≠ 6 ∧ 0x6CE00 % 512 = 0 ∧ 0x6CE00 + tileSize (d.setWidth 5) + 512 ≤ 0x70000) ∧
    (∀ n ∈ [(15 : Word64), 16], (on (task0.setStack .m [n, 0])).EngineRuns (task0.setStack .m [n, 0]) .m ∧
      (on (task0.setStack .x [n, 0])).EngineRuns (task0.setStack .x [n, 0]) .x) ∧ (15 : Word64).toNat = (15 : Fin 16).val := by
  refine ⟨?_, ⟨(stack_runs .m _).1, by decide +kernel⟩, ⟨Live.engineRuns (by unfold Live; decide +kernel) _ _ rfl rfl rfl rfl,
    by decide +kernel, by decide +kernel, by decide +kernel⟩, ?_, fun n _ => ⟨(stack_runs .m _).1, (stack_runs .x _).1⟩, by decide⟩
  rotate_left
  · intro d h
    simp only [List.mem_cons, List.not_mem_nil, or_false] at h
    rcases h with rfl | rfl | rfl | rfl <;> decide
  intro w
  cases w <;> exact ⟨live_ready.engineRuns _ _ rfl rfl rfl rfl, rfl, ok_of (by decide +kernel), ok_of (by decide +kernel), rfl, by decide +kernel, by decide +kernel,
    by decide +kernel, by decide +kernel⟩

/-- Copies: scratchpad to LPDDR with a checksum and an end compare, a fill, a row to the weight tier. -/
def copyCfg : XCfg := { XCfg.zero with dspace := .dspace, dbase := 0x401000, len := 512, rows := 1, ck := .sum32, armed := some 0 }
def rowCfg : XCfg := { XCfg.zero with dspace := .wspace, dbase := 0x1000, len := 4096, rows := 1 }
def copyTask (x : XCfg) (st : List Word64) : Task := { task0 with xStack := st, xc := x }

theorem hyp_CopyLaunches :
    (∀ st ∈ [([] : List Word64), [0x5A]], let t := copyTask copyCfg st;
      let s := ready.setTask 0 t;
      s.EngineRuns t .x ∧ t.xStack = st ∧ t.cmds = [] ∧ t.xc.ck ≠ CkKind.none ∧
      spacesOk t.xc (decide (st ≠ [])) false t.rs.rc.commit = .ok () ∧ xGeometry t.xc false = .ok () ∧ xSeed t t.xc false = .ok (0, none) ∧
      ∃ r, s.moveRanges s.cur t t.xc (decide (st ≠ [])) false = .ok r) ∧
    (let t := copyTask rowCfg [];
      let s := ready.setTask 0 t;
      s.EngineRuns t .x ∧ t.xc.armed = none ∧ s.wPriv t = true ∧ spacesOk t.xc false true t.rs.rc.commit = .ok () ∧ xGeometry t.xc true = .ok () ∧
      xSeed t t.xc false = .ok (0, none) ∧ ∃ r, s.moveRanges s.cur t t.xc false true = .ok r) ∧
    ((on (copyTask rowCfg [])).EngineRuns (copyTask rowCfg []) .x ∧ (on (copyTask rowCfg [])).wPriv (copyTask rowCfg []) = false) := by
  refine ⟨?_, ⟨live_ready.engineRuns _ _ rfl rfl rfl rfl, rfl, by decide +kernel, ok_of (by decide +kernel), ok_of (by decide +kernel), rfl,
    ok_exists (by decide +kernel)⟩, live_base.engineRuns _ _ rfl rfl rfl rfl, by decide +kernel⟩
  intro st h
  simp only [List.mem_cons, List.not_mem_nil, or_false] at h
  rcases h with rfl | rfl <;> exact ⟨live_ready.engineRuns _ _ rfl rfl rfl rfl, rfl, rfl, by decide, ok_of (by decide +kernel),
    ok_of (by decide +kernel), rfl, ok_exists (by decide +kernel)⟩

/-- A front of one key, minimised, of capacity 1, under each policy. -/
def front (policy : Nat) : PCfg := { cfg := BitVec.ofNat 64 (2 ^ 16 + policy * 2 ^ 38), spill := some (0x2000, 4) }
def frontTask (p : PCfg) (st : List Word64) : Task := { task0 with pStack := st, pcfg := p }

/-- FrontWords: the words on a front of policy 2, and an image of no tuple at offset 0x1000. -/
theorem hyp_FrontWords :
    (∀ st : List Word64, (on (frontTask (front 2) st)).EngineRuns (frontTask (front 2) st) .p ∧ (frontTask (front 2) st).pStack = st ∧
      (frontTask (front 2) st).cmds = []) ∧
    pChecks (frontTask (front 2) []) (front 2) = .ok () ∧ checkRing (front 2) = .ok () ∧
    (0x1000 : Word64).toNat + max 1 (65535 * 0) ≤ 0x70000 ∧
    (let t := frontTask (front 2) [0x1000];
      let s := (base.writePa 0x1000 (bytesOf 8 (0xA7000000 + 0xA7000000 * 2 ^ 32))).setTask 0 t;
      s.EngineRuns t .p ∧ (front 2).active ≠ 0 ∧ imageChecks s s.cur t (front 2) (0x1000 : Word64).toNat = .ok () ∧
      ∃ r, readImage s s.cur t (front 2) (0x1000 : Word64).toNat true = .ok r) ∧
    (let t := frontTask (front 2) [0x1000];
      t.front.tuples = [] ∧ t.blocked ((on t).cur.val * 2 ^ 20 + 0x1000) 8 true = false ∧ Memory.wf (on t).mem = true ∧ t.nt = [] ∧
      ∀ g ∈ granules ((on t).cur.val * 2 ^ 20 + 0x1000) 8 ++ (on t).sideGranules ((on t).cur.val * 2 ^ 20 + 0x1000) 8,
        (((on t).stampOf g t.rs.rc.job t.gen).touch t.slot none .write).isSome = true) := by
  refine ⟨fun st => ⟨live_base.engineRuns _ _ rfl rfl rfl rfl, rfl, rfl⟩, ok_of (by decide +kernel), ok_of (by decide +kernel), by decide,
    ⟨Live.engineRuns (by unfold Live; decide +kernel) _ _ rfl rfl rfl rfl, by decide, ok_of (by decide +kernel), ok_exists (by decide +kernel)⟩,
    rfl, by decide +kernel, by decide +kernel, rfl, by decide +kernel⟩

/-- A session of the seal port, and a job that holds its key. -/
def session : Session := ⟨3, 0x10005, 0, 0, 0, ShaState.init, 0, false⟩
def sealTask (st : List Word64) (open_ : Bool) : Task := { task0 with sStack := st, sessions := if open_ then [session] else [] }
def keyed : State := { base with jobs := [{ loadJob with args := { loadArgs with keys := [⟨5, 1, 0⟩] } }] }
theorem live_keyed : Live keyed := by unfold Live; decide +kernel

/-- StackAndQueryWords, SealWords: number 3 open, 5 closed, 4 never opened; no handle of the job; under COMMIT the same. -/
def mixed : Task := { sealTask [] true with closed := [(5, 1)] }
theorem hyp_SealWords_numbers : (∀ t ∈ [mixed, commitTask mixed],
      (∃ x ∈ t.sessions, x.num = 3) ∧ (∃ e ∈ t.closed, e.1 = 5) ∧ (∀ x ∈ t.sessions, x.num ≠ 4) ∧ (∀ e ∈ t.closed, e.1 ≠ 4) ∧
      (t.sessions.filter fun x => !x.closing) = [session] ∧
      t.sessions.find? (fun x => decide (x.num = 3) && !x.closing) = some session) ∧
    (on mixed).EngineRuns mixed .s ∧ (on (commitTask mixed)).running = some (commitTask mixed) ∧ (commitTask mixed).holds .s = false ∧
    (((keyed.jobOf 0).map fun j => j.args.keys).getD []).all (fun k => decide ((7 : Word64).toNat ≠ k.slot.toNat + 2 ^ 16 * k.gen.toNat)) = true := by
  refine ⟨?_, live_base.engineRuns _ _ rfl rfl rfl rfl, live_base.running _ rfl rfl, rfl, by decide +kernel⟩
  intro t h
  simp only [List.mem_cons, List.not_mem_nil, or_false] at h
  rcases h with rfl | rfl <;> exact ⟨⟨session, List.mem_singleton.mpr rfl, rfl⟩, ⟨(5, 1), List.mem_singleton.mpr rfl, rfl⟩,
    fun x h => by cases List.mem_singleton.mp h; decide, fun e h => by cases List.mem_singleton.mp h; decide, rfl, rfl⟩

/-- SealWords: a task under COMMIT; a free session number and a key of the job; an open session, and none. -/
theorem hyp_SealWords :
    (let t := commitTask (sealTask [1] false);
      (on t).running = some t ∧ (on t).Sound (on t).cur ∧ t.holds .s = false ∧ t.rs.rc.commit = true ∧ t.sStack ≠ [] ∧ t.metas.length < 8) ∧
    (let t := sealTask [0x10005, 0] false;
      let s := keyed.setTask 0 t;
      s.EngineRuns t .s ∧ t.sStack = 0x10005 :: 0 :: [] ∧ (0x0C : BitVec 8).extractLsb' 0 2 = (0 : BitVec 2) ∧ t.sessions = [] ∧
      (∃ k ∈ ((s.jobOf t.rs.rc.job).map fun j => j.args.keys).getD [],
        (0x10005 : Word64).toNat = k.slot.toNat + 2 ^ 16 * k.gen.toNat ∧ k.alg = 0) ∧
      s.liveSessions (clusterOf s.cur) < 64) ∧
    (let t := sealTask [0x401000, 16] true;
      (on t).EngineRuns t .s ∧ t.sessions.find? (fun x => decide (x.num = 3) && !x.closing) = some session ∧ t.sStack = 0x401000 :: 16 :: [] ∧
      (16 : Word64).toNat ≤ 2 ^ 24 ∧ session.count + t.pendingAbs 3 + (16 : Word64).toNat < 2 ^ 48 ∧
      (∃ r, sealRange (on t) (on t).cur t 0x401000 16 false = .ok r) ∧ 0x401000 % 256 = 0 ∧
      (∃ r, sealRange (on t) (on t).cur t 0x401000 256 true = .ok r) ∧ (0x401000 : Word64).toNat < 2 ^ 24 ∧
      t.sessions.find? (fun x => decide (x.num = 4) && !x.closing) = none) := by
  refine ⟨⟨live_base.running _ rfl rfl, on_sound _, rfl, rfl, by decide, by decide⟩,
    ⟨live_keyed.engineRuns _ _ rfl rfl rfl rfl, rfl, by decide, rfl, ⟨⟨5, 1, 0⟩, by decide +kernel, by decide, rfl⟩, by decide +kernel⟩,
    live_base.engineRuns _ _ rfl rfl rfl rfl, rfl, rfl, by decide, by decide +kernel, ok_exists (by decide +kernel), by decide,
    ok_exists (by decide +kernel), by decide, rfl⟩

end Tests

end Sys2Proof
end

