-- ==== Sys2Proof/Tests/EventWitness.lean ====
section
/-!
SUPPORT. Tests/EventWitness.lean: for the statements about commands and events, states and operands that meet the hypotheses
of each clause.
-/

namespace Sys2Proof

namespace Tests

open Sys2Proof.Machine

set_option Elab.async false

/-- Command 7 of an engine, of a kind. -/
def cmd (e : Eng) (k : CmdKind) : Cmd := ⟨7, 0x400000, e, 3, 0, [], [], [], k⟩
def running (e : Eng) (k : CmdKind) : Task := { task0 with cmds := [cmd e k] }

theorem Live.works {s : State} (l : Live s) (t : Task) (q : Cmd) (h : t.wait = .none) (hq : t.cmds = [q]) :
    (s.setTask 0 t).Works 0 t q := by
  have hs : (s.setTask 0 t).Sound 0 := by
    have := l.sound t
    rwa [show (s.setTask 0 t).cur = 0 from l.1] at this
  exact ⟨l.engineTask t h, by rw [hq]; simp, by unfold Task.ready; rw [hq]; simp, hs⟩

theorem works (e : Eng) (k : CmdKind) : (on (running e k)).Works 0 (running e k) (cmd e k) :=
  live_base.works _ _ rfl rfl

/-- A product of three blocks of K in its only step, at the second of them. -/
def wideA : Stream := { rowStream with cols := 96, pitch := 96 }
def wideB : Stream := { Stream.zero with desc := 0x0A, base := 0x2000, rows := 96, cols := 1, pitch := 1 }
def wideNest : Vector NestLevel 6 := task0.m.nest.set 0 ⟨3, 32, 32, 0⟩
def inside : MGoProg := { MGoProg.zero with
  started := true, blk := 1, visited := [0], inUse := some 0, rowP := List.replicate 64 0, colP := List.replicate 64 0 }
def walk (p : MGoProg) : CmdKind := .mGo wideA wideB wideNest 0 false false 16 p

/-- MatrixCommandsRun: m.zero, a walk that has finished, one inside its step. -/
theorem hyp_MatrixCommandsRun_walk :
    (on (running .m (.mZero 7))).Works 0 (running .m (.mZero 7)) (cmd .m (.mZero 7)) ∧ (cmd .m (.mZero 7)).eng = .m ∧
    (let p := { MGoProg.zero with finished := true };
      (on (running .m (walk p))).Works 0 (running .m (walk p)) (cmd .m (walk p)) ∧ p.finished = true) ∧
    ((on (running .m (walk inside))).Works 0 (running .m (walk inside)) (cmd .m (walk inside)) ∧ inside.started = true ∧
      inside.finished = false ∧ inside.blk ≠ 0 ∧ inside.blk + 1 < nestBlocks wideNest ∧
      ∃ r, readBlock 0 (on (running .m (walk inside))) (running .m (walk inside)) wideA wideB wideNest false inside = .ok r) :=
  ⟨works _ _, rfl, ⟨works _ _, rfl⟩, works _ _, rfl, rfl, by decide, by decide +kernel, ok_exists (by decide +kernel)⟩

/-- A STALE tile of zeros at offset 0x1000 of the scratchpad. -/
def tiles : State := { base with tiles := [(0x1000, ⟨0x08, true, false⟩)] }
theorem live_tiles : Live tiles := by unfold Live; decide +kernel

/-- MatrixCommandsRun: m.load and m.store of tiles of zeros. -/
theorem hyp_MatrixCommandsRun_load : let t := running .m (.mLoad 0x1000 5 true 16);
    let q := cmd .m (.mLoad 0x1000 5 true 16);
    let s := tiles.setTask 0 t;
    s.Works 0 t q ∧ s.loadTile 0 0x1000 = .ok ⟨0x08, true, false⟩ ∧
    ∃ s1 t1 s2 bs, s.verifySpad 0 t 0x1000 ⟨0x08, true, false⟩ true 16 = .ok (s1, t1) ∧ (s1.setTask 0 t1).Works 0 t1 q ∧
      (s1.setTask 0 t1).loadTile 0 0x1000 = .ok ⟨0x08, false, false⟩ ∧
      (s1.setTask 0 t1).readSpad 0 t1 0x1000 (tileSize 0x08 + 512) = .ok (s2, bs) := by
  refine ⟨live_tiles.works _ _ rfl rfl, ok_of (by decide +kernel), ?_⟩
  have h : (match (tiles.setTask 0 (running .m (.mLoad 0x1000 5 true 16))).verifySpad 0 (running .m (.mLoad 0x1000 5 true 16)) 0x1000
      ⟨0x08, true, false⟩ true 16 with
    | .ok r => decide (r.1.cur = 0 ∧ (r.1.core 0).frozen = false ∧ (r.1.dies[(dieOf 0).val]).frozen = false ∧
        (r.1.core 0).status = .running ∧ (r.1.core 0).pairFault = false ∧ (r.1.core 0).laneFault = none) &&
        decide (r.2.wait = .none ∧ r.2.cmds = [cmd .m (.mLoad 0x1000 5 true 16)]) &&
        (match (r.1.setTask 0 r.2).loadTile 0 0x1000 with | .ok tl => decide (tl = ⟨0x08, false, false⟩) | .error _ => false) &&
        (match (r.1.setTask 0 r.2).readSpad 0 r.2 0x1000 (tileSize 0x08 + 512) with | .ok _ => true | .error _ => false)
    | .error _ => false) = true := by decide +kernel
  split at h
  · rename_i r e
    obtain ⟨s1, t1⟩ := r
    simp only [Bool.and_eq_true, decide_eq_true_eq] at h
    obtain ⟨⟨⟨hl, hw, hc⟩, ht⟩, hr⟩ := h
    have l : Live s1 := hl
    have w := l.works t1 _ hw hc
    split at ht
    · rename_i tl et
      split at hr
      · rename_i x ex
        exact ⟨s1, t1, x.1, x.2, e, w, by rw [et, of_decide_eq_true ht], ex⟩
      · cases hr
    · cases ht
  · cases h

theorem hyp_MatrixCommandsRun_store : let t := running .m (.mStore 0x2000 5 0x0A 0 none true);
    let s := on t;
    let zt := t.z[(5 : ZReg).val];
    let es := zt.data.zipIdx.map fun e => cvtElem (0x0A : BitVec 5).toNat (storeMode 0 none (e.2 % 64)) (scaledValue zt e.1) 0 0 false;
    let rows := (List.range 64).map fun i => ((es.drop (64 * i)).take 64).map CvtElem.bits;
    s.Works 0 t (cmd .m (.mStore 0x2000 5 0x0A 0 none true)) ∧ zt.poison = false ∧
    judgeTile (if zt.typ = .fp32 then 0x00 else 0x08) (zRows zt.data) (zt.rowW.map BitVec.toNat) (zt.colW.map BitVec.toNat)
      true false 0 = .pass ∧
    ∃ r, s.writeSpad 0 t 0x2000 (packTile 0x0A rows ++ sidebandOf 0x0A rows) true = .ok r :=
  ⟨works _ _, rfl, by decide +kernel, ok_exists (by decide +kernel)⟩

end Tests

end Sys2Proof
end

