-- ==== Sys2Proof/Tests/CommandWitness.lean ====
section
/-!
SUPPORT. Tests/CommandWitness.lean: for the statements about copies, the front, the seal port, waits, pre-emption, the
junction and traps, states and operands that meet the hypotheses of each clause.
-/

namespace Sys2Proof

namespace Tests

open Sys2Proof.Machine

set_option Elab.async false

/-! ### Commands of the copy engine, the front and the seal port -/

/-- A copy of 512 bytes inside the scratchpad, a fill of it, a row to the weight tier, at their states of progress. -/
def plain : XCfg := { XCfg.zero with dbase := 0x1000, len := 512, rows := 1 }
def prog (cfg : XCfg) (fill : Option Word64) (begun : Bool) (next : Nat) : XCmd :=
  ⟨cfg, fill, true, none, 0, begun, next, false, false, none, none, 0, none, 0, none, none, 0⟩
def sent (cfg : XCfg) : XCmd := { prog cfg none true 512 with sent := true }
def moving (x : XCmd) : Task := running .x (.xMove x)

def fills (x : XCmd) (pat : Word64) : List Byte :=
  (List.range (x.stop - x.next)).map fun i => BitVec.ofNat 8 (pat.toNat / 2 ^ (8 * ((x.next + i) % x.cfg.len % 8)))

/-- CopyCommandsRun: a chunk of a copy. -/
theorem hyp_CopyCommandsRun_chunk : let x := prog plain none true 0;
    let t := moving x;
    (on t).Works 0 t (cmd .x (.xMove x)) ∧ (cmd .x (.xMove x)).eng = .x ∧ x.cfg.dspace ≠ .remote ∧ x.next < x.total ∧ x.begun = true ∧
    x.tileCopy = false ∧ ∃ r w, readRuns 0 t (cmd .x (.xMove x)).pages x.cfg.sspace (decide (x.cfg.ck ≠ .none) ||
           (cmd .x (.xMove x)).writesHost) (x.srcRuns x.next x.stop) (on t) = .ok r ∧
      writeRuns 0 (cmd .x (.xMove x)).pages x.cfg.dspace x.next r.bytes r.marks (x.dstRuns x.next x.stop) r.st t = .ok w := by
  refine ⟨works _ _, rfl, by decide, by decide, rfl, rfl, ?_⟩
  have h : (match readRuns 0 (moving (prog plain none true 0)) [] .spad false ((prog plain none true 0).srcRuns 0 (prog plain none true 0).stop)
      (on (moving (prog plain none true 0))) with
    | .ok r => (match writeRuns 0 [] .spad 0 r.bytes r.marks ((prog plain none true 0).dstRuns 0 (prog plain none true 0).stop) r.st
        (moving (prog plain none true 0)) with | .ok _ => true | .error _ => false)
    | .error _ => false) = true := by decide +kernel
  split at h
  · rename_i r e
    split at h
    · rename_i w e'
      exact ⟨r, w, e, e'⟩
    · cases h
  · cases h

/-- CopyCommandsRun: a chunk of a fill with the bytes 5A. -/
theorem hyp_CopyCommandsRun_fill : let x := prog plain (some 0x5A) true 0;
    let t := moving x;
    (on t).Works 0 t (cmd .x (.xMove x)) ∧ x.cfg.dspace ≠ .remote ∧ x.next < x.total ∧ x.begun = true ∧ x.tileCopy = false ∧
    x.fill = some 0x5A ∧ ∃ w, writeRuns 0 [] x.cfg.dspace x.next (fills x 0x5A) [] (x.dstRuns x.next x.stop) (on t) t = .ok w :=
  ⟨works _ _, by decide, by decide, rfl, rfl, rfl, ok_exists (r := writeRuns 0 [] .spad 0 (fills (prog plain (some 0x5A) true 0) 0x5A) []
      ((prog plain (some 0x5A) true 0).dstRuns 0 (prog plain (some 0x5A) true 0).stop)
      (on (moving (prog plain (some 0x5A) true 0))) (moving (prog plain (some 0x5A) true 0))) (by decide +kernel)⟩

/-- CopyCommandsRun: a row compared, a source without tiles, the completions, a row that differs. -/
theorem hyp_CopyCommandsRun_rows :
    (let x := prog rowCfg none true 0;
      let t := running .x (.xVerify x);
      (on t).Works 0 t (cmd .x (.xVerify x)) ∧ x.next < x.total ∧ ∃ r, (on t).readSpad 0 t (x.cfg.sbase + x.next) 4096 = .ok r) ∧
    (let x := prog rowCfg none false 0;
      let t := running .x (.xProg x);
      (on t).Works 0 t (cmd .x (.xProg x)) ∧ x.begun = false ∧ (on t).rangeTiles 0 x.cfg.sbase x.cfg.len = []) ∧
    ((on (moving (sent plain))).Works 0 (moving (sent plain)) (cmd .x (.xMove (sent plain))) ∧ (sent plain).total ≤ (sent plain).next ∧
      (sent plain).sent = true ∧ (sent plain).cfg.armed = none) ∧
    (let x := { sent { plain with dspace := .remote } with outcome := some (0, 0) };
      (on (moving x)).Works 0 (moving x) (cmd .x (.xMove x)) ∧ x.cfg.dspace = .remote ∧ x.outcome = some (0, 0)) ∧
    (let x := prog rowCfg none true 4096;
      (on (running .x (.xProg x))).Works 0 (running .x (.xProg x)) (cmd .x (.xProg x)) ∧
      (on (running .x (.xVerify x))).Works 0 (running .x (.xVerify x)) (cmd .x (.xVerify x)) ∧ x.total ≤ x.next ∧ x.firstDiffer = none ∧
      x.begun = true ∧ x.cfg.armed = none) ∧
    (let x := { prog rowCfg none true 4096 with differ := 1, firstDiffer := some 0x1200 };
      (on (running .x (.xVerify x))).Works 0 (running .x (.xVerify x)) (cmd .x (.xVerify x)) ∧ x.firstDiffer = some 0x1200) ∧
    (∀ cfg ∈ [plain, { plain with dspace := .remote }], let x := { sent { cfg with armed := some 5 } with outcome := some (1, 0) };
      (on (moving x)).Works 0 (moving x) (cmd .x (.xMove x)) ∧ x.total ≤ x.next ∧ x.sent = true ∧
      x.outcome.any (fun o => decide (o.1 = 1)) = true ∧ x.cfg.armed = some 5 ∧ 5 ≠ x.value) ∧
    (let x := prog { rowCfg with armed := some 5 } none true 4096;
      (on (running .x (.xProg x))).Works 0 (running .x (.xProg x)) (cmd .x (.xProg x)) ∧
      (on (running .x (.xVerify x))).Works 0 (running .x (.xVerify x)) (cmd .x (.xVerify x)) ∧ x.total ≤ x.next ∧
      x.cfg.armed = some 5 ∧ 5 ≠ x.value) :=
  ⟨⟨works _ _, by decide, ok_exists (by decide +kernel)⟩, ⟨works _ _, rfl, by decide +kernel⟩,
    ⟨works _ _, by decide, rfl, rfl⟩, ⟨works _ _, rfl, rfl⟩, ⟨works _ _, works _ _, by decide, rfl, rfl, rfl⟩, ⟨works _ _, rfl⟩,
    ⟨fun cfg h => by
      simp only [List.mem_cons, List.not_mem_nil, or_false] at h
      rcases h with rfl | rfl <;> exact ⟨works _ _, by decide, rfl, rfl, rfl, by decide⟩, works _ _, works _ _, by decide, rfl, by decide⟩⟩

/-- FrontAndSealCommandsRun: a record that is dominated, equal, kept, and that meets a full front under each policy. -/
def arrival (policy key : Nat) : Task := { task0 with
  cmds := [cmd .p (.pIns 0x1000 1 0 { cfg := BitVec.ofNat 64 (2 ^ 16 + policy * 2 ^ 38 + 2 ^ 40), spill := none } Front.empty)]
  front := { Front.empty with tuples := [⟨[BitVec.ofNat 32 key], 0⟩], shape := some (1, 0) } }
theorem hyp_FrontCommandsRun : ∀ policy ∈ [0, 1, 2, 3],
    let t := arrival policy 5;
    let p : PCfg := { cfg := BitVec.ofNat 64 (2 ^ 16 + policy * 2 ^ 38 + 2 ^ 40), spill := none };
    (on t).engineTask 0 = some t ∧
    t.cmds.find? (fun x => decide (x.eng = .p)) = some (cmd .p (.pIns 0x1000 1 0 p Front.empty)) ∧
    t.ready (cmd .p (.pIns 0x1000 1 0 p Front.empty)) = true ∧ (∃ r, (on t).readSpad 0 t (0x1000 + 0 * p.recBytes) p.recBytes = .ok r) ∧
    p.policy = policy ∧ p.dup = true ∧ p.cap = 1 ∧
    (p.dominates ⟨[1], 0⟩ ⟨[2], 0⟩ = true ∧ p.same ⟨[1], 0⟩ ⟨[1], 7⟩ = true ∧ p.dominates ⟨[2], 0⟩ ⟨[1], 0⟩ = false) := by
  intro policy h
  simp only [List.mem_cons, List.not_mem_nil, or_false] at h
  rcases h with rfl | rfl | rfl | rfl <;> exact ⟨live_base.engineTask _ rfl, by decide +kernel, by decide +kernel, ok_exists (by decide +kernel),
    by decide, by decide, by decide, by decide, by decide, by decide⟩

/-- FrontAndSealCommandsRun: a full front that an arrival neither meets below nor equals, under each policy, with a spill
ring; an image of one tuple, and of none, for P.MERGE. -/
def fullCfg (policy : Nat) : PCfg := { cfg := BitVec.ofNat 64 (2 ^ 16 + policy * 2 ^ 38), spill := some (0x3000, 4) }
def meets0 : Front := { Front.empty with tuples := [⟨[0], 7⟩], shape := some (1, 0) }
def mergeTask (todo : Option (List Tuple)) : Task :=
  { task0 with cmds := [cmd .p (.pMerge 0x1000 todo (fullCfg 2) Front.empty)], front := meets0 }
def withImage (l : List Tuple) : State := base.writePa (spadPa 0 0x1000) (imageBytes l 1 0)
theorem hyp_FrontCommandsRun_full : (∀ policy ∈ [0, 1, 2, 3], let p := fullCfg policy;
      p.policy = policy ∧ (meets0.tuples.any fun h => p.dominates h ⟨[0], 0⟩) = false ∧ p.dup = false ∧
      (meets0.tuples.filter fun h => !p.dominates ⟨[0], 0⟩ h).length = p.cap ∧ p.spill = some (0x3000, 4)) ∧
    (match (on (mergeTask none)).readSpad 0 (mergeTask none) 0x3000 4 with
      | .ok r => (match r.1.writeSpad 0 (mergeTask none) 0x3008 (List.replicate 8 0) true with
        | .ok w => (match w.1.writeSpad 0 w.2 0x3000 (List.replicate 8 0) true with | .ok _ => true | .error _ => false)
        | .error _ => false)
      | .error _ => false) = true ∧ (∀ t, (on t).Sound 0) :=
  ⟨by decide, by decide +kernel, fun t => by have := on_sound t; rwa [show (on t).cur = 0 from live_base.1] at this⟩
theorem hyp_FrontCommandsRun_merge : ∀ l ∈ [[], [(⟨[5], 9⟩ : Tuple)]],
    (match readImage (withImage l) 0 (mergeTask none) (fullCfg 2) 0x1000 false with
      | .ok r => decide (r.2 = l) | .error _ => false) = true := by decide +kernel

/-- One page that a seal command has translated. -/
def page : PageUse := ⟨0, false, 0x400000, 0x10000, 0x1000400000, false, 0, 7⟩
def sealing (k : CmdKind) : Task := { task0 with sessions := [session], cmds := [{ cmd .s k with pages := [page] }] }
theorem hyp_SealCommandsRun :
    (∀ k : CmdKind, (on (sealing k)).sealTask 0 = some (sealing k) ∧
      (sealing k).cmds.find? (fun x => decide (x.seq = 7)) = some { cmd .s k with pages := [page] } ∧
      (sealing k).ready { cmd .s k with pages := [page] } = true ∧
      (sealing k).sessions.find? (fun y => decide (y.num = 3)) = some session) ∧
    (∃ r, readRuns 0 (sealing (.sAbs 3 0x401000 16 0 0 ShaState.init)) [page] .dspace true (cutRuns [⟨0, 0x401000 + 0, 16 - 0⟩])
      (on (sealing (.sAbs 3 0x401000 16 0 0 ShaState.init))) = .ok r) := by
  refine ⟨fun k => ⟨?_, by simp [sealing, cmd], by simp [sealing, Task.ready, cmd], rfl⟩, ok_exists (by decide +kernel)⟩
  unfold State.sealTask
  have e : (on (sealing k)).setCore 0 (fun k => { k with frozen := false }) =
      (base.setCore 0 fun k => { k with frozen := false }).setTask 0 (sealing k) := by
    unfold on State.setTask State.setCore
    simp
  rw [e]
  exact Live.engineTask (by unfold Live; decide +kernel) _ rfl

/-- A record can be written wherever its bytes go, whatever they are. -/
theorem hyp_SealCommandsRun_record : ∀ bs : List Byte, bs.length = 256 →
    (match writeRuns 0 [page] .dspace 0 (List.replicate 256 0) [] (cutRuns [⟨0, 0x401000, 256⟩]) (on (sealing (.sFin 3 0x401000 [])))
      (sealing (.sFin 3 0x401000 [])) with | .ok _ => true | .error _ => false) = true := by
  intro _ _
  decide +kernel

/-! ### Waits, tests, pre-emption -/

def waiting (n : Word32) : Task := { task0 with wait := .waitc 15 0, cc := task0.cc.set 15 n }
/-- WaitsFreezesAndTests: a wait just met and one not, waiting words, a path past its limit, a frozen core, faults. -/
theorem hyp_WaitsFreezesAndTests :
    (∀ n : Word32, (on (waiting n)).engineTask 0 = some (waiting n) ∧ (waiting n).wait = .waitc 15 0 ∧ (on (waiting n)).Sound 0) ∧
    ((0x7FFFFFFF : Word32) - 0).toNat < 2 ^ 31 ∧
    (∀ k ∈ [CmdKind.mWaitc 0 0, .xWaitc 0 0], (running .m k).cmds.find? (fun p => decide (p.seq = (cmd .m k).seq)) = some (cmd .m k) ∧
      (on (running .m k)).engineTask 0 = some (running .m k)) ∧
    (let t := { task0 with dist := 4096 };
      (on t).engineTask 0 = some t ∧ t.wait = .none ∧ (on t).fetchParcel 0 t t.pc.toNat = .ok 0 ∧ t.limit < t.dist + headParcels 0) ∧
    ((on task0).core 0).status ≠ .mate ∧ (((on task0).setFrozen 0 true).core 0).frozen = true ∧
    (on task0).engineTask ((on task0).hostOf 0) = some task0 ∧ ((on task0).taskOf 0) = some task0 ∧ task0.rs.rc.paired = false ∧
    (let s := base.setCore 9 fun k => { k with waketest := 3, withdrawn := true };
      (s.core 9).status = .idle ∧ (s.core 9).waketest.getLsbD 0 = true) := by
  have hs : (on task0).core 0 = { base.core 0 with task := some task0 } := core_setTask _ _ _
  have r : (base.core 0).status = .running := by decide +kernel
  refine ⟨fun n => ⟨?_, rfl, by have := on_sound (waiting n); rwa [show (on (waiting n)).cur = 0 from live_base.1] at this⟩, by decide, ?_,
    ⟨live_base.engineTask _ rfl, rfl, ok_of (by decide +kernel), by decide⟩, ?_, by decide +kernel, ?_, ?_, rfl, by decide +kernel⟩
  · obtain ⟨_, hf, hd, hs, _⟩ := live_base
    unfold State.engineTask on
    simp only [show (base.setTask 0 (waiting n)).dies = base.dies from rfl, core_setTask]
    simp [hf, hd, hs, waiting]
  · intro k hk
    simp only [List.mem_cons, List.not_mem_nil, or_false] at hk
    rcases hk with rfl | rfl <;> exact ⟨by simp [running, cmd], live_base.engineTask _ rfl⟩
  · rw [hs, show ({ base.core 0 with task := some task0 } : Core).status = (base.core 0).status from rfl, r]
    exact fun h => CoreStatus.noConfusion h
  · rw [show (on task0).hostOf 0 = 0 by decide +kernel]
    exact live_base.engineTask _ rfl
  · show ((on task0).core 0).task = _
    rw [hs]

/-- WaitsFreezesAndTests: a lane-test fault that waits for an instruction of M, and one with a command of M before it; a wake
that is not tested. -/
def laneState (t : Task) : State := (base.setCore 0 fun k => { k with laneFault := some (true, 5) }).setTask 0 t
theorem hyp_WaitsFreezesAndTests_lane :
    ((laneState task0).cur = 0 ∧ ∃ t, (laneState task0).running = some t ∧ ((laneState task0).core 0).laneFault = some (true, 5)) ∧
    (∀ q ∈ task0.cmds, q.eng ≠ .m) ∧
    ((running .m (.mWaitc 0 0)).cmds.find? fun q => decide (q.eng = .m)) = some (cmd .m (.mWaitc 0 0)) ∧
    (let s := base.setCore 9 fun k => { k with wakeOut := true };
      (s.core 9).status = .idle ∧ (s.core 9).waketest.getLsbD 0 = false) := by
  refine ⟨⟨by decide +kernel, some_and⟩, by decide, rfl, by decide +kernel⟩
where
  some_and : ∃ t, (laneState task0).running = some t ∧ ((laneState task0).core 0).laneFault = some (true, 5) := by
    obtain ⟨t, h⟩ := some_of (o := (laneState task0).running) (by decide +kernel)
    exact ⟨t, h, by decide +kernel⟩

/-- PreemptionAndResume: a running task, one that parks with room and without, a parked context at home. -/
def parkingTask : Task := { task0 with wait := .parking }
def away : Parked := ⟨0, some 0, 64, false, none, 0, [], task0.masks, none, true, task0⟩
def fullBy (n : Nat) : State := base.setCluster 0 fun k => { k with parked := List.replicate n away }
def parking (n : Nat) : State := (fullBy n).setCore 0 fun k => { k with preempt := true, task := some parkingTask }
def homeAgain : State := (fullBy 1).setCore 0 fun k => { k with status := .idle, task := none }
theorem turnOf_one (s : State) (k : ClusterId) (x : Turn) : s.turnOf k [x] = some x := by
  unfold State.turnOf topLevel nextKey oldest
  simp only [List.foldl_cons, List.foldl_nil, Nat.zero_max, decide_true, List.filter_cons_of_pos, List.filter_nil]
  generalize (s.clusters[k.val]).served[x.rc.level.toNat % 4]'(Nat.mod_lt _ (by decide)) = o
  cases o with
  | none => simp
  | some y => cases h : keyBelow y x.key <;> simp [h]
theorem homeAgain_turns : homeAgain.turns 0 = [.back 0 away] := by
  have h : ((homeAgain.clusters[(0 : ClusterId).val]).recs.filter fun r => r.ready.isSome && homeAgain.born r) = [] :=
    List.isEmpty_iff.mp (by decide +kernel)
  have p : (homeAgain.clusters[(0 : ClusterId).val]).parked = [away] := by
    show ((base.clusters.set 0 _)[0]).parked = _
    rw [Vector.getElem_set_self]
    rfl
  unfold State.turns
  rw [h, p]
  rfl
theorem hyp_PreemptionAndResume_turn : homeAgain.nextTurn 0 = some (.back 0 away) ∧ clusterOf 0 = 0 := by
  refine ⟨?_, by decide⟩
  unfold State.nextTurn
  rw [show (homeAgain.clusters[(0 : ClusterId).val]).gang = none by decide +kernel, homeAgain_turns]
  simp only [show (homeAgain.freeCores 0).isEmpty = false by decide +kernel, Bool.false_eq_true, if_false,
    List.filter_cons_of_pos (show homeAgain.suits 0 (.back 0 away) = true by decide +kernel), List.filter_nil, turnOf_one]
def gone : Parked := { away with home := none, sealed := some 4 }
theorem hyp_PreemptionAndResume :
    (task0.rs.rc.gang = false ∧ task0.rs.rc.paired = false ∧ task0.wait = .none ∧ (on task0).taskOf 0 = some task0) ∧
    (∀ n ∈ [0, 4], (parking n).engineTask 0 = none ∧ ((parking n).core 0).frozen = false ∧ ((parking n).dies[(dieOf 0).val]).frozen = false ∧
      ((parking n).core 0).status = .running ∧ ((parking n).core 0).preempt = true ∧ parkingTask.sessions = [] ∧
      (parking n).fits 0 (parkingTask.contextSize parkingTask.masks false 0) = decide (n = 0)) ∧
    (let s := homeAgain;
      (s.clusters[(clusterOf 0).val]).parked[0]? = some away ∧ s.mayResumeAll (clusterOf 0) [away] = true ∧
      (s.clusters[(clusterOf 0).val]).gang = none ∧ away.spad = none ∧
      task0.cancel = false ∧ task0.debugEv = false) ∧
    (let s := base.setCluster 0 fun k => { k with parked := [gone] };
      (s.clusters[(clusterOf 0).val]).parked[0]? = some gone ∧ gone.home = none ∧ s.fits 0 gone.size = true ∧
      gone.sealed = some 4 ∧ gone.intact = true ∧ { gone with intact := false }.intact = false) := by
  have h : (on task0).taskOf 0 = some task0 := by
    show ((on task0).core 0).task = _
    rw [show (on task0).core 0 = _ from core_setTask _ _ _]
  refine ⟨⟨rfl, rfl, rfl, h⟩, ?_, ⟨?_, by decide +kernel, by decide +kernel, rfl, rfl, rfl⟩,
    ?_, rfl, by decide +kernel, rfl, rfl, rfl⟩
  · intro n hn
    simp only [List.mem_cons, List.not_mem_nil, or_false] at hn
    rcases hn with rfl | rfl <;> refine ⟨Option.isNone_iff_eq_none.mp (by decide +kernel), by decide +kernel, by decide +kernel, by decide +kernel,
      by decide +kernel, rfl, by decide +kernel⟩
  · show ((base.clusters.set 0 _)[0]).parked[0]? = _
    rw [Vector.getElem_set_self]
    rfl
  · show ((base.clusters.set 0 _)[0]).parked[0]? = _
    rw [Vector.getElem_set_self]
    rfl

/-! ### The junction, atomics and traps -/

/-- DispatchAndStaging: a ready record and a free core; a chosen record without inputs, with one, and staged. -/
def stored : State := base.setCluster 1 fun k => { k with recs := [{ loadRec with slot := 5, ready := some 0 }] }
def chosen (r : RecSlot) (staged : Bool) : State := base.setCore 8 fun k => { k with status := .chosen r staged none }
def withInput : RecSlot := { loadRec with ins := [⟨0x401000, 0x2000, 64⟩] }
theorem hyp_DispatchAndStaging :
    ((stored.clusters[(1 : ClusterId).val]).gang = none ∧
      (∃ r, stored.nextTurn 1 = some (.fresh r) ∧ r.rc.gang = false ∧
        r.rc.paired = false) ∧ clusterOf 8 = 1 ∧ stored.offered 8 = true) ∧
    ((chosen loadRec false).core 8).status = .chosen loadRec false none ∧ loadRec.ins = [] ∧
    (((chosen withInput false).core 8).status = .chosen withInput false none ∧
      ∃ s1 x, State.stageSource 8 withInput.rc.job (piecesOf 0x401000 64) (chosen withInput false) = .ok (s1, x) ∧
        s1.stageTile ⟨0x401000, 0x2000, 64⟩ x = none ∧ x.marks = []) ∧
    (((chosen loadRec true).core 8).status = .chosen loadRec true none ∧ (chosen loadRec true).residOk 8 (0 : Fin 7).val = true ∧
      loadRec.rc.hasbgen = true ∧ ∃ x, (chosen loadRec true).advanceGen loadRec.rc.job = some x) := by
  refine ⟨⟨by decide +kernel, ?_, by decide +kernel, by decide +kernel⟩, by decide +kernel, rfl, ⟨by decide +kernel, ?_⟩, by decide +kernel, by decide +kernel,
    rfl, some_of (by decide +kernel)⟩
  · have h : (match stored.nextTurn 1 with
      | some (.fresh r) => !r.rc.gang && !r.rc.paired | _ => false) = true := by decide +kernel
    split at h
    · rename_i r e
      simp only [Bool.and_eq_true, Bool.not_eq_true'] at h
      exact ⟨r, e, h.1, h.2⟩
    · cases h
  · have h : (match State.stageSource 8 withInput.rc.job (piecesOf 0x401000 64) (chosen withInput false) with
      | .ok r => (r.1.stageTile ⟨0x401000, 0x2000, 64⟩ r.2).isNone && decide (r.2.marks = []) | .error _ => false) = true := by
      decide +kernel
    split at h
    · rename_i r e
      simp only [Bool.and_eq_true, Option.isNone_iff_eq_none, decide_eq_true_eq] at h
      exact ⟨r.1, r.2, e, h.1, h.2⟩
    · cases h

/-- RetirementBarriersAndSweeps: a drained task of a launch with more to come; a gang at its barrier; a generation that
nothing holds. -/
@[irreducible] def two : State := { base with jobs := [{ loadJob with launches := loadJob.launches.map fun l : Launch => { l with pending := 2, count := 2 } }] }
def atBar : Task := gangTask { task0 with wait := .bar, bars := 1 }
theorem two_holds (t : Task) : ((two.setTask 0 t).core 0).status = .running ∧ (two.setTask 0 t).taskOf 0 = some t ∧
    ((two.setTask 0 t).core 0).frozen = false ∧ ((two.setTask 0 t).dies[(dieOf 0).val]).frozen = false ∧
    ∃ l, (two.setTask 0 t).launchOf 0 0 = some l ∧ 1 < l.pending := by
  have e : (two.setTask 0 t).core 0 = { two.core 0 with task := some t } := core_setTask _ _ _
  have h1 : (two.core 0).status = .running := by decide +kernel
  have h2 : (two.core 0).frozen = false := by decide +kernel
  have h3 : (two.dies[(dieOf 0).val]).frozen = false := by decide +kernel
  have h4 : (match two.launchOf 0 0 with | some x => decide (1 < x.pending) | none => false) = true := by decide +kernel
  have e5 : (two.setTask 0 t).launchOf 0 0 = two.launchOf 0 0 := by
    unfold State.launchOf State.jobOf
    rw [show (two.setTask 0 t).jobs = two.jobs from rfl]
  refine ⟨by rw [e]; exact h1, ?_, by rw [e]; exact h2, h3, ?_⟩
  · unfold State.taskOf
    rw [e]
  · rw [e5]
    split at h4
    · rename_i x e
      exact ⟨x, e, of_decide_eq_true h4⟩
    · cases h4
def leaving (w : Wait) : Task := { task0 with wait := w }
theorem hyp_RetirementBarriersAndSweeps_leaving : ∀ w ∈ [(Wait.exiting, (0 : BitVec 2)), (.ended 2, 2)],
    let t := leaving w.1;
    ((two.setTask 0 t).core 0).status = .running ∧ (two.setTask 0 t).taskOf 0 = some t ∧ ((two.setTask 0 t).core 0).frozen = false ∧
    ((two.setTask 0 t).dies[(dieOf 0).val]).frozen = false ∧ (t.wait = .exiting ∧ t.cmds = [] ∧ w.2 = 0 ∨ t.wait = .ended w.2) ∧
    t.rs.rc.commit = false ∧ t.rs.rc.paired = false ∧ t.sessions = [] ∧ (two.setTask 0 t).recordKept (clusterOf 0) t.slot = false ∧
    ∃ l, (two.setTask 0 t).launchOf 0 0 = some l ∧ 1 < l.pending := by
  intro w hw
  have k : ∀ t : Task, (two.setTask 0 t).recordKept (clusterOf 0) t.slot = false := by
    intro t
    have h : (two.clusters[(clusterOf 0).val]).held = [] := List.isEmpty_iff.mp (by decide +kernel)
    show (two.clusters[(clusterOf 0).val]).held.any _ = false
    rw [h]
    rfl
  simp only [List.mem_cons, List.not_mem_nil, or_false] at hw
  rcases hw with rfl | rfl
  · obtain ⟨a, b, c, d, e⟩ := two_holds (leaving .exiting)
    exact ⟨a, b, c, d, .inl ⟨rfl, rfl, rfl⟩, rfl, rfl, rfl, k _, e⟩
  · obtain ⟨a, b, c, d, e⟩ := two_holds (leaving (.ended 2))
    exact ⟨a, b, c, d, .inr rfl, rfl, rfl, rfl, k _, e⟩
theorem any_exists {α : Type} {o : Option α} {p : α → Prop} [DecidablePred p] (h : o.any (fun x => decide (p x)) = true) :
    ∃ x, o = some x ∧ p x := by
  cases o with
  | none => cases h
  | some x => exact ⟨x, rfl, of_decide_eq_true h⟩
theorem hyp_RetirementBarriersAndSweeps_early : ∃ l, (on atBar).launchOf 0 0 = some l ∧ l.bars < 1 :=
  any_exists (p := fun l : Launch => l.bars < 1) (by decide +kernel)
def counted (n : Nat) (exits : Nat) : State :=
  { base with jobs := [{ loadJob with launches := loadJob.launches.map fun l : Launch => { l with count := n, exited := exits } }] }
def outThen (s : State) : State :=
  (s.setTask 0 atBar).setCore 1 fun k => { k with status := .running, task := some { atBar with wait := .exiting, exited := true } }
def shares (s : State) : Nat × Nat :=
  let here := s.gangTasks 0 0
  ((here.filter fun e => decide (e.2.wait = .bar ∧ e.2.bars = 1)).length,
    (here.filter fun e => e.2.exited && decide (e.2.wait ≠ .aborted)).length)
/-- A gang of two of which one waits and the other has not come, one that has left with its record retired, one that waits on
its core after EXIT. -/
theorem hyp_RetirementBarriersAndSweeps_bar :
    shares ((counted 2 0).setTask 0 atBar) = (1, 0) ∧ shares ((counted 2 1).setTask 0 atBar) = (1, 0) ∧
    shares (outThen (counted 2 0)) = (1, 1) ∧
    (∀ e ∈ [(0, 2), (1, 2)], ((counted e.2 e.1).launchOf 0 0).any (fun l => decide (l.exited = e.1 ∧ l.count = e.2)) = true) :=
  ⟨by decide +kernel, by decide +kernel, by decide +kernel, by decide +kernel⟩
/-- A generation that nothing holds, to which no advance waits, and to which one does; one that a running task holds. -/
def asking : State := { base with jobs := [{ loadJob with gen := 4, asked := 1 }] }
def aheadGen : State := base.setCore 0 fun k => { k with task := some { task0 with gen := 1 } }
theorem hyp_RetirementBarriersAndSweeps_gen : (∃ x, (on atBar).advanceGen 0 = some x) ∧ base.genHeld 0 5 = false ∧
    (base.jobOf 0).any (fun j => decide (j.asked ≤ j.made)) = true :=
  ⟨some_of (by decide +kernel), by decide +kernel, by decide +kernel⟩
theorem hyp_RetirementBarriersAndSweeps_asked :
    asking.genHeld 0 5 = false ∧ (asking.jobOf 0).any (fun j => decide (j.made < j.asked ∧ 5 = j.gen + 1)) = true :=
  ⟨by decide +kernel, by decide +kernel⟩
theorem hyp_RetirementBarriersAndSweeps_held :
    aheadGen.genHeld 0 1 = true ∧ (aheadGen.jobOf 0).any (fun j => decide (j.asked = j.made ∧ j.gen + 1 = 1)) = true :=
  ⟨by decide +kernel, by decide +kernel⟩

/-- WaitsFreezesAndTests, DispatchAndStaging, RetirementBarriersAndSweeps, Traps: a die whose clock the monitor has stopped. -/
def halted (s : State) (c : CoreId) : State := s.setDie (dieOf c) fun d => { d with frozen := true }
theorem hyp_stopped :
    ((halted (chosen loadRec true) 8).dies[(dieOf 8).val]).frozen = true ∧ ((halted (chosen loadRec true) 8).core 8).status = .chosen loadRec true none ∧
    ((halted base 0).dies[(dieOf 0).val]).frozen = true ∧ (base.dies[(dieOf 0).val]).frozen = false := by
  decide +kernel

/-- AtomicsComplete: 64 bits in LPDDR, 32 in host memory, 64 in a tile on SRAM; the order of grants. -/
def sramTile : State := { base with tiles := [(0, ⟨0x08, false, false⟩)] }
theorem hyp_AtomicsComplete :
    (on (regs 0x401008 1)).AtomicGoes g0 (regs 0x401008 1) 0x401008 8 ⟨0x1000401008, .lpddr, 0, 0x40000000⟩ ∧
    (on (regs 0x80000004 1)).AtomicGoes g0 (regs 0x80000004 1) 0x80000004 4 ⟨hostBase + 4, .host, 0x80000000, 0x40000000⟩ ∧
    (sramTile.setTask 0 (regs 0x40000008 1)).AtomicGoes g0 (regs 0x40000008 1) 0x40000008 8 ⟨8, .sram, 0x40000000, 0x10000⟩ ∧
    sramTile.sideGranules 8 8 ≠ [] ∧ tilesIn sramTile.tiles 8 8 ≠ [] ∧
    ((regs 0x401008 1).getX 5).toNat = 0x401008 ∧ ((regs 0x80000004 1).getX 5).toNat = 0x80000004 ∧
    ((regs 0x40000008 1).getX 5).toNat = 0x40000008 ∧ atomicForms g0 false 4 5 6 ≠ [] ∧
    grantOf 14 [3, 15, 14] = some 15 := by
  have l : Live sramTile := by unfold Live; decide +kernel
  refine ⟨⟨regs_executes _ _, on_sound _, by decide +kernel, rfl, by decide +kernel, ok_of (by decide +kernel), .inr (by decide +kernel),
    by decide +kernel, (fun y h => nomatch h), by decide +kernel⟩, ⟨regs_executes _ _, on_sound _, by decide +kernel, rfl, by decide +kernel,
    ok_of (by decide +kernel), .inr (by decide +kernel), by decide +kernel, (fun y h => nomatch h), by decide +kernel⟩,
    ⟨l.executes _ _ rfl rfl rfl, l.sound _, by decide +kernel, rfl, by decide +kernel, ok_of (by decide +kernel), .inl (by decide +kernel),
    by decide +kernel, (fun y h => nomatch h), by decide +kernel⟩, by decide +kernel, by decide +kernel, by decide +kernel,
    by decide +kernel, by decide +kernel, by simp [atomicForms], by decide⟩

/-- AtomicsComplete: the grant of an atomic whose text stands at the pc. -/
def granting : State :=
  ((base.writePa 0x1000400000 [0x00, 0x14, 0x8F, 0x29]).setCluster 0 fun k => { k with areqs := [⟨0, .aadd g0 true 5 6 7⟩] }).setTask 0
    ((regs 0 0x401000).setX 7 1)
def granted0 : State := granting.setCluster 0 fun x => { x with granted := 0, areqs := x.areqs.erase ⟨0, .aadd g0 true 5 6 7⟩ }
def granted1 : State := { granted0 with cur := 0 }
def written : State := (base.writePa 0x1000400000 [0x00, 0x14, 0x8F, 0x29]).setCluster 0 fun k => { k with areqs := [] }
def granted2 : State := State.setCluster { written with cur := 0 } 0 fun x => { x with granted := 0 }
theorem hyp_AtomicGrants :
    let t := (regs 0 0x401000).setX 7 1;
    let s0 := granted0;
    let s1 := granted1;
    grantOf (granting.clusters[(0 : ClusterId).val]).granted ((granting.clusters[(0 : ClusterId).val]).areqs.map fun r => r.core) = some 0 ∧
    (granting.clusters[(0 : ClusterId).val]).areqs.find? (fun r => decide (r.core = 0)) = some ⟨0, .aadd g0 true 5 6 7⟩ ∧
    s1.running = some t ∧ s0.nextInstr 0 t = .ok (.aadd g0 true 5 6 7, 2) ∧ t.dist + 2 ≤ t.limit ∧
    (t.getX 6).toNat = 0x401000 ∧ s1.AtomicGoes g0 t 0x401000 4 ⟨0x1000401000, .lpddr, 0, 0x40000000⟩ ∧
    ∃ s2 s3, exec (.aadd g0 true 5 6 7) s1 = .next s2 ∧ noteGroup s1 t (.aadd g0 true 5 6 7) (.next s2) = .next s3 := by
  have e : granted1 = granted2.setTask 0 ((regs 0 0x401000).setX 7 1) := by
    unfold granted1 granted2 granted0 written granting State.setTask State.setCore State.setCluster
    simp [Vector.set_set]
  have n : granted0.nextInstr 0 ((regs 0 0x401000).setX 7 1) = .ok (.aadd g0 true 5 6 7, 2) := by
    have h : (match granted0.nextInstr 0 ((regs 0 0x401000).setX 7 1) with
      | .ok y => decide (y = (Instr.aadd g0 true 5 6 7, 2)) | .error _ => false) = true := by decide +kernel
    split at h
    · rename_i y e
      rw [e, of_decide_eq_true h]
    · cases h
  have l : Live granted2 := by unfold Live; decide +kernel
  refine ⟨by decide +kernel, by decide +kernel, ?_, n, by decide, by decide +kernel, ?_, ?_⟩
  · show granted1.running = _
    rw [e]
    exact l.running _ rfl rfl
  · show granted1.AtomicGoes _ _ _ _ _
    rw [e]
    exact ⟨l.executes _ _ rfl rfl rfl, l.sound _, by decide +kernel, rfl, by decide +kernel, ok_of (by decide +kernel), .inr (by decide +kernel),
      by decide +kernel, (fun y h => nomatch h), by decide +kernel⟩
  · have h : (match exec (.aadd g0 true 5 6 7) granted1 with | .next _ => true | _ => false) = true := by decide +kernel
    split at h
    · rename_i s2 e2
      exact ⟨s2, s2, e2, rfl⟩
    · cases h

/-- Traps: a free slot; a core trapped with a record and without, at a TRAP and elsewhere. -/
def trapRec (cause : Byte) : TrapRec := ⟨0, cause, 0, 0, 0, 0x400000, 0, 0, 0, 0, 0, 0, 0, []⟩
def parked (cause : Byte) (at_ : Option Nat) : State :=
  (base.setCore 0 fun k => { k with status := .trapped (trapRec cause) at_ })
theorem hyp_Traps :
    (Memory.wf base.mem = true ∧ base.trapState 0 0 = 0) ∧
    (∀ c ∈ [(7 : Byte), 18, 19], ((parked c none).core 0).status = .trapped (trapRec c) none ∧
      ((parked c (some 3)).core 0).status = .trapped (trapRec c) (some 3) ∧ ((parked c none).taskOf 0).isSome = true ∧
      (parked c none).trapState 0 0 = 0 ∧ (c ≠ 18 ∨ c = 18)) := by
  refine ⟨⟨by decide +kernel, by decide +kernel⟩, ?_⟩
  intro c hc
  simp only [List.mem_cons, List.not_mem_nil, or_false] at hc
  rcases hc with rfl | rfl | rfl <;> exact ⟨by decide +kernel, by decide +kernel, by decide +kernel, by decide +kernel, by decide⟩

end Tests

end Sys2Proof
end

