-- ==== Sys2Proof/Tests/SystemWitness.lean ====
section
/-!
SUPPORT. Tests/SystemWitness.lean: for the statements about the weight tier, power, device registers, the surroundings, the
mailbox, SPDM and the fabric, states and operands that meet the hypotheses of each clause.
-/

namespace Sys2Proof

namespace Tests

open Sys2Proof.Machine

set_option Elab.async false

/-- Traps: no free slot in a cluster. -/
def noSlot : State := { base with mem := (List.range 256).map fun i => (trapRecPa 0 i, 1) }
theorem hyp_Traps_full : Memory.wf noSlot.mem = true ∧ (List.range 256).all (fun i => decide (noSlot.trapState 0 i ≠ 0)) = true := by
  decide +kernel

/-! ### The weight tier and power -/

/-- All banks of die 0 live, one via of column 2 steered. -/
def steered : List WrepEntry := List.replicate 63 ⟨true, 5⟩
def tier : State := base.setDie 0 fun d =>
  { d with wbam := BitVec.allOnes 1024, wrep := (d.wrep.set 2 steered).set 3 (List.replicate 64 ⟨true, 5⟩) }

/-- WeightTierAndPower: the first entry of a column is free, only the last one is, none is. -/
theorem hyp_WeightTier_repair :
    (wrepEntry ((tier.dies[(0 : DieId).val]).wrep[(0 : Fin 64).val]) 0).valid = false ∧
    (wrepEntry ((tier.dies[(0 : DieId).val]).wrep[(2 : Fin 64).val]) 63).valid = false ∧
    (List.range 63).all (fun j => (wrepEntry ((tier.dies[(0 : DieId).val]).wrep[(2 : Fin 64).val]) j).valid) = true ∧
    (List.range 64).all (fun j => (wrepEntry ((tier.dies[(0 : DieId).val]).wrep[(3 : Fin 64).val]) j).valid) = true ∧
    tier.boot ≠ .off := by
  decide +kernel

def rowing : Task := running .x (.xProg (prog rowCfg none true 0))
def tierOn : State := tier.setTask 0 rowing
def served : State := tierOn.setDie 0 fun k => { k with lastReq := 0 }
theorem hyp_WeightTier_row :
    tierOn.requester 0 = some 0 ∧ tierOn.progCmd 0 = some (7, prog rowCfg none true 0) ∧
    served.Works 0 rowing (cmd .x (.xProg (prog rowCfg none true 0))) ∧ (served.pulseRow 0x1000 []).2 = true ∧
    ∃ r s2, served.readSpad 0 rowing (0x2000 + 0) 4096 = .ok r ∧ r.1.pulseRow 0x1000 [] = (s2, true) := by
  refine ⟨by decide +kernel, by decide +kernel, ?_, by decide +kernel, ?_⟩
  · have e : served = (tier.setDie 0 fun k => { k with lastReq := 0 }).setTask 0 rowing := by
      unfold served tierOn State.setTask State.setCore State.setDie
      rfl
    rw [e]
    exact Live.works (by unfold Live; decide +kernel) _ _ rfl rfl
  · have h : (match served.readSpad 0 rowing (0x2000 + 0) 4096 with | .ok r => (r.1.pulseRow 0x1000 []).2 | .error _ => false) = true := by
      decide +kernel
    split at h
    · rename_i r e
      exact ⟨r, (r.1.pulseRow 0x1000 []).1, e, Prod.ext rfl h⟩
    · cases h

/-- MailboxCommands: PROGRAM-WEIGHTS with two rows to write, with all written, failed, and while a launch of it runs. -/
def rowsLeft (next : Nat) : Program :=
  { tag := 3, wa := 0x1000, bytes := List.replicate 8192 7, tiles := [], verify := false, next := next, checked := 0, bad := [],
    place := (0, []), job := 4096, failed := none }
def programming (x : Program) (j : Job) : State :=
  { tier.setDie 0 (fun d => { d with wready := true }) with program := some x, jobs := tier.jobs ++ [j] }
def launching : Job := (firmwareJob 4096).weightLaunch 0 0x1000 8192
theorem hyp_MailboxCommands_rows :
    let s := programming (rowsLeft 0) (firmwareJob 4096);
    s.requester 0 = none ∧ s.program = some (rowsLeft 0) ∧ s.jobOf 4096 = some (firmwareJob 4096) ∧
    (firmwareJob 4096).launches = [] ∧ (rowsLeft 0).bytes.length = 4096 * (0 + 2) ∧ (rowsLeft 2).bytes.length ≤ 4096 * 2 ∧
    { rowsLeft 1 with failed := some (6, 0x2000) }.failed = some (6, 0x2000) ∧ s.wValid 0x1000 8192 = true ∧
    s.wNotReady 0x1000 0x3000 = false ∧ s.weightCore (rowsLeft 0) (wDie 0x1000) 8192 = some 1 ∧ s.residOk 1 0 = true ∧
    (s.advanceGen 4096).isSome = true ∧ Memory.wf s.mem = true ∧
    (∃ y ∈ launching.launches, y.done = false) ∧ (programming (rowsLeft 0) launching).jobOf 4096 = some launching := by
  refine ⟨?_, rfl, ?_, rfl, ?_, ?_, rfl, ?_, ?_, ?_, ?_, ?_, ?_, ⟨_, List.mem_singleton.mpr rfl, rfl⟩, ?_⟩ <;> decide +kernel

/-- The next event of such a command starts a launch, whose commands are, under the verify flag, an x.wprog and an x.wverify. -/
theorem test_weight_launch :
    (match exec (.weightRowProgram 0 []) (programming { rowsLeft 1 with verify := true, checked := 1 } (firmwareJob 4096)) with
      | .next s' => ((s'.taskOf 1).map fun t => t.cmds.map fun q => match q.kind with | .xProg _ => 1 | .xVerify _ => 2 | _ => 0) ==
          some [1, 2]
      | _ => false) = true := by decide +kernel

/-- A flash directory with an image of each type, as the entries read and their signatures verify. -/
theorem image_of (s : State) (typ : Nat) (d : List Byte) (hm : leNat (s.flashBytes 0 4) = 0x464C5359)
    (h : (List.range (leNat (s.flashBytes 4 4))).findSome? (s.entryDigest typ false) = some d) : s.image typ = some d := by
  unfold State.image
  simp [hm, h]
def flashed : State := { base with boot := .off, flash := [(0, 0x59), (1, 0x53), (2, 0x4C), (3, 0x46), (4, 2), (168, 1)] }
theorem hyp_WeightTierAndPower_power :
    base.boot = .open_ ∧ base.boot ≠ .off ∧ base.windowOn 0 = false ∧ flashed.boot = .off ∧ base.image 1 = none ∧
    (∀ fw kernel, flashed.entryDigest 1 false 0 = some fw → flashed.entryDigest 2 false 0 = none →
      flashed.entryDigest 2 false 1 = some kernel → flashed.image 1 = some fw ∧ flashed.image 2 = some kernel) := by
  have hm : leNat (flashed.flashBytes 0 4) = 0x464C5359 := by decide +kernel
  have hn : leNat (flashed.flashBytes 4 4) = 2 := by decide +kernel
  refine ⟨by decide +kernel, by decide +kernel, by decide +kernel, rfl, Option.isNone_iff_eq_none.mp (by decide +kernel), ?_⟩
  intro fw kernel h1 h2 h3
  exact ⟨image_of _ 1 _ hm (by rw [hn]; simp [List.range_succ, h1]), image_of _ 2 _ hm (by rw [hn]; simp [List.range_succ, h2, h3])⟩

/-! ### Device registers and the surroundings -/

/-- RegisterEvents: a die whose queue 1 is on, with operations on its TLBs and frames that are to complete. -/
def busy : State := base.setDie 0 fun d => { d with tqctl := d.tqctl.set 1 true, tlbinv := 1, fatset := 0x2000001000400000 }
def stalled : State := busy.setDie 0 fun d => { d with tlbWait := [0x80000, 1] }
theorem hyp_RegisterEvents_stalled : (busy.dies[(0 : DieId).val]).tlbWait = [] ∧
    (stalled.dies[(0 : DieId).val]).tlbinv.getLsbD 0 = true ∧ (stalled.dies[(0 : DieId).val]).tlbPages = [] ∧
    (stalled.dies[(0 : DieId).val]).tlbWait = 0x80000 :: [1] := by decide +kernel
theorem hyp_RegisterEvents :
    (base.dies[(0 : DieId).val]).tqctl[(0 : Fin 4).val] = false ∧ (busy.dies[(0 : DieId).val]).tqctl[(1 : Fin 4).val] = true ∧
    (busy.dies[(0 : DieId).val]).monRec = none ∧ (base.dies[(0 : DieId).val]).tlbinv.getLsbD 0 = false ∧
    (busy.dies[(0 : DieId).val]).tlbinv.getLsbD 0 = true ∧ (busy.dies[(0 : DieId).val]).tlbPages = [] ∧
    (base.dies[(0 : DieId).val]).fatset.getLsbD 61 = false ∧ (busy.dies[(0 : DieId).val]).fatset.getLsbD 61 = true ∧
    (busy.dies[(0 : DieId).val]).fatPages = [] ∧ Memory.wf busy.mem = true ∧
    (homeOf (((busy.dies[(0 : DieId).val]).fatset.extractLsb' 16 36).toNat * 65536)).isLpddr = true ∧
    homeOf (((0x0000001000400000 : Word64).extractLsb' 16 36).toNat * 65536) = .lpddr 0 ∧
    homeOf (((0x8000001000400000 : Word64).extractLsb' 16 36).toNat * 65536) = .lpddr 0 ∧
    (0x8000001000400000 : Word64).extractLsb' 62 2 ≠ 3 ∧ (0xC000001040000000 : Word64).extractLsb' 62 2 = 3 ∧
    homeOf (((0xC000001040000000 : Word64).extractLsb' 16 36).toNat * 65536) = .lpddr 0 ∧
    (base.fatOf 0x1040000000).attr ≠ 3 ∧ base.encirFrames 0 < 16384 ∧
    (homeOf (((0xC000000000000000 : Word64).extractLsb' 16 36).toNat * 65536)).isLpddr = false ∧
    base.confidential = false ∧ (base.clusters[(0 : ClusterId).val]).held = [] ∧ dieOf 127 = 0 := by decide +kernel

/-- RegisterEvents: a die that holds as many ENCIR frames as it may. -/
def encirFull : State := { base with fat := (List.range 16384).map fun i => (0x100000 + i, ⟨3, false⟩) }
theorem hyp_RegisterEvents_encir : 16384 ≤ encirFull.encirFrames 0 ∧ (encirFull.fatOf 0x1040000000).attr ≠ 3 ∧
    (encirFull.dies[(0 : DieId).val]).fatset.getLsbD 61 = false := by decide +kernel

/-- SurroundingEvents: places in each memory, a tile, a register file, an attribute that authenticates. -/
def attributed : State := { base with fat := insertKey 0x100040 { attr := 2, changing := false } base.fat, tiles := [(0x1000, ⟨0x08, false, false⟩)] }
def altered : State := base.setCluster 0 fun k => { k with parked := [{ away with home := none }] }
theorem hyp_SurroundingEvents_lines : attributed.sealedLine 0x1000400000 = true ∧ base.sealedLine 0x1000400000 = false ∧
    (attributed.fatOf 0x1000400000).attr ≠ 3 ∧ ({ attr := 3, changing := false } : FatEntry).attr = 3 ∧
    (altered.clusters[(0 : ClusterId).val]).parked[0]?.isSome = true ∧ { away with home := none }.home = none ∧
    backed 0x3E0000 8 = false ∧ inMmio 0x3E0000 8 = false ∧ (blocksOf 128 0x3E0000 8).all (fun b => !backed b 128) = true ∧
    base.program = none ∧ (0x2000 : Nat) + 16 ≤ 0x4000 := by decide +kernel
def pairedTask : Task := { task0 with rs := { loadRec with rc := { loadRec.rc with paired := true } } }
theorem hyp_SurroundingEvents :
    (homeOf 0).isSram = true ∧ (homeOf 0x1000400000).isLpddr = true ∧ tileAt attributed.tiles 0x1000 = some ⟨0x08, false, false⟩ ∧
    base.wValid 0 1 = true ∧ 2 ≤ (attributed.fatOf 0x1000400000).attr.toNat ∧
    (queues 0x0A 1 2).queue 6 = [mkEntry 0x0A 1] ∧ pairedTask.rs.rc.paired = true ∧ (base.core 0).status ≠ .mate ∧
    backed 0x1000400000 2 = true ∧ Memory.wf base.mem = true ∧ tilesIn attributed.tiles 0x1000 2 ≠ [] ∧
    base.boot = .open_ ∧ base.confidential = false ∧ (homeOf (base.bar2 + 0)).isLpddr = true ∧
    (homeOf (base.bar2 + 0 + 8 - 1)).isLpddr = true ∧ base.badMac = [] ∧ base.poison = [] := by decide +kernel

/-! ### The mailbox and SPDM -/

def descAt : State :=
  ((base.writePa 0x1000401000 oneTask).writePa 0x1000401100 (bytesOf 8 1 ++ bytesOf 8 0x401200)).writePa 0x1000401200
    (bytesOf 8 1 ++ bytesOf 8 0x401000)
theorem hyp_MailboxCommands :
    base.boot = .open_ ∧ (0 : BitVec 39) ≤ 0 ∧ loadRoot % 0x200000 = 0 ∧ (∀ j ∈ base.jobs, j.num ≠ 1) ∧
    (∀ m, m < 1 → ∃ j ∈ base.jobs, j.num = m) ∧ base.jobOf 1 = none ∧ base.jobOf 0 = some loadJob ∧
    base.placeOf loadJob 0x401000 = some (0x1000401000, .lpddr) ∧ Memory.wf base.mem = true ∧
    loadJob.workOf 3 5 = none ∧ (∃ l, base.launchOf 0 0 = some l ∧ (0 : Word32).toNat < l.count) ∧ base.wValid 0 4096 = true ∧
    base.meetsWindow 0 4096 = false ∧ tier.pulseRow 0 [] = ((tier.pulseRow 0 []).1, true) ∧ base.jobs ≠ [] ∧
    base.confidential = false ∧ (List.finRange 32).all (fun k => decide ((base.clusters[k.val]).srhead = (base.clusters[k.val]).srtail)) = true ∧
    (base.core 1).task = none := by
  have hl : ∃ l, base.launchOf 0 0 = some l ∧ (0 : Word32).toNat < l.count :=
    any_exists (p := fun l : Launch => (0 : Word32).toNat < l.count) (by decide +kernel)
  have hj : ∀ m, m < 1 → ∃ j ∈ base.jobs, j.num = m := by
    intro m hm
    have h : base.jobs.any (fun j => decide (j.num = 0)) = true := by decide +kernel
    obtain ⟨j, hj, h⟩ := List.any_eq_true.mp h
    exact ⟨j, hj, by have := of_decide_eq_true h; omega⟩
  exact ⟨by decide +kernel, by decide, by decide +kernel, by decide +kernel, hj, by decide +kernel, by decide +kernel, by decide +kernel,
    by decide +kernel, by decide +kernel, hl, by decide +kernel, by decide +kernel, Prod.ext rfl (by decide +kernel), by decide +kernel,
    by decide +kernel, by decide +kernel, by decide +kernel⟩

/-- A window of the weight tier, an empty job, no job. -/
def windowed : State := { base with jobs := [{ loadJob with args := { loadArgs with wlim := 0x2000 } }] }
def emptyJob : State := { base with jobs := [{ loadJob with pending := 0 }] }
def scrubbed : State := { base with jobs := [] }
theorem hyp_MailboxCommands_jobs :
    windowed.meetsWindow 0x1000 4096 = true ∧ emptyJob.boot = .open_ ∧ emptyJob.jobOf 0 = some { loadJob with pending := 0 } ∧
    scrubbed.jobs = [] ∧ (0x1000 : Word64).toNat % 4096 = 0 ∧ (0 : Word64).toNat + 4096 ≤ hostBase := by decide +kernel

theorem hyp_MailboxCommands_phase : ∃ s4 num, descAt.jobOf 0 = some loadJob ∧
    (let x := descAt.askGen 0;
      x.1.firmwareList 0 0x401100 = .ok [0x401200] ∧ x.1.firmwareList 0 0x401200 = .ok [0x401000] ∧
      (x.1.setJob 0 fun j => { j with
        phases := j.phases ++ [⟨1, 0, 1, false, false⟩], pending := j.pending + 1,
        graphs := j.graphs ++ [⟨1, 1, 1, false, false⟩] }).submitLaunch 0 1 1 x.2 [] 0x401000 = .ok (s4, num)) := by
  have hj : descAt.jobOf 0 = some loadJob := by decide +kernel
  have h : (let x := descAt.askGen 0;
      (match (x.1.setJob 0 fun j => { j with
        phases := j.phases ++ [⟨1, 0, 1, false, false⟩], pending := j.pending + 1,
        graphs := j.graphs ++ [⟨1, 1, 1, false, false⟩] }).submitLaunch 0 1 1 x.2 [] 0x401000 with | .ok _ => true | .error _ => false) &&
        (match x.1.firmwareList 0 0x401100 with | .ok l => decide (l = [0x401200]) | .error _ => false) &&
        (match x.1.firmwareList 0 0x401200 with | .ok l => decide (l = [0x401000]) | .error _ => false)) = true := by decide +kernel
  simp only [Bool.and_eq_true] at h
  obtain ⟨⟨h1, h2⟩, h3⟩ := h
  split at h1
  · rename_i y e1
    split at h2
    · rename_i l2 e2
      split at h3
      · rename_i l3 e3
        exact ⟨y.1, y.2, hj, by rw [e2, of_decide_eq_true h2], by rw [e3, of_decide_eq_true h3], e1⟩
      · cases h3
    · cases h2
  · cases h1

/-- MailboxCommands: no command in progress; a code and a length of none; keys that stand, and one that does not; recovery. -/
theorem hyp_MailboxCommands_free :
    base.program = none ∧ knownCommand 9 0 = false ∧ knownCommand 6 27 = false ∧ base.keysStand loadArgs = true ∧
    base.keysStand { loadArgs with keys := [⟨5, 1, 0⟩], keyTable := 0x1000400000 } = false ∧
    { base with boot := .recovery }.boot = .recovery ∧ (programming (rowsLeft 0) launching).program.isSome = true ∧
    (base.mailbox.code ≠ 5 ∧ { base.mailbox with code := 5 }.code = 5) ∧
    { base with confidential := true }.confidential = true := by decide +kernel

/-- MailboxCommands: CANCEL of a live launch, of a complete one, of none, of a job with launches; a launch that the host sees;
the notify register with no command's code, idle and busy. -/
theorem hyp_MailboxCommands_cancel :
    (∃ ls, base.work none 0 0 0 = some ls ∧ (∃ l ∈ ls, l.done = false)) ∧
    (let s := { base with jobs := [{ loadJob with launches := loadJob.launches.map fun l : Launch => { l with done := true } }] };
      ∃ ls, s.work none 0 0 0 = some ls ∧ ∀ l ∈ ls, l.done = true) ∧
    base.work none 0 0 5 = none ∧ loadJob.pending ≠ 0 ∧ base.work none 0 3 0 = some loadJob.launches ∧
    base.hides none 0 0 = false ∧ knownCommand base.mailbox.code.toNat base.mailbox.length.toNat = false ∧
    [(1 : Byte), 0].length = 2 ∧ base.program = none ∧ (programming (rowsLeft 0) launching).boot = .open_ :=
  ⟨⟨loadJob.launches, by decide +kernel, by decide +kernel⟩,
    ⟨loadJob.launches.map fun l : Launch => { l with done := true }, by decide +kernel, by decide +kernel⟩,
    by decide +kernel, by decide +kernel, by decide +kernel, by decide +kernel, by decide +kernel, rfl,
    by decide +kernel, by decide +kernel⟩

/-- LOAD-IMAGE: sections with no label, and with one; a block of one operation, and no block. -/
def sect (l : List Reloc) : ImageSection := ⟨0x401000, 0, 16, none, l⟩
theorem hyp_MailboxCommands_sections :
    (∀ l ∈ [[], [(⟨8, 0, 4⟩ : Reloc)]], (sectionBytes (base.readPa hostBase 16) [sect l] (sect l)).isSome = true) ∧
    (sect []).relocs = [] ∧ (sect [⟨8, 0, 4⟩]).relocs = [⟨8, 0, 4⟩] ∧ 8 + 8 ≤ (sect []).len ∧ blockOk [] = false ∧
    blockOk ([0x4E, 0x59, 1, 0] ++ List.replicate 44 0) = true := by decide +kernel

/-- LOAD-IMAGE: the digest of no bytes, and another. -/
theorem hyp_MailboxCommands_image : sha384 (base.readPa (hostBase + 0) 0) ≠ [] ∧ (0x401000 : Nat) % 65536 + [(1 : Byte)].length ≤ 65536 ∧
    0 + 0 ≤ hostBase := by
  decide +kernel

/-- SpdmRequests: each stage, a session that is not finished, and one that is. -/
theorem hyp_SpdmRequests : let at_ (n : Nat) (o : Option Nat) (f : Bool) : State := { base with spdm := { base.spdm with stage := n, session := o, finished := f } };
    (at_ 1 none false).boot = .open_ ∧ (at_ 1 none false).spdm.stage = 1 ∧ (at_ 2 none false).spdm.stage = 2 ∧
    ((0x90 : Word32).getLsbD 7 = true ∧ (0x06 : Word32).getLsbD 1 = true ∧ (0x10 : Word32).getLsbD 4 = true) ∧ 3 ≤ (at_ 3 none false).spdm.stage ∧ (at_ 3 none false).spdm.session = none ∧
    (at_ 3 (some 0) false).spdm.session.isSome = true ∧ (at_ 3 (some 0) true).spdm.finished = true ∧
    ([] : List Byte) ≠ hmac384 (at_ 3 (some 0) false).spdm.key (at_ 3 (some 0) false).spdm.transcript := by
  refine ⟨by decide +kernel, rfl, rfl, by decide, Nat.le_refl 3, rfl, rfl, rfl, by decide +kernel⟩

/-! ### The fabric -/

/-- Port 0 up with key slot 0, and a window of core 0 on 4,096 bytes of its scratchpad that any module may write. -/
def rxUp : Rx := { expected := 9, slot0 := some 0, slot1 := none, nakSent := some 9, unacked := 1 }
def bare (typ : FlitType) (body : List Byte) : Flit := ⟨typ, 0, 0, 9, false, 0, 0, 0, 2, 0, body, []⟩
def linked (buf : List Flit) (must : Bool) : State :=
  (base.setPort 0 fun q => { q with up := true, rx := rxUp, limit := 0x200000, tx := { q.tx with buf := buf, inv := if must then 0x1FFFFF else 5 } }).setCore 0
    fun k => { k with rxwin := #v[0, 4096, 0x8000000000000000] }
/-- A flit under the key of epoch 0, with the tag that this gives it. -/
def flit (typ : FlitType) (body : List Byte) : Flit :=
  { bare typ body with mac := ((linked [] false).flitSeal 0 false 0 (bare typ body)).2 }
theorem flitSeal_mac (s : State) (p : PortId) (sending : Bool) (epoch : Nat) (f : Flit) (m : List Byte) :
    s.flitSeal p sending epoch { f with mac := m } = s.flitSeal p sending epoch f := by
  unfold State.flitSeal flitAad flitHeader flitInvocation flitIv
  rfl
theorem flit_mac (typ : FlitType) (body : List Byte) : (linked [] false).macOk 0 (flit typ body) = true := by
  unfold State.macOk
  rw [show ((linked [] false).ports[(0 : PortId).val]).rx.epochOf (flit typ body).slot = some 0 by
    show ((linked [] false).ports[(0 : PortId).val]).rx.epochOf false = some 0
    decide +kernel]
  have h := flitSeal_mac (linked [] false) 0 false 0 (bare typ body) (flit typ body).mac
  exact decide_eq_true (congrArg Prod.snd h)
theorem hyp_FabricEvents_next : ∀ typ ∈ [FlitType.data, .end_, .pdone, .cairn, .ack, .nak],
    (linked [] false).authentic 0 (flit typ []) = true ∧
    ((linked [] false).ports[(0 : PortId).val]).up = true ∧ (flit typ []).typ = typ ∧
    (flit typ []).seq = ((linked [] false).ports[(0 : PortId).val]).rx.expected := by
  intro typ h
  unfold State.authentic
  rw [flit_mac]
  refine ⟨?_, by decide +kernel, rfl, ?_⟩
  · rw [show decide ((flit typ []).dst.toNat = (linked [] false).modid.toNat % 2 ^ 20) = true by
      show decide ((0 : BitVec 20).toNat = (linked [] false).modid.toNat % 2 ^ 20) = true
      decide +kernel]
    simp only [List.mem_cons, List.not_mem_nil, or_false] at h
    rcases h with rfl | rfl | rfl | rfl | rfl | rfl <;> rfl
  · show (9 : BitVec 24) = _
    decide +kernel
theorem hyp_FabricEvents :
    (let s := linked [] false;
      let w := (s.core (coreAt 0)).window;
      s.inputs = [] ∧ w.ena = true ∧ ((0 : BitVec 20) ^^^ w.src) &&& w.mask = 0 ∧ (0 : BitVec 40).toNat + [(1 : Byte), 2].length ≤ w.len ∧
      (homeOf (w.base + (0 : BitVec 40).toNat)).isSram = true ∧ Memory.wf s.mem = true) ∧
    (let q := (linked [bare .data [1]] false).ports[(0 : PortId).val];
      q.maySeal = true ∧ q.tx.buf.length < 256 ∧ q.tx.cairn = none ∧ q.tx.replays < 16 ∧ q.tx.resume = none ∧
      q.tx.buf = [bare .data [1]] ∧ q.rx.unacked < 63 ∧ 0 < q.rx.unacked ∧ q.rx.nakSent = some q.rx.expected ∧
      (putEndOf (bytesOf 16 0)).signal = false ∧ (putEndOf (bytesOf 16 0)).armed = false) ∧
    (let q := (linked [] true).ports[(0 : PortId).val];
      q.up = true ∧ q.down = false ∧ q.mustSwitch = true ∧ q.tx.inv < q.limit.toNat ∧ q.tx.buf.length < 256) ∧
    base.boot ≠ .off ∧ rxUp.nakSent ≠ some 8 := by
  exact ⟨by decide +kernel, by decide +kernel, by decide +kernel, by decide +kernel, by decide⟩

/-- FabricEvents: a remote copy that waits for its answer, with another put's END still on its port, its task on its core or
parked; two puts of one tag that are not answered. -/
def putting : XCmd := { prog { plain with dspace := .remote } none true 512 with
  sent := true, putTag := some 2, source := some 0, port := some 3 }
def ahead : State := (base.setPort 3 fun q => { q with tx := { q.tx with buf := [{ bare .end_ [] with tag := 1 }] } }).setTask 0 (moving putting)
def parkedPut : State :=
  (base.setCore 0 fun k => { k with status := .idle, task := none }).setCluster 0 fun k => { k with parked := [{ away with task := moving putting }] }
def twoPuts : State := (linked [] false).setCore 0 fun k => { k with puts := List.replicate 2 ⟨2, 0, 0, some 0, true⟩ }
def openPuts (s : State) : List SentPut :=
  (s.core 0).puts.filter fun e => decide (e.tag = (bare .pdone []).tag) && decide (e.dst = (bare .pdone []).src)
theorem hyp_FabricEvents_put : ahead.taskOf 0 = some (moving putting) ∧ (moving putting).cmds = [cmd .x (.xMove putting)] ∧
    putting.cfg.dspace = .remote ∧ putting.putTag = some (bare .pdone []).tag ∧ putting.source = some (bare .pdone []).core ∧
    putting.cfg.dstModule = (bare .pdone []).src.toNat ∧ putting.outcome = none ∧ putting.sent = true ∧ putting.port = some 3 ∧
    coreAt (bare .pdone []).core = 0 ∧ (openPuts ahead).length ≤ 1 ∧
    (∀ g ∈ (ahead.ports[(3 : PortId).val]).tx.buf, g.typ = .end_ → g.srcCore = 0 → g.tag ≠ 2) ∧
    2 ≤ (openPuts twoPuts).length := by
  refine ⟨?_, rfl, rfl, by decide, by decide, by decide, rfl, rfl, rfl, by decide, by decide +kernel, by decide +kernel, by decide +kernel⟩
  show (ahead.core 0).task = _
  rw [show ahead.core 0 = _ from core_setTask _ _ _]

theorem hyp_FabricEvents_parked : (parkedPut.clusters[(0 : ClusterId).val]).parked[0]? = some { away with task := moving putting } ∧
    parkedPut.putsAt 0 (cmd .x (.xMove putting)).seq = [putting] ∧
    (∀ g ∈ (parkedPut.ports[(3 : PortId).val]).tx.buf, g.typ = .end_ → g.srcCore = 0 → g.tag ≠ 2) := by
  refine ⟨?_, by decide +kernel, by decide +kernel⟩
  show (((base.setCore 0 fun k => { k with status := .idle, task := none }).clusters.set 0 _)[0]).parked[0]? = _
  rw [Vector.getElem_set_self]
  rfl

/-! ### Portable blocks (R368) -/

/-- A block of one operation: ADDI of its input and the literal 7, whose value is its output, and which ends the code. -/
def addBlock : List Byte :=
  [0x4E, 0x59, 1, 0, 1, 1, 0, 0] ++ bytesOf 4 0 ++ bytesOf 2 0 ++ bytesOf 2 0 ++ bytesOf 4 0xFFFFFFFF ++ bytesOf 4 0xFFFFFFFF ++
    bytesOf 8 0 ++ (bytesOf 2 0x0200 ++ bytesOf 2 0x8000 ++ bytesOf 2 0 ++ bytesOf 2 0 ++ bytesOf 4 7 ++ bytesOf 2 0 ++ [1, 0]) ++
    bytesOf 2 0x8020 ++ List.replicate 14 0
theorem test_block_adds : blockOk addBlock = true ∧ (match (on task0).runBlock addBlock [{ BlockValue.zero with x := 35 }] with
    | .commits s outs next => decide (outs.map BlockValue.x = [42] ∧ next = none ∧ (s.taskOf 0).map Task.pc = some task0.pc)
    | _ => false) = true := by decide +kernel

end Tests

end Sys2Proof
end

/-! Proofs about the instructions that create and cancel work: JOIN, SPAWN, LAUNCH and CANCEL (R16, R119, R121 to R123).
First what each operation of a junction leaves, then what each instruction's body answers, case by case. -/

namespace Sys2Proof

namespace Machine

/-! ### Slots and handles -/

theorem lowestFree_not_mem (l : List Nat) : lowestFree l ∉ l := by
  unfold lowestFree
  cases hf : (List.range (l.length + 1)).find? fun n => !l.contains n with
  | some n => simpa using List.find?_some hf
  | none =>
    have hsub : List.range (l.length + 1) ⊆ l := fun n hn => by
      simpa using List.find?_eq_none.mp hf n hn
    have hle := (List.nodup_range.subperm hsub).length_le
    simp at hle

theorem handleOf_ne_zero (k : ClusterId) (slot : Nat) (tenure : BitVec 16) : handleOf k slot tenure ≠ 0 := by
  have hk := k.isLt
  have ht := tenure.isLt
  have hs := Nat.mod_lt slot (show 0 < 2 ^ 32 by decide)
  intro h
  have h' := congrArg BitVec.toNat h
  unfold handleOf at h'
  rw [BitVec.toNat_ofNat, Nat.mod_eq_of_lt (by omega)] at h'
  simp at h'

/-! ### What an update of a job or a cluster leaves of the others -/

theorem State.jobOf_setJob_same (s : State) (n : Nat) (f : Job → Job) (hf : ∀ j, (f j).num = j.num) :
    (s.setJob n f).jobOf n = (s.jobOf n).map f := by
  unfold State.jobOf State.setJob
  induction s.jobs with
  | nil => rfl
  | cons j js ih =>
    by_cases h : j.num = n
    · simp [h, hf]
    · simpa [h] using ih

theorem State.jobOf_setJob_some {s : State} {n : Nat} {j : Job} {f : Job → Job} (hj : s.jobOf n = some j)
    (hf : ∀ j, (f j).num = j.num) : (s.setJob n f).jobOf n = some (f j) := by
  rw [State.jobOf_setJob_same s n f hf, hj]
  rfl

theorem State.clusters_setCluster (s : State) (k c : ClusterId) (f : Cluster → Cluster) :
    (s.setCluster k f).clusters[c.val] = if c = k then f s.clusters[k.val] else s.clusters[c.val] := by
  unfold State.setCluster
  by_cases h : c = k
  · subst h; simp
  · have h' : k.val ≠ c.val := fun e => h (Fin.ext e.symm)
    simp [h, h']

/-! ### What the work of a junction leaves -/

/-- The memories, cores, dies and ports are as they were: what the work of a junction does not touch. -/
structure State.SameOutside (s s' : State) : Prop where
  mem : s'.mem = s.mem
  cores : s'.cores = s.cores
  wmem : s'.wmem = s.wmem
  flash : s'.flash = s.flash
  dies : s'.dies = s.dies
  ports : s'.ports = s.ports

theorem State.SameOutside.refl (s : State) : s.SameOutside s := ⟨rfl, rfl, rfl, rfl, rfl, rfl⟩

theorem State.SameOutside.trans {a b c : State} (h : a.SameOutside b) (h' : b.SameOutside c) : a.SameOutside c :=
  ⟨h'.mem.trans h.mem, h'.cores.trans h.cores, h'.wmem.trans h.wmem, h'.flash.trans h.flash, h'.dies.trans h.dies,
    h'.ports.trans h.ports⟩

theorem State.sameOutside_setJob (s : State) (n : Nat) (f : Job → Job) : s.SameOutside (s.setJob n f) :=
  ⟨rfl, rfl, rfl, rfl, rfl, rfl⟩

theorem State.sameOutside_setCluster (s : State) (k : ClusterId) (f : Cluster → Cluster) :
    s.SameOutside (s.setCluster k f) := ⟨rfl, rfl, rfl, rfl, rfl, rfl⟩

theorem State.sameOutside_sweep (s : State) (job : Nat) (g : BitVec 4) : s.SameOutside (s.sweep job g) :=
  ⟨rfl, rfl, rfl, rfl, rfl, rfl⟩

/-- The records that a cluster stores, in their places, but for what readiness and generations note beside them. -/
def State.stored (s : State) (c : ClusterId) : List (Nat × BitVec 16 × Rec) :=
  (s.clusters[c.val]).recs.map fun x => (x.slot, x.tenure, x.rc)

@[simp] theorem State.stored_setJob (s : State) (n : Nat) (f : Job → Job) (c : ClusterId) :
    (s.setJob n f).stored c = s.stored c := rfl

@[simp] theorem State.stored_sweep (s : State) (job : Nat) (g : BitVec 4) (c : ClusterId) :
    (s.sweep job g).stored c = s.stored c := by
  simp [State.stored, State.sweep]

/-- A slot is free in a store exactly when nothing stored bears it. -/
theorem State.slot_free_iff (s : State) (c : ClusterId) (n : Nat) :
    (∀ x ∈ (s.clusters[c.val]).recs, x.slot ≠ n) ↔ ∀ e ∈ s.stored c, e.1 ≠ n := by
  simp [State.stored]

/-! ### Readiness leaves the stored records (R292) -/

theorem State.stored_setRec (s : State) (k c : ClusterId) (sl : Nat) (f : RecSlot → RecSlot) :
    (s.setRec k sl f).stored c = (s.clusters[c.val]).recs.map fun x =>
      if c = k ∧ x.slot = sl then ((f x).slot, (f x).tenure, (f x).rc) else (x.slot, x.tenure, x.rc) := by
  unfold State.stored State.setRec
  rw [State.clusters_setCluster]
  by_cases h : c = k
  · subst h
    simp only [if_true, List.map_map, true_and]
    refine List.map_congr_left fun x _ => ?_
    by_cases hx : x.slot = sl <;> simp [hx]
  · simp [h]

/-- The record of a slot ready, as the next of the order of readiness: what `State.readyIn` does to one that may start. -/
def State.markReady (s : State) (k : ClusterId) (sl : Nat) : State :=
  { s.setRec k sl (fun x => { x with ready := some s.readySeq }) with readySeq := s.readySeq + 1 }

/-- The records that become ready keep their fields, and nothing but clusters and the order of readiness changes. -/
theorem State.readyIn_keeps (k : ClusterId) (l : List RecSlot) (s : State) :
    s.SameOutside (State.readyIn k l s) ∧ (State.readyIn k l s).jobs = s.jobs ∧
      ∀ c, (State.readyIn k l s).stored c = s.stored c := by
  induction l generalizing s with
  | nil => exact ⟨.refl s, rfl, fun _ => rfl⟩
  | cons r rest ih =>
    unfold State.readyIn
    split
    · obtain ⟨ho, hj, hs⟩ := ih (s.markReady k r.slot)
      have hr : ∀ c, (s.markReady k r.slot).stored c = s.stored c := fun c => by
        calc _ = (s.setRec k r.slot fun x => { x with ready := some s.readySeq }).stored c := rfl
          _ = s.stored c := by rw [State.stored_setRec]; simp [State.stored]
      exact ⟨State.SameOutside.trans (b := s.markReady k r.slot) ⟨rfl, rfl, rfl, rfl, rfl, rfl⟩ ho, hj,
        fun c => (hs c).trans (hr c)⟩
    · exact ih s

theorem State.refresh_keeps (s : State) :
    s.SameOutside s.refresh ∧ s.refresh.jobs = s.jobs ∧ ∀ c, s.refresh.stored c = s.stored c := by
  unfold State.refresh
  generalize List.finRange 32 = ks
  induction ks generalizing s with
  | nil => exact ⟨.refl s, rfl, fun _ => rfl⟩
  | cons k ks ih =>
    obtain ⟨ho, hj, hs⟩ := State.readyIn_keeps k (s.clusters[k.val]).recs s
    obtain ⟨ho', hj', hs'⟩ := ih (State.readyIn k (s.clusters[k.val]).recs s)
    exact ⟨ho.trans ho', hj'.trans hj, fun c => (hs' c).trans (hs c)⟩

/-! ### An advance asked for (R305) -/

/-- What holds a generation value is not changed by an update of a job that keeps its number and its advances made. -/
theorem State.genHeld_setJob (s : State) (job n : Nat) (f : Job → Job) (hn : ∀ j, (f j).num = j.num)
    (hm : ∀ j, (f j).made = j.made) (g : BitVec 4) : (s.setJob n f).genHeld job g = s.genHeld job g := by
  have hmade : ((s.setJob n f).jobOf job).map Job.made = (s.jobOf job).map Job.made := by
    unfold State.jobOf State.setJob
    induction s.jobs with
    | nil => rfl
    | cons j js ih => by_cases h : j.num = n <;> by_cases h' : j.num = job <;> simp_all
  unfold State.genHeld
  rw [hmade]
  rfl

/-- An advance asked for, whole: made at once where nothing holds its value and no earlier one waits, else noted. -/
theorem State.askGen_eq {s : State} {job : Nat} {j : Job} (hj : s.jobOf job = some j) :
    s.askGen job =
      (if j.asked = j.made ∧ s.genHeld job (j.gen + 1) = false then
        ((s.setJob job fun j => { j with asked := j.asked + 1 }).setJob job fun j =>
          { j with gen := j.gen + 1, made := j.made + 1 }).sweep job (j.gen + 1)
       else s.setJob job fun x => { x with asked := j.asked + 1 },
       j.gen + BitVec.ofNat 4 (j.asked + 1 - j.made), j.asked + 1) := by
  have hj' : (s.setJob job fun j => { j with asked := j.asked + 1 }).jobOf job = some { j with asked := j.asked + 1 } :=
    State.jobOf_setJob_some hj fun _ => rfl
  have hg : (s.setJob job fun j => { j with asked := j.asked + 1 }).genHeld job (j.gen + 1) = s.genHeld job (j.gen + 1) :=
    State.genHeld_setJob s job job (fun j => { j with asked := j.asked + 1 }) (fun _ => rfl) (fun _ => rfl) (j.gen + 1)
  unfold State.askGen State.advanceGen State.makeGen
  simp only [hj, hj', hg]
  by_cases ha : j.asked = j.made
  · cases hh : s.genHeld job (j.gen + 1) <;> simp [ha]
  · simp [ha]

theorem State.askGen_none {s : State} {job : Nat} (hj : s.jobOf job = none) : s.askGen job = (s, 0, 0) := by
  unfold State.askGen
  simp [hj]

/-- An advance asked for leaves everything outside the junctions and every stored record. -/
theorem State.askGen_keeps (s : State) (job : Nat) :
    s.SameOutside (s.askGen job).1 ∧ ∀ c, (s.askGen job).1.stored c = s.stored c := by
  cases hj : s.jobOf job with
  | none => rw [State.askGen_none hj]; exact ⟨.refl s, fun _ => rfl⟩
  | some j =>
    rw [State.askGen_eq hj]
    split
    · exact ⟨.trans (s.sameOutside_setJob ..) (.trans (State.sameOutside_setJob ..) (State.sameOutside_sweep ..)),
        fun c => (State.stored_sweep ..).trans ((State.stored_setJob ..).trans (State.stored_setJob ..))⟩
    · exact ⟨s.sameOutside_setJob .., fun c => State.stored_setJob ..⟩

/-- The job after an advance asked for. -/
theorem State.jobOf_askGen {s : State} {job : Nat} {j : Job} (hj : s.jobOf job = some j) :
    (s.askGen job).1.jobOf job = some
      (if j.asked = j.made ∧ s.genHeld job (j.gen + 1) = false then
        { j with gen := j.gen + 1, asked := j.asked + 1, made := j.made + 1 }
       else { j with asked := j.asked + 1 }) := by
  rw [State.askGen_eq hj]
  split
  · exact State.jobOf_setJob_some (f := fun j => { j with gen := j.gen + 1, made := j.made + 1 })
      (State.jobOf_setJob_some (f := fun j => { j with asked := j.asked + 1 }) hj fun _ => rfl) fun _ => rfl
  · exact State.jobOf_setJob_some (f := fun x => { x with asked := j.asked + 1 }) hj fun _ => rfl

/-- What an advance asked for answers: its value, its number, and the job after it. -/
theorem State.askGen_answer {s s1 : State} {job : Nat} {j : Job} {gen : BitVec 4} {due : Nat}
    (h : s.askGen job = (s1, gen, due)) (hj : s.jobOf job = some j) :
    gen = j.gen + BitVec.ofNat 4 (j.asked + 1 - j.made) ∧ due = j.asked + 1 ∧ s1.jobOf job = some
      (if j.asked = j.made ∧ s.genHeld job (j.gen + 1) = false then
        { j with gen := j.gen + 1, asked := j.asked + 1, made := j.made + 1 }
       else { j with asked := j.asked + 1 }) := by
  have hjob := State.jobOf_askGen hj
  have hans := congrArg Prod.snd (State.askGen_eq hj)
  rw [h] at hjob hans
  obtain ⟨rfl, rfl⟩ := Prod.mk.inj hans
  exact ⟨rfl, rfl, hjob⟩

/-- Where the jobs are the same and the same values are held, the same advance is asked for, with the same jobs after it. -/
theorem State.askGen_congr {s s' : State} {job : Nat} (hj : s'.jobs = s.jobs)
    (hg : ∀ g, s'.genHeld job g = s.genHeld job g) :
    (s'.askGen job).2 = (s.askGen job).2 ∧ (s'.askGen job).1.jobs = (s.askGen job).1.jobs := by
  have hof : s'.jobOf job = s.jobOf job := by unfold State.jobOf; rw [hj]
  cases h : s.jobOf job with
  | none => rw [State.askGen_none h, State.askGen_none (hof.trans h)]; exact ⟨rfl, hj⟩
  | some j =>
    rw [State.askGen_eq h, State.askGen_eq (hof.trans h), hg]
    refine ⟨rfl, ?_⟩
    split <;> simp only [State.sweep, State.setJob, hj]

/-! ### A predecessor attached to a record (R122) -/

/-- What a map over all clusters reads is the same where the changed cluster reads the same. -/
theorem State.clusters_map_setCluster {β : Type} (s : State) (k : ClusterId) (f : Cluster → Cluster) (F : Cluster → β)
    (h : F (f s.clusters[k.val]) = F s.clusters[k.val]) :
    (s.setCluster k f).clusters.toList.map F = s.clusters.toList.map F := by
  unfold State.setCluster
  rw [Vector.toList_set, List.map_set, h]
  refine List.ext_getElem (by simp) fun i h1 h2 => ?_
  rw [List.getElem_set]
  split
  · next e => subst e; simp
  · rfl

/-- A cluster with the record of a slot changed. -/
def Cluster.mapRec (sl : Nat) (f : RecSlot → RecSlot) (c : Cluster) : Cluster :=
  { c with recs := c.recs.map fun r => if r.slot = sl then f r else r }

theorem State.setRec_eq (s : State) (k : ClusterId) (sl : Nat) (f : RecSlot → RecSlot) :
    s.setRec k sl f = s.setCluster k (Cluster.mapRec sl f) := rfl

/-- What holds a generation value reads of a record its job and its base generation alone (R305). -/
theorem State.genHeld_setRec (s : State) (job : Nat) (k : ClusterId) (sl : Nat) (f : RecSlot → RecSlot)
    (hf : ∀ r, (f r).rc.job = r.rc.job ∧ (f r).rc.hasbgen = r.rc.hasbgen ∧ (f r).rc.bgen = r.rc.bgen ∧ (f r).due = r.due)
    (g : BitVec 4) : (s.setRec k sl f).genHeld job g = s.genHeld job g := by
  have hmap {β : Type} (F : Cluster → β) (h : ∀ c, F (c.mapRec sl f) = F c) :
      (s.setRec k sl f).clusters.toList.map F = s.clusters.toList.map F := by
    rw [State.setRec_eq]
    exact State.clusters_map_setCluster s k _ F (h _)
  have hany (q : Cluster → Bool) (h : ∀ c, q (c.mapRec sl f) = q c) :
      (s.setRec k sl f).clusters.toList.any q = s.clusters.toList.any q := by
    simpa [List.any_map] using congrArg (fun l => l.any id) (hmap q h)
  have htasks : (s.setRec k sl f).allTasks = s.allTasks := by
    unfold State.allTasks
    rw [List.flatMap_def, List.flatMap_def, hmap _ fun _ => rfl]
    rfl
  unfold State.genHeld
  rw [htasks, hany (fun k => k.parked.any _) fun _ => rfl]
  simp only [List.any_append, List.any_flatMap]
  rw [hany]
  · rfl
  · intro c
    simp only [Cluster.mapRec, List.any_map]
    congr 1
    funext r
    obtain ⟨hjob, hhas, hgen, hdue⟩ := hf r
    by_cases h : r.slot = sl
    · simp only [Function.comp, h, if_true, hjob, hhas, hgen, hdue]
    · simp only [Function.comp, h, if_false]

/-- A record with one attached predecessor more. -/
def RecSlot.attachOne (x : RecSlot) : RecSlot := { x with rc := { x.rc with attached := x.rc.attached + 1 } }

/-- The state in which SPAWN's new record is made: `s` with one attached predecessor more on the record of `up`, if any. -/
structure State.Attached (s s0 : State) (up : Option (ClusterId × Nat)) : Prop where
  outside : s.SameOutside s0
  jobs : s0.jobs = s.jobs
  held : ∀ job g, s0.genHeld job g = s.genHeld job g
  stored : ∀ c : ClusterId, s0.stored c = (s.clusters[c.val]).recs.map fun x =>
    (x.slot, x.tenure, if up = some (c, x.slot) then { x.rc with attached := x.rc.attached + 1 } else x.rc)

theorem State.Attached.none (s : State) : s.Attached s none :=
  ⟨.refl s, rfl, fun _ _ => rfl, fun c => by simp [State.stored]⟩

theorem State.Attached.setRec (s : State) (k : ClusterId) (sl : Nat) :
    s.Attached (s.setRec k sl RecSlot.attachOne) (some (k, sl)) := by
  refine ⟨s.sameOutside_setCluster .., rfl,
    fun job g => State.genHeld_setRec s job k sl RecSlot.attachOne (fun r => ⟨rfl, rfl, rfl, rfl⟩) g, fun c => ?_⟩
  rw [State.stored_setRec]
  refine List.map_congr_left fun x _ => ?_
  by_cases h : c = k ∧ x.slot = sl
  · simp [h.1, h.2, RecSlot.attachOne]
  · have h' : ¬ (k = c ∧ sl = x.slot) := fun e => h ⟨e.1.symm, e.2.symm⟩
    simp [h, h']

theorem State.Attached.slots {s s0 : State} {up : Option (ClusterId × Nat)} (h : s.Attached s0 up) (c : ClusterId)
    {n : Nat} (hn : ∀ e ∈ s0.stored c, e.1 ≠ n) : ∀ x ∈ (s.clusters[c.val]).recs, x.slot ≠ n := by
  rw [h.stored] at hn
  simpa using hn

theorem State.afterOf_of_jobs {s s0 : State} {t t0 : Task} (hj : s0.jobs = s.jobs) (ht : t0.rs = t.rs) :
    s0.afterOf t0 = s.afterOf t := by
  unfold State.afterOf State.launchOf State.jobOf
  rw [hj, ht]

/-- A task that holds given work until EXIT. -/
def Task.withHeld (t : Task) (l : List Held) : Task := { t with held := l }

@[simp] theorem Task.withHeld_rs (t : Task) (l : List Held) : (t.withHeld l).rs = t.rs := rfl
@[simp] theorem Task.withHeld_self (t : Task) : t.withHeld t.held = t := rfl

theorem Task.advance_withHeld (t : Task) (n : Nat) : (t.advance n).withHeld t.held = t.advance n := by
  rw [← Task.advance_held t n, Task.withHeld_self]

theorem Task.setX_withHeld (t : Task) (l : List Held) (r : XReg) (v : Word64) :
    (t.withHeld l).setX r v = (t.setX r v).withHeld l := by
  unfold Task.setX Task.withHeld
  split <;> rfl

theorem attachable_iff (t : Task) (r : RecSlot) : attachable t r = true ↔ t.mayAttach r := by
  simp [attachable, Task.mayAttach, and_assoc]

theorem State.attach_zero (s : State) (t : Task) : s.attach t 0 = some (s, t) := rfl

theorem State.attach_held {s : State} {t : Task} {h : Word64} {r : RecSlot} (h0 : h ≠ 0) (hr : t.heldRec h = some r)
    (ha : t.mayAttach r) : s.attach t h = some (s, t.withHeld (t.held.map (attachHeld h))) := by
  unfold State.attach
  simp only [if_neg h0, hr, (attachable_iff t r).mpr ha, if_true]
  rfl

theorem State.attach_stored {s : State} {t : Task} {h : Word64} {k : ClusterId} {r : RecSlot} (h0 : h ≠ 0)
    (hn : t.heldRec h = none) (hr : s.recOf h = some (k, r)) (ha : t.mayAttach r) :
    s.attach t h = some (s.setRec k r.slot RecSlot.attachOne,
      t.withHeld (if t.rs.rc.commit then t.held ++ [.attach h] else t.held)) := by
  unfold State.attach
  simp only [if_neg h0, hn, hr, (attachable_iff t r).mpr ha, if_true]
  cases t.rs.rc.commit <;> rfl

theorem State.foundRec_held {s : State} {t : Task} {h : Word64} {r : RecSlot} (hr : t.heldRec h = some r) :
    s.foundRec t h = some r := by
  unfold State.foundRec
  rw [hr]

theorem State.foundRec_stored {s : State} {t : Task} {h : Word64} (hn : t.heldRec h = none) :
    s.foundRec t h = (s.recOf h).map Prod.snd := by
  unfold State.foundRec
  rw [hn]

theorem State.attach_refused {s : State} {t : Task} {h : Word64} (h0 : h ≠ 0)
    (hr : ∀ r, s.foundRec t h = some r → ¬ t.mayAttach r) : s.attach t h = none := by
  unfold State.attach
  rw [if_neg h0]
  cases hh : t.heldRec h with
  | some r => simp [attachable_iff, hr r (State.foundRec_held hh)]
  | none =>
    cases hs : s.recOf h with
    | none => rfl
    | some x => simp [attachable_iff, hr x.2 (by rw [State.foundRec_stored hh, hs]; rfl)]

/-- The records of one piece of held work. -/
def Held.recs : Held → List RecSlot
  | .record _ r _ => [r]
  | .attach _ => []
  | .launch _ rs _ => rs

theorem Task.heldRecs_eq (t : Task) : t.heldRecs = t.held.flatMap Held.recs := rfl

/-- Attaching to a held record keeps its slot. -/
theorem Held.slots_attachHeld (h : Word64) (x : Held) :
    (attachHeld h x).recs.map RecSlot.slot = x.recs.map RecSlot.slot := by
  cases x with
  | record k r c =>
    unfold attachHeld
    dsimp only
    split <;> rfl
  | attach a => rfl
  | launch n rs c => rfl

theorem slots_map_attachHeld (h : Word64) (l : List Held) :
    ((l.map (attachHeld h)).flatMap Held.recs).map RecSlot.slot = (l.flatMap Held.recs).map RecSlot.slot := by
  simp only [List.map_flatMap, List.flatMap_map, Held.slots_attachHeld]

theorem recs_append_attach (h : Word64) (l : List Held) :
    (l ++ [Held.attach h]).flatMap Held.recs = l.flatMap Held.recs := by
  simp [Held.recs]

@[simp] theorem Task.heldRec_advance (t : Task) (n : Nat) (h : Word64) : (t.advance n).heldRec h = t.heldRec h := by
  unfold Task.heldRec
  rw [Task.advance_held]

@[simp] theorem Task.mayAttach_advance (t : Task) (n : Nat) (r : RecSlot) : (t.advance n).mayAttach r ↔ t.mayAttach r := by
  unfold Task.mayAttach
  rw [Task.advance_rs]

@[simp] theorem State.foundRec_advance (s : State) (t : Task) (n : Nat) (h : Word64) :
    s.foundRec (t.advance n) h = s.foundRec t h := by
  unfold State.foundRec
  rw [Task.heldRec_advance]

/-! ### A record created (R16, R289) -/

/-- A slot that a new record takes is neither in the store of its cluster nor of a record that the creator holds. -/
theorem State.newSlot_free (s : State) (k : ClusterId) (more : List RecSlot) :
    (∀ x ∈ (s.clusters[k.val]).recs, x.slot ≠ (s.newSlot k more).2.1) ∧ ∀ x ∈ more, x.slot ≠ (s.newSlot k more).2.1 := by
  have hfree : (s.newSlot k more).2.1 ∉ s.usedSlots k more := lowestFree_not_mem _
  simp only [State.usedSlots, List.mem_map, List.mem_append, not_exists, not_and] at hfree
  exact ⟨fun x hx => hfree x (.inl (.inl (.inl hx))), fun x hx => hfree x (.inl (.inr hx))⟩

theorem State.newSlot_keeps (s : State) (k : ClusterId) (more : List RecSlot) :
    s.SameOutside (s.newSlot k more).1 ∧ (s.newSlot k more).1.jobs = s.jobs ∧
      ∀ c, (s.newSlot k more).1.stored c = s.stored c := by
  refine ⟨⟨rfl, rfl, rfl, rfl, rfl, rfl⟩, rfl, fun c => ?_⟩
  unfold State.newSlot State.stored
  simp only
  rw [State.clusters_setCluster]
  split
  · next h => rw [h]
  · rfl

/-- A record put at the end of a cluster's store. -/
theorem State.stored_append (s : State) (k c : ClusterId) (r : RecSlot) :
    (s.setCluster k fun x => { x with recs := x.recs ++ [r] }).stored c =
      s.stored c ++ if c = k then [(r.slot, r.tenure, r.rc)] else [] := by
  unfold State.stored
  rw [State.clusters_setCluster]
  by_cases h : c = k
  · simp [h]
  · simp [h]

/-- The record that `State.create` makes. -/
def State.created (s : State) (k : ClusterId) (t : Task) (rc : Rec) (due : Nat) : RecSlot :=
  { slot := (s.newSlot k t.heldRecs).2.1, tenure := (s.newSlot k t.heldRecs).2.2, rc := rc, deps := [], edge := false,
    ins := [], outs := [], wr := t.rs.wr, ready := none, due := if rc.hasbgen then due else 0 }

theorem State.create_of_commit (s : State) (k : ClusterId) (t : Task) {rc : Rec} (due : Nat) (h : rc.commit = true) :
    s.create k t rc due = ((s.newSlot k t.heldRecs).1,
      { t with held := t.held ++ [.record k (s.created k t rc due) false] },
      handleOf k (s.created k t rc due).slot (s.created k t rc due).tenure) := by
  unfold State.create
  simp only [h, if_true]
  rfl

theorem State.create_of_plain (s : State) (k : ClusterId) (t : Task) {rc : Rec} (due : Nat) (h : rc.commit = false) :
    s.create k t rc due =
      (((((s.newSlot k t.heldRecs).1.setCluster k fun c => { c with recs := c.recs ++ [s.created k t rc due] }).addMember
        rc.job rc.launch).refresh), t, handleOf k (s.created k t rc due).slot (s.created k t rc due).tenure) := by
  unfold State.create
  simp only [h, Bool.false_eq_true, if_false]
  rfl

/-- A job after a record is created in it: outside COMMIT the launch of the record counts one member more (R298, R301). -/
def Job.withMember (rc : Rec) (j : Job) : Job :=
  if j.num = rc.job then
    { j with launches := j.launches.map fun l =>
      if l.num = rc.launch ∧ rc.commit = false then { l with pending := l.pending + 1 } else l }
  else j

theorem State.create_jobs (s : State) (k : ClusterId) (t : Task) (rc : Rec) (due : Nat) :
    (s.create k t rc due).1.jobs = s.jobs.map (Job.withMember rc) := by
  cases h : rc.commit with
  | true =>
    have hid : Job.withMember rc = id := by
      funext j
      simp [Job.withMember, h]
    rw [State.create_of_commit s k t due h, hid, List.map_id]
    exact (s.newSlot_keeps ..).2.1
  | false =>
    rw [State.create_of_plain s k t due h, (State.refresh_keeps _).2.1]
    simp only [State.addMember, State.setLaunch, State.setJob, State.setCluster_jobs, (s.newSlot_keeps ..).2.1]
    refine List.map_congr_left fun j _ => ?_
    simp [Job.withMember, h]

theorem State.sameOutside_addMember (s : State) (job launch : Nat) : s.SameOutside (s.addMember job launch) :=
  s.sameOutside_setJob ..

theorem State.create_outside (s : State) (k : ClusterId) (t : Task) (rc : Rec) (due : Nat) :
    s.SameOutside (s.create k t rc due).1 := by
  have hn := (s.newSlot_keeps k t.heldRecs).1
  cases h : rc.commit with
  | true => rw [State.create_of_commit s k t due h]; exact hn
  | false =>
    rw [State.create_of_plain s k t due h]
    have hc := (s.newSlot k t.heldRecs).1.sameOutside_setCluster k fun c => { c with recs := c.recs ++ [s.created k t rc due] }
    dsimp only
    exact ((hn.trans hc).trans (State.sameOutside_addMember _ rc.job rc.launch)).trans (State.refresh_keeps _).1

/-- The store after a record is created outside COMMIT: the new record at the end of its cluster's. -/
theorem State.create_stored (s : State) (k c : ClusterId) (t : Task) {rc : Rec} (due : Nat) (h : rc.commit = false) :
    (s.create k t rc due).1.stored c = s.stored c ++
      if c = k then [((s.created k t rc due).slot, (s.created k t rc due).tenure, rc)] else [] := by
  rw [State.create_of_plain s k t due h, (State.refresh_keeps _).2.2]
  exact (State.stored_append ..).trans (by rw [(s.newSlot_keeps k t.heldRecs).2.2]; rfl)

/-! ### JOIN and SPAWN (R16, R121, R122) -/

/-- What a created record takes from its creator `t` (R16, R288), with the generation asked for (R305). -/
def RecSlot.ChildOf (r : RecSlot) (s : State) (t : Task) (k : ClusterId) (code frame : Word64) (join : Word32)
    (succ : Word64) (gen : BitVec 4) (due : Nat) : Prop :=
  r.rc.code = code ∧ r.rc.frame = frame ∧ r.rc.job = t.rs.rc.job ∧ r.rc.launch = t.rs.rc.launch ∧
    r.rc.prio = t.rs.rc.prio ∧ r.rc.gang = false ∧ r.rc.index = 0xFFFFFFFF ∧ r.rc.join = join ∧ r.rc.succ = succ ∧
    r.rc.attached = 0 ∧ r.rc.hasbgen = (decide (join = 0) && !s.afterOf t) ∧
    (join = 0 → s.afterOf t = false → r.rc.bgen = gen ∧ r.due = due) ∧ handleOf k r.slot r.tenure ≠ 0

/-- The state after a record is created: `s` outside the junctions, and its jobs after the advance (`s1`) with one member
more in the creator's launch. -/
def State.Creates (s s1 s' : State) (t : Task) : Prop :=
  s'.mem = s.mem ∧ s'.cores = s.cores ∧ s'.wmem = s.wmem ∧ s'.flash = s.flash ∧ s'.dies = s.dies ∧ s'.ports = s.ports ∧
    s'.jobs = s1.jobs.map fun j => if j.num = t.rs.rc.job then
      { j with launches := j.launches.map fun l =>
        if l.num = t.rs.rc.launch ∧ t.rs.rc.commit = false then { l with pending := l.pending + 1 } else l } else j

theorem State.created_childOf {s s0 s2 : State} {t t0 : Task} (hrs : t0.rs = t.rs) (hj : s0.jobs = s.jobs)
    (k : ClusterId) (code frame : Word64) (join : Word32) (origin : BitVec 2) (succ : Word64) (gen : BitVec 4) (due : Nat) :
    (s2.created k t0 (childRec t0 code frame join origin succ (s0.afterOf t0) gen) due).ChildOf s t k code frame join succ
      gen due := by
  rw [State.afterOf_of_jobs hj hrs]
  simp only [RecSlot.ChildOf, State.created, childRec, hrs, true_and]
  refine ⟨fun h0 h1 => ?_, handleOf_ne_zero _ _ _⟩
  simp [h0, h1]

section
variable {s s0 s1 : State} {t t0 : Task} {up : Option (ClusterId × Nat)} {gen : BitVec 4} {due : Nat} {rc : Rec}

/-- The new record in the store, with one attached predecessor more on the record that it is attached to. -/
theorem State.oneMore_of_create (ha : s.Attached s0 up) (k : ClusterId) (job : Nat) (h : rc.commit = false) :
    s.OneMore ((s0.askGen job).1.create k t0 rc due).1 k ((s0.askGen job).1.created k t0 rc due) up := by
  have hst := (s0.askGen_keeps job).2
  refine ⟨fun c => ?_, ha.slots k fun e he => ?_⟩
  · calc _ = ((s0.askGen job).1.create k t0 rc due).1.stored c := rfl
      _ = _ := by
        rw [State.create_stored _ _ _ _ _ h, hst, ha.stored]
        rfl
  · exact ((s0.askGen job).1.slot_free_iff k _).mp ((s0.askGen job).1.newSlot_free k t0.heldRecs).1 e (by rwa [hst])

theorem State.creates_of_create (ha : s.Attached s0 up) (k : ClusterId) (hjob : rc.job = t.rs.rc.job)
    (hl : rc.launch = t.rs.rc.launch) (hc : rc.commit = t.rs.rc.commit) :
    s.Creates (s.askGen t.rs.rc.job).1 ((s0.askGen t.rs.rc.job).1.create k t0 rc due).1 t := by
  obtain ⟨hmem, hcores, hwmem, hflash, hdies, hports⟩ :=
    (ha.outside.trans (s0.askGen_keeps t.rs.rc.job).1).trans (State.create_outside _ k t0 rc due)
  refine ⟨hmem, hcores, hwmem, hflash, hdies, hports, ?_⟩
  rw [State.create_jobs, (State.askGen_congr ha.jobs (ha.held _)).2]
  refine List.map_congr_left fun j _ => ?_
  rw [Job.withMember, hjob, hl, hc]

end

/-- Instruction `i` makes a record: at once into the store, or, under COMMIT, among what the task holds until EXIT (R301). -/
def State.Makes (s s1 : State) (t : Task) (k : ClusterId) (code frame : Word64) (gen : BitVec 4) (due : Nat) (i : Instr)
    (t' : Task) (join : Word32) (succ : Word64) (origin : BitVec 2) (held : List Held) (up : Option (ClusterId × Nat))
    (out : Task → Word64 → Task) : Prop :=
  ∃ (s' : State) (r : RecSlot), s.Creates s1 s' t ∧ r.ChildOf s t k code frame join succ gen due ∧ r.rc.origin = origin ∧
    (t.rs.rc.commit = false → s.OneMore s' k r up ∧
      exec i s = .next (s'.setTask s.cur { out t' (handleOf k r.slot r.tenure) with held := held })) ∧
    (t.rs.rc.commit = true → (∀ x ∈ (s.clusters[k.val]).recs, x.slot ≠ r.slot) ∧ (∀ x ∈ t.heldRecs, x.slot ≠ r.slot) ∧
      exec i s = .next (s'.setTask s.cur
        { out t' (handleOf k r.slot r.tenure) with held := held ++ [.record k r false] }))

/-- The record, state and task that JOIN and SPAWN end in, from a state and a task with the successor attached. -/
def State.createChild (s : State) (t : Task) (k : ClusterId) (code frame : Word64) (join : Word32) (origin : BitVec 2)
    (succ : Word64) : State × Task × Word64 :=
  (s.askGen t.rs.rc.job).1.create k t
    (childRec t code frame join origin succ (s.afterOf t) (s.askGen t.rs.rc.job).2.1) (s.askGen t.rs.rc.job).2.2

theorem State.createChild_eq {s s0 s1 : State} {t t0 : Task} {up : Option (ClusterId × Nat)} {gen : BitVec 4} {due : Nat}
    (hg : s.askGen t.rs.rc.job = (s1, gen, due)) (ha : s.Attached s0 up) (hrs : t0.rs = t.rs) (k : ClusterId)
    (code frame : Word64) (join : Word32) (origin : BitVec 2) (succ : Word64) :
    s0.createChild t0 k code frame join origin succ = (s0.askGen t.rs.rc.job).1.create k t0
      (childRec t0 code frame join origin succ (s0.afterOf t0) gen) due := by
  have hsame := (State.askGen_congr ha.jobs (ha.held t.rs.rc.job)).1
  rw [hg] at hsame
  unfold State.createChild
  rw [hrs, hsame]

/-- An instruction that creates a child record as JOIN and SPAWN do makes it. -/
theorem State.makes_of_createChild {s s0 s1 : State} {t t' : Task} {held : List Held} {up : Option (ClusterId × Nat)}
    {gen : BitVec 4} {due : Nat} {i : Instr} {out : Task → Word64 → Task} {k : ClusterId} {code frame succ : Word64}
    {join : Word32} {origin : BitVec 2} (hg : s.askGen t.rs.rc.job = (s1, gen, due)) (ha : s.Attached s0 up)
    (hrs : t'.rs = t.rs) (hheld : (held.flatMap Held.recs).map RecSlot.slot = (t.held.flatMap Held.recs).map RecSlot.slot)
    (hout : ∀ l h, out (t'.withHeld l) h = (out t' h).withHeld l)
    (hexec : let x := s0.createChild (t'.withHeld held) k code frame join origin succ
      exec i s = .next (x.1.setTask s.cur (out x.2.1 x.2.2))) :
    s.Makes s1 t k code frame gen due i t' join succ origin held up out := by
  have hrs0 : (t'.withHeld held).rs = t.rs := (t'.withHeld_rs held).trans hrs
  have hs1 : (s.askGen t.rs.rc.job).1 = s1 := by rw [hg]
  let rc := childRec (t'.withHeld held) code frame join origin succ (s0.afterOf (t'.withHeld held)) gen
  have hcommit : rc.commit = t.rs.rc.commit := congrArg (fun r : RecSlot => r.rc.commit) hrs0
  rw [State.createChild_eq hg ha hrs0] at hexec
  refine ⟨((s0.askGen t.rs.rc.job).1.create k (t'.withHeld held) rc due).1, (s0.askGen t.rs.rc.job).1.created k (t'.withHeld held) rc due,
    hs1 ▸ State.creates_of_create ha k (congrArg (fun r : RecSlot => r.rc.job) hrs0)
      (congrArg (fun r : RecSlot => r.rc.launch) hrs0) hcommit,
    State.created_childOf hrs0 ha.jobs k code frame join origin succ gen due, rfl, fun hc => ?_, fun hc => ?_⟩
  · refine ⟨State.oneMore_of_create ha k _ (hcommit.trans hc), hexec.trans ?_⟩
    rw [State.create_of_plain _ _ _ _ (hcommit.trans hc), hout]
    rfl
  · obtain ⟨hstore, hmine⟩ := (s0.askGen t.rs.rc.job).1.newSlot_free k (t'.withHeld held).heldRecs
    refine ⟨ha.slots k ?_, ?_, hexec.trans ?_⟩
    · rw [← (s0.askGen_keeps t.rs.rc.job).2]
      exact ((s0.askGen t.rs.rc.job).1.slot_free_iff k _).mp hstore
    · have hslots : ∀ n ∈ (held.flatMap Held.recs).map RecSlot.slot,
          n ≠ ((s0.askGen t.rs.rc.job).1.newSlot k (t'.withHeld held).heldRecs).2.1 :=
        List.forall_mem_map.mpr hmine
      rw [hheld] at hslots
      exact fun x hx => hslots x.slot (List.mem_map_of_mem (t.heldRecs_eq ▸ hx))
    · rw [State.create_of_commit _ _ _ _ (hcommit.trans hc)]
      exact congrArg (fun u => Host.Outcome.next (State.setTask _ _ u)) (hout ..)

theorem joinBody_even {rd ra rb : XReg} {n : Word32} {c : CoreId} {pc : Word64} {s : State} {t : Task}
    (h : (t.getX ra).getLsbD 0 = false) :
    let x := s.createChild t (clusterOf c) (t.getX ra) (t.getX rb) n 2 0
    joinBody rd ra rb n c pc s t = .ok (x.1, x.2.1.setX rd x.2.2) := by
  unfold joinBody
  rw [h]
  rfl

theorem joinBody_odd {rd ra rb : XReg} {n : Word32} {c : CoreId} {pc : Word64} {s : State} {t : Task}
    (h : (t.getX ra).getLsbD 0 = true) : joinBody rd ra rb n c pc s t = illegalOp 2 := by
  unfold joinBody
  rw [h]
  rfl

theorem spawnBody_odd {rd ra rb : XReg} {c : CoreId} {pc : Word64} {s : State} {t : Task}
    (h : (t.getX ra).getLsbD 0 = true) : spawnBody rd ra rb c pc s t = illegalOp 2 := by
  unfold spawnBody
  rw [h]
  rfl

theorem spawnBody_refused {rd ra rb : XReg} {c : CoreId} {pc : Word64} {s : State} {t : Task}
    (h : (t.getX ra).getLsbD 0 = false) (ha : s.attach t (t.getX rd) = none) :
    spawnBody rd ra rb c pc s t = illegalOp 3 := by
  unfold spawnBody
  rw [h, ha]
  rfl

theorem spawnBody_attached {rd ra rb : XReg} {c : CoreId} {pc : Word64} {s s0 : State} {t : Task} {held : List Held}
    (h : (t.getX ra).getLsbD 0 = false) (ha : s.attach t (t.getX rd) = some (s0, t.withHeld held)) :
    let x := s0.createChild (t.withHeld held) (clusterOf c) (t.getX ra) (t.getX rb) 0 1 (t.getX rd)
    spawnBody rd ra rb c pc s t = .ok (x.1, x.2.1) := by
  unfold spawnBody
  rw [h, ha]
  rfl

/-- An illegal operation of a C instruction is its trap (R40, R100). -/
theorem cWord_illegalOp {n : Nat} {g : Guard} {fx : Effect} {body : Body} {s : State} {t : Task} {d : Nat}
    (hx : s.Executes g t) (hs : s.Sound s.cur) (hb : body s.cur t.pc s (t.advance n) = illegalOp d) :
    cWord n g fx body s = trapsWith s t 0 2 d 0 := by
  rw [cWord_stop hx.1 hx.2 (State.pairStop_of_noFault hs.1 t fx) hb, State.stopAt_trap (State.pairStop_of_noFault hs.1 t _)]
  rfl

section
variable {s s0 s1 : State} {t : Task} {g : Guard} {rd ra rb : XReg} {n : Word32} {gen : BitVec 4} {due : Nat}
  (hx : s.Executes g t) (hs : s.Sound s.cur) (hg : s.askGen t.rs.rc.job = (s1, gen, due))
  (heven : (t.getX ra).getLsbD 0 = false)
include hx hs hg heven

theorem exec_join_makes :
    s.Makes s1 t (clusterOf s.cur) (t.getX ra) (t.getX rb) gen due (.join g rd ra rb n) (t.advance 4) n 0 2 t.held none
      fun t h => t.setX rd h := by
  have hbody := joinBody_even (rd := rd) (rb := rb) (n := n) (c := s.cur) (pc := t.pc) (s := s) (t := t.advance 4)
    (ra := ra) (by simpa using heven)
  refine State.makes_of_createChild hg (.none s) (Task.advance_rs t 4) rfl (fun l h => Task.setX_withHeld ..) ?_
  rw [exec_join]
  simp only [Task.advance_withHeld, Task.getX_advance] at hbody ⊢
  exact cWord_run hx.1 hx.2 (State.pairStop_of_noFault hs.1 t _) hbody

theorem exec_spawn_makes {held : List Held} {up : Option (ClusterId × Nat)}
    (hat : s.attach (t.advance 2) (t.getX rd) = some (s0, (t.advance 2).withHeld held)) (ha : s.Attached s0 up)
    (hheld : (held.flatMap Held.recs).map RecSlot.slot = (t.held.flatMap Held.recs).map RecSlot.slot) :
    s.Makes s1 t (clusterOf s.cur) (t.getX ra) (t.getX rb) gen due (.spawn g rd ra rb) (t.advance 2) 0 (t.getX rd) 1 held up
      fun t _ => t := by
  have hbody := spawnBody_attached (rd := rd) (rb := rb) (c := s.cur) (pc := t.pc) (s := s) (t := t.advance 2)
    (ra := ra) (by simpa using heven) (by simpa using hat)
  refine State.makes_of_createChild hg ha (Task.advance_rs t 2) hheld (fun _ _ => rfl) ?_
  rw [exec_spawn]
  simp only [Task.getX_advance] at hbody ⊢
  exact cWord_run hx.1 hx.2 (State.pairStop_of_noFault hs.1 t _) hbody

end

/-! ### The reads of a descriptor (R119, R324) -/

theorem State.sameOutside_touchAll (t : Task) (how : Touch) (cls : Option (BitVec 2)) (gs : List Nat) {s s' : State}
    (h : State.touchAll t how cls gs s = some s') : s.SameOutside s' := by
  induction gs generalizing s with
  | nil => cases h; exact .refl _
  | cons g gs ih =>
    unfold State.touchAll at h
    split at h
    · cases h
    · next s2 hg =>
      obtain ⟨st, -, he⟩ := Option.map_eq_some_iff.mp hg
      have hstamp : s.SameOutside s2 := he ▸ ⟨rfl, rfl, rfl, rfl, rfl, rfl⟩
      exact hstamp.trans (ih h)

theorem State.sameOutside_touchAccess {s s' : State} {t : Task} {pa n : Nat} {write tileRow : Bool}
    {cls : Option (BitVec 2)} (h : s.touchAccess t pa n write tileRow cls = some s') : s.SameOutside s' := by
  obtain ⟨s1, h1, h2⟩ := Option.bind_eq_some_iff.mp h
  have hr := State.sameOutside_touchAll _ _ _ _ h1
  split at h2
  · cases h2; exact hr
  · split at h2 <;> exact hr.trans (State.sameOutside_touchAll _ _ _ _ h2)

theorem State.sameOutside_touched (s : State) (t : Task) (x : Xlate) (n : Nat) (write tileRow : Bool) (cls : BitVec 2) :
    s.SameOutside (s.touched t x n write tileRow cls) := by
  unfold State.touched
  split
  · cases h : s.touchAccess t x.pa n write tileRow (some cls) with
    | none => exact .refl s
    | some s' => exact State.sameOutside_touchAccess h
  · exact .refl s

/-- A load that completes changes stamps alone. -/
theorem State.sameOutside_doLoad {s s' : State} {t : Task} {x : Xlate} {a : Acc} {bs : List Byte}
    (h : s.doLoad t x a = .ok (s', bs)) : s.SameOutside s' := by
  unfold State.doLoad at h
  split at h
  · cases h; exact .refl s
  · split at h
    · cases h
    · cases h; exact .refl s
  · split at h
    · cases h
    · cases h; exact s.sameOutside_touched ..

theorem Res.bind_eq_ok {α β : Type} {r : Res α} {f : α → Res β} {b : β} (h : r >>= f = .ok b) :
    ∃ a, r = .ok a ∧ f a = .ok b := by
  cases r with
  | error e => cases h
  | ok a => exact ⟨a, rfl, h⟩

theorem State.sameOutside_load {s s' : State} {c : CoreId} {t : Task} {a : Acc} {bs : List Byte}
    (h : s.load c t a = .ok (s', bs)) : s.SameOutside s' := by
  unfold State.load at h
  split at h
  · cases h
  · obtain ⟨x, -, hx⟩ := Res.bind_eq_ok h
    exact State.sameOutside_doLoad hx

theorem sameOutside_readDesc {c : CoreId} {n va : Nat} {s s' : State} {t : Task} {bs : List Byte}
    (h : readDesc c n va s t = .ok (s', bs)) : s.SameOutside s' := by
  induction n generalizing va s bs with
  | zero => cases h; exact .refl _
  | succ n ih =>
    unfold readDesc at h
    obtain ⟨a, ha, h⟩ := Res.bind_eq_ok h
    obtain ⟨b, hb, h⟩ := Res.bind_eq_ok h
    cases h
    exact (State.sameOutside_load ha).trans (ih hb)

/-! ### What LAUNCH answers (R119) -/

theorem LaunchDesc.bad_iff (d : LaunchDesc) (f : Nat → Bool) : d.bad f = true ↔
    d.reserved = true ∨ d.count = 0 ∨ 2 ^ 31 < d.count ∨ d.code.getLsbD 0 = true ∨ (∃ a, d.after = some a ∧ f a = false) ∨
      (d.fplist = 0 ∧ d.nin + d.nout ≠ 0) ∨ 64 < d.nin ∨ 64 < d.nout := by
  have hafter : (!(d.after.all f)) = true ↔ ∃ a, d.after = some a ∧ f a = false := by
    cases d.after <;> simp
  unfold LaunchDesc.bad
  simp only [Bool.or_eq_true, hafter, decide_eq_true_eq, Bool.and_eq_true, or_assoc]

theorem LaunchDesc.status_denied {d : LaunchDesc} {prio : BitVec 2} {nt : Bool}
    (h : prio.toNat < d.prio.toNat ∨ d.nt = true ∧ (nt = false ∨ d.commit = true)) : d.status prio nt = 3 :=
  if_pos h

theorem LaunchDesc.status_large {d : LaunchDesc} {prio : BitVec 2} {nt : Bool}
    (h : ¬ (prio.toNat < d.prio.toNat ∨ d.nt = true ∧ (nt = false ∨ d.commit = true)))
    (hl : d.gang = true ∧ (16 < d.count ∨ d.paired = true ∧ 8 < d.count)) : d.status prio nt = 1 :=
  (if_neg h).trans (if_pos hl)

theorem LaunchDesc.status_granted {d : LaunchDesc} {prio : BitVec 2} {nt : Bool}
    (h : ¬ (prio.toNat < d.prio.toNat ∨ d.nt = true ∧ (nt = false ∨ d.commit = true)))
    (hl : ¬ (d.gang = true ∧ (16 < d.count ∨ d.paired = true ∧ 8 < d.count))) : d.status prio nt = 0 :=
  (if_neg h).trans (if_neg hl)

/-- Whether a descriptor is refused before its lists are looked at (R119, R324). -/
def State.refusesDesc (s : State) (t : Task) (d : LaunchDesc) (j : Job) (mine : Launch) : Bool :=
  (d.bad fun a => (s.seen (some t) j).launches.any fun l => decide (l.num = a) && decide (l.graph = mine.graph)) ||
    !s.succOk t d.succ

/-- What LAUNCH answers with BAD-DESCRIPTOR: a bad descriptor, or a refused list. -/
theorem State.refuses_iff {α : Type} (s : State) (t : Task) (d : LaunchDesc) (j : Job) (mine : Launch) (lists : Option α) :
    (s.refusesDesc t d j mine = true ∨ lists = none) ↔
      (d.reserved = true ∨ d.count = 0 ∨ 2 ^ 31 < d.count ∨ d.code.getLsbD 0 = true ∨
        (d.fplist = 0 ∧ d.nin + d.nout ≠ 0) ∨ 64 < d.nin ∨ 64 < d.nout ∨ lists = none ∨
        (∃ a, d.after = some a ∧ ∀ l ∈ (s.seen (some t) j).launches, l.num = a → l.graph ≠ mine.graph) ∨
        s.succOk t d.succ = false) := by
  have hfound (a : Nat) : ((s.seen (some t) j).launches.any fun l => decide (l.num = a) && decide (l.graph = mine.graph)) = false ↔
      ∀ l ∈ (s.seen (some t) j).launches, l.num = a → l.graph ≠ mine.graph := by simp
  unfold State.refusesDesc
  rw [Bool.or_eq_true, LaunchDesc.bad_iff]
  simp only [hfound, Bool.not_eq_true', or_assoc, or_left_comm, or_comm]

/-- A descriptor with good fields, a launch to come after in the same graph and a successor that LAUNCH takes. -/
theorem State.refusesDesc_eq_false {s : State} {t : Task} {d : LaunchDesc} {j : Job} {mine : Launch}
    (hres : d.reserved = false) (h0 : 0 < d.count) (hmax : d.count ≤ 2 ^ 31) (hcode : d.code.getLsbD 0 = false)
    (hafter : ∀ a, d.after = some a → ∃ l ∈ (s.seen (some t) j).launches, l.num = a ∧ l.graph = mine.graph)
    (hfp : d.fplist = 0 → d.nin + d.nout = 0) (hnin : d.nin ≤ 64) (hnout : d.nout ≤ 64) (hsucc : s.succOk t d.succ = true) :
    s.refusesDesc t d j mine = false := by
  rw [← Bool.not_eq_true]
  intro hbad
  rcases (s.refuses_iff t d j mine (some ())).mp (.inl hbad) with h | h | h | h | ⟨h, h'⟩ | h | h | h | ⟨a, ha, hl⟩ | h
  · simp [hres] at h
  · omega
  · omega
  · rw [hcode] at h; cases h
  · exact h' (hfp h)
  · omega
  · omega
  · cases h
  · obtain ⟨l, hmem, hnum, hgraph⟩ := hafter a ha
    exact hl l hmem hnum hgraph
  · simp [hsucc] at h

section
variable {s s1 : State} {t : Task} {r : RecSlot} {c : CoreId} {pc : Word64} {rd ra : XReg} {v : Word64} {bs : List Byte}
  {d : LaunchDesc} {j : Job} {mine : Launch} {lists : Option (List (List InEntry × List VRange))}
  (hr : t.rs = r) (hv : t.getX ra = v) (hd : parseDesc bs = d)
  (hdesc : readDesc c 8 v.toNat s t = .ok (s1, bs)) (hj : s1.jobOf r.rc.job = some j)
  (hm : s1.launchOf r.rc.job r.rc.launch = some mine)
  (hlists : readLists (s1.viewOf t) c r.rc.job (some t) d (List.range (if d.count ≤ 2 ^ 31 then d.count else 0)) = .ok lists)
include hr hv hd hdesc hj hm hlists

theorem launchBody_bad (h : s1.refusesDesc t d j mine = true ∨ lists = none) :
    launchBody rd ra c pc s t = .ok (s1, t.setX rd (BitVec.ofNat 64 (2 * 2 ^ 32))) := by
  unfold State.refusesDesc at h
  unfold launchBody
  simp only [hr, hv, hd, hdesc, bind, Except.bind, hj, hm, hlists]
  split
  · rfl
  · next hb => rw [h.resolve_left hb]

variable {fps : List (List InEntry × List VRange)} (hok : s1.refusesDesc t d j mine = false) (hf : lists = some fps)
include hok hf

theorem launchBody_denied {n : Nat} (hs : d.status r.rc.prio r.rc.nt = n) (hn : n ≠ 0) :
    launchBody rd ra c pc s t = .ok (s1, t.setX rd (BitVec.ofNat 64 (n * 2 ^ 32))) := by
  unfold State.refusesDesc at hok
  unfold launchBody
  simp only [hr, hv, hd, hdesc, bind, Except.bind, hj, hm, hlists, hf, hok, Bool.false_eq_true, if_false, hs, if_pos hn]

theorem launchBody_full (hs : d.status r.rc.prio r.rc.nt = 0) (hn : j.freeLaunch = none) :
    launchBody rd ra c pc s t = .ok (s1, t.setX rd (BitVec.ofNat 64 (4 * 2 ^ 32))) := by
  unfold State.refusesDesc at hok
  unfold launchBody
  simp only [hr, hv, hd, hdesc, bind, Except.bind, hj, hm, hlists, hf, hok, Bool.false_eq_true, if_false, hs, ne_eq,
    not_true_eq_false, hn]

theorem launchBody_accepted {num : Nat} (hs : d.status r.rc.prio r.rc.nt = 0) (hn : j.freeLaunch = some num) :
    let x := (s1.askGen r.rc.job).1.accept c t mine d num fps (s1.askGen r.rc.job).2.1 (s1.askGen r.rc.job).2.2
    launchBody rd ra c pc s t = .ok (x.1, x.2.setX rd (BitVec.ofNat 64 num)) := by
  unfold State.refusesDesc at hok
  unfold launchBody
  simp only [hr, hv, hd, hdesc, bind, Except.bind, hj, hm, hlists, hf, hok, Bool.false_eq_true, if_false, hs, ne_eq,
    not_true_eq_false, hn]

end

/-! ### A launch accepted (R288, R301) -/

theorem State.place_keeps (k : ClusterId) (more : List RecSlot) (l : List RecSlot) (s : State) :
    s.SameOutside (State.place k more l s) ∧ (State.place k more l s).jobs = s.jobs := by
  induction l generalizing s with
  | nil => exact ⟨.refl s, rfl⟩
  | cons r rest ih =>
    obtain ⟨hn, hjobs, -⟩ := s.newSlot_keeps k more
    obtain ⟨ho, hj⟩ := ih ((s.newSlot k more).1.setCluster k fun c =>
      { c with recs := c.recs ++ [{ r with slot := (s.newSlot k more).2.1, tenure := (s.newSlot k more).2.2 }] })
    exact ⟨(hn.trans (State.sameOutside_setCluster ..)).trans ho, hj.trans hjobs⟩

theorem State.jobOf_congr {s s' : State} (h : s'.jobs = s.jobs) (n : Nat) : s'.jobOf n = s.jobOf n := by
  unfold State.jobOf
  rw [h]

section
variable (s : State) (c : CoreId) (t : Task) (mine : Launch) (d : LaunchDesc) (num : Nat)
  (fps : List (List InEntry × List VRange)) (g : BitVec 4) (due : Nat)

/-- The launch that an accepted descriptor makes, in its job. -/
def Job.withLaunch (j : Job) : Job :=
  { j with launches := j.launches ++ [launchObj num mine.graph mine.phase (d.target.getD (clusterOf c)) d] }

theorem State.accept_of_commit (h : t.rs.rc.commit = true) :
    s.accept c t mine d num fps g due = (s.setJob t.rs.rc.job (Job.withLaunch c mine d num),
      t.withHeld (t.held ++ [.launch num (launchRecs t.rs.rc.job num d fps g due) false])) := by
  unfold State.accept
  simp only [h, if_true]
  rfl

theorem State.accept_of_plain (h : t.rs.rc.commit = false) :
    s.accept c t mine d num fps g due =
      ((State.place (d.target.getD (clusterOf c)) t.heldRecs (launchRecs t.rs.rc.job num d fps g due)
        ((s.setJob t.rs.rc.job (Job.withLaunch c mine d num)).addToGraph t.rs.rc.job mine.graph)).refresh, t) := by
  unfold State.accept
  simp only [h, Bool.false_eq_true, if_false]
  rfl

theorem State.accept_task : (s.accept c t mine d num fps g due).2 = t.withHeld
    (if t.rs.rc.commit then t.held ++ [.launch num (launchRecs t.rs.rc.job num d fps g due) false] else t.held) := by
  cases h : t.rs.rc.commit with
  | true => rw [State.accept_of_commit s c t mine d num fps g due h]; rfl
  | false => rw [State.accept_of_plain s c t mine d num fps g due h]; rfl

theorem State.sameOutside_addToGraph (job graph : Nat) : s.SameOutside (s.addToGraph job graph) := s.sameOutside_setJob ..

theorem State.accept_outside : s.SameOutside (s.accept c t mine d num fps g due).1 := by
  have hset := s.sameOutside_setJob t.rs.rc.job (Job.withLaunch c mine d num)
  cases h : t.rs.rc.commit with
  | true => rw [State.accept_of_commit s c t mine d num fps g due h]; exact hset
  | false =>
    rw [State.accept_of_plain s c t mine d num fps g due h]
    dsimp only
    exact ((hset.trans (State.sameOutside_addToGraph _ _ mine.graph)).trans (State.place_keeps ..).1).trans
      (State.refresh_keeps _).1

/-- The new launch stands in the creator's job, held back or not (R301). -/
theorem State.accept_job {j : Job} (hj : s.jobOf t.rs.rc.job = some j) :
    ∃ j', (s.accept c t mine d num fps g due).1.jobOf t.rs.rc.job = some j' ∧
      launchObj num mine.graph mine.phase (d.target.getD (clusterOf c)) d ∈ j'.launches := by
  have hset : (s.setJob t.rs.rc.job (Job.withLaunch c mine d num)).jobOf t.rs.rc.job = some (j.withLaunch c mine d num) :=
    State.jobOf_setJob_some hj fun _ => rfl
  have hmem : launchObj num mine.graph mine.phase (d.target.getD (clusterOf c)) d ∈ (j.withLaunch c mine d num).launches := by
    simp [Job.withLaunch]
  cases h : t.rs.rc.commit with
  | true =>
    rw [State.accept_of_commit s c t mine d num fps g due h]
    exact ⟨_, hset, hmem⟩
  | false =>
    rw [State.accept_of_plain s c t mine d num fps g due h]
    dsimp only
    rw [State.jobOf_congr ((State.refresh_keeps _).2.1.trans (State.place_keeps ..).2)]
    exact ⟨_, State.jobOf_setJob_some (f := fun j => { j with graphs := j.graphs.map fun g =>
      if g.num = mine.graph then { g with pending := g.pending + 1 } else g }) hset fun _ => rfl, hmem⟩

end

/-! ### LAUNCH executes (R119, R324) -/

theorem exec_launch_ok {s s' : State} {t t' : Task} {g : Guard} {rd ra : XReg} (hx : s.Executes g t) (hs : s.Sound s.cur)
    (hb : launchBody rd ra s.cur t.pc s (t.advance 2) = .ok (s', t')) :
    exec (.launch g rd ra) s = .next (s'.setTask s.cur t') :=
  (exec_launch s).trans (cWord_run hx.1 hx.2 (State.pairStop_of_noFault hs.1 t _) hb)

/-- An accepted LAUNCH: its number in rd, its records held back under COMMIT, its launch in the creator's job. -/
theorem exec_launch_accepts {s s1 : State} {t : Task} {g : Guard} {rd ra : XReg} {j : Job} {mine : Launch} {d : LaunchDesc}
    {num : Nat} {fps : List (List InEntry × List VRange)} (hx : s.Executes g t) (hs : s.Sound s.cur) (hout : s.SameOutside s1)
    (hj : s1.jobOf t.rs.rc.job = some j)
    (hb : let a := s1.askGen t.rs.rc.job
      let x := a.1.accept s.cur (t.advance 2) mine d num fps a.2.1 a.2.2
      launchBody rd ra s.cur t.pc s (t.advance 2) = .ok (x.1, x.2.setX rd (BitVec.ofNat 64 num))) :
    let gen := (s1.askGen t.rs.rc.job).2
    ∃ (s' : State) (held : List Held),
      exec (.launch g rd ra) s = .next (s'.setTask s.cur (((t.advance 2).setX rd (BitVec.ofNat 64 num)).withHeld held)) ∧
      held = (if t.rs.rc.commit then t.held ++ [.launch num (launchRecs t.rs.rc.job num d fps gen.1 gen.2) false] else t.held) ∧
      s.SameOutside s' ∧ ∃ j', s'.jobOf t.rs.rc.job = some j' ∧
        launchObj num mine.graph mine.phase (d.target.getD (clusterOf s.cur)) d ∈ j'.launches := by
  have hexec := exec_launch_ok hx hs hb
  rw [State.accept_task, Task.setX_withHeld, Task.advance_rs, Task.advance_held] at hexec
  have haccept := (s1.askGen t.rs.rc.job).1.accept_outside s.cur (t.advance 2) mine d num fps (s1.askGen t.rs.rc.job).2.1
    (s1.askGen t.rs.rc.job).2.2
  obtain ⟨j', hj', hl⟩ := (s1.askGen t.rs.rc.job).1.accept_job s.cur (t.advance 2) mine d num fps
    (s1.askGen t.rs.rc.job).2.1 (s1.askGen t.rs.rc.job).2.2 (by rw [Task.advance_rs]; exact State.jobOf_askGen hj)
  rw [Task.advance_rs] at hj'
  exact ⟨_, _, hexec, rfl, (hout.trans (s1.askGen_keeps t.rs.rc.job).1).trans haccept, j', hj', hl⟩

/-! ### CANCEL (R123, R299) -/

theorem bitsAt_level (v : Word64) : bitsAt v.toNat 62 2 = v.toNat / 2 ^ 62 :=
  Nat.mod_eq_of_lt (by have := v.isLt; omega)

theorem bitsAt_low (v n : Nat) : bitsAt v 0 n = v % 2 ^ n := by
  simp [bitsAt]

/-- A task after a cancel has reached what it holds and, maybe, the task itself (R299). -/
def Task.reached (t : Task) (l : List Held) (b : Bool) : Task := { t with held := l, cancel := b }

theorem Task.setX_reached (t : Task) (l : List Held) (b : Bool) (r : XReg) (v : Word64) :
    (t.reached l b).setX r v = (t.setX r v).reached l b := by
  unfold Task.setX Task.reached
  split <;> rfl

section
variable {s : State} {t : Task} {r : RecSlot} {c : CoreId} {pc : Word64} {rd ra : XReg} {v : Word64}
  (hv : t.getX ra = v)
include hv

theorem cancelBody_reserved (h : v.toNat / 2 ^ 32 % 2 ^ 30 ≠ 0) :
    cancelBody rd ra c pc s t = .ok (s, t.setX rd (BitVec.ofNat 64 2)) := by
  subst hv
  exact if_pos h

variable (hr : t.rs = r) (h : bitsAt v.toNat 32 30 = 0)
include hr h

theorem cancelBody_otherJob (hl : v.toNat / 2 ^ 62 = 3) (hn : v.toNat % 2 ^ 32 ≠ r.rc.job) :
    cancelBody rd ra c pc s t = .ok (s, t.setX rd (BitVec.ofNat 64 3)) := by
  simp only [cancelBody, hr, hv, h, bitsAt_level, bitsAt_low, ne_eq, not_true_eq_false, if_false,
    if_pos (And.intro hl hn)]

variable (hmine : ¬ (v.toNat / 2 ^ 62 = 3 ∧ ¬ v.toNat % 2 ^ 32 = r.rc.job))
include hmine

theorem cancelBody_noWork (hw : s.work (some t) r.rc.job (v.toNat / 2 ^ 62) (v.toNat % 2 ^ 32) = none) :
    cancelBody rd ra c pc s t = .ok (s, t.setX rd (BitVec.ofNat 64 2)) := by
  simp only [cancelBody, hr, hv, h, bitsAt_level, bitsAt_low, ne_eq, not_true_eq_false, if_false, if_neg hmine, hw]

variable {ls : List Launch} (hw : s.work (some t) r.rc.job (v.toNat / 2 ^ 62) (v.toNat % 2 ^ 32) = some ls)
include hw

theorem cancelBody_complete (hd : ∀ l ∈ ls, l.done = true) :
    cancelBody rd ra c pc s t = .ok (s, t.setX rd (BitVec.ofNat 64 1)) := by
  simp only [cancelBody, hr, hv, h, bitsAt_level, bitsAt_low, ne_eq, not_true_eq_false, if_false, if_neg hmine, hw,
    if_pos (List.all_eq_true.mpr hd)]

theorem cancelBody_live (hd : ∃ l ∈ ls, l.done = false) :
    let s1 := s.cancelWork r.rc.job fun m => ls.any fun l => decide (l.num = m)
    cancelBody rd ra c pc s t = .ok (s1, (t.setX rd (BitVec.ofNat 64 0)).reached
      (((s1.taskOf c).map Task.held).getD t.held) (t.cancel || ls.any fun l => decide (l.num = r.rc.launch))) := by
  have hlive : ¬ (ls.all fun l => l.done) = true := by simpa using hd
  subst hr
  simp only [cancelBody, hv, h, bitsAt_level, bitsAt_low, ne_eq, not_true_eq_false, if_false, if_neg hmine, hw,
    if_neg hlive, ← Task.setX_reached]
  rfl

end

theorem exec_cancel_ok {s s' : State} {t t' : Task} {g : Guard} {rd ra : XReg} (hx : s.Executes g t)
    (hb : cancelBody rd ra s.cur t.pc s (t.advance 2) = .ok (s', t')) :
    exec (.cancel g rd ra) s = .next (s'.setTask s.cur t') :=
  (exec_cancel s).trans (cWord_run hx.1 hx.2 rfl hb)

/-- Settles O17: JOIN and SPAWN both create a child in the state that SPAWN's attaching leaves (`State.makes_of_createChild`);
LAUNCH and CANCEL answer in the order of their checks. -/
theorem joinSpawnLaunchCancel : Obligations.JoinSpawnLaunchCancel := by
  unfold Obligations.JoinSpawnLaunchCancel
  refine ⟨?_, ?_, ?_⟩
  · intro s s1 t g rd ra rb n gen due hx hs hg
    refine ⟨fun j hj => ?_, fun hodd => ⟨?_, ?_⟩, fun heven h0 hr => ?_, fun heven => ⟨?_, fun h0 => ?_, fun r h0 hr ha => ?_,
      fun k r h0 hn hr ha => ?_⟩⟩
    · exact State.askGen_answer hg hj
    · exact (exec_join s).trans (cWord_illegalOp hx hs (joinBody_odd (by simpa using hodd)))
    · exact (exec_spawn s).trans (cWord_illegalOp hx hs (spawnBody_odd (by simpa using hodd)))
    · exact (exec_spawn s).trans (cWord_illegalOp hx hs (spawnBody_refused (by simpa using heven)
        (State.attach_refused (by simpa using h0) (by simpa using hr))))
    · exact exec_join_makes hx hs hg heven
    · have hat : s.attach (t.advance 2) (t.getX rd) = some (s, (t.advance 2).withHeld t.held) := by
        rw [h0, Task.advance_withHeld, State.attach_zero]
      have hmade := exec_spawn_makes (rb := rb) hx hs hg heven hat (.none s) rfl
      rwa [h0] at hmade
    · exact exec_spawn_makes hx hs hg heven
        (by simpa using State.attach_held (s := s) (t := t.advance 2) h0 (by simpa using hr) (by simpa using ha))
        (.none s) (slots_map_attachHeld ..)
    · refine exec_spawn_makes hx hs hg heven
        (by simpa using State.attach_stored (t := t.advance 2) h0 (by simpa using hn) hr (by simpa using ha))
        (.setRec s k r.slot) ?_
      split
      · rw [recs_append_attach]
      · rfl
  · intro s s1 t g rd ra bs j mine num lists hx hs hdesc hj hm d hlists refused
    have hr := Task.advance_rs t 2
    have hv := Task.getX_advance t 2 ra
    refine ⟨fun h => ?_, fun hres h0 hmax hcode hafter hfp hnin hnout hsucc fps hf => ?_⟩
    · exact exec_launch_ok hx hs (launchBody_bad (d := d) hr hv rfl hdesc hj hm hlists ((State.refuses_iff ..).mpr h))
    · have hok := State.refusesDesc_eq_false hres h0 hmax hcode hafter hfp hnin hnout hsucc
      refine ⟨fun hden => ?_, fun hden hlarge => ?_, fun hden hlarge hn => ?_, fun hden hlarge hn => ?_⟩
      · exact exec_launch_ok hx hs (launchBody_denied hr hv rfl hdesc hj hm hlists hok hf (LaunchDesc.status_denied hden)
          (by decide))
      · exact exec_launch_ok hx hs (launchBody_denied hr hv rfl hdesc hj hm hlists hok hf
          (LaunchDesc.status_large hden hlarge) (by decide))
      · exact exec_launch_ok hx hs (launchBody_full hr hv rfl hdesc hj hm hlists hok hf
          (LaunchDesc.status_granted hden hlarge) hn)
      · obtain ⟨s', held, hexec, hheld, hout, j', hj', hl⟩ := exec_launch_accepts (rd := rd) hx hs (sameOutside_readDesc hdesc) hj
          (launchBody_accepted hr hv rfl hdesc hj hm hlists hok hf (LaunchDesc.status_granted hden hlarge) hn)
        exact ⟨s', held, hexec, hheld, hout.mem, hout.cores, j', _, hj', hl, rfl, rfl, rfl, rfl, rfl, rfl, rfl, rfl⟩
  · intro s t g rd ra hx hs v level m work answers
    have hr := Task.advance_rs t 2
    have hv := Task.getX_advance t 2 ra
    refine ⟨fun hres => ?_, fun hres => ⟨fun hl hm => ?_, fun hm hw => ?_, fun ls hm hw => ⟨fun hd => ?_, fun hd => ?_⟩⟩⟩
    · exact exec_cancel_ok hx (cancelBody_reserved hv hres)
    · exact exec_cancel_ok hx (cancelBody_otherJob hv hr hres hl hm)
    · exact exec_cancel_ok hx (cancelBody_noWork hv hr hres (fun e => e.2 (hm e.1)) hw)
    · exact exec_cancel_ok hx (cancelBody_complete hv hr hres (fun e => e.2 (hm e.1)) hw hd)
    · have hbody := cancelBody_live (c := s.cur) (pc := t.pc) (rd := rd) hv hr hres (fun e => e.2 (hm e.1)) hw hd
      simp only [Task.advance_held, Task.advance_cancel] at hbody
      exact exec_cancel_ok hx hbody

end Machine

end Sys2Proof

/-! Proofs about the strands of a core: its registers (R18 to R20), the state of reset and of a new task, and the step that
runs the decoded instruction (R27, R79, R95). -/

namespace Sys2Proof

namespace Machine

/-! ### The hard-wired registers (R19) -/

/-- Settles O24: each register file discards writes to its register 0 and keeps every other write to itself. -/
theorem hardWiredRegisters : Obligations.HardWiredRegisters := by
  unfold Obligations.HardWiredRegisters
  intro t
  refine ⟨fun v => t.setX_zero v, fun v => t.setP_zero v, fun v => t.setK_zero v, t.getX_zero, t.getP_zero, t.getK_zero,
    fun r v hr => ?_, fun r v hr => ?_, fun r v hr => ?_⟩
  · exact ⟨t.getX_setX_same r v (Fin.val_ne_of_ne hr), fun q hq => t.getX_setX_other r q v hq⟩
  · exact ⟨t.getP_setP_same r v (Fin.val_ne_of_ne hr), fun q hq => t.getP_setP_other r q v hq⟩
  · exact ⟨t.getK_setK_same r v (Fin.val_ne_of_ne hr), fun q hq => t.getK_setK_other r q v hq⟩

/-! ### The state after reset, and the task at dispatch (R18, R20, R270, R387) -/

theorem State.reset_core (c : CoreId) : State.reset.core c = Core.reset := by
  simp [State.core, State.reset]

theorem State.reset_port (p : PortId) : State.reset.ports[p.val] = Port.reset := by
  simp [State.reset]

theorem State.reset_die (d : DieId) : State.reset.dies[d.val] = Die.reset := by
  simp [State.reset]

section
variable (r : RecSlot) (slot : BitVec 12) (gen : BitVec 4) (limit : Nat) (held : Bool)

theorem newTask_getX_other {x : XReg} (h : x ≠ 2) : (newTask r slot gen limit held).getX x = 0 := by
  have hv : ¬ 2 = x.val := fun e => h (Fin.ext e.symm)
  simp [Task.getX, newTask, hv]

theorem newTask_getP_other {p : PReg} (h : p ≠ 0) : (newTask r slot gen limit held).getP p = false := by
  have hv : ¬ p.val = 0 := fun e => h (Fin.ext e)
  simp [Task.getP, newTask, hv, Ne.symm hv]

theorem newTask_getK_other {k : KReg} (h : k ≠ 0) : (newTask r slot gen limit held).getK k = 0 := by
  have hv : ¬ k.val = 0 := fun e => h (Fin.ext e)
  simp [Task.getK, newTask, hv, Ne.symm hv]

theorem newTask_queue (q : VReg) : (newTask r slot gen limit held).queue q = [] := by
  simp [Task.queue, newTask]

theorem newTask_stack (e : Eng) : (newTask r slot gen limit held).stack e = [] := by
  cases e <;> rfl

theorem newTask_cc (n : Fin 16) : (newTask r slot gen limit held).cc[n.val] = 0 := by
  simp [newTask]

theorem newTask_z (z : ZReg) : (newTask r slot gen limit held).z[z.val] = ZTile.zero := by
  simp [newTask]

end

/-- Settles O23: every vector of the reset state and of a new task is one value repeated, but for x2, p0 and k0. -/
theorem resetAndTaskStart : Obligations.ResetAndTaskStart := by
  unfold Obligations.ResetAndTaskStart
  refine ⟨⟨fun c => ?_, fun p => ?_, fun d => ?_, rfl, rfl, rfl⟩, fun r slot gen limit held => ?_⟩
  · rw [State.reset_core]
    exact ⟨rfl, rfl, rfl⟩
  · rw [State.reset_port]
    exact ⟨rfl, rfl, rfl⟩
  · rw [State.reset_die]
    exact ⟨rfl, rfl⟩
  · exact ⟨rfl, rfl, fun _ => newTask_getX_other r slot gen limit held, rfl, fun _ => newTask_getP_other r slot gen limit held,
      rfl, fun _ => newTask_getK_other r slot gen limit held, newTask_queue r slot gen limit held,
      newTask_stack r slot gen limit held, newTask_cc r slot gen limit held, newTask_z r slot gen limit held, rfl, rfl, rfl,
      rfl, rfl, rfl, rfl, rfl, rfl⟩

/-! ### A step of the strand (R27, R79, R270, R304) -/

theorem State.nextInstr_plain {s : State} {c : CoreId} {t : Task} {ps : List Parcel} {i : Instr}
    (hf : s.fetchText c t t.pc = .ok ps) (hd : decodeParcels ps = .instr i) (hv : t.rep.vactive = false)
    (hc : t.rep.cactive = false) : s.nextInstr c t = .ok (i, headParcels (ps.headD 0)) := by
  unfold State.nextInstr
  simp [hf, hd, Task.stepped, hv, hc]

/-- A strand whose next instruction is well formed and within the milestone distance executes it in its turn. -/
theorem State.strand_instr {s : State} {t : Task} {i : Instr} {n : Nat} (hr : s.running = some t)
    (hw : s.waitsAtomic s.cur = false) (hn : s.nextInstr s.cur t = .ok (i, n)) (hd : t.dist + n ≤ t.limit) :
    s.strand = noteGroup s t i (s.inTurn t i (exec i)) := by
  have ho : t.overdue n = false := by simpa [Task.overdue] using hd
  unfold State.strand
  simp [hr, hw, hn, ho]

/-- With an empty script a core whose task is ready for an instruction runs its strand, unless it is a command's turn. -/
theorem State.byDefault_strand {s : State} {t : Task} (hr : s.running = some t) (hc : t.cmds = [] ∨ s.tick % 2 = 0) :
    s.byDefault = s.strand := by
  obtain ⟨-, hdie, hst, htask, hwait, -⟩ := State.running_cases hr
  have hturn : (!t.cmds.isEmpty && decide (s.tick % 2 = 1)) = false := by
    rcases hc with h | h <;> simp [h]
  unfold State.byDefault
  simp only [hst, State.taskOf, htask, hwait, hdie, hturn]
  simp [State.waitTurn, hwait]

theorem State.enginesOf_of_noAddrs {s : State} {c : CoreId} {t : Task} {i : Instr} (h : atomicAddrs t i = []) :
    s.enginesOf c t i = [] := by
  unfold State.enginesOf
  rw [h]
  split <;> rfl

theorem State.inTurn_of_idle {s : State} {t : Task} {i : Instr} {run : State → Out}
    (h : ∀ k ∈ s.enginesOf s.cur t i, (s.clusters[k.val]).areqs = []) : s.inTurn t i run =
      run ((s.enginesOf s.cur t i).foldl (fun s k => s.setCluster k fun x => { x with granted := s.cur }) s) := by
  unfold State.inTurn
  rw [if_neg]
  simpa using h

theorem State.inTurn_of_busy {s : State} {t : Task} {i : Instr} {run : State → Out}
    (h : ∃ k ∈ s.enginesOf s.cur t i, (s.clusters[k.val]).areqs ≠ []) :
    s.inTurn t i run = .next (s.request s.cur i (s.enginesOf s.cur t i)) := by
  unfold State.inTurn
  rw [if_pos]
  simpa using h

theorem noteGroup_of_noReads {s : State} {t : Task} {i : Instr} (h : vReads i = none) (o : Out) : noteGroup s t i o = o := by
  unfold noteGroup
  rw [h]

theorem noteGroup_next (s s' : State) (t : Task) (i : Instr) : noteGroup s t i (.next s') = .next s' ∨
    ∃ reads, vReads i = some reads ∧ noteGroup s t i (.next s') = .next (s'.issueV s.cur t.rs.rc.paired s.tick reads) := by
  unfold noteGroup
  split
  next reads s'' hreads hs =>
    cases hs
    dsimp only
    split
    · exact .inr ⟨reads, hreads, rfl⟩
    · exact .inl rfl
  next => exact .inl rfl

theorem Core.issueV_vbsplit (tick : Nat) (reads : List VReg) (k : Core) :
    ∃ (l : Option (List VReg)) (n : Word32), n ∈ [k.vbsplit, satSucc k.vbsplit] ∧
      k.issueV tick reads = { k with vgroup := l, vbsplit := n } := by
  unfold Core.issueV
  split
  · split
    · refine ⟨none, _, ?_, rfl⟩
      split <;> simp
    · exact ⟨some reads, k.vbsplit, by simp, rfl⟩
  · exact ⟨some reads, k.vbsplit, by simp, rfl⟩

/-- Settles O21: the strand finds the decoded instruction (`State.nextInstr_plain`), whichever entry runs it. -/
theorem stepRunsTheDecodedInstruction : Obligations.StepRunsTheDecodedInstruction := by
  unfold Obligations.StepRunsTheDecodedInstruction
  intro s t ps i hr hf hd hv hc hlim hw ks out
  have hstrand : s.strand = out := State.strand_instr hr hw (State.nextInstr_plain hf hd hv hc) hlim
  refine ⟨fun hs hturn => ?_, fun s0 rest hs0 hs => ?_, fun ha => ?_, State.inTurn_of_idle, State.inTurn_of_busy,
    fun o h => noteGroup_of_noReads h o, fun s' => noteGroup_next s s' t i, Core.issueV_vbsplit⟩
  · rw [← hstrand, ← State.byDefault_strand hr hturn, step, State.stepOnce, hs]
  · rw [← hstrand, step, State.stepOnce, hs0]
    exact congrArg (fun x : State => timed x.strand) hs.symm
  · have hnone := State.enginesOf_of_noAddrs (s := s) (c := s.cur) ha
    rw [State.inTurn_of_idle (by simp [hnone]), hnone]
    rfl

end Machine

end Sys2Proof

/-! Proofs about what the C strand's frame and its SYS and mask transfers do: guards (R30), MILE and REP (R31 to R34, R42, R136),
mask and lane transfers (R132, R133). -/

namespace Sys2Proof

namespace Machine

/-! ### An instruction that is guarded off (R30) -/

/-- With guard `g` failing, a meaning moves the running task past `n` parcels and does nothing else. -/
def Skips (n : Nat) (g : Guard) (m : State → Out) : Prop :=
  ∀ (s : State) (t : Task), s.running = some t → t.passes g = false → m s = onlyTask s (t.advance n)

theorem skips_cWord (n : Nat) (g : Guard) (fx : Effect) (body : Body) : Skips n g (cWord n g fx body) :=
  fun _ _ hr hg => cWord_skip hr hg

theorem length_encodeV (fm : VForm) (f : VF) : (encodeV fm f).length = if f.lit.isSome then 5 else 3 := by
  unfold encodeV
  split <;> simp [litParcels, *]

theorem parcelCount_of_vForm {i : Instr} {fm : VForm} {f : VF} (h : vForm i = some (fm, f)) :
    parcelCount i = if f.lit.isSome then 5 else 3 := by
  unfold parcelCount encode
  rw [h]
  exact length_encodeV fm f

theorem skips_vWord {i : Instr} {fm : VForm} {f : VF} (fx : Effect) (body : Body) (h : vForm i = some (fm, f)) :
    Skips (parcelCount i) f.g (vWord f fx body) := by
  intro s t hr hg
  rw [parcelCount_of_vForm h]
  exact vWord_skip hr hg

theorem skips_brk (g : Guard) (code : BitVec 16) : Skips 2 g (execBrk g code) := by
  intro s t hr hg
  have hskip := cWord_skip (n := 2) (fx := none) (body := regs fun _ _ => raise 19 0 code.toNat) hr hg
  unfold execBrk
  simpa [hr, hg, onlyTask] using hskip

/-- A REP that is guarded off still checks the head it would repeat (R31). -/
theorem execRep_skip {g : Guard} {n : BitVec 6} {d a b c : Bool} {s : State} {t : Task} {h : Parcel} (hr : s.running = some t)
    (hg : t.passes g = false) (hf : s.fetchParcel s.cur t (t.pc.toNat + 4) = .ok h) (hok : repTargetOk h c = true) :
    execRep g n d a b c s = onlyTask s (t.advance 2) := by
  unfold execRep
  simp only [hr, hf, hok, Bool.not_true, Bool.false_eq_true, if_false]
  exact cWord_skip hr hg

/-- Every guarded instruction but REP is a C word of its own length, a V word, or BRK, which falls back to a C word. -/
theorem exec_skips {i : Instr} {g : Guard} (hg : guardOf i = some g) (hrep : ∀ g n d a b c, i ≠ .rep g n d a b c) :
    Skips (parcelCount i) g (exec i) := by
  cases i with
  | rep => exact (hrep _ _ _ _ _ _ rfl).elim
  | brk g code =>
    cases hg
    exact skips_brk g code
  | nop | trap | mile | ntdrain | exit | add | sub | and | or | xor | shl | shr | sra | addi | addiLit | movi
    | moviLit | andi | andiLit | ori | oriLit | xori | xoriLit | shli | shliLit | shri | shriLit | srai | sraiLit
    | mul | mulh | mulhu | div | divu | rem | remu | min | max | minu | maxu | clz | ctz | popc | rol | sext | zext
    | bfx | bfi | lea | cmp | cmpi | cmpiLit | pand | por | pxor | pandn | pnot | pmov | pset | pclr | br | call
    | jmp | callr | ret | ldB | ldBLit | ldH | ldHLit | ldW | ldWLit | ldD | ldDLit | stB | stBLit | stH | stHLit
    | stW | stWLit | stD | stDLit | aadd | aand | aor | axor | amin | amax | aswap | cas | spawn | launch | join
    | cancel | waitc | bar | tid | ctopen | ctclose | csrr | csrw | csrs | csrc | vget | kpopc | kfirst | kgetw
    | ksetw =>
    cases hg
    exact skips_cWord _ _ _ _
  | vld | vlds | vldg | vldt | vldth | vldb | vst | vsts | vstx | vstt | vstn | vadd | vsub | vmul | vmulh | vmin
    | vmax | vabs | vneg | vmad | vmsub | vaddsat | vsubsat | vand | vor | vxor | vandn | vnot | vshl | vshr | vsra
    | vpopc | vclz | vctz | vbrev | vfadd | vfsub | vfmul | vfmin | vfmax | vfabs | vfneg | vfsgn | vfma | vfms
    | vfnma | vfnms | vrsqa | vrcpa | vexpa | vloga | vsqrt | vfdiv | vsel | vmov | viota | vbcast | vpop | vperm
    | vslideup | vslidedn | vzip | vunzip | vrev | vrsum | vrmin | vrmax | vfrsum | vfrmin | vfrmax | vrand | vror
    | vwadd | vwmul | vwmad | vwcvt | vwcvt4 | vnsat | vntrunc | vcvt | vcvts | vcvtd | vcvtq | vcks | vckv | vckx
    | vcki | kand | kor | kxor | kandn | knot | kmov | kset | kclr | vamo | vcmp =>
    cases hg
    exact skips_vWord _ _ rfl
  | _ => cases hg

/-- Settles O22: the frame of every guarded instruction skips it (`exec_skips`); REP after its check. -/
theorem guardedOffDoesNothing : Obligations.GuardedOffDoesNothing := by
  unfold Obligations.GuardedOffDoesNothing
  intro s t i g hr hg hoff hcheck
  by_cases hrep : ∃ g n d a b c, i = .rep g n d a b c
  · obtain ⟨g', n, d, a, b, c, rfl⟩ := hrep
    cases hg
    obtain ⟨h, hf, hok⟩ := hcheck n d a b c rfl
    exact execRep_skip hr hoff hf hok
  · exact exec_skips hg (fun g n d a b c e => hrep ⟨g, n, d, a, b, c, e⟩) s t hr hoff

/-! ### MILE (R42, R136) -/

theorem Task.liveOk_iff (t : Task) (ef : BitVec 8) (vq : Word32) : t.liveOk ef vq = true ↔
    ¬((∃ q : Fin 32, vq.getLsbD q.val = false ∧ t.v[q.val] ≠ []) ∨
      (ef.getLsbD 0 = false ∧ t.mStack ≠ []) ∨ (ef.getLsbD 1 = false ∧ t.xStack ≠ []) ∨
      (ef.getLsbD 2 = false ∧ t.pStack ≠ []) ∨ (ef.getLsbD 3 = false ∧ t.sStack ≠ [])) := by
  have hor (b : Bool) {α : Type} (l : List α) : (b || l.isEmpty) = true ↔ ¬(b = false ∧ l ≠ []) := by
    cases b <;> simp
  simp only [Task.liveOk, Bool.and_eq_true, List.all_eq_true, List.mem_finRange, true_implies, hor, not_or, not_exists,
    and_assoc]

theorem Task.liveOk_advance (t : Task) (n : Nat) (ef : BitVec 8) (vq : Word32) : (t.advance n).liveOk ef vq = t.liveOk ef vq := by
  simp [Task.liveOk]

theorem Task.arithTrap_advance (t : Task) (n : Nat) : (t.advance n).arithTrap = t.arithTrap := by
  simp [Task.arithTrap]

section
variable {s : State} {t : Task} {zt ef : BitVec 8} {vq : Word32} {c : CoreId} {pc : Word64}

theorem mileBody_live (hc : t.cmds = []) (h : t.liveOk ef vq = false) : mileBody zt ef vq c pc s t = illegalOp 8 := by
  simp [mileBody, hc, h]

theorem mileBody_flags (hc : t.cmds = []) (h : t.liveOk ef vq = true) (ha : t.arithTrap = true) :
    mileBody zt ef vq c pc s t = raise 14 0 0 := by
  simp [mileBody, hc, h, ha]

theorem mileBody_passes (hc : t.cmds = []) (h : t.liveOk ef vq = true) (ha : t.arithTrap = false) (hk : t.cancel = false)
    (hp : (s.core c).preempt = false) :
    mileBody zt ef vq c pc s t = .ok (s, { t.clearDead zt ef with dist := 0, masks := ⟨zt, ef, vq⟩ }) := by
  have hk' : (t.clearDead zt ef).cancel = false := hk
  simp [mileBody, hc, h, ha, hk', hp]

end

/-- A C instruction whose body raises a precise trap takes it (R40). -/
theorem cWord_raise {n : Nat} {g : Guard} {fx : Effect} {body : Body} {s : State} {t : Task} {cause detail addr : Nat}
    (hx : s.Executes g t) (hs : s.Sound s.cur) (hb : body s.cur t.pc s (t.advance n) = raise cause detail addr) :
    cWord n g fx body s = trapsWith s t 0 cause detail (BitVec.ofNat 64 addr) := by
  rw [cWord_stop hx.1 hx.2 (State.pairStop_of_noFault hs.1 t fx) hb, State.stopAt_trap (State.pairStop_of_noFault hs.1 t _)]
  rfl

/-! ### REP (R31 to R34) -/

theorem bitsAt_class (h : Parcel) : bitsAt h.toNat 13 3 = h.toNat / 2 ^ 13 :=
  Nat.mod_eq_of_lt (by have := h.isLt; omega)

theorem repTargetOk_iff (h : Parcel) (c : Bool) : repTargetOk h c = true ↔
    (h.toNat / 2 ^ 13 = 1 ∨ (h.toNat / 2 ^ 13 = 0 ∧
      (1 ≤ h.toNat / 2 ^ 8 % 32 ∧ h.toNat / 2 ^ 8 % 32 ≤ 6 ∨ 12 ≤ h.toNat / 2 ^ 8 % 32 ∧ h.toNat / 2 ^ 8 % 32 ≤ 19) ∧
      c = false)) := by
  have hop : bitsAt h.toNat 8 5 = h.toNat / 2 ^ 8 % 32 := rfl
  simp only [repTargetOk, bitsAt_class, hop, Bool.or_eq_true, Bool.and_eq_true, decide_eq_true_iff, Bool.not_eq_true',
    and_assoc]

theorem execRep_runs {g : Guard} {n : BitVec 6} {d a b c : Bool} {s : State} {t : Task} {h : Parcel} (hx : s.Executes g t)
    (hf : s.fetchParcel s.cur t (t.pc.toNat + 4) = .ok h) (hok : repTargetOk h c = true) :
    execRep g n d a b c s =
      onlyTask s ((t.advance 2).startRepeat (decide (bitsAt h.toNat 13 3 = 1)) (n.toNat + 1) d a b c) := by
  unfold execRep
  simp only [hx.1, hf, hok, Bool.not_true, Bool.false_eq_true, if_false]
  exact cWord_pure hx.1 hx.2

theorem execRep_refused {g : Guard} {n : BitVec 6} {d a b c : Bool} {s : State} {t : Task} {h : Parcel}
    (hr : s.running = some t) (hf : s.fetchParcel s.cur t (t.pc.toNat + 4) = .ok h) (hok : repTargetOk h c = false)
    (hs : s.Sound s.cur) : execRep g n d a b c s = trapsWith s t 0 1 8 0 := by
  unfold execRep
  simp only [hr, hf, hok, Bool.not_false, if_true]
  rw [State.stopAt_trap (State.pairStop_of_noFault hs.1 t _)]
  rfl

/-- Settles O12: MILE in the order of its checks; REP by the class and op of the head it repeats. -/
theorem milestoneAndRepeat : Obligations.MilestoneAndRepeat := by
  unfold Obligations.MilestoneAndRepeat
  refine ⟨?_, ?_⟩
  · intro s t g zt ef vq hx hc live flags
    have hcmds : (t.advance 4).cmds = [] := by simp [hc]
    have hlive : (t.advance 4).liveOk ef vq = true ↔ ¬live := by rw [Task.liveOk_advance]; exact t.liveOk_iff ef vq
    have harith : (t.advance 4).arithTrap = true ↔ flags ≠ 0 := by rw [Task.arithTrap_advance]; exact decide_eq_true_iff
    refine ⟨fun hl hs => ?_, fun hl hf hs => ?_, fun hl hf hk hp => ?_⟩
    · exact (exec_mile s).trans (cWord_illegalOp hx hs (mileBody_live hcmds (by simpa using mt hlive.mp (not_not.mpr hl))))
    · exact (exec_mile s).trans (cWord_raise hx hs (mileBody_flags hcmds (hlive.mpr hl) (harith.mpr hf)))
    · have hbody := mileBody_passes (zt := zt) (pc := t.pc) (s := s) hcmds (hlive.mpr hl)
        (by simpa using mt harith.mp (not_not.mpr hf)) (by simpa using hk) hp
      refine (exec_mile s).trans ((cWord_run hx.1 hx.2 rfl hbody).trans ?_)
      simp only [Task.clearDead, Task.advance_z, Task.advance_front, Front.clear, onlyTask]
  · intro s t g n d a b c h hr hf cls op ok
    refine ⟨fun hok hg => ?_, fun hok hs => ?_⟩
    · have hcls : bitsAt h.toNat 13 3 = cls := bitsAt_class h
      exact ⟨_, (exec_rep s).trans (execRep_runs ⟨hr, hg⟩ hf ((repTargetOk_iff h c).mpr hok)), rfl, rfl, rfl, rfl, rfl, rfl,
        congrArg (fun m => decide (m = 1)) hcls, rfl⟩
    · exact (exec_rep s).trans (execRep_refused hr hf (by simpa using mt (repTargetOk_iff h c).mp hok) hs)

/-! ### Masks and lanes as the transfers read them (R132, R133) -/

theorem popcOf_eq_countP {n : Nat} (a : BitVec n) : popcOf a = (List.range n).countP fun i => a.getLsbD i := by
  have hfold (l : List Nat) (k : Nat) :
      l.foldl (fun k i => k + bitNat (a.getLsbD i)) k = k + l.countP fun i => a.getLsbD i := by
    induction l generalizing k with
    | nil => rfl
    | cons i l ih =>
      rw [List.foldl_cons, ih, List.countP_cons, bitNat]
      omega
  simpa [popcOf] using hfold (List.range n) 0

theorem find?_range_getD (n : Nat) (p : Nat → Bool) :
    ((List.range n).find? p).getD n ≤ n ∧ (∀ j, j < ((List.range n).find? p).getD n → p j = false) ∧
      (((List.range n).find? p).getD n < n → p (((List.range n).find? p).getD n) = true) := by
  cases h : (List.range n).find? p with
  | none =>
    have hnone := List.find?_eq_none.mp h
    exact ⟨le_rfl, fun j hj => by simpa using hnone j (List.mem_range.mpr hj), fun hlt => absurd hlt (lt_irrefl n)⟩
  | some k =>
    obtain ⟨hpk, hkn, hbefore⟩ := List.find?_range_eq_some.mp h
    exact ⟨(List.mem_range.mp hkn).le, fun j hj => by simpa using hbefore j hj, fun _ => hpk⟩

theorem maskWord_eq (m : MaskBits) (i : Nat) : maskWord m i = m.extractLsb' (64 * i) 64 := by
  apply BitVec.eq_of_getLsbD_eq
  intro j hj
  simp [maskWord, hj]

theorem getLsbD_setMaskWord (m : MaskBits) (i : Nat) (v : Word64) {j : Nat} (hj : j < 1024) :
    (setMaskWord m i v).getLsbD j =
      if 64 * i ≤ j ∧ j < 64 * i + 64 then v.getLsbD (j - 64 * i) else m.getLsbD j := by
  simp only [setMaskWord, BitVec.getLsbD_or, BitVec.getLsbD_and, BitVec.getLsbD_not, BitVec.getLsbD_shiftLeft,
    BitVec.getLsbD_setWidth, BitVec.getLsbD_allOnes, hj]
  by_cases hlo : j < 64 * i
  · simp [hlo, Nat.not_le.mpr hlo]
  · have hword : j - 64 * i < 64 ↔ j < 64 * i + 64 := by omega
    by_cases hhi : j < 64 * i + 64
    · simp [hlo, hhi, Nat.not_lt.mp hlo, hword, show j - 64 * i < 1024 by omega]
    · simp [hlo, hhi, hword, BitVec.getLsbD_of_ge v (j - 64 * i) (by omega)]

theorem toSigned_toNat {w : Nat} (hw : 0 < w) (x : BitVec w) : toSigned w x.toNat = x.toInt := by
  have hpow : 2 ^ w = 2 * 2 ^ (w - 1) := by rw [← Nat.pow_succ', Nat.succ_eq_add_one, Nat.sub_add_cancel hw]
  rw [toSigned, BitVec.toInt_eq_toNat_cond]
  congr 1
  rw [hpow]
  exact propext ⟨fun h => by omega, fun h => by omega⟩

theorem laneSizeBits_pos (z : LaneSize) : 0 < laneSizeBits z := by
  cases z <;> decide

theorem signedLane_eq (z : LaneSize) (e : Entry) (i : Nat) :
    signedLane z e i = (e.data.extractLsb' (laneSizeBits z * i) (laneSizeBits z)).signExtend 64 := by
  have hbits : bitsAt e.data.toNat (laneSizeBits z * i) (laneSizeBits z) =
      (e.data.extractLsb' (laneSizeBits z * i) (laneSizeBits z)).toNat := by
    rw [bitsAt, BitVec.extractLsb'_toNat, Nat.shiftRight_eq_div_pow]
  rw [signedLane, hbits, toSigned_toNat (laneSizeBits_pos z)]
  rfl

section
variable {s : State} {t : Task} {g : Guard} {rd ra rb : XReg} {kd ka : KReg} (hx : s.Executes g t)
include hx

theorem exec_kgetw_run (hi : (t.getX rb).toNat ≤ 15) : exec (.kgetw g rd ka rb) s =
    onlyTask s ((t.advance 2).setX rd ((t.getK ka).extractLsb' (64 * (t.getX rb).toNat) 64)) := by
  refine (exec_kgetw s).trans (cWord_regs hx.1 hx.2 ?_)
  simp [Nat.not_lt.mpr hi, maskWord_eq]

theorem exec_ksetw_run (hi : (t.getX rb).toNat ≤ 15) : exec (.ksetw g kd ra rb) s =
    onlyTask s ((t.advance 2).setK kd (setMaskWord (t.getK kd) (t.getX rb).toNat (t.getX ra))) := by
  refine (exec_ksetw s).trans (cWord_regs hx.1 hx.2 ?_)
  simp [Nat.not_lt.mpr hi]

theorem exec_kgetw_index (hi : 15 < (t.getX rb).toNat) (hs : s.Sound s.cur) :
    exec (.kgetw g rd ka rb) s = trapsWith s t 0 2 6 0 :=
  (exec_kgetw s).trans (cWord_illegalOp hx hs (by simp [regs, hi, illegalOp, raise]))

theorem exec_ksetw_index (hi : 15 < (t.getX rb).toNat) (hs : s.Sound s.cur) :
    exec (.ksetw g kd ra rb) s = trapsWith s t 0 2 6 0 :=
  (exec_ksetw s).trans (cWord_illegalOp hx hs (by simp [regs, hi, illegalOp, raise]))

variable {z : LaneSize} {q : VReg} {e : Entry} {rest : List Entry}

theorem exec_vget_run (hq : t.queue q = e :: rest) (hi : (t.getX rb).toNat < 4096 / laneSizeBits z) :
    exec (.vget g z rd q rb) s = onlyTask s ((t.advance 2).setX rd
      ((e.data.extractLsb' (laneSizeBits z * (t.getX rb).toNat) (laneSizeBits z)).signExtend 64)) := by
  refine (exec_vget s).trans (cWord_regs hx.1 hx.2 ?_)
  simp [hq, Nat.not_le.mpr hi, signedLane_eq]

theorem exec_vget_index (hq : t.queue q = e :: rest) (hi : 4096 / laneSizeBits z ≤ (t.getX rb).toNat)
    (hs : s.Sound s.cur) : exec (.vget g z rd q rb) s = trapsWith s t 0 2 6 0 :=
  (exec_vget s).trans (cWord_illegalOp hx hs (by simp [regs, hq, hi, illegalOp, raise]))

theorem exec_vget_empty (hq : t.queue q = []) (hs : s.Sound s.cur) :
    exec (.vget g z rd q rb) s = trapsWith s t 0 3 0 0 :=
  (exec_vget s).trans (cWord_raise hx hs (by simp [regs, hq, raise]))

end

/-- Settles O16: each transfer's check on its index, and its value bit by bit. -/
theorem maskAndLaneTransfers : Obligations.MaskAndLaneTransfers := by
  unfold Obligations.MaskAndLaneTransfers
  intro s t g rd ra rb kd ka hx m i
  obtain ⟨hle, hbefore, hat⟩ := find?_range_getD 1024 m.getLsbD
  refine ⟨?_, ⟨ctzOf m, hle, ?_, hbefore, hat⟩, fun hi => ⟨exec_kgetw_run hx hi, _, exec_ksetw_run hx hi, fun j hj =>
    getLsbD_setMaskWord _ i _ hj⟩, fun hi hs => ⟨exec_kgetw_index hx hi hs, exec_ksetw_index hx hi hs⟩,
    fun z q e rest => ?_⟩
  · refine ((exec_kpopc s).trans (cWord_pure hx.1 hx.2)).trans ?_
    simp only [maskCount, Task.getK_advance, popcOf_eq_countP, onlyTask, m]
  · refine ((exec_kfirst s).trans (cWord_pure hx.1 hx.2)).trans ?_
    simp only [maskCount, Task.getK_advance, onlyTask, m]
  · exact ⟨exec_vget_run (z := z) hx, exec_vget_index (z := z) hx, exec_vget_empty hx⟩

end Machine

end Sys2Proof

/-! Proofs about the element-wise V instructions and their queue traps (R138 to R142, R153). -/

namespace Sys2Proof

namespace Machine

/-! ### Lanes as bit vectors (R138, R153) -/

theorem ofInt_toNat_self {w : Nat} (a : BitVec w) : BitVec.ofInt w (a.toNat : Int) = a := by
  rw [BitVec.ofInt_natCast]
  simp

theorem ofNat_ofInt (w : Nat) (i : Int) : BitVec.ofNat w (ofInt w i) = BitVec.ofInt w i := by
  apply BitVec.eq_of_toNat_eq
  have hpos : (0 : Int) < ((2 ^ w : Nat) : Int) := by positivity
  have hlt := Int.emod_lt_of_pos i hpos
  have hnn := Int.emod_nonneg i hpos.ne'
  rw [BitVec.toNat_ofNat, BitVec.toNat_ofInt, ofInt, Nat.mod_eq_of_lt (by omega)]

theorem ofInt_sub_eq {w : Nat} (x y : Int) : BitVec.ofInt w (x - y) = BitVec.ofInt w x - BitVec.ofInt w y := by
  rw [sub_eq_add_neg, BitVec.ofInt_add, BitVec.ofInt_neg, BitVec.sub_eq_add_neg]

/-- A lane read as a number, unsigned or in two's complement (R138). -/
def laneNum {w : Nat} (u : Bool) (a : BitVec w) : Int := if u then (a.toNat : Int) else a.toInt

theorem laneNum_le_iff {w : Nat} (u : Bool) (a b : BitVec w) :
    (if u then decide (a.toNat ≤ b.toNat) else decide (a.toInt ≤ b.toInt)) = true ↔ laneNum u a ≤ laneNum u b := by
  cases u <;> simp [laneNum]

/-- Clamping to a lane's range, which is not empty. -/
theorem clampLane_eq (w : Nat) (u : Bool) (v : Int) : BitVec.ofNat w (clampLane u w v) = BitVec.ofInt w
    (if u then max 0 (min (2 ^ w - 1) v) else max (-2 ^ (w - 1)) (min (2 ^ (w - 1) - 1) v)) := by
  have hclamp (lo hi : Int) (h : lo ≤ hi) : (if v < lo then lo else if hi < v then hi else v) = max lo (min hi v) := by
    split
    · rw [min_eq_right (by omega), max_eq_left (by omega)]
    · split
      · rw [min_eq_left (by omega), max_eq_right h]
      · rw [min_eq_right (by omega), max_eq_right (by omega)]
  have h1 : (0 : Int) < 2 ^ w := by positivity
  have h2 : (0 : Int) < 2 ^ (w - 1) := by positivity
  rw [clampLane, ofNat_ofInt]
  cases u
  · exact congrArg _ (hclamp _ _ (by simp only [Bool.false_eq_true, if_false]; omega))
  · exact congrArg _ (hclamp _ _ (by simp only [if_true]; omega))

/-- The high half of a product of `2 * w` bits is its integer quotient by `2 ^ w`. -/
theorem extractLsb'_ofInt_high (w : Nat) (z : Int) :
    (BitVec.ofInt (2 * w) z).extractLsb' w w = BitVec.ofInt w (z / 2 ^ w) := by
  have hp : (0 : Int) < 2 ^ w := by positivity
  have hz : z % (2 ^ w * 2 ^ w) / 2 ^ w = z / 2 ^ w % 2 ^ w := by
    rw [Int.emod_def z, ← Int.ediv_ediv_of_nonneg hp.le, Int.mul_assoc, Int.sub_mul_ediv_left _ _ hp.ne', Int.emod_def]
  apply BitVec.eq_of_toNat_eq
  rw [BitVec.extractLsb'_toNat, BitVec.toNat_ofInt, BitVec.toNat_ofInt, Nat.shiftRight_eq_div_pow]
  zify
  rw [Int.toNat_of_nonneg (Int.emod_nonneg _ (by positivity)), Int.toNat_of_nonneg (Int.emod_nonneg _ (by positivity)),
    two_mul, pow_add, hz, Int.emod_emod_of_dvd _ dvd_rfl]

section
variable {w : Nat} (hw : 0 < w)
include hw

theorem laneInt_toNat (u : Bool) (a : BitVec w) : laneInt u w a.toNat = laneNum u a := by
  simp [laneInt, laneNum, toSigned_toNat hw]

theorem vaddsat_lane (u : Bool) (a b : BitVec w) :
    BitVec.ofNat w (clampLane u w (laneInt u w a.toNat + laneInt u w b.toNat)) = BitVec.ofInt w
      (if u then max 0 (min (2 ^ w - 1) (laneNum u a + laneNum u b))
       else max (-2 ^ (w - 1)) (min (2 ^ (w - 1) - 1) (laneNum u a + laneNum u b))) := by
  rw [clampLane_eq, laneInt_toNat hw, laneInt_toNat hw]

theorem vsubsat_lane (u : Bool) (a b : BitVec w) :
    BitVec.ofNat w (clampLane u w (laneInt u w a.toNat - laneInt u w b.toNat)) = BitVec.ofInt w
      (if u then max 0 (min (2 ^ w - 1) (laneNum u a - laneNum u b))
       else max (-2 ^ (w - 1)) (min (2 ^ (w - 1) - 1) (laneNum u a - laneNum u b))) := by
  rw [clampLane_eq, laneInt_toNat hw, laneInt_toNat hw]

theorem vmin_lane (u : Bool) (a b : BitVec w) :
    BitVec.ofNat w (if laneInt u w b.toNat < laneInt u w a.toNat then b.toNat else a.toNat) =
      if (if u then decide (a.toNat ≤ b.toNat) else decide (a.toInt ≤ b.toInt)) = true then a else b := by
  simp only [laneInt_toNat hw, laneNum_le_iff, ← not_le, ite_not]
  split <;> simp

theorem vmax_lane (u : Bool) (a b : BitVec w) :
    BitVec.ofNat w (if laneInt u w a.toNat < laneInt u w b.toNat then b.toNat else a.toNat) =
      if (if u then decide (b.toNat ≤ a.toNat) else decide (b.toInt ≤ a.toInt)) = true then a else b := by
  simp only [laneInt_toNat hw, laneNum_le_iff, ← not_le, ite_not]
  split <;> simp

theorem vabs_lane (a : BitVec w) :
    BitVec.ofNat w (ofInt w (toSigned w a.toNat).natAbs) = if a.toInt < 0 then -a else a := by
  rw [ofNat_ofInt, toSigned_toNat hw]
  split
  · rw [Int.ofNat_natAbs_of_nonpos (by omega), BitVec.ofInt_neg, BitVec.ofInt_toInt]
  · rw [Int.natAbs_of_nonneg (by omega), BitVec.ofInt_toInt]

theorem vsra_lane (a : BitVec w) (n : Nat) :
    BitVec.ofNat w (ofInt w (toSigned w a.toNat / 2 ^ n)) = a.sshiftRight n := by
  rw [ofNat_ofInt, toSigned_toNat hw, BitVec.sshiftRight_eq, Int.shiftRight_eq_div_pow]
  simp

theorem vmulh_lane (u : Bool) (a b : BitVec w) :
    BitVec.ofNat w (ofInt w (laneInt u w a.toNat * laneInt u w b.toNat / 2 ^ w)) =
      ((if u then a.setWidth (2 * w) else a.signExtend (2 * w)) *
        (if u then b.setWidth (2 * w) else b.signExtend (2 * w))).extractLsb' w w := by
  have hwide (x : BitVec w) : (if u then x.setWidth (2 * w) else x.signExtend (2 * w)) =
      BitVec.ofInt (2 * w) (laneNum u x) := by
    cases u
    · rfl
    · simp [laneNum, BitVec.ofInt_natCast, BitVec.ofNat_toNat]
  rw [ofNat_ofInt, laneInt_toNat hw, laneInt_toNat hw, hwide, hwide, ← BitVec.ofInt_mul, extractLsb'_ofInt_high]

end

section
variable {w : Nat} (a b c : BitVec w)

theorem vsub_lane : BitVec.ofNat w (ofInt w ((a.toNat : Int) - b.toNat)) = a - b := by
  rw [ofNat_ofInt, ofInt_sub_eq, ofInt_toNat_self, ofInt_toNat_self]

theorem vneg_lane : BitVec.ofNat w (ofInt w (-(a.toNat : Int))) = -a := by
  rw [ofNat_ofInt, BitVec.ofInt_neg, ofInt_toNat_self]

theorem vmsub_lane : BitVec.ofNat w (ofInt w ((a.toNat * b.toNat : Nat) - (c.toNat : Int))) = a * b - c := by
  rw [ofNat_ofInt, ofInt_sub_eq, Nat.cast_mul, BitVec.ofInt_mul, ofInt_toNat_self, ofInt_toNat_self, ofInt_toNat_self]

theorem vadd_lane : BitVec.ofNat w ((a.toNat + b.toNat) % 2 ^ w) = a + b :=
  BitVec.eq_of_toNat_eq (by simp)

theorem vmul_lane : BitVec.ofNat w (a.toNat * b.toNat % 2 ^ w) = a * b :=
  BitVec.eq_of_toNat_eq (by simp)

theorem vmad_lane : BitVec.ofNat w ((a.toNat * b.toNat + c.toNat) % 2 ^ w) = a * b + c :=
  BitVec.eq_of_toNat_eq (by simp)

theorem vand_lane : BitVec.ofNat w (a.toNat &&& b.toNat) = a &&& b :=
  BitVec.eq_of_toNat_eq (by rw [← BitVec.toNat_and]; simp)

theorem vor_lane : BitVec.ofNat w (a.toNat ||| b.toNat) = a ||| b :=
  BitVec.eq_of_toNat_eq (by rw [← BitVec.toNat_or]; simp)

theorem vxor_lane : BitVec.ofNat w (a.toNat ^^^ b.toNat) = a ^^^ b :=
  BitVec.eq_of_toNat_eq (by rw [← BitVec.toNat_xor]; simp)

theorem vandn_lane : BitVec.ofNat w (a.toNat &&& (2 ^ w - 1 - b.toNat)) = a &&& ~~~b := by
  rw [← BitVec.toNat_not, vand_lane]

theorem vnot_lane : BitVec.ofNat w (2 ^ w - 1 - a.toNat) = ~~~a := by
  rw [← BitVec.toNat_not, BitVec.ofNat_toNat, BitVec.setWidth_eq]

theorem vshl_lane (n : Nat) : BitVec.ofNat w (a.toNat * 2 ^ n % 2 ^ w) = a <<< n :=
  BitVec.eq_of_toNat_eq (by simp [Nat.shiftLeft_eq])

theorem vshr_lane (n : Nat) : BitVec.ofNat w (a.toNat / 2 ^ n) = a >>> n := by
  apply BitVec.eq_of_toNat_eq
  rw [BitVec.toNat_ofNat, BitVec.toNat_ushiftRight, Nat.shiftRight_eq_div_pow,
    Nat.mod_eq_of_lt (lt_of_le_of_lt (Nat.div_le_self ..) a.isLt)]

theorem bitAt_toNat (i : Nat) : bitAt a.toNat i = a.getLsbD i :=
  Nat.testBit_eq_decide_div_mod_eq.symm

theorem vpopc_lane : oneBits w a.toNat = (List.range w).countP fun i => a.getLsbD i := by
  simp only [oneBits, bitAt_toNat, List.countP_eq_length_filter]

/-- The first index of a range that a test finds is where the test first holds. -/
theorem find?_range_getD_eq {n k : Nat} {p : Nat → Bool} (hk : k ≤ n) (hbefore : ∀ j, j < k → p j = false)
    (hat : k < n → p k = true) : ((List.range n).find? p).getD n = k := by
  obtain ⟨hle, hfirst, hfound⟩ := find?_range_getD n p
  rcases lt_trichotomy (((List.range n).find? p).getD n) k with h | h | h
  · simp [hbefore _ h] at hfound
    omega
  · exact h
  · simp [hfirst _ h] at hat
    omega

theorem length_takeWhile_range (n : Nat) (p : Nat → Bool) :
    ((List.range n).takeWhile fun i => !p i).length = ((List.range n).find? p).getD n := by
  have hgen (n s : Nat) : s + ((List.range' s n).takeWhile fun i => !p i).length = ((List.range' s n).find? p).getD (s + n) := by
    induction n generalizing s with
    | zero => rfl
    | succ n ih =>
      rw [List.range'_succ]
      by_cases hp : p s = true
      · simp [hp]
      · have := ih (s + 1)
        simp only [List.takeWhile_cons, List.find?_cons, hp, Bool.not_false, if_true, List.length_cons]
        rw [show s + (n + 1) = s + 1 + n by omega, ← this]
        omega
  simpa [List.range_eq_range'] using hgen n 0

theorem vctz_lane : trailZeros w a.toNat = ((List.range w).takeWhile fun i => !a.getLsbD i).length := by
  rw [length_takeWhile_range]
  simp only [trailZeros, bitAt_toNat]

theorem vclz_lane : leadZeros w a.toNat = ((List.range w).takeWhile fun i => !a.getMsbD i).length := by
  rw [length_takeWhile_range, leadZeros]
  by_cases h0 : a = 0
  · subst h0
    exact (find?_range_getD_eq le_rfl (fun j _ => by simp) fun h => absurd h (lt_irrefl w)).symm
  · have hn : a.toNat ≠ 0 := fun h => h0 (BitVec.eq_of_toNat_eq h)
    have hlog : Nat.log2 a.toNat < w := (Nat.log2_lt hn).mpr a.isLt
    rw [if_neg hn]
    refine (find?_range_getD_eq (by omega) (fun j hj => ?_) fun _ => ?_).symm
    · have hhigh : a.toNat < 2 ^ (w - 1 - j) := (Nat.log2_lt hn).mp (by omega)
      simp [BitVec.getMsbD, BitVec.getLsbD, Nat.testBit_lt_two_pow hhigh]
    · have hidx : w - 1 - (w - 1 - Nat.log2 a.toNat) = Nat.log2 a.toNat := by omega
      simp [BitVec.getMsbD, BitVec.getLsbD, hidx, Nat.testBit_log2 hn]
      omega

/-- After `m` bits `revBits` holds them reversed, above the places of those still to come. -/
theorem revBits_fold (v : Nat) {m : Nat} (hm : m ≤ w) : ∃ r, (∀ j, j < m → r.testBit j = v.testBit (m - 1 - j)) ∧
    (List.range m).foldl (fun acc i => acc + bitNat (bitAt v i) * 2 ^ (w - 1 - i)) 0 = r * 2 ^ (w - m) := by
  induction m with
  | zero => exact ⟨0, by simp, by simp⟩
  | succ m ih =>
    obtain ⟨r, hr, hsum⟩ := ih (by omega)
    refine ⟨Nat.bit (v.testBit m) r, fun j hj => ?_, ?_⟩
    · cases j with
      | zero => simp
      | succ j =>
        rw [Nat.testBit_bit_succ, hr j (by omega)]
        congr 1
        omega
    · have hbit : bitNat (bitAt v m) = (v.testBit m).toNat := by
        rw [bitAt, ← Nat.testBit_eq_decide_div_mod_eq]
        cases v.testBit m <;> rfl
      have hpow : 2 ^ (w - m) = 2 * 2 ^ (w - 1 - m) := by
        rw [← Nat.pow_succ']
        congr 1
        omega
      rw [List.range_succ, List.foldl_append, hsum, List.foldl_cons, List.foldl_nil, hbit, hpow, Nat.bit_val,
        show w - (m + 1) = w - 1 - m by omega]
      ring

theorem vbrev_lane : BitVec.ofNat w (revBits w a.toNat) = a.reverse := by
  obtain ⟨r, hr, hsum⟩ := revBits_fold a.toNat (le_refl w)
  rw [revBits, hsum]
  apply BitVec.eq_of_getLsbD_eq
  intro j hj
  rw [BitVec.getLsbD_reverse, BitVec.getMsbD, Nat.sub_self, Nat.pow_zero, Nat.mul_one, BitVec.getLsbD_ofNat, hr j hj]
  rfl

end

/-! ### Element-wise instructions (R138 to R140, R153) -/

theorem toNat_entryLane (t : Task) (q : VReg) (w j : Nat) :
    (entryLane (t.head q).data w j).toNat = laneAt w (t.headBits q) j := by
  rw [laneAt_entry, BitVec.toNat_ofNat]
  exact Nat.mod_mod ..

/-- The lanes an element-wise instruction without flags computes for a task. -/
def plainLanes (f : VF) (n : Nat) (op : Nat → Nat → Nat → Nat) (t : Task) : List (Nat × Nat) :=
  let b := if 2 ≤ n then t.headBits f.vb else 0
  let c := if 3 ≤ n then t.headBits f.vc else 0
  maskLanes (t.getK f.k) f.kz 0 (lanesIn (etWidth f.et)) (some (laneAt (etWidth f.et) (if 3 ≤ n then c else t.headBits f.va)))
    fun j => noFlags (op (laneAt (etWidth f.et) (t.headBits f.va) j) (laneAt (etWidth f.et) b j) (laneAt (etWidth f.et) c j))

theorem laneBody_plain (f : VF) (n : Nat) (op : Nat → Nat → Nat → Nat) : laneBody f n (fun _ a b c => noFlags (op a b c)) =
    queueBody (vfSrcs f n) [f.vd] true fun t =>
      ([mkEntry (etFmt f.et) (laneBits (etWidth f.et) (plainLanes f n op t))], fun p => p.noteLanes (plainLanes f n op t)) :=
  rfl

theorem length_plainLanes (f : VF) (n : Nat) (op : Nat → Nat → Nat → Nat) (t : Task) :
    (plainLanes f n op t).length = lanesIn (etWidth f.et) := by
  simp [plainLanes, maskLanes]

theorem plainLanes_flags (f : VF) (n : Nat) (op : Nat → Nat → Nat → Nat) (t : Task) :
    ∀ x ∈ plainLanes f n op t, x.2 = 0 := by
  intro x hx
  obtain ⟨j, -, rfl⟩ := List.mem_map.mp hx
  split <;> rfl

/-- `i` is an element-wise instruction of `n` operands whose lanes are `res`, without flags: its number operation agrees with
`res` on the operands it reads. -/
def IsLaneForm (f : VF) (i : Instr) (n : Nat)
    (res : BitVec (etWidth f.et) → BitVec (etWidth f.et) → BitVec (etWidth f.et) → BitVec (etWidth f.et)) : Prop :=
  ∃ op : Nat → Nat → Nat → Nat, (∀ s, exec i s = vWord f none (laneBody f n fun _ a b c => noFlags (op a b c)) s) ∧
    ∀ (a b c : BitVec (etWidth f.et)) (b' c' : Nat), (2 ≤ n → b' = b.toNat) → (3 ≤ n → c' = c.toNat) →
      BitVec.ofNat (etWidth f.et) (op a.toNat b' c') = res a b c

/-- A lane form completes lane by lane, its inactive lanes zero or merged (R139, R140). -/
theorem IsLaneForm.yields {s : State} {t : Task} {f : VF} {i : Instr} {n : Nat}
    {res : BitVec (etWidth f.et) → BitVec (etWidth f.et) → BitVec (etWidth f.et) → BitVec (etWidth f.et)}
    (h : IsLaneForm f i n res) (hn : n ≤ 3) (hr : s.VReady f t (vfSrcs f n) [f.vd]) :
    s.Yields i f t (vfSrcs f n) f.vd 1 (etFmt f.et) (etWidth f.et) (4096 / etWidth f.et) (fun j =>
      if (t.getK f.k).getLsbD j then res (entryLane (t.head f.va).data (etWidth f.et) j)
        (entryLane (t.head f.vb).data (etWidth f.et) j) (entryLane (t.head f.vc).data (etWidth f.et) j)
      else if f.kz then 0 else entryLane (t.head (if n = 3 then f.vc else f.va)).data (etWidth f.et) j) t.sys := by
  obtain ⟨op, hexec, hop⟩ := h
  refine yields_one (ls := plainLanes f n op (t.advance (if f.lit.isSome then 5 else 3)))
    (by rw [hexec, laneBody_plain]) hr rfl (fun p hp => ?_) (length_plainLanes ..) (etWidth_mul f.et) le_rfl fun j hj => ?_
  · exact (Task.noteLanes_zero p _ (plainLanes_flags _ _ _ _)).trans (by rw [← hp])
  · have hlanes : j < lanesIn (etWidth f.et) := by rwa [length_plainLanes] at hj
    have hact := activeAt_lt (m := t.getK f.k) (lt_of_lt_of_le hlanes (lanesIn_le f.et))
    simp only [plainLanes, maskLanes, List.getElem_map, List.getElem_range, Task.advance_getK, Task.advance_headBits, hact]
    split
    · rw [← toNat_entryLane]
      refine (hop _ _ _ _ _ (fun h2 => ?_) fun h3 => ?_).symm
      · rw [if_pos h2, toNat_entryLane]
      · rw [if_pos h3, toNat_entryLane]
    · by_cases hkz : f.kz = true
      · simp [hkz]
      · by_cases h3 : n = 3
        · simp [hkz, h3, laneAt_entry]
        · have h3' : ¬ 3 ≤ n := by omega
          simp [hkz, h3, h3', laneAt_entry]

theorem etWidth_pos_of_isInt {et : BitVec 4} (h : etIsInt et = true) : 0 < etWidth et := by
  revert et
  decide

section
variable {f : VF} {i : Instr}

theorem isLaneForm_unary {op : Nat → Nat} {res : BitVec (etWidth f.et) → BitVec (etWidth f.et)}
    (hi : ∀ s, exec i s = vWord f none (laneBody f 1 fun _ a _ _ => noFlags (op a)) s)
    (hop : ∀ a, BitVec.ofNat (etWidth f.et) (op a.toNat) = res a) : IsLaneForm f i 1 fun a _ _ => res a :=
  ⟨fun a _ _ => op a, hi, fun a _ _ _ _ _ _ => hop a⟩

theorem isLaneForm_binary {op : Nat → Nat → Nat} {res : BitVec (etWidth f.et) → BitVec (etWidth f.et) → BitVec (etWidth f.et)}
    (hi : ∀ s, exec i s = vWord f none (laneBody f 2 fun _ a b _ => noFlags (op a b)) s)
    (hop : ∀ a b, BitVec.ofNat (etWidth f.et) (op a.toNat b.toNat) = res a b) : IsLaneForm f i 2 fun a b _ => res a b :=
  ⟨fun a b _ => op a b, hi, fun a b _ _ _ hb _ => hb le_rfl ▸ hop a b⟩

theorem isLaneForm_ternary {op : Nat → Nat → Nat → Nat}
    {res : BitVec (etWidth f.et) → BitVec (etWidth f.et) → BitVec (etWidth f.et) → BitVec (etWidth f.et)}
    (hi : ∀ s, exec i s = vWord f none (laneBody f 3 fun _ a b c => noFlags (op a b c)) s)
    (hop : ∀ a b c, BitVec.ofNat (etWidth f.et) (op a.toNat b.toNat c.toNat) = res a b c) : IsLaneForm f i 3 res :=
  ⟨op, hi, fun a b c _ _ hb hc => hb (by decide) ▸ hc le_rfl ▸ hop a b c⟩

end

/-- Every integer form is a lane form: the instruction it names, and its operation on bit vectors. -/
theorem isLaneForm_of_mem_intForms {f : VF} (hw : 0 < etWidth f.et) : ∀ x ∈ intForms f.u (etWidth f.et),
    x.2.1 ≤ 3 ∧ IsLaneForm f (x.1 f) x.2.1 x.2.2 := by
  simp only [intForms, List.forall_mem_cons]
  exact ⟨⟨by decide, isLaneForm_binary (fun _ => rfl) vadd_lane⟩, ⟨by decide, isLaneForm_binary (fun _ => rfl) vsub_lane⟩,
    ⟨by decide, isLaneForm_binary (fun _ => rfl) vmul_lane⟩,
    ⟨by decide, isLaneForm_binary (fun _ => rfl) (vmulh_lane hw f.u)⟩,
    ⟨by decide, isLaneForm_binary (fun _ => rfl) (vmin_lane hw f.u)⟩,
    ⟨by decide, isLaneForm_binary (fun _ => rfl) (vmax_lane hw f.u)⟩,
    ⟨by decide, isLaneForm_unary (fun _ => rfl) (vabs_lane hw)⟩, ⟨by decide, isLaneForm_unary (fun _ => rfl) vneg_lane⟩,
    ⟨by decide, isLaneForm_ternary (fun _ => rfl) vmad_lane⟩, ⟨by decide, isLaneForm_ternary (fun _ => rfl) vmsub_lane⟩,
    ⟨by decide, isLaneForm_binary (fun _ => rfl) (vaddsat_lane hw f.u)⟩,
    ⟨by decide, isLaneForm_binary (fun _ => rfl) (vsubsat_lane hw f.u)⟩,
    ⟨by decide, isLaneForm_binary (fun _ => rfl) vand_lane⟩, ⟨by decide, isLaneForm_binary (fun _ => rfl) vor_lane⟩,
    ⟨by decide, isLaneForm_binary (fun _ => rfl) vxor_lane⟩, ⟨by decide, isLaneForm_binary (fun _ => rfl) vandn_lane⟩,
    ⟨by decide, isLaneForm_unary (fun _ => rfl) vnot_lane⟩,
    ⟨by decide, isLaneForm_binary (fun _ => rfl) fun a b => vshl_lane a (b.toNat % etWidth f.et)⟩,
    ⟨by decide, isLaneForm_binary (fun _ => rfl) fun a b => vshr_lane a (b.toNat % etWidth f.et)⟩,
    ⟨by decide, isLaneForm_binary (fun _ => rfl) fun a b => vsra_lane hw a (b.toNat % etWidth f.et)⟩,
    ⟨by decide, isLaneForm_unary (fun _ => rfl) fun a => congrArg _ (vpopc_lane a)⟩,
    ⟨by decide, isLaneForm_unary (fun _ => rfl) fun a => congrArg _ (vclz_lane a)⟩,
    ⟨by decide, isLaneForm_unary (fun _ => rfl) fun a => congrArg _ (vctz_lane a)⟩,
    ⟨by decide, isLaneForm_unary (fun _ => rfl) vbrev_lane⟩, by simp⟩

/-- Settles O28: every integer form is a lane form (`isLaneForm_of_mem_intForms`), and a lane form completes lane by lane. -/
theorem integerLanes : Obligations.IntegerLanes := by
  unfold Obligations.IntegerLanes
  intro s t f hint w x hx srcs hr
  obtain ⟨hn, hform⟩ := isLaneForm_of_mem_intForms (etWidth_pos_of_isInt hint) x hx
  exact hform.yields hn hr

/-! ### The traps of a V instruction over queues (R25, R40, R141, R142) -/

/-- A V instruction whose body raises a precise trap takes it (R40). -/
theorem vWord_raise {f : VF} {fx : Effect} {body : Body} {s : State} {t : Task} {cause detail addr : Nat}
    (hx : s.Executes f.g t) (hs : s.Sound s.cur)
    (hb : body s.cur t.pc s (t.advance (if f.lit.isSome then 5 else 3)) = raise cause detail addr) :
    vWord f fx body s = trapsWith s t 1 cause detail (BitVec.ofNat 64 addr) := by
  rw [vWord_stop hx.1 hx.2 (State.laneStop_of_sound hs false) (State.pairStop_of_noFault hs.1 t fx) hb,
    State.stopAt_trap (State.pairStop_of_noFault hs.1 t _)]
  rfl

theorem Task.takeSources_underflow {t : Task} {srcs : Srcs} (dsts : List VReg) (h : ∃ q ∈ srcs, t.queue q.1 = []) :
    t.takeSources srcs dsts = raise 3 0 0 := by
  unfold Task.takeSources
  rw [if_pos]
  simpa using h

theorem Task.takeSources_overflow {t : Task} {srcs : Srcs} {dsts : List VReg} (h1 : ∀ q ∈ srcs, t.queue q.1 ≠ [])
    (h2 : ∃ d ∈ dsts, 4 ≤ ((t.queuesAfter srcs [])[d.val]).length) : t.takeSources srcs dsts = raise 4 0 0 := by
  unfold Task.takeSources
  rw [if_neg, if_pos]
  · simpa only [List.any_eq_true, decide_eq_true_eq, Task.popAll_queue] using h2
  · simpa only [List.any_eq_true, List.isEmpty_iff, not_exists, not_and] using h1

section
variable {s : State} {t : Task} {f : VF} {i : Instr} {srcs : Srcs} {dsts : List VReg} {form : Bool} {g : VResult}
  (hi : exec i s = vWord f none (queueBody srcs dsts form g) s)
include hi

theorem exec_queue_underflow (hx : s.Executes f.g t) (hs : s.Sound s.cur) (h : ∃ q ∈ srcs, t.queue q.1 = []) :
    exec i s = trapsWith s t 1 3 0 0 := by
  rw [hi]
  refine vWord_raise hx hs ?_
  rw [queueBody, Task.takeSources_underflow dsts (by simpa using h)]
  rfl

theorem exec_queue_overflow (hx : s.Executes f.g t) (hs : s.Sound s.cur) (h1 : ∀ q ∈ srcs, t.queue q.1 ≠ [])
    (h2 : ∃ d ∈ dsts, 4 ≤ ((t.queuesAfter srcs [])[d.val]).length) : exec i s = trapsWith s t 1 4 0 0 := by
  rw [hi]
  refine vWord_raise hx hs ?_
  rw [queueBody, Task.takeSources_overflow (by simpa using h1) (by simpa using h2)]
  rfl

theorem exec_queue_etform (hr : s.VReady f t srcs dsts) (hform : form = false) : exec i s = trapsWith s t 1 2 13 0 := by
  obtain ⟨hx, hs, h1, h2⟩ := hr
  rw [hi]
  refine vWord_raise hx hs ?_
  rw [queueBody, Task.takeSources_ok (by simpa using h1) (by simpa using h2), hform]
  rfl

end

/-- `i` is an element-wise instruction of `n` operands. -/
def IsElementwise (f : VF) (i : Instr) (n : Nat) : Prop :=
  ∃ g : VResult, ∀ s, exec i s = vWord f none (queueBody (vfSrcs f n) [f.vd] true g) s

theorem isElementwise_of_mem_intForms (f : VF) (w : Nat) : ∀ x ∈ intForms f.u w, IsElementwise f (x.1 f) x.2.1 := by
  simp only [intForms, List.forall_mem_cons, List.not_mem_nil, false_imp_iff, implies_true, and_true]
  and_intros <;> exact ⟨_, fun _ => rfl⟩

theorem isElementwise_of_mem_floatForms (f : VF) (ff : FF) (m : Mode) :
    ∀ x ∈ floatForms ff m ++ approxForms, IsElementwise f (x.1 f) x.2.1 := by
  simp only [floatForms, approxForms, List.cons_append, List.nil_append, List.forall_mem_cons, List.not_mem_nil,
    false_imp_iff, implies_true, and_true]
  and_intros <;> exact ⟨_, fun _ => rfl⟩

theorem etIsFloat_eq_false {et : BitVec 4} (h : ¬(et = 6 ∨ et = 7 ∨ et = 8)) : etIsFloat et = false := by
  revert et
  decide

theorem pairEt_eq_none {et : BitVec 4} (h : et = 2 ∨ et = 8) : (pairEt et).isSome = false := by
  revert et
  decide

/-- Settles O36: every instruction named is a body over queues, whose traps come in the order of `Task.takeSources` and
then ETFORM. -/
theorem queueTraps : Obligations.QueueTraps := by
  unfold Obligations.QueueTraps
  intro s t f hx hs lanes
  have hlanes : ∀ x ∈ lanes, IsElementwise f (x.1 f) x.2 := by
    intro x hmem
    rcases List.mem_append.mp hmem with h | h
    all_goals obtain ⟨y, hy, rfl⟩ := List.mem_map.mp h
    · exact isElementwise_of_mem_intForms f _ y hy
    · exact isElementwise_of_mem_floatForms f _ _ y hy
  refine ⟨fun x hmem => ?_, fun hr => ⟨fun het => ?_, fun het => ?_⟩, fun het => ⟨fun hr => ?_, fun hr => ?_⟩⟩
  · obtain ⟨g, hg⟩ := hlanes x hmem
    exact ⟨exec_queue_underflow (hg s) hx hs, fun h1 h2 => exec_queue_overflow (hg s) hx hs h1 ⟨f.vd, by simp, h2⟩⟩
  · simp only [List.forall_mem_cons]
    exact ⟨exec_queue_etform rfl hr het, exec_queue_etform rfl hr het, exec_queue_etform rfl hr het,
      exec_queue_etform rfl hr het, exec_queue_etform rfl hr het, by simp⟩
  · have hform := etIsFloat_eq_false het
    simp only [List.forall_mem_cons]
    exact ⟨exec_queue_etform rfl hr hform, exec_queue_etform rfl hr hform, exec_queue_etform rfl hr hform, by simp⟩
  · exact ⟨exec_queue_etform rfl hr (pairEt_eq_none het), exec_queue_etform rfl hr (pairEt_eq_none het)⟩
  · exact ⟨exec_queue_etform rfl hr (pairEt_eq_none het), exec_queue_etform rfl hr (pairEt_eq_none het)⟩

end Machine

end Sys2Proof

/-! Proofs about trap records, parked cores and the handler's answers (R40, R311, R312). -/

namespace Sys2Proof

namespace Machine

/-! ### What a write of memory leaves of the rest -/

/-- Memory and what hangs on its bytes (poison, MACs, versions, tiles, stamps, MACFAIL) aside, the state is as it was. -/
structure State.MemoryOnly (s s' : State) : Prop where
  cores : s'.cores = s.cores
  clusters : s'.clusters = s.clusters
  wmem : s'.wmem = s.wmem
  flash : s'.flash = s.flash
  jobs : s'.jobs = s.jobs
  nt : s'.nt = s.nt
  fat : s'.fat = s.fat
  tlb : s'.tlb = s.tlb
  ports : s'.ports = s.ports
  notices : s'.notices = s.notices

theorem State.MemoryOnly.refl (s : State) : s.MemoryOnly s := ⟨rfl, rfl, rfl, rfl, rfl, rfl, rfl, rfl, rfl, rfl⟩

theorem State.MemoryOnly.trans {a b c : State} (h : a.MemoryOnly b) (k : b.MemoryOnly c) : a.MemoryOnly c :=
  ⟨k.cores.trans h.cores, k.clusters.trans h.clusters, k.wmem.trans h.wmem, k.flash.trans h.flash, k.jobs.trans h.jobs,
    k.nt.trans h.nt, k.fat.trans h.fat, k.tlb.trans h.tlb, k.ports.trans h.ports, k.notices.trans h.notices⟩

/-- Steps that each touch memory alone touch memory alone together. -/
theorem State.memoryOnly_foldl {α : Type} {f : State → α → State} (hf : ∀ (s : State) (x : α), s.MemoryOnly (f s x)) (l : List α)
    (s : State) : s.MemoryOnly (l.foldl f s) := by
  induction l generalizing s with
  | nil => exact .refl s
  | cons x l ih => exact (hf s x).trans (ih _)

theorem State.memoryOnly_failLine (s : State) (line : Nat) : s.MemoryOnly (s.failLine line) := by
  unfold State.failLine
  split <;> exact ⟨rfl, rfl, rfl, rfl, rfl, rfl, rfl, rfl, rfl, rfl⟩

theorem State.memoryOnly_bumpLine (s : State) (line : Nat) : s.MemoryOnly (s.bumpLine line) := by
  unfold State.bumpLine
  dsimp only
  split
  · split <;> exact ⟨rfl, rfl, rfl, rfl, rfl, rfl, rfl, rfl, rfl, rfl⟩
  · exact .refl s

theorem State.memoryOnly_writeLine (pa n : Nat) (s : State) (line : Nat) : s.MemoryOnly (State.writeLine pa n s line) := by
  unfold State.writeLine
  refine State.MemoryOnly.trans (b := if s.badMac.contains line then _ else s) ?_ (State.memoryOnly_bumpLine _ line)
  split
  · split
    · exact ⟨rfl, rfl, rfl, rfl, rfl, rfl, rfl, rfl, rfl, rfl⟩
    · exact s.memoryOnly_failLine line
  · exact .refl s

theorem State.memoryOnly_writePa (s : State) (pa : Nat) (bs : List Byte) : s.MemoryOnly (s.writePa pa bs) := by
  have hraw : s.MemoryOnly (s.writeRaw pa bs) := by
    unfold State.writeRaw
    dsimp only
    split
    · obtain ⟨h1, h2, h3, h4, h5, h6, h7, h8, h9, h10⟩ := State.memoryOnly_foldl
        (State.memoryOnly_writeLine pa bs.length) (blocksOf 128 pa bs.length) s
      exact ⟨h1, h2, h3, h4, h5, h6, h7, h8, h9, h10⟩
    · exact ⟨rfl, rfl, rfl, rfl, rfl, rfl, rfl, rfl, rfl, rfl⟩
  refine hraw.trans ?_
  unfold State.writePa State.clearCovered
  dsimp only
  split
  · exact .refl _
  · exact ⟨rfl, rfl, rfl, rfl, rfl, rfl, rfl, rfl, rfl, rfl⟩

theorem State.MemoryOnly.core {s s' : State} (h : s.MemoryOnly s') (c : CoreId) : s'.core c = s.core c := by
  rw [State.core, State.core, h.cores]

/-! ### A trap record in memory (R311) -/

theorem length_bytesOf (n v : Nat) : (bytesOf n v).length = n := by
  induction n generalizing v with
  | zero => rfl
  | succ n ih => rw [bytesOf, List.length_cons, ih]

theorem leNat_bytesOf (n v : Nat) : leNat (bytesOf n v) = v % 256 ^ n := by
  induction n generalizing v with
  | zero => simp [bytesOf, leNat, Nat.mod_one]
  | succ n ih =>
    rw [bytesOf, leNat, ih, BitVec.toNat_ofNat, show 256 ^ (n + 1) = 256 * 256 ^ n from Nat.pow_succ']
    exact (Nat.mod_mul ..).symm

theorem length_trapRec_bytes (r : TrapRec) (state : Nat) (seq : Word64) : (r.bytes state seq).length = 64 := by
  simp [TrapRec.bytes, length_bytesOf]

/-- A number read inside bytes just written is the number that those bytes make. -/
theorem Memory.read_write_within {m : List Host.Cell} (hm : Memory.wf m = true) (a o n : Nat) {bs : List Byte}
    (h : o + n ≤ bs.length) : Memory.read (Memory.write m a bs) (a + o) n = (bs.drop o).take n := by
  unfold Memory.read
  apply List.ext_getElem
  · simp
    omega
  · intro i h1 h2
    have hi : i < n := by simpa using h1
    rw [List.getElem_map, List.getElem_range, Memory.get_write bs m hm, if_pos (by omega), List.getElem_take,
      List.getElem_drop, List.getD_eq_getElem _ _ (by omega)]
    congr 1
    omega

/-- The head of a record: state, kind, cause, detail, engine and slot, each in its bytes. -/
def TrapRec.headNat (r : TrapRec) (state : Nat) : Nat :=
  state + r.kind.toNat * 2 ^ 2 + r.cause.toNat * 2 ^ 8 + r.detail.toNat * 2 ^ 16 + r.engine.toNat * 2 ^ 24 +
    r.slot.toNat * 2 ^ 32

/-- What the fields of a posted record read as (R311). -/
structure State.HoldsRecord (s : State) (p : Nat) (r : TrapRec) (seq : Word64) : Prop where
  state : s.readNat p 1 % 4 = 1
  kind : s.readNat p 1 / 4 = r.kind.toNat
  cause : s.readNat (p + 1) 1 = r.cause.toNat
  detail : s.readNat (p + 2) 1 = r.detail.toNat
  engine : s.readNat (p + 3) 1 = r.engine.toNat
  slot : s.readNat (p + 4) 4 = r.slot.toNat
  pc : s.readNat (p + 8) 8 = r.pc.toNat
  text : s.readNat (p + 16) 8 = r.text.toNat
  addr : s.readNat (p + 24) 8 = r.addr.toNat
  info : s.readNat (p + 32) 8 = r.info.toNat
  info2 : s.readNat (p + 40) 8 = r.info2.toNat
  launch : s.readNat (p + 48) 4 = r.launch.toNat
  index : s.readNat (p + 52) 4 = r.index.toNat
  seq : s.readNat (p + 56) 8 = seq.toNat

theorem State.holdsRecord_of_write {s : State} {m : List Host.Cell} (hm : Memory.wf m = true) (p : Nat) (r : TrapRec)
    (seq : Word64) (h : s.mem = Memory.write m p (r.bytes 1 seq)) : s.HoldsRecord p r seq := by
  have hread (o n : Nat) (hn : o + n ≤ 64) : s.readNat (p + o) n = leNat (((r.bytes 1 seq).drop o).take n) := by
    rw [State.readNat, State.readPa, h, Memory.read_write_within hm p o n (by rwa [length_trapRec_bytes])]
  have hpart (o n v : Nat) (hn : o + n ≤ 64) (hb : ((r.bytes 1 seq).drop o).take n = bytesOf n v) :
      s.readNat (p + o) n = v % 256 ^ n := by
    rw [hread o n hn, hb, leNat_bytesOf]
  have hfield (o n v : Nat) (hn : o + n ≤ 64) (hv : v < 256 ^ n) (hb : ((r.bytes 1 seq).drop o).take n = bytesOf n v) :
      s.readNat (p + o) n = v := by
    rw [hpart o n v hn hb, Nat.mod_eq_of_lt hv]
  have hkind := r.kind.isLt
  have hcause := r.cause.isLt
  have hdetail := r.detail.isLt
  have hengine := r.engine.isLt
  have hslot := r.slot.isLt
  have h0 : s.readNat p 1 = _ := hpart 0 1 (r.headNat 1) (by decide) rfl
  have h1 := hpart 1 1 (r.headNat 1 / 256) (by decide) rfl
  have h2 := hpart 2 1 (r.headNat 1 / 256 / 256) (by decide) rfl
  have h3 := hpart 3 1 (r.headNat 1 / 256 / 256 / 256) (by decide) rfl
  have h4 := hpart 4 4 (r.headNat 1 / 256 / 256 / 256 / 256) (by decide) rfl
  simp only [TrapRec.headNat] at h0 h1 h2 h3 h4
  exact
    { state := by omega
      kind := by omega
      cause := by omega
      detail := by omega
      engine := by omega
      slot := by omega
      pc := hfield 8 8 _ (by decide) r.pc.isLt rfl
      text := hfield 16 8 _ (by decide) r.text.isLt rfl
      addr := hfield 24 8 _ (by decide) r.addr.isLt rfl
      info := hfield 32 8 _ (by decide) r.info.isLt rfl
      info2 := hfield 40 8 _ (by decide) r.info2.isLt rfl
      launch := hfield 48 4 _ (by decide) (by have := r.launch.isLt; omega) rfl
      index := hfield 52 4 _ (by decide) r.index.isLt rfl
      seq := hfield 56 8 _ (by decide) seq.isLt rfl }

/-! ### The record that a trap takes (R312) -/

theorem State.freeRecord_ordinary_eq_some {s : State} {k : ClusterId} {i : Nat} (hi : i < 256) (hfree : s.trapState k i = 0)
    (hbelow : ∀ j, j < i → s.trapState k j ≠ 0) : s.freeRecord k 0 256 = some i := by
  unfold State.freeRecord
  simp only [Nat.zero_add, List.map_id']
  exact List.find?_range_eq_some.2 ⟨by simp [hfree], List.mem_range.2 hi, fun j hj => by simp [hbelow j hj]⟩

theorem State.freeRecord_ordinary_eq_none {s : State} {k : ClusterId} (htaken : ∀ i, i < 256 → s.trapState k i ≠ 0) :
    s.freeRecord k 0 256 = none := by
  unfold State.freeRecord
  simp only [Nat.zero_add, List.map_id']
  exact List.find?_eq_none.2 fun i hi => by simp [htaken i (List.mem_range.1 hi)]

theorem State.recordFor_eq_some {s : State} {k : ClusterId} {i : Nat} (hi : i < 256) (hfree : s.trapState k i = 0)
    (hbelow : ∀ j, j < i → s.trapState k j ≠ 0) (fatal : Bool) : s.recordFor k fatal = some i := by
  rw [State.recordFor, State.freeRecord_ordinary_eq_some hi hfree hbelow]

theorem State.recordFor_eq_none {s : State} {k : ClusterId} (htaken : ∀ i, i < 256 → s.trapState k i ≠ 0) :
    s.recordFor k false = none := by
  rw [State.recordFor, State.freeRecord_ordinary_eq_none htaken]
  rfl

/-! ### Posting a record (R311) -/

/-- What posting a record does once its bytes are written. -/
def State.announceTrap (s : State) (k : ClusterId) (i : Nat) (seq : Word64) : State :=
  let s := s.setCluster k fun c => { c with trapSeq := seq + 1 }
  let s := s.setDie (dieOfCluster k) fun d => { d with tqctl := d.tqctl.set (k.val % 4) true (Nat.mod_lt _ (by decide)) }
  { s with notices := s.notices ++ [.trapIrq k i] }

theorem State.postRecord_eq (s : State) (k : ClusterId) (i : Nat) (r : TrapRec) :
    s.postRecord k i r = (s.writePa (trapRecPa k i) (r.bytes 1 (s.clusters[k.val]).trapSeq)).announceTrap k i
      (s.clusters[k.val]).trapSeq := rfl

@[simp] theorem State.announceTrap_mem (s : State) (k : ClusterId) (i : Nat) (seq : Word64) :
    (s.announceTrap k i seq).mem = s.mem := rfl

@[simp] theorem State.announceTrap_notices (s : State) (k : ClusterId) (i : Nat) (seq : Word64) :
    (s.announceTrap k i seq).notices = s.notices ++ [.trapIrq k i] := rfl

@[simp] theorem State.announceTrap_core (s : State) (k : ClusterId) (i : Nat) (seq : Word64) (c : CoreId) :
    (s.announceTrap k i seq).core c = s.core c := rfl

@[simp] theorem State.announceTrap_trapSeq (s : State) (k : ClusterId) (i : Nat) (seq : Word64) :
    ((s.announceTrap k i seq).clusters[k.val]).trapSeq = seq + 1 := by
  simp [State.announceTrap]

@[simp] theorem State.postRecord_mem (s : State) (k : ClusterId) (i : Nat) (r : TrapRec) :
    (s.postRecord k i r).mem = Memory.write s.mem (trapRecPa k i) (r.bytes 1 (s.clusters[k.val]).trapSeq) := by
  rw [State.postRecord_eq, State.announceTrap_mem, State.writePa_mem]

@[simp] theorem State.postRecord_notices (s : State) (k : ClusterId) (i : Nat) (r : TrapRec) :
    (s.postRecord k i r).notices = s.notices ++ [.trapIrq k i] := by
  rw [State.postRecord_eq, State.announceTrap_notices, (State.memoryOnly_writePa s _ _).notices]

@[simp] theorem State.postRecord_trapSeq (s : State) (k : ClusterId) (i : Nat) (r : TrapRec) :
    ((s.postRecord k i r).clusters[k.val]).trapSeq = (s.clusters[k.val]).trapSeq + 1 := by
  rw [State.postRecord_eq, State.announceTrap_trapSeq]

@[simp] theorem State.postRecord_core (s : State) (k : ClusterId) (i : Nat) (r : TrapRec) (c : CoreId) :
    (s.postRecord k i r).core c = s.core c := by
  rw [State.postRecord_eq, State.announceTrap_core, (State.memoryOnly_writePa s _ _).core]

theorem State.core_setTask (s : State) (c : CoreId) (t : Task) :
    (s.setTask c t).core c = { s.core c with task := some t } :=
  s.core_setCore_same c _

/-- What stands in the state once a record of `r` is posted in slot `i` of cluster `k`. -/
structure State.Posted (s s' : State) (k : ClusterId) (i : Nat) (r : TrapRec) : Prop where
  holds : s'.HoldsRecord (trapRecPa k i) r (s.clusters[k.val]).trapSeq
  trapSeq : (s'.clusters[k.val]).trapSeq = (s.clusters[k.val]).trapSeq + 1
  notices : s'.notices = s.notices ++ [.trapIrq k i]
  mem : ∀ a, (a < trapRecPa k i ∨ trapRecPa k i + 64 ≤ a) → Memory.get s'.mem a = Memory.get s.mem a

theorem State.posted_postRecord {s s0 : State} (hm : Memory.wf s.mem = true) (hmem : s0.mem = s.mem)
    (hcl : s0.clusters = s.clusters) (hnt : s0.notices = s.notices) (k : ClusterId) (i : Nat) (r : TrapRec) :
    s.Posted (s0.postRecord k i r) k i r where
  holds := State.holdsRecord_of_write hm _ _ _ (by rw [State.postRecord_mem, hmem, hcl])
  trapSeq := by rw [State.postRecord_trapSeq, hcl]
  notices := by rw [State.postRecord_notices, hnt]
  mem a ha := by
    rw [State.postRecord_mem, hmem, Memory.get_write_outside _ _ hm _ _ (by rwa [length_trapRec_bytes])]

/-- The state of a core does not stand in a record. -/
theorem State.Posted.setCore {s s' : State} {k : ClusterId} {i : Nat} {r : TrapRec} (h : s.Posted s' k i r) (c : CoreId)
    (f : Core → Core) : s.Posted (s'.setCore c f) k i r := by
  obtain ⟨⟨f1, f2, f3, f4, f5, f6, f7, f8, f9, f10, f11, f12, f13, f14⟩, hseq, hnotices, hmem⟩ := h
  exact ⟨⟨f1, f2, f3, f4, f5, f6, f7, f8, f9, f10, f11, f12, f13, f14⟩, hseq, hnotices, hmem⟩

theorem trapAddr_of_named (n : Nat) {x : Trap} (h : x.addr ≠ 0 ∨ x.cause ∈ addrCauses) : trapAddr n x = x.addr := by
  unfold trapAddr
  rw [if_neg (by rintro ⟨h0, hc⟩; exact h.elim (· h0) hc)]

theorem Task.endFatal_outside_commit {t : Task} (h : t.rs.rc.commit = false) (mayRerun : Bool) :
    t.endFatal mayRerun = { t with cmds := [], amo := none, wait := .ended 2 } := by
  simp [Task.endFatal, h]

/-! ### A trap taken: parked with a record, parked without one, or ended -/

section Taking

variable {s : State} {c : CoreId} {t : Task} {x : Trap} {engine : Nat} {pc text info info2 : Word64}

theorem State.takeTrap_parks (hk : x.kind ≠ 2) (i : Option Nat) (hfor : s.recordFor (clusterOf c) false = i) :
    s.takeTrap c t x engine pc text info info2 =
      (match i with
        | some i => (s.setTask c t).postRecord (clusterOf c) i
            (trapRec s.tick (s.enginePcs c t) t x engine pc text info info2)
        | none => s.setTask c t).setCore c fun k =>
          { k with status := .trapped (trapRec s.tick (s.enginePcs c t) t x engine pc text info info2) i } := by
  have hfor' : (s.setTask c t).recordFor (clusterOf c) false = i := hfor
  unfold State.takeTrap
  rw [if_neg hk, State.postTrap, hfor']
  cases i <;> rfl

theorem State.takeTrap_fatal (hk : x.kind = 2) {i : Nat} (hfor : s.recordFor (clusterOf c) true = some i) :
    s.takeTrap c t x engine pc text info info2 =
      (s.setTask c (t.endFatal (mayRerun x.cause))).postRecord (clusterOf c) i
        (trapRec s.tick (s.enginePcs c t) t x engine pc text info info2) := by
  have hfor' : (s.setTask c (t.endFatal (mayRerun x.cause))).recordFor (clusterOf c) true = some i := hfor
  unfold State.takeTrap
  rw [if_pos hk, State.postFatal, hfor']

/-- Fatal or not, the trap posts its record in the lowest free ordinary slot. -/
theorem State.posted_takeTrap (hm : Memory.wf s.mem = true) {i : Nat}
    (hfor : ∀ fatal, s.recordFor (clusterOf c) fatal = some i) :
    s.Posted (s.takeTrap c t x engine pc text info info2) (clusterOf c) i
      (trapRec s.tick (s.enginePcs c t) t x engine pc text info info2) := by
  by_cases hk : x.kind = 2
  · rw [State.takeTrap_fatal hk (hfor true)]
    exact State.posted_postRecord (s0 := s.setTask c (t.endFatal (mayRerun x.cause))) hm rfl rfl rfl ..
  · rw [State.takeTrap_parks hk _ (hfor false)]
    exact (State.posted_postRecord (s0 := s.setTask c t) hm rfl rfl rfl ..).setCore ..

theorem State.takeTrap_parked (hk : x.kind ≠ 2) (i : Option Nat) (hfor : s.recordFor (clusterOf c) false = i) :
    (s.takeTrap c t x engine pc text info info2).core c =
      { s.core c with
        task := some t, status := .trapped (trapRec s.tick (s.enginePcs c t) t x engine pc text info info2) i } := by
  rw [State.takeTrap_parks hk i hfor]
  cases i <;> simp only [State.core_setCore_same, State.postRecord_core, State.core_setTask]

theorem State.takeTrap_ended (hk : x.kind = 2) {i : Nat} (hfor : s.recordFor (clusterOf c) true = some i) :
    (s.takeTrap c t x engine pc text info info2).taskOf c = some (t.endFatal (mayRerun x.cause)) := by
  rw [State.takeTrap_fatal hk hfor, State.taskOf, State.postRecord_core, State.core_setTask]

end Taking

/-! ### A parked core: its record posted late, its resume, its kill (R312) -/

theorem findSome?_eq_some_of_unique {α β : Type} {f : α → Option β} {l : List α} {a : α} {b : β} (ha : a ∈ l)
    (hfa : f a = some b) (huniq : ∀ x ∈ l, ∀ y, f x = some y → y = b) : l.findSome? f = some b := by
  cases h : l.findSome? f with
  | none => simp [List.findSome?_eq_none_iff.1 h a ha] at hfa
  | some y =>
    obtain ⟨x, hx, hxy⟩ := List.exists_of_findSome?_eq_some h
    rw [huniq x hx y hxy]

theorem mem_coresOf {c : CoreId} {k : ClusterId} : c ∈ coresOf k ↔ clusterOf c = k := by
  simp [coresOf]

theorem State.trapCore_eq_some {s : State} {c : CoreId} {r : TrapRec} {t : Task} {i : Nat}
    (hst : (s.core c).status = .trapped r (some i)) (ht : s.taskOf c = some t)
    (huniq : ∀ d q, (s.core d).status = .trapped q (some i) → clusterOf d = clusterOf c → d = c) :
    s.trapCore (clusterOf c) i = some (c, r, t) := by
  unfold State.trapCore
  refine findSome?_eq_some_of_unique (a := c) (mem_coresOf.2 rfl) (by simp [hst, ht]) ?_
  intro d hd y hy
  split at hy
  next q j u hq hu =>
    split at hy
    · next hj =>
      subst hj
      cases huniq d q hq (mem_coresOf.1 hd)
      rw [hst] at hq
      rw [ht] at hu
      cases hq
      cases hu
      exact (Option.some.inj hy).symm
    · cases hy
  next => cases hy

theorem State.release264_eq_freeTrap {s : State} {k : ClusterId} {i : Nat} (h : i < 264) :
    s.release264 k i = s.freeTrap k i := if_pos h

theorem execTrapResume_of_trapCore {s : State} {k : ClusterId} {i : Nat} {c : CoreId} {r : TrapRec} {t : Task}
    (h : s.trapCore k i = some (c, r, t)) (hi : i < 264) (edits : List RegEdit) :
    execTrapResume k i edits s = .next ((s.freeTrap k i).setCore c fun x => { x with
      status := .running
      task := some (edits.foldl RegEdit.apply (if r.cause = 18 ∨ r.cause = 19 then t.advance 2 else t)) }) := by
  unfold execTrapResume
  simp only [h, State.release264_eq_freeTrap hi]

theorem execTrapKill_of_trapCore {s : State} {k : ClusterId} {i : Nat} {c : CoreId} {r : TrapRec} {t : Task}
    (h : s.trapCore k i = some (c, r, t)) (hi : i < 264) :
    execTrapKill k i s = .next ((s.freeTrap k i).setCore c fun x => { x with
      status := .running, task := some { t with cmds := [], amo := none, wait := .ended 2 } }) := by
  unfold execTrapKill
  simp only [h, State.release264_eq_freeTrap hi]

theorem execTrapPost_posts {s : State} {c : CoreId} {r : TrapRec} (hrun : (s.dies[(dieOf c).val]).frozen = false)
    (hst : (s.core c).status = .trapped r none) {i : Nat} (hfor : s.recordFor (clusterOf c) false = some i) :
    execTrapPost c s = .next ((s.postRecord (clusterOf c) i r).setCore c fun k => { k with status := .trapped r (some i) }) := by
  rw [execTrapPost, hst]
  simp [State.stopped, hrun, State.postTrap, hfor]

theorem execTrapPost_stopped {s : State} {c : CoreId} (h : (s.dies[(dieOf c).val]).frozen = true) :
    execTrapPost c s = .next s := by
  unfold execTrapPost
  split <;> simp [State.stopped, h]

theorem RegEdit.setX_setPc (t : Task) (rd : XReg) (v : Word64) {pc : Word64} (h : pc ≠ t.pc) :
    [RegEdit.setX rd v, .setPc pc].foldl RegEdit.apply t = { t.setX rd v with pc := pc, rep := Repeat.zero } := by
  simp [RegEdit.apply, h]

/-- Settles O54: a trap's record stands in the lowest free slot (`State.posted_takeTrap`), its core is parked or its
task ended, and a resume or a kill finds the parked core by its slot (`State.trapCore_eq_some`). -/
theorem traps : Obligations.Traps := by
  unfold Obligations.Traps
  refine ⟨?_, ?_⟩
  · intro s c t x engine pc text info info2 k s' posted parked hm
    have hparked (at_ : Option Nat) (hk : x.kind ≠ 2) (hfor : s.recordFor k false = at_) : parked at_ := by
      have hcore := State.takeTrap_parked (t := t) (engine := engine) (pc := pc) (text := text) (info := info)
        (info2 := info2) hk at_ hfor
      exact ⟨_, congrArg Core.status hcore, congrArg Core.task hcore, rfl, rfl, rfl, rfl, trapAddr_of_named _⟩
    refine ⟨?_, ?_⟩
    · intro i hi hfree hbelow
      have hfor := State.recordFor_eq_some hi hfree hbelow
      refine ⟨?_, fun hk => hparked _ hk (hfor false), fun hk => ?_⟩
      · obtain ⟨h, hseq, hnotices, hmem⟩ := State.posted_takeTrap (t := t) (x := x) (engine := engine) (pc := pc)
          (text := text) (info := info) (info2 := info2) hm hfor
        exact ⟨h.state, h.kind, h.cause, h.detail, h.engine.trans (BitVec.toNat_ofNat ..), h.slot, h.pc, h.text,
          fun ha => h.addr.trans (congrArg BitVec.toNat (trapAddr_of_named _ ha)), h.info, h.info2,
          h.launch.trans (BitVec.toNat_ofNat ..), h.index, h.seq, hseq, hnotices, hmem⟩
      · exact ⟨_, State.takeTrap_ended hk (hfor true), rfl, fun hc => Task.endFatal_outside_commit hc _⟩
    · intro htaken hk
      have hfor : s.recordFor k false = none := State.recordFor_eq_none htaken
      have hs' : s' = _ := State.takeTrap_parks hk none hfor
      refine ⟨hparked _ hk hfor, ?_, ?_, ?_⟩
      · rw [hs', State.setCore_mem, State.setTask_mem]
      · rw [hs', State.setCore_clusters, State.setTask_clusters]
      · rw [hs', State.setCore_notices, State.setTask_notices]
  · intro s c r t ht k free
    refine ⟨fun hstop => execTrapPost_stopped hstop, ?_, ?_⟩
    · intro i hrun hst hi hfree hbelow
      refine ⟨_, execTrapPost_posts hrun hst (State.recordFor_eq_some hi hfree hbelow false), ?_, ?_, ?_⟩
      · rw [State.core_setCore_same]
      · rw [State.taskOf, State.core_setCore_same, State.postRecord_core]
        exact ht
      · rw [State.setCore_mem, State.postRecord_mem]
    · intro i hst hi huniq
      have hfound := State.trapCore_eq_some hst ht huniq
      have hresume := execTrapResume_of_trapCore hfound hi
      simp only [State.freeTrap] at hresume
      refine ⟨fun h18 h19 => ?_, fun h => ?_, fun h18 h19 rd v pc hpc => ?_, ?_⟩
      · rw [exec_trapResume, hresume, if_neg (not_or.2 ⟨h18, h19⟩), List.foldl_nil]
      · rw [exec_trapResume, hresume, if_pos h, List.foldl_nil]
      · rw [exec_trapResume, hresume, if_neg (not_or.2 ⟨h18, h19⟩), RegEdit.setX_setPc t rd v hpc]
      · rw [exec_trapKill, execTrapKill_of_trapCore hfound hi, State.freeTrap]

end Machine

end Sys2Proof

/-! Proofs about the junction's decisions, staging and dispatch (R18, R293, R295, R305). -/

namespace Sys2Proof

namespace Machine

/-! ### Whose turn it is (R295) -/

theorem le_foldl_max {α : Type} (f : α → Nat) (l : List α) (m : Nat) :
    m ≤ l.foldl (fun a y => max a (f y)) m ∧ ∀ x ∈ l, f x ≤ l.foldl (fun a y => max a (f y)) m := by
  induction l generalizing m with
  | nil => simp
  | cons y l ih =>
    obtain ⟨hm, hl⟩ := ih (max m (f y))
    refine ⟨(Nat.le_max_left ..).trans hm, fun x hx => ?_⟩
    rcases List.mem_cons.1 hx with rfl | hx
    · exact (Nat.le_max_right ..).trans hm
    · exact hl x hx

theorem level_le_topLevel {l : List Turn} {x : Turn} (h : x ∈ l) : x.rc.level.toNat ≤ topLevel l :=
  (le_foldl_max (fun x : Turn => x.rc.level.toNat) l 0).2 x h

/-- The older of what is oldest so far and one more: the step of `oldest`. -/
def older (m : Option Turn) (x : Turn) : Option Turn :=
  match m with
  | none => some x
  | some y => if x.order < y.order then some x else some y

theorem oldest_eq_foldl (l : List Turn) : oldest l = l.foldl older none := rfl

theorem foldl_older {l : List Turn} {m : Option Turn} {x : Turn} (h : l.foldl older m = some x) :
    (m = some x ∨ x ∈ l) ∧ ∀ y, m = some y ∨ y ∈ l → x.order ≤ y.order := by
  induction l generalizing m with
  | nil =>
    have hm : m = some x := h
    subst hm
    simp
  | cons z l ih =>
    obtain ⟨hx, hleast⟩ := ih (m := older m z) h
    cases m with
    | none =>
      simp only [older, Option.some.injEq] at hx hleast
      simp only [List.mem_cons, reduceCtorEq, false_or]
      exact ⟨hx.imp_left Eq.symm, fun y hy => hleast y (hy.imp_left Eq.symm)⟩
    | some w =>
      by_cases hlt : z.order < w.order
      · simp only [older, if_pos hlt, Option.some.injEq] at hx hleast
        have hz := hleast z (.inl rfl)
        refine ⟨.inr (List.mem_cons.2 (hx.imp_left Eq.symm)), fun y hy => ?_⟩
        rcases hy with hy | hy
        · cases hy
          omega
        · exact hleast y ((List.mem_cons.1 hy).imp_left Eq.symm)
      · simp only [older, if_neg hlt, Option.some.injEq] at hx hleast
        have hw := hleast w (.inl rfl)
        refine ⟨hx.imp (congrArg some) (List.mem_cons_of_mem _), fun y hy => ?_⟩
        rcases hy with hy | hy
        · cases hy
          exact hw
        · rcases List.mem_cons.1 hy with rfl | hy
          · omega
          · exact hleast y (.inr hy)

theorem oldest_spec {l : List Turn} {x : Turn} (h : oldest l = some x) : x ∈ l ∧ ∀ y ∈ l, x.order ≤ y.order := by
  rw [oldest_eq_foldl] at h
  obtain ⟨hx, hleast⟩ := foldl_older h
  exact ⟨hx.resolve_left nofun, fun y hy => hleast y (.inr hy)⟩

/-- The turn given is at the highest level, and the oldest of its key there. -/
theorem State.turnOf_spec {s : State} {k : ClusterId} {l : List Turn} {x : Turn} (h : s.turnOf k l = some x) :
    x ∈ l ∧ ∀ y ∈ l, y.rc.level.toNat ≤ x.rc.level.toNat ∧
      (y.rc.level = x.rc.level → y.key = x.key → x.order ≤ y.order) := by
  unfold State.turnOf at h
  obtain ⟨key, -, hold⟩ := Option.bind_eq_some_iff.1 h
  obtain ⟨hx, hleast⟩ := oldest_spec hold
  simp only [List.mem_filter, decide_eq_true_eq, and_imp] at hx hleast
  obtain ⟨⟨hxl, htop⟩, hkey⟩ := hx
  refine ⟨hxl, fun y hy => ⟨htop ▸ level_le_topLevel hy, fun hlevel hsame => ?_⟩⟩
  exact hleast y hy (by rw [hlevel, htop]) (by rw [hsame, hkey])

/-- A record that has a turn waits for no advance of its job's generation (R305, R351). -/
theorem State.due_le_made_of_turn {s : State} {k : ClusterId} {r : RecSlot} (h : Turn.fresh r ∈ s.turns k) {j : Job}
    (hj : s.jobOf r.rc.job = some j) : r.due ≤ j.made := by
  simp only [State.turns, List.mem_append, List.mem_map, List.mem_filter, Turn.fresh.injEq, reduceCtorEq, and_false,
    exists_false, or_false] at h
  obtain ⟨q, ⟨-, hq⟩, rfl⟩ := h
  simp only [Bool.and_eq_true, State.born, hj, Option.all_some, decide_eq_true_eq] at hq
  exact hq.2

/-! ### A decision that gives a record to a core (R295, R297) -/

@[simp] theorem State.clearSpad_recs (s : State) (c : CoreId) (k : ClusterId) :
    ((s.clearSpad c).clusters[k.val]).recs = (s.clusters[k.val]).recs := by
  unfold State.clearSpad
  rw [State.clusters_setCluster]
  split
  · next h => rw [h]
  · rfl

theorem State.sameOutside_clearSpad (s : State) (c : CoreId) : s.SameOutside (s.clearSpad c) := by
  unfold State.clearSpad
  exact State.sameOutside_setCluster ..

@[simp] theorem State.clearSpad_jobs (s : State) (c : CoreId) : (s.clearSpad c).jobs = s.jobs := State.setCluster_jobs ..

section Giving

variable {s : State} {k : ClusterId} {c : CoreId} {r : RecSlot} (hp : r.rc.paired = false)

include hp

theorem State.give_eq : s.give k c r =
    ((s.clearSpad c).setCluster k fun x => { x with recs := x.recs.filter fun y => decide (y.slot ≠ r.slot) }).setCore c
      fun x => { x with status := .chosen r false none, preempt := false } := by
  simp only [State.give, hp, Bool.false_eq_true, if_false]

theorem State.give_status : ((s.give k c r).core c).status = .chosen r false none := by
  rw [State.give_eq hp, State.core_setCore_same]

theorem State.give_core_other {j : CoreId} (hj : j ≠ c) : (s.give k c r).core j = s.core j := by
  rw [State.give_eq hp, State.core_setCore_other _ _ _ _ hj, State.core_setCluster, State.core, State.core,
    (s.sameOutside_clearSpad c).cores]

theorem State.give_mem : (s.give k c r).mem = s.mem := by
  rw [State.give_eq hp, State.setCore_mem, State.setCluster_mem, (s.sameOutside_clearSpad c).mem]

theorem State.give_jobs : (s.give k c r).jobs = s.jobs := by
  rw [State.give_eq hp, State.setCore_jobs, State.setCluster_jobs, State.clearSpad_jobs]

theorem State.give_recs : ((s.give k c r).clusters[k.val]).recs =
    (s.clusters[k.val]).recs.filter fun y => decide (y.slot ≠ r.slot) := by
  rw [State.give_eq hp]
  simp only [State.setCore_clusters, State.cluster_setCluster_same, State.clearSpad_recs]

end Giving

/-- What a promotion does to a stored record. -/
def promoteRec (seq : Nat) (promoted : List Nat) (level : Nat) (r : RecSlot) : RecSlot :=
  if (r.ready.isSome && decide (r.rc.level.toNat < level)) = true then
    { r with rc := r.rc.passed, ready := r.ready.map (newOrder seq promoted) }
  else r

theorem slot_promoteRec (seq : Nat) (promoted : List Nat) (level : Nat) (r : RecSlot) :
    (promoteRec seq promoted level r).slot = r.slot := by
  unfold promoteRec
  split <;> rfl

/-- A promotion keeps the store's slots. -/
theorem State.promote_recs (s : State) (k : ClusterId) (level : Nat) :
    ∃ seq up, ((s.promote k level).clusters[k.val]).recs = (s.clusters[k.val]).recs.map (promoteRec seq up level) := by
  refine ⟨s.readySeq, ((s.turns k).filter fun x => decide (x.rc.level.toNat < level) && decide (x.rc.prom = 63)).map
    Turn.order, ?_⟩
  simp only [State.promote, State.cluster_setCluster_same]
  rfl

theorem State.sameOutside_promote (s : State) (k : ClusterId) (level : Nat) : s.SameOutside (s.promote k level) :=
  ⟨rfl, rfl, rfl, rfl, rfl, rfl⟩

@[simp] theorem State.promote_jobs (s : State) (k : ClusterId) (level : Nat) : (s.promote k level).jobs = s.jobs := rfl

theorem coreTakes_of_offered {s : State} {k : ClusterId} {c : CoreId} (hc : clusterOf c = k) (ho : s.offered c = true) :
    coreTakes (s.freeCores k) false c = true := by
  simp [coreTakes, State.freeCores, coresOf, hc, ho]

/-- A decision for a record of no gang and no pair, carried out on a free core. -/
theorem State.carryOut_fresh {s : State} {k : ClusterId} {c : CoreId} {r : RecSlot} (hg : r.rc.gang = false)
    (hp : r.rc.paired = false) (hc : clusterOf c = k) (ho : s.offered c = true) :
    s.carryOut k [c] (.fresh r) = some (s.give k c r) := by
  simp only [State.carryOut, hg, hp, Bool.false_eq_true, if_false, coreTakes_of_offered hc ho, if_true]

theorem State.takeTurn_of_carryOut {s s' : State} {k : ClusterId} {cores : List CoreId} {x : Turn}
    (hgang : (s.clusters[k.val]).gang = none) (h : s.carryOut k cores x = some s') :
    s.takeTurn k cores x = (s'.promote k x.rc.level.toNat).setCluster k fun c =>
      { c with served := c.served.set (x.rc.level.toNat % 4) (some x.key) (Nat.mod_lt _ (by decide)) } := by
  simp [State.takeTurn, h, hgang]

/-- A decision gives the record of a turn to the core named, out of the store, and serves its launch. -/
theorem State.takeTurn_fresh {s : State} {k : ClusterId} {c : CoreId} {r : RecSlot}
    (hgang : (s.clusters[k.val]).gang = none) (hg : r.rc.gang = false) (hp : r.rc.paired = false) (hc : clusterOf c = k)
    (ho : s.offered c = true) (s' : State) (hs' : s' = s.takeTurn k [c] (.fresh r)) :
    (s'.core c).status = .chosen r false none ∧ (∀ j : CoreId, j ≠ c → s'.core j = s.core j) ∧
      (∃ seq up, (s'.clusters[k.val]).recs = ((s.clusters[k.val]).recs.filter fun y => decide (y.slot ≠ r.slot)).map
        (promoteRec seq up r.rc.level.toNat)) ∧
      (s'.clusters[k.val]).served[r.rc.level.toNat]'(r.rc.level.isLt) = some (r.rc.job, r.rc.launch) ∧
      s'.mem = s.mem ∧ s'.jobs = s.jobs := by
  rw [State.takeTurn_of_carryOut hgang (State.carryOut_fresh hg hp hc ho)] at hs'
  have hcore (j : CoreId) : s'.core j = (s.give k c r).core j := by
    rw [hs', State.core_setCluster, State.core, State.core, (State.sameOutside_promote ..).cores]
  refine ⟨by rw [hcore, State.give_status hp], fun j hj => by rw [hcore, State.give_core_other hp hj], ?_, ?_, ?_, ?_⟩
  · obtain ⟨seq, up, hrecs⟩ := (s.give k c r).promote_recs k r.rc.level.toNat
    refine ⟨seq, up, ?_⟩
    rw [hs', State.cluster_setCluster_same, ← State.give_recs hp]
    exact hrecs
  · simp only [hs', State.cluster_setCluster_same]
    have hlevel : (Turn.fresh r).rc.level.toNat % 4 = r.rc.level.toNat := Nat.mod_eq_of_lt r.rc.level.isLt
    simp only [hlevel, Vector.getElem_set_self]
    rfl
  · rw [hs', State.setCluster_mem, (State.sameOutside_promote ..).mem, State.give_mem hp]
  · rw [hs', State.setCluster_jobs, State.promote_jobs, State.give_jobs hp]

/-! ### Staging (R293) -/

@[simp] theorem State.checkMacs_mem (s : State) (pa n : Nat) : (s.checkMacs pa n).mem = s.mem := by
  unfold State.checkMacs
  generalize (blocksOf 128 pa n).filter _ = l
  induction l generalizing s with
  | nil => rfl
  | cons x l ih => exact (ih (s.failLine x)).trans (s.failLine_mem x)

theorem State.stagePiece_mem {s s1 : State} {c : CoreId} {job va n : Nat} {x : Staged}
    (h : s.stagePiece c job va n = .ok (s1, x)) : s1.mem = s.mem := by
  unfold State.stagePiece at h
  cases ht : s.translate c job va .read with
  | error e => simp [ht, bind, Except.bind] at h
  | ok y =>
    simp only [ht, bind, Except.bind] at h
    split at h
    · cases h
    · split at h
      · cases h
      · cases h
        rfl
    · cases h
      exact s.checkMacs_mem ..

theorem State.stageSource_mem {c : CoreId} {job : Nat} {l : List (Nat × Nat)} {s s1 : State} {x : Staged}
    (h : State.stageSource c job l s = .ok (s1, x)) : s1.mem = s.mem := by
  induction l generalizing s x with
  | nil =>
    cases h
    rfl
  | cons p l ih =>
    obtain ⟨va, n⟩ := p
    simp only [State.stageSource, bind, Except.bind] at h
    split at h
    · cases h
    · next a ha =>
      split at h
      · cases h
      · next b hb =>
        cases h
        exact (ih hb).trans (State.stagePiece_mem ha)

@[simp] theorem State.emptyStamps_mem (s : State) (pa n : Nat) : (s.emptyStamps pa n).mem = s.mem := rfl

@[simp] theorem State.arriveStamps_mem (s : State) (pa n : Nat) : (s.arriveStamps pa n).mem = s.mem := by
  unfold State.arriveStamps
  generalize tilesIn s.tiles pa n = l
  have hfold (s : State) : (l.foldl (fun s e => s.emptyStamps (e.1 + tileSize e.2.fmt) 512) s).mem = s.mem := by
    induction l generalizing s with
    | nil => rfl
    | cons e l ih => exact ih _
  exact hfold _

@[simp] theorem State.stagePut_mem (s : State) (pa : Nat) (bs : List Byte) :
    (s.stagePut pa bs).mem = Memory.write s.mem pa bs := by
  rw [State.stagePut, State.writePa_mem, State.emptyStamps_mem]

@[simp] theorem State.staleTiles_mem (s : State) (pa n : Nat) : (s.staleTiles pa n).mem = s.mem := rfl

@[simp] theorem State.addPoison_mem (s : State) (ws : List Nat) : (s.addPoison ws).mem = s.mem := rfl

theorem State.stageOne_plain_eq {s s1 : State} {c : CoreId} {job : Nat} {e : InEntry} {x : Staged}
    (hsrc : State.stageSource c job (piecesOf e.src e.len) s = .ok (s1, x)) (htile : s1.stageTile e x = none) :
    s.stageOne c job e =
      ((((s1.arriveStamps (spadPa c e.off) x.bytes.length).stagePut (spadPa c e.off) x.bytes).staleTiles (spadPa c e.off)
        x.bytes.length).addPoison (x.marks.flatMap fun m => eccWords (spadPa c e.off + m.1) (m.2 - m.1)), none) := by
  unfold State.stageOne
  simp only [hsrc, htile]

/-- An input that copies as plain bytes is staged, and its bytes stand in the scratchpad. -/
theorem State.stageOne_plain {s s1 : State} {c : CoreId} {job : Nat} {e : InEntry} {x : Staged}
    (hsrc : State.stageSource c job (piecesOf e.src e.len) s = .ok (s1, x)) (htile : s1.stageTile e x = none) :
    ∃ s', s.stageOne c job e = (s', none) ∧ s'.mem = Memory.write s.mem (spadPa c e.off) x.bytes := by
  refine ⟨_, State.stageOne_plain_eq hsrc htile, ?_⟩
  rw [State.addPoison_mem, State.staleTiles_mem, State.stagePut_mem, State.arriveStamps_mem, State.stageSource_mem hsrc]

theorem State.stageAll_one {s s' : State} {c : CoreId} {job n : Nat} {e : InEntry} (h : s.stageOne c job e = (s', none)) :
    State.stageAll c job n [e] s = (s', none) := by
  simp only [State.stageAll, h]

section Staging

variable {s : State} {c : CoreId} {r : RecSlot} {again : Option Nat}

theorem execInputStaging_stopped (hstop : s.stopped c = true)
    (hst : (s.core c).status = .chosen r false again ∨ (s.core c).status = .chosen r true again) :
    execInputStaging c s = .next s := by
  rcases hst with hst | hst <;> simp [execInputStaging, hst, hstop]

theorem execInputStaging_ready (hrun : s.stopped c = false) (hst : (s.core c).status = .chosen r false again) {s' : State}
    (hall : State.stageAll c r.rc.job (again.getD 0) (r.ins.drop (again.getD 0)) s = (s', none)) :
    execInputStaging c s = .next (s'.setCore c fun k => { k with status := .chosen r true again }) := by
  simp [execInputStaging, hst, hrun, hall]

theorem execDispatch_stopped (hstop : s.stopped c = true)
    (hst : (s.core c).status = .chosen r false again ∨ (s.core c).status = .chosen r true again) (n : Fin 7) :
    execDispatch c n s = .next s := by
  rcases hst with hst | hst <;> simp [execDispatch, hst, hstop]

/-- A task of no gang starts, with the generation of its dispatch (R305). -/
theorem execDispatch_starts (hrun : s.stopped c = false) (hst : (s.core c).status = .chosen r true again)
    (hg : r.rc.gang = false) {n : Fin 7} (hresid : s.residOk c n.val = true) {s1 : State} {gen : BitVec 4}
    (hgen : s.dispatchGen r.rc = some (s1, gen)) :
    execDispatch c n s =
      .next (s1.start c (newTask r (slotOf c n.val) gen (s1.core c).milemax.toNat (s1.debugged r.rc))) := by
  simp [execDispatch, hst, hrun, hresid, State.gangStaged, hg, hgen]

end Staging

/-! ### The start of a task (R18, R305, R327) -/

/-- What an advance of a generation leaves: all but jobs' counters and stamps. -/
structure State.Advanced (s s1 : State) : Prop where
  outside : s.SameOutside s1
  sessions : s1.sessions = s.sessions
  launches : ∀ n, (s1.jobOf n).map Job.launches = (s.jobOf n).map Job.launches
  args : ∀ n, (s1.jobOf n).map Job.args = (s.jobOf n).map Job.args

theorem State.Advanced.refl (s : State) : s.Advanced s := ⟨.refl s, rfl, fun _ => rfl, fun _ => rfl⟩

theorem State.Advanced.trans {a b c : State} (h : a.Advanced b) (k : b.Advanced c) : a.Advanced c :=
  ⟨h.outside.trans k.outside, k.sessions.trans h.sessions, fun n => (k.launches n).trans (h.launches n),
    fun n => (k.args n).trans (h.args n)⟩

/-- A field of a job that an update keeps reads the same of every job. -/
theorem State.map_jobOf_setJob {β : Type} (s : State) (job n : Nat) (f : Job → Job) (F : Job → β)
    (hnum : ∀ j, (f j).num = j.num) (hF : ∀ j, F (f j) = F j) : ((s.setJob job f).jobOf n).map F = (s.jobOf n).map F := by
  have hp : (fun j : Job => decide (j.num = n)) ∘ (fun j => if j.num = job then f j else j) =
      fun j => decide (j.num = n) := by
    funext j
    dsimp only [Function.comp]
    split <;> simp [hnum]
  have hF' : F ∘ (fun j => if j.num = job then f j else j) = F := by
    funext j
    dsimp only [Function.comp]
    split <;> simp [hF]
  simp only [State.jobOf, State.setJob, List.find?_map, hp, Option.map_map, hF']

theorem State.advanced_setJob (s : State) (job : Nat) {f : Job → Job} (hnum : ∀ j, (f j).num = j.num)
    (hlaunches : ∀ j, (f j).launches = j.launches) (hargs : ∀ j, (f j).args = j.args) : s.Advanced (s.setJob job f) :=
  ⟨s.sameOutside_setJob .., rfl, fun n => s.map_jobOf_setJob job n f _ hnum hlaunches,
    fun n => s.map_jobOf_setJob job n f _ hnum hargs⟩

theorem State.advanced_sweep (s : State) (job : Nat) (g : BitVec 4) : s.Advanced (s.sweep job g) :=
  ⟨s.sameOutside_sweep .., rfl, fun _ => rfl, fun _ => rfl⟩

theorem State.advanced_makeGen {s s1 : State} {job : Nat} (h : s.makeGen job = some s1) : s.Advanced s1 := by
  unfold State.makeGen at h
  split at h
  · cases h
  · split at h
    · cases h
    · cases h
      refine State.Advanced.trans (State.advanced_setJob s job ?_ ?_ ?_) (State.advanced_sweep ..) <;> exact fun _ => rfl

theorem State.advanced_advanceGen {s s1 : State} {job : Nat} {g : BitVec 4} (h : s.advanceGen job = some (s1, g)) :
    s.Advanced s1 := by
  obtain ⟨j, -, -, -, hmake⟩ := State.advanceGen_eq_some h
  refine State.Advanced.trans (State.advanced_setJob s job ?_ ?_ ?_) (State.advanced_makeGen hmake) <;> exact fun _ => rfl

theorem State.Advanced.core {s s1 : State} (h : s.Advanced s1) (c : CoreId) : s1.core c = s.core c := by
  rw [State.core, State.core, h.outside.cores]

theorem State.Advanced.debugged {s s1 : State} (h : s.Advanced s1) (r : Rec) : s1.debugged r = s.debugged r := by
  rw [State.debugged, State.debugged, h.sessions]

theorem State.launchOf_eq (s : State) (job n : Nat) :
    s.launchOf job n = ((s.jobOf job).map Job.launches).bind fun l => l.find? fun x => decide (x.num = n) := by
  unfold State.launchOf
  cases s.jobOf job <;> rfl

theorem State.Advanced.launchOf {s s1 : State} (h : s.Advanced s1) (job n : Nat) :
    s1.launchOf job n = s.launchOf job n := by
  rw [State.launchOf_eq, State.launchOf_eq, h.launches]

/-- The window of a task whose launch holds no programming privilege is its job's (R327). -/
theorem State.windowOf_job {s : State} {t : Task} {j : Job} (hj : s.jobOf t.rs.rc.job = some j)
    (hw : ∀ l, s.launchOf t.rs.rc.job t.rs.rc.launch = some l → l.window = none) :
    s.windowOf t = (j.args.wbase, j.args.wlim) := by
  unfold State.windowOf
  have hnone : (s.launchOf t.rs.rc.job t.rs.rc.launch).bind Launch.window = none := by
    cases hl : s.launchOf t.rs.rc.job t.rs.rc.launch with
    | none => rfl
    | some l => exact hw l hl
  rw [hnone, hj]
  rfl

theorem State.Advanced.windowOf {s s1 : State} (h : s.Advanced s1) (t : Task) : s1.windowOf t = s.windowOf t := by
  have hargs := h.args t.rs.rc.job
  unfold State.windowOf
  rw [h.launchOf]
  cases hj : s.jobOf t.rs.rc.job <;> cases hj1 : s1.jobOf t.rs.rc.job <;> simp_all

theorem partnerOf_ne (c : CoreId) : partnerOf c ≠ c := by
  intro h
  have hv := congrArg Fin.val h
  have hc := c.isLt
  simp only [partnerOf, Fin.ofNat] at hv
  split at hv <;> omega

section Starting

variable (s : State) (c : CoreId) (t : Task)

/-- The core of a task that starts. -/
theorem State.start_core : (s.start c t).core c = { s.core c with
    wwbase := (s.windowOf t).1.setWidth 64, wwlim := (s.windowOf t).2.setWidth 64, vgroup := none, status := .running,
    task := some t, started := s.readySeq + 1, preempt := false } := by
  unfold State.start
  dsimp only
  split
  · rw [State.core_setCore_other _ _ _ _ (partnerOf_ne c).symm, State.core_setCore_same]
    rfl
  · rw [State.core_setCore_same]
    rfl

theorem State.start_core_other {j : CoreId} (hj : j ≠ c) (hpair : t.rs.rc.paired = true → j ≠ partnerOf c) :
    (s.start c t).core j = s.core j := by
  unfold State.start
  dsimp only
  split
  · next hp =>
    rw [State.core_setCore_other _ _ _ _ (hpair hp), State.core_setCore_other _ _ _ _ hj]
    rfl
  · rw [State.core_setCore_other _ _ _ _ hj]
    rfl

theorem State.start_mem : (s.start c t).mem = s.mem := by
  unfold State.start
  dsimp only
  split <;> rfl

end Starting

/-- Settles O51: `oldest` and `topLevel` for the turn, `State.takeTurn_fresh` for the decision, `State.stageOne_plain` for
the staging, `State.start_core` for the dispatch. -/
theorem dispatchAndStaging : Obligations.DispatchAndStaging := by
  unfold Obligations.DispatchAndStaging
  refine ⟨fun s k => ⟨fun l x h => State.turnOf_spec h, fun r h j hj => State.due_le_made_of_turn h hj, ?_⟩, ?_⟩
  · intro r c hgang hnext hg hp hc ho
    obtain ⟨hstatus, hothers, ⟨seq, up, hrecs⟩, hserved, hmem, hjobs⟩ := State.takeTurn_fresh hgang hg hp hc ho _ rfl
    refine ⟨s.takeTurn k [c] (.fresh r), ?_, hstatus, hothers, ?_, ?_, hserved, hmem, hjobs⟩
    · rw [exec_dispatchDecision]
      simp only [execDispatchDecision, hnext]
    · intro x hx
      rw [hrecs] at hx
      obtain ⟨y, hy, rfl⟩ := List.mem_map.1 hx
      rw [slot_promoteRec]
      simpa using (List.mem_filter.1 hy).2
    · intro x hx hne
      refine ⟨promoteRec seq up r.rc.level.toNat x, ?_, slot_promoteRec ..⟩
      rw [hrecs]
      exact List.mem_map_of_mem (List.mem_filter.2 ⟨hx, by simpa using hne⟩)
  · intro s c r again
    refine ⟨fun hstop hst => ⟨execInputStaging_stopped hstop hst, execDispatch_stopped hstop hst⟩, ?_, ?_⟩
    · intro hrun hst hagain
      have hready {s' : State} (hall : State.stageAll c r.rc.job 0 r.ins s = (s', none)) :=
        execInputStaging_ready hrun hst (s' := s') (by rwa [hagain, List.drop_zero])
      refine ⟨fun hins => ?_, fun e s1 x hins hsrc htile _ hm => ?_⟩
      · rw [exec_inputStaging, hready (s' := s) (by rw [hins, State.stageAll])]
      · obtain ⟨s', hone, hmem⟩ := State.stageOne_plain hsrc htile
        refine ⟨_, hready (by rw [hins, State.stageAll_one hone]), ?_, fun a => ?_⟩
        · rw [State.core_setCore_same]
        · rw [State.setCore_mem, hmem, Memory.get_write _ _ hm]
    · intro hrun hst hg n s1 gen hresid hgen
      have hadv : s.Advanced s1 ∧ s.dispatchGen r.rc = some (s1, gen) := by
        unfold State.dispatchGen
        split at hgen
        · next hb =>
          cases hgen
          exact ⟨.refl s, if_pos hb⟩
        · next hb => exact ⟨State.advanced_advanceGen hgen, by rw [if_neg hb, hgen]⟩
      obtain ⟨hadv, hdisp⟩ := hadv
      have hslot : slotOf c n.val = BitVec.ofNat 12 (c.val * 8 + n.val) := by
        rw [slotOf, Nat.mod_eq_of_lt (by omega)]
      have hexec := execDispatch_starts hrun hst hg hresid hdisp
      rw [hadv.core, hadv.debugged, hslot] at hexec
      have hcore := s1.start_core c (newTask r (BitVec.ofNat 12 (c.val * 8 + n.val)) gen (s.core c).milemax.toNat
        (s.debugged r.rc))
      refine ⟨_, hexec, congrArg Core.status hcore, congrArg Core.task hcore, fun j hj hw => ?_, ?_, fun i hi hpair => ?_⟩
      · rw [hadv.windowOf, State.windowOf_job hj hw] at hcore
        exact ⟨congrArg Core.wwbase hcore, congrArg Core.wwlim hcore⟩
      · rw [State.start_mem, hadv.outside.mem]
      · rw [State.start_core_other _ _ _ hi hpair, hadv.core]

end Machine

end Sys2Proof

/-! The counterexample to what O38 says of vector stores past non-temporal stores (R38, R145). -/

namespace Sys2Proof

namespace Machine

/-! ### A nibble that is stored over a non-temporal store of no byte -/

/-- An INT4 store from queue 8, at the address in x5, under mask k1. -/
def nibbleStore : VF := ⟨3, 0, 5, 8, false, 0, 1, false, false, false, false, ⟨0, false⟩, none⟩

/-- A non-temporal store that names the upper nibble of the byte at 0 and holds no byte: `NtStore.meets` finds it at no
place, and `NtStore.leaves` gives it one byte. -/
def emptyNt : NtStore := ⟨0, 0, 0, [], [], some true⟩

/-- A task with an entry of zeros in queue 8, lane 0 alone active in k1, the scratchpad's address in x5. -/
def nibbleTask : Task :=
  { newTask loadRec (slotOf 0 0) 0 4096 false with
    x := (Vector.replicate 32 0).set 5 0x40000000
    k := (Vector.replicate 8 0).set 1 1
    v := (Vector.replicate 32 []).set 8 [mkEntry (etFmt 3) 0]
    nt := [emptyNt] }

/-- That task on core 0, whose scratchpad holds 0xF0 at its first byte and whose TLB holds the scratchpad's page. -/
@[irreducible] def nibbleState : State :=
  ({ State.reset with
    mem := [(0, 0xF0)]
    jobs := [loadJob]
    tlb := [⟨.core 0, 0, false, 0x40000000, 0x10000, 0xE3⟩] } : State).setCore 0 fun k =>
      { k with status := .running, task := some nibbleTask }

/-- The first byte of the scratchpad. -/
def nibblePlace : Xlate := ⟨0, .sram, 0x40000000, 0x10000⟩

/-- The byte at 0 after an outcome. -/
def firstByteAfter : Out → Option Byte
  | .next s => some (Memory.get s.mem 0)
  | _ => none

theorem nibbleState_stores : firstByteAfter (exec (.vst nibbleStore) nibbleState) = some 0x00 := by decide +kernel

theorem nibbleState_core : (nibbleState.core 0).status = .running ∧ (nibbleState.core 0).task = some nibbleTask := by
  unfold nibbleState
  rw [State.core_setCore_same]
  exact ⟨rfl, rfl⟩

theorem nibbleState_running : nibbleState.running = some nibbleTask := by
  have hcur : nibbleState.cur = 0 := by decide +kernel
  have hclock : ((nibbleState.core 0).frozen || (nibbleState.dies[(dieOf 0).val]).frozen) = false := by decide +kernel
  obtain ⟨hstatus, htask⟩ := nibbleState_core
  have hfree : nibbleTask.wait = .none ∧ (!nibbleTask.mayPfull) = true := ⟨rfl, rfl⟩
  unfold State.running
  simp only [hcur, hclock, hstatus, htask, hfree, and_self, if_true, Bool.false_eq_true, if_false]

theorem nibbleState_ready : nibbleState.VReady nibbleStore nibbleTask [(8, false)] [] := by
  refine ⟨⟨nibbleState_running, by decide⟩, ⟨by decide +kernel, by decide +kernel⟩, ?_, nofun⟩
  simp [Task.queue, nibbleTask]

theorem nibbleTask_active (j : Nat) : (nibbleTask.getK 1).getLsbD j = true → j = 0 := by
  have hk : nibbleTask.getK 1 = 1 := by simp [Task.getK, nibbleTask]
  intro h
  rw [hk] at h
  simpa using h

/-- The lane may store: nothing blocks it, and no stamp stands against it. -/
theorem nibbleState_laneStores : nibbleState.laneStores nibbleTask 0 0x40000000 1 nibblePlace := by
  have htr : nibbleState.translate nibbleState.cur nibbleTask.rs.rc.job 0x40000000 .write = .ok nibblePlace := by
    have h : (match nibbleState.translate nibbleState.cur nibbleTask.rs.rc.job 0x40000000 .write with
        | .ok x => decide (x = nibblePlace)
        | .error _ => false) = true := by decide +kernel
    split at h
    · next x hx => rw [hx, of_decide_eq_true h]
    · cases h
  exact ⟨by decide, htr, .inl rfl, by decide +kernel, fun _ => by decide +kernel, fun hne => absurd rfl hne⟩

theorem emptyNt_meets (pa n : Nat) : emptyNt.meets pa n = false := by
  simp [NtStore.meets, emptyNt]

/-- Refutes O38: the statement takes a non-temporal store for out of the way when it meets no lane's bytes, also
`emptyNt`, which holds no byte and names a nibble. The task sees its byte with an upper nibble of 0 (`NtStore.leaves`), and an
INT4 store of the lower nibble writes that 0 over the 0xF of memory, where the statement has the nibble stay. No VSTN
leaves such a store: with `y.bytes.length = 1` wherever `y.half` is set, the argument is gone. -/
theorem not_vectorStoresComplete : ¬ Obligations.VectorStoresComplete := by
  unfold Obligations.VectorStoresComplete
  intro h
  obtain ⟨-, hnibble⟩ := h nibbleState nibbleTask nibbleStore (fun _ => nibblePlace) rfl rfl (by decide +kernel)
  obtain ⟨-, hvst, -⟩ := hnibble (by decide)
  have honly (b : Nat) (hb : ((nibbleTask.getK 1).getLsbD (2 * b) || (nibbleTask.getK 1).getLsbD (2 * b + 1)) = true) :
      b = 0 := by
    rcases Bool.or_eq_true_iff.1 hb with hb | hb <;> have := nibbleTask_active _ hb <;> omega
  obtain ⟨s', hexec, hmem, -⟩ := hvst nibbleState_ready (by decide +kernel) (by
    intro b _ hb
    rw [honly b hb]
    refine ⟨?_, ?_⟩
    · exact nibbleState_laneStores
    · intro y hy
      rw [List.mem_singleton.1 hy]
      exact emptyNt_meets _ _)
  have hafter := nibbleState_stores
  rw [hexec] at hafter
  have hzero : Memory.get s'.mem 0 = 0x00 := Option.some.inj hafter
  have hfilter : ((List.range 512).filter fun b =>
      (nibbleTask.getK 1).getLsbD (2 * b) || (nibbleTask.getK 1).getLsbD (2 * b + 1)) = [0] := by decide +kernel
  have hkept := hmem 0
  rw [show nibbleStore.k = 1 from rfl] at hkept
  rw [hfilter, hzero] at hkept
  revert hkept
  decide +kernel

end Machine

end Sys2Proof

/-! Proofs about lanes with flags and register groups, and the floating instructions of the V strand (R138 to R140, R154,
R155). -/

namespace Sys2Proof

namespace Machine

/-! ### Masked lanes and their flags (R139, R140) -/

/-- What an inactive element holds: the lane merged, or the zero of the type (R139, R325). -/
def idleLane (kz : Bool) (zr : Nat) (merge : Option (Nat → Nat)) (j : Nat) : Nat :=
  match merge with
  | some g => if kz then zr else g j
  | none => zr

theorem maskLanes_eq (m : MaskBits) (kz : Bool) (zr n : Nat) (merge : Option (Nat → Nat)) (op : Nat → Nat × Nat) :
    maskLanes m kz zr n merge op =
      (List.range n).map fun j => if activeAt m j then op j else (idleLane kz zr merge j, 0) := by
  cases merge <;> rfl

@[simp] theorem length_maskLanes (m : MaskBits) (kz : Bool) (zr n : Nat) (merge : Option (Nat → Nat))
    (op : Nat → Nat × Nat) : (maskLanes m kz zr n merge op).length = n := by
  simp [maskLanes_eq]

theorem fst_getElem_maskLanes {m : MaskBits} {kz : Bool} {zr n : Nat} {merge : Option (Nat → Nat)}
    {op : Nat → Nat × Nat} {j : Nat} (hj : j < (maskLanes m kz zr n merge op).length) :
    (maskLanes m kz zr n merge op)[j].1 = if activeAt m j then (op j).1 else idleLane kz zr merge j := by
  simp only [maskLanes_eq, List.getElem_map, List.getElem_range]
  split <;> rfl

section
variable (act : Nat → Bool) (op : Nat → Nat × Nat) (idle : Nat → Nat)

/-- The lanes without a flag add nothing to the flags of the active ones. -/
theorem foldl_flags_masked (l : List Nat) (a : Nat) :
    (l.map fun j => if act j then op j else (idle j, 0)).foldl (fun a x => a ||| x.2) a =
      ((l.filter act).map op).foldl (fun a x => a ||| x.2) a := by
  induction l generalizing a with
  | nil => rfl
  | cons j l ih =>
    by_cases hj : act j = true
    · simp [hj, ih]
    · simp [hj, ih]

theorem filter_flags_masked (l : List Nat) (b : Nat) :
    (l.map fun j => if act j then op j else (idle j, 0)).filter (fun x => decide (x.2 &&& b ≠ 0)) =
      ((l.filter act).map op).filter fun x => decide (x.2 &&& b ≠ 0) := by
  induction l with
  | nil => rfl
  | cons j l ih =>
    by_cases hj : act j = true
    · simp only [List.map_cons, List.filter_cons, hj, if_true, ih]
    · simpa [hj] using ih

end

/-- Only the active elements of a result note flags and counts (R68, R140). -/
theorem Task.noteLanes_maskLanes (p : Task) (m : MaskBits) (kz : Bool) (zr : Nat) {n : Nat} (hn : n ≤ 1024)
    (merge : Option (Nat → Nat)) (op : Nat → Nat × Nat) : p.noteLanes (maskLanes m kz zr n merge op) =
      p.noteLanes (((List.range n).filter fun j => m.getLsbD j).map op) := by
  have hact : (List.range n).filter (activeAt m) = (List.range n).filter fun j => m.getLsbD j :=
    List.filter_congr fun j hj => activeAt_lt (lt_of_lt_of_le (List.mem_range.mp hj) hn)
  simp only [Task.noteLanes, maskLanes_eq, foldl_flags_masked, filter_flags_masked, hact]

/-- The flags and counts of lanes are added to the system registers alone. -/
theorem Task.noteLanes_of_sys {p t : Task} (h : p.sys = t.sys) (ls : List (Nat × Nat)) :
    p.noteLanes ls = { p with sys := (t.noteLanes ls).sys } := by
  simp only [Task.noteLanes, Task.flag, Task.count, h]

theorem Task.noteLanes_masked_of_sys {p t : Task} (h : p.sys = t.sys) (m : MaskBits) (kz : Bool) (zr : Nat) {n : Nat}
    (hn : n ≤ 1024) (merge : Option (Nat → Nat)) (op : Nat → Nat × Nat) : p.noteLanes (maskLanes m kz zr n merge op) =
      { p with sys := (t.noteLanes (((List.range n).filter fun j => m.getLsbD j).map op)).sys } := by
  rw [Task.noteLanes_maskLanes p m kz zr hn, Task.noteLanes_of_sys h]

/-! ### Results over the registers of a group (R26, R140) -/

/-- A lane of the low bits of a number that fill whole lanes, or of the lanes after them. -/
theorem laneAt_laneAt {w n : Nat} (d k : Nat) {i : Nat} (hi : i < n) :
    laneAt w (laneAt (w * n) d k) i = laneAt w d (n * k + i) := by
  rw [laneAt.eq_1 (w * n), laneAt_ofNat w _ i (w * n) (Nat.mul_le_mul_left _ hi), laneAt, laneAt, Nat.div_div_eq_div_mul,
    ← Nat.pow_add, Nat.mul_add, Nat.mul_assoc]

theorem splitGroup_one (fmt : BitVec 5) (d : Nat) : splitGroup fmt 1 d = [mkEntry fmt d] := by
  have h := mkEntry_ofNat fmt d
  rw [BitVec.toNat_ofNat] at h
  simp only [splitGroup, List.range_one, List.map_cons, List.map_nil, Nat.mul_zero, Nat.pow_zero, Nat.div_one, h]

theorem zip_splitGroup (fmt : BitVec 5) (v : VReg) (g d : Nat) : (groupRegs v g).zip (splitGroup fmt g d) =
    (List.range g).map fun k => (groupReg v k, mkEntry fmt (BitVec.ofNat 4096 (laneAt 4096 d k)).toNat) := by
  rw [groupRegs, splitGroup, List.zip_map']
  simp only [mkEntry_ofNat]
  rfl

section
variable {s : State} {t : Task} {i : Instr} {f : VF} {srcs : Srcs} {G : VResult} {fmt : BitVec 5} {g w n : Nat}
  (hi : exec i s = vWord f none (queueBody srcs (groupRegs f.vd g) true G) s)
  (hr : s.VReady f t srcs (groupRegs f.vd g)) (hw : w * (4096 / w) = 4096)
include hi hr hw

/-- The lanes of a result over a group of registers, from the list its body builds: the registers hold `4096 / w` each. -/
theorem yields_group {ls : List (Nat × Nat)} {sys : SysRegs} {val : Nat → BitVec w}
    (hg : (G (t.advance (if f.lit.isSome then 5 else 3))).1 = splitGroup fmt g (laneBits w ls))
    (hs : ∀ p : Task, p.sys = t.sys → (G (t.advance (if f.lit.isSome then 5 else 3))).2 p = { p with sys := sys })
    (hl : ls.length = n) (hv : ∀ j (hj : j < ls.length), val j = BitVec.ofNat w ls[j].1) :
    s.Yields i f t srcs f.vd g fmt w n val sys := by
  refine ⟨fun k => BitVec.ofNat 4096 (laneAt 4096 (laneBits w ls) k), ?_, fun j hj => ?_, fun hone => ?_⟩
  · rw [hi, queueBody_done hr hs, hg, zip_splitGroup]
  · have hpos : 0 < 4096 / w := Nat.pos_of_ne_zero fun h => by simp [h] at hw
    have hlt := Nat.mod_lt j hpos
    have hj' : j < ls.length := hl ▸ hj
    rw [entryLane_eq, BitVec.toNat_ofNat, laneAt_ofNat _ _ _ _ ((Nat.mul_le_mul_left w hlt).trans hw.le),
      ← congrArg (fun x => laneAt x (laneBits w ls) (j / (4096 / w))) hw, laneAt_laneAt _ _ hlt, Nat.div_add_mod,
      laneBits, laneAt_packLanes _ _ _ (by simpa using hj'), List.getElem_map, hv j hj']
    exact BitVec.eq_of_toNat_eq (by simp)
  · have hlt := packLanes_lt w (ls.map Prod.fst)
    rw [List.length_map, hl] at hlt
    simp only [laneAt, Nat.mul_zero, Nat.pow_zero, Nat.div_one, BitVec.toNat_ofNat]
    exact (Nat.mod_le _ _).trans_lt ((Nat.mod_le _ _).trans_lt hlt)

/-- A masked result over a group of registers: active elements computed and their flags noted, the others idle. -/
theorem yields_masked {u : Task} {merge : Option (Nat → Nat)} {op out : Nat → Nat × Nat} {idle : Nat → BitVec w}
    (hu : u = t.advance (if f.lit.isSome then 5 else 3))
    (hG : G u = (splitGroup fmt g (laneBits w (maskLanes (u.getK f.k) f.kz 0 n merge op)),
      fun p => p.noteLanes (maskLanes (u.getK f.k) f.kz 0 n merge op)))
    (hlanes : n ≤ 1024) (hop : ∀ j, j < n → op j = out j)
    (hidle : ∀ j, j < n → BitVec.ofNat w (idleLane f.kz 0 merge j) = idle j) :
    s.Yields i f t srcs f.vd g fmt w n (fun j => if (t.getK f.k).getLsbD j then BitVec.ofNat w (out j).1 else idle j)
      (t.noteLanes (((List.range n).filter fun j => (t.getK f.k).getLsbD j).map out)).sys := by
  subst hu
  rw [Task.advance_getK] at hG
  have hactive : ((List.range n).filter fun j => (t.getK f.k).getLsbD j).map op =
      ((List.range n).filter fun j => (t.getK f.k).getLsbD j).map out :=
    List.map_congr_left fun j hj => hop j (List.mem_range.mp (List.mem_filter.mp hj).1)
  refine yields_group hi hr hw (congrArg Prod.fst hG) (fun p hp => ?_) (length_maskLanes ..) fun j hj => ?_
  · rw [hG]
    show p.noteLanes _ = _
    rw [Task.noteLanes_masked_of_sys hp _ _ _ hlanes, hactive]
  · have hj' : j < n := by rwa [length_maskLanes] at hj
    rw [fst_getElem_maskLanes, activeAt_lt (by omega)]
    split
    · rw [hop j hj']
    · exact (hidle j hj').symm

end

/-! ### Element-wise instructions with flags (R140, R154, R155) -/

/-- `i` is an element-wise instruction of `n` operands whose active lanes give, in the rounding mode of `t`, the bits and
flags `res` of the operands it reads. -/
def IsFlagForm (t : Task) (f : VF) (i : Instr) (n : Nat) (res : Nat → Nat → Nat → Nat × Nat) : Prop :=
  ∃ op : Task → LaneOp, (∀ s, exec i s = vWord f none (laneBody f n op) s) ∧
    ∀ (u : Task) (a b c : BitVec (etWidth f.et)) (b' c' : Nat), u.arithMode = t.arithMode → (2 ≤ n → b' = b.toNat) →
      (3 ≤ n → c' = c.toNat) → op u a.toNat b' c' = res a.toNat b.toNat c.toNat

section
variable {w : Nat} (kz : Bool) (j : Nat)

theorem ofNat_idleLane_some (g : Nat → Nat) :
    BitVec.ofNat w (idleLane kz 0 (some g) j) = if kz then 0 else BitVec.ofNat w (g j) := by
  cases kz <;> rfl

theorem ofNat_idleLane_none : BitVec.ofNat w (idleLane kz 0 none j) = 0 := rfl

end

theorem groupRegs_one (v : VReg) : groupRegs v 1 = [v] := by
  simp [groupRegs, groupReg]

theorem etWidth_mul_lanes {et : BitVec 4} (h : etWidth et ≠ 0) : etWidth et * (4096 / etWidth et) = 4096 := by
  revert et
  decide

/-- An element-wise instruction with flags completes lane by lane, and the flags of its active lanes are noted. -/
theorem IsFlagForm.yields {s : State} {t : Task} {f : VF} {i : Instr} {n : Nat} {res : Nat → Nat → Nat → Nat × Nat}
    (h : IsFlagForm t f i n res) (hw : etWidth f.et ≠ 0) (hn : n ≤ 3) (hr : s.VReady f t (vfSrcs f n) [f.vd]) :
    let w := etWidth f.et
    let lane (q : VReg) (j : Nat) : BitVec w := entryLane (t.head q).data w j
    let out (j : Nat) := res (lane f.va j).toNat (lane f.vb j).toNat (lane f.vc j).toNat
    s.Yields i f t (vfSrcs f n) f.vd 1 (etFmt f.et) w (4096 / w) (fun j =>
      if (t.getK f.k).getLsbD j then BitVec.ofNat w (out j).1
      else if f.kz then 0 else lane (if n = 3 then f.vc else f.va) j)
      (t.noteLanes (((List.range (4096 / w)).filter fun j => (t.getK f.k).getLsbD j).map out)).sys := by
  intro w lane out
  obtain ⟨op, hexec, hop⟩ := h
  rw [← groupRegs_one] at hr
  refine yields_masked (by rw [hexec, laneBody, groupRegs_one]) hr (etWidth_mul_lanes hw) rfl
    (by rw [splitGroup_one]; rfl) (lanesIn_le f.et) (fun j _ => ?_) fun j _ => ?_
  · simp only [Task.advance_headBits]
    rw [← toNat_entryLane]
    refine hop _ _ _ _ _ _ (Task.advance_arithMode ..) (fun h2 => ?_) fun h3 => ?_
    · rw [if_pos h2, toNat_entryLane]
    · rw [if_pos h3, toNat_entryLane]
  · rw [ofNat_idleLane_some]
    rcases lt_or_eq_of_le hn with h3 | rfl
    · simp [lane, laneAt_entry, show ¬ 3 ≤ n by omega, show n ≠ 3 by omega, w]
    · simp [lane, laneAt_entry, w]

section
variable {t : Task} {f : VF} {i : Instr}

theorem isFlagForm_unary {op : Mode → Nat → Nat × Nat} {res : Nat → Nat × Nat}
    (hi : ∀ s, exec i s = vWord f none (laneBody f 1 fun u a _ _ => op u.arithMode a) s)
    (hop : ∀ a : BitVec (etWidth f.et), op t.arithMode a.toNat = res a.toNat) : IsFlagForm t f i 1 fun a _ _ => res a :=
  ⟨fun u a _ _ => op u.arithMode a, hi, fun _ a _ _ _ _ hm _ _ => (congrArg (op · a.toNat) hm).trans (hop a)⟩

theorem isFlagForm_binary {op : Mode → Nat → Nat → Nat × Nat} {res : Nat → Nat → Nat × Nat}
    (hi : ∀ s, exec i s = vWord f none (laneBody f 2 fun u a b _ => op u.arithMode a b) s)
    (hop : ∀ a b : BitVec (etWidth f.et), op t.arithMode a.toNat b.toNat = res a.toNat b.toNat) :
    IsFlagForm t f i 2 fun a b _ => res a b :=
  ⟨fun u a b _ => op u.arithMode a b, hi, fun _ a b _ _ _ hm hb _ =>
    hb le_rfl ▸ (congrArg (op · a.toNat b.toNat) hm).trans (hop a b)⟩

theorem isFlagForm_ternary {op : Mode → Nat → Nat → Nat → Nat × Nat}
    (hi : ∀ s, exec i s = vWord f none (laneBody f 3 fun u => op u.arithMode) s) : IsFlagForm t f i 3 (op t.arithMode) :=
  ⟨fun u => op u.arithMode, hi, fun _ _ _ _ _ _ hm hb hc => hm ▸ hb (by decide) ▸ hc le_rfl ▸ rfl⟩

end

/-! ### Sign bits (R154) -/

theorem xor_two_pow_of_lt {a k : Nat} (h : a < 2 ^ k) : a ^^^ 2 ^ k = a + 2 ^ k := by
  apply Nat.eq_of_testBit_eq
  intro i
  rw [Nat.testBit_xor, Nat.testBit_two_pow, Nat.add_comm]
  rcases lt_trichotomy i k with hi | rfl | hi
  · rw [Nat.testBit_two_pow_add_gt hi]
    simp [hi.ne']
  · simp [Nat.testBit_two_pow_add_eq]
  · have hpow : 2 ^ (k + 1) ≤ 2 ^ i := Nat.pow_le_pow_right (by decide) hi
    rw [Nat.pow_succ] at hpow
    rw [Nat.testBit_lt_two_pow (show a < 2 ^ i by omega), Nat.testBit_lt_two_pow (show 2 ^ k + a < 2 ^ i by omega)]
    simp [hi.ne]

/-- Inverting the highest bit of a number of `k + 1` bits. -/
theorem xor_two_pow_eq {a k : Nat} (h : a < 2 ^ (k + 1)) : a ^^^ 2 ^ k = if a < 2 ^ k then a + 2 ^ k else a - 2 ^ k := by
  split
  · exact xor_two_pow_of_lt ‹_›
  · have hlow : a - 2 ^ k < 2 ^ k := by rw [Nat.pow_succ] at h; omega
    have hsum : a = (a - 2 ^ k) ^^^ 2 ^ k := by rw [xor_two_pow_of_lt hlow]; omega
    rw [congrArg (· ^^^ 2 ^ k) hsum, Nat.xor_assoc, Nat.xor_self, Nat.xor_zero]

/-- The highest bit of a number of `k + 1` bits, in its place. -/
theorem div_two_pow_mul_eq {b k : Nat} (h : b < 2 ^ (k + 1)) : b / 2 ^ k * 2 ^ k = if b < 2 ^ k then 0 else 2 ^ k := by
  have hpos := Nat.two_pow_pos k
  split
  · rw [Nat.div_eq_of_lt ‹_›, Nat.zero_mul]
  · rw [Nat.div_eq_of_lt_le (k := 1) (by omega) (by rw [Nat.pow_succ] at h; omega), Nat.one_mul]

theorem toNat_lt_sign {et : BitVec 4} (h : etWidth et ≠ 0) (a : BitVec (etWidth et)) :
    a.toNat < 2 ^ (etWidth et - 1 + 1) := by
  rw [Nat.sub_add_cancel (Nat.pos_of_ne_zero h)]
  exact a.isLt

/-! ### The floating instructions (R154, R155) -/

section
variable {t : Task} {f : VF} {i : Instr}

theorem isFlagForm_round_unary {op : Mode → Fp → Fp × Nat}
    (hi : ∀ s, exec i s = vWord f none (floatBody f 1 fun m a _ _ => op m a) s) :
    IsFlagForm t f i 1 fun a _ _ => roundLane (etFF f.et) t.arithMode (op t.arithMode ((etFF f.et).value a)) :=
  isFlagForm_unary (op := fun m a => roundLane (etFF f.et) m (op m ((etFF f.et).value a))) hi fun _ => rfl

theorem isFlagForm_round_binary {op : Mode → Fp → Fp → Fp × Nat}
    (hi : ∀ s, exec i s = vWord f none (floatBody f 2 fun m a b _ => op m a b) s) : IsFlagForm t f i 2 fun a b _ =>
      roundLane (etFF f.et) t.arithMode (op t.arithMode ((etFF f.et).value a) ((etFF f.et).value b)) :=
  isFlagForm_binary (op := fun m a b => roundLane (etFF f.et) m (op m ((etFF f.et).value a) ((etFF f.et).value b))) hi
    fun _ _ => rfl

theorem isFlagForm_round_ternary {op : Mode → Fp → Fp → Fp → Fp × Nat}
    (hi : ∀ s, exec i s = vWord f none (floatBody f 3 op) s) : IsFlagForm t f i 3 fun a b c =>
      roundLane (etFF f.et) t.arithMode
        (op t.arithMode ((etFF f.et).value a) ((etFF f.et).value b) ((etFF f.et).value c)) :=
  isFlagForm_ternary (op := fun m a b c => roundLane (etFF f.et) m
    (op m ((etFF f.et).value a) ((etFF f.et).value b) ((etFF f.et).value c))) hi

end

/-- Every floating form is an element-wise instruction with the flags of its lanes. -/
theorem isFlagForm_of_mem_floatForms {t : Task} {f : VF} (hw : etWidth f.et ≠ 0) (hwidth : (etFF f.et).width = etWidth f.et) :
    ∀ x ∈ floatForms (etFF f.et) t.arithMode, x.2.1 ≤ 3 ∧ IsFlagForm t f (x.1 f) x.2.1 x.2.2 := by
  simp only [floatForms, List.forall_mem_cons, hwidth]
  exact ⟨⟨by decide, isFlagForm_round_binary (op := fpAdd) fun _ => rfl⟩,
    ⟨by decide, isFlagForm_round_binary (op := fun m a b => fpAdd m a b.neg) fun _ => rfl⟩,
    ⟨by decide, isFlagForm_round_binary (op := fun _ => fpMul) fun _ => rfl⟩,
    ⟨by decide, isFlagForm_binary (op := fun _ => fpMin (etFF f.et)) (fun _ => rfl) fun _ _ => rfl⟩,
    ⟨by decide, isFlagForm_binary (op := fun _ => fpMax (etFF f.et)) (fun _ => rfl) fun _ _ => rfl⟩,
    ⟨by decide, isFlagForm_unary (op := fun _ a => noFlags (a % signBit f.et)) (fun _ => rfl) fun _ => rfl⟩,
    ⟨by decide, isFlagForm_unary (op := fun _ a => noFlags (a ^^^ signBit f.et)) (fun _ => rfl) fun a =>
      congrArg noFlags (xor_two_pow_eq (toNat_lt_sign hw a))⟩,
    ⟨by decide, isFlagForm_binary (op := fun _ a b => noFlags (a % signBit f.et + b / signBit f.et * signBit f.et))
      (fun _ => rfl) fun a b => congrArg (fun x => noFlags (a.toNat % signBit f.et + x))
        (div_two_pow_mul_eq (toNat_lt_sign hw b))⟩,
    ⟨le_rfl, isFlagForm_round_ternary (op := fun m => fpFma m false false) fun _ => rfl⟩,
    ⟨le_rfl, isFlagForm_round_ternary (op := fun m => fpFma m false true) fun _ => rfl⟩,
    ⟨le_rfl, isFlagForm_round_ternary (op := fun m => fpFma m true false) fun _ => rfl⟩,
    ⟨le_rfl, isFlagForm_round_ternary (op := fun m => fpFma m true true) fun _ => rfl⟩,
    ⟨by decide, isFlagForm_round_unary (op := fun _ => fpSqrt) fun _ => rfl⟩,
    ⟨by decide, isFlagForm_round_binary (op := fun _ => fpDiv) fun _ => rfl⟩, by simp⟩

theorem isFlagForm_of_mem_approxForms (t : Task) (f : VF) :
    ∀ x ∈ approxForms, x.2.1 ≤ 3 ∧ IsFlagForm t f (x.1 f) x.2.1 x.2.2 := by
  simp only [approxForms, List.forall_mem_cons]
  exact ⟨⟨by decide, isFlagForm_unary (op := fun _ => vrsqa) (fun _ => rfl) fun _ => rfl⟩,
    ⟨by decide, isFlagForm_unary (op := fun _ => vrcpa) (fun _ => rfl) fun _ => rfl⟩,
    ⟨by decide, isFlagForm_unary (op := fun _ => vexpa) (fun _ => rfl) fun _ => rfl⟩,
    ⟨by decide, isFlagForm_unary (op := fun _ => vloga) (fun _ => rfl) fun _ => rfl⟩, by simp⟩

/-- The formats of the arithmetic types, and that they fill their lanes (R44, R50). -/
theorem etFF_of_arith {et : BitVec 4} (h : et = 6 ∨ et = 7 ∨ et = 8) :
    (if et = 6 then ffFp16 else if et = 7 then ffBf16 else ff32) = etFF et ∧ etWidth et ≠ 0 ∧
      (etFF et).width = etWidth et := by
  rcases h with rfl | rfl | rfl <;> decide

/-- Settles O29: every floating form is an element-wise instruction with flags (`isFlagForm_of_mem_floatForms`), and such an
instruction completes lane by lane. -/
theorem floatLanes : Obligations.FloatLanes := by
  unfold Obligations.FloatLanes
  intro s t f het w ff x hx srcs lane res active hr
  obtain ⟨hff, hw, hwidth⟩ := etFF_of_arith het
  obtain ⟨hn, hform⟩ : x.2.1 ≤ 3 ∧ IsFlagForm t f (x.1 f) x.2.1 x.2.2 := by
    rcases List.mem_append.mp hx with hfloat | happrox
    · exact isFlagForm_of_mem_floatForms hw hwidth x (hff ▸ hfloat)
    · split at happrox
      · exact isFlagForm_of_mem_approxForms t f x happrox
      · cases happrox
  exact hform.yields hw hn hr

end Machine

end Sys2Proof

/-! Proofs about the widening and narrowing instructions of the V strand (R139, R162 to R164). -/

namespace Sys2Proof

namespace Machine

/-! ### Lanes of a pair of registers (R26, R162) -/

/-- Lane j of width w counted over the heads of a group from `v`. -/
def Task.groupLane (t : Task) (v : VReg) (w j : Nat) : BitVec w :=
  entryLane (t.head (groupReg v (j / (4096 / w)))).data w (j % (4096 / w))

@[simp] theorem Task.advance_groupBits (t : Task) (n : Nat) (v : VReg) (g : Nat) :
    (t.advance n).groupBits v g = t.groupBits v g := by
  simp [Task.groupBits]

theorem groupSrcs_two (v : VReg) (peek : Bool) : groupSrcs v 2 peek = [(v, peek), (groupReg v 1, peek)] := by
  simp [groupSrcs, groupRegs, groupReg, List.range_succ]

theorem packLanes_pair {w a b : Nat} (ha : a < 2 ^ w) (hb : b < 2 ^ w) :
    packLanes w [a, b] = [a * 2 ^ (w * 0), b * 2 ^ (w * 1)].foldl (· + ·) 0 := by
  simp only [packLanes, List.foldr_cons, List.foldr_nil, List.foldl_cons, List.foldl_nil, Nat.mod_eq_of_lt ha,
    Nat.mod_eq_of_lt hb, Nat.zero_mul, Nat.add_zero, Nat.zero_add, Nat.mul_zero, Nat.pow_zero, Nat.mul_one]

theorem Task.headBits_lt (t : Task) (q : VReg) : t.headBits q < 2 ^ 4096 := (t.head q).data.isLt

theorem Task.groupBits_two (t : Task) (v : VReg) :
    t.groupBits v 2 = packLanes 4096 [t.headBits (groupReg v 0), t.headBits (groupReg v 1)] := by
  rw [packLanes_pair (t.headBits_lt _) (t.headBits_lt _), Task.groupBits]
  simp only [List.range_succ, List.range_zero, List.nil_append, List.cons_append, List.map_cons, List.map_nil]

theorem Task.laneAt_groupBits (t : Task) (v : VReg) {k : Nat} (hk : k < 2) :
    laneAt 4096 (t.groupBits v 2) k = t.headBits (groupReg v k) := by
  rw [Task.groupBits_two, laneAt_packLanes _ _ _ hk]
  have hcases : k = 0 ∨ k = 1 := by omega
  rcases hcases with rfl | rfl <;> exact Nat.mod_eq_of_lt (t.headBits_lt _)

theorem Task.toNat_groupLane (t : Task) (v : VReg) {w j : Nat} (hw : w * (4096 / w) = 4096) (hj : j < 2 * (4096 / w)) :
    (t.groupLane v w j).toNat = laneAt w (t.groupBits v 2) j := by
  have hpos : 0 < 4096 / w := Nat.pos_of_ne_zero fun h => by simp [h] at hw
  rw [Task.groupLane, toNat_entryLane, ← Task.laneAt_groupBits t v (Nat.div_lt_of_lt_mul (Nat.mul_comm 2 _ ▸ hj)),
    ← congrArg (fun x => laneAt x (t.groupBits v 2) (j / (4096 / w))) hw, laneAt_laneAt _ _ (Nat.mod_lt _ hpos),
    Nat.div_add_mod]

/-! ### Clamping (R153, R164) -/

/-- An integer clamped to the range of a lane. -/
def clampTo (u : Bool) (w : Nat) (v : Int) : Int :=
  if u then max 0 (min (2 ^ w - 1) v) else max (-2 ^ (w - 1)) (min (2 ^ (w - 1) - 1) v)

theorem ofInt_lt (w : Nat) (i : Int) : ofInt w i < 2 ^ w := by
  have hpos : (0 : Int) < ((2 ^ w : Nat) : Int) := by positivity
  rw [ofInt, Int.toNat_lt (Int.emod_nonneg i hpos.ne')]
  exact Int.emod_lt_of_pos i hpos

theorem clampLane_eq_toNat (u : Bool) (w : Nat) (v : Int) : clampLane u w v = (BitVec.ofInt w (clampTo u w v)).toNat := by
  rw [clampTo, ← clampLane_eq, BitVec.toNat_ofNat]
  exact (Nat.mod_eq_of_lt (ofInt_lt ..)).symm

theorem laneNum_ofInt_clampTo {w : Nat} (hw : 0 < w) (u : Bool) (v : Int) :
    laneNum u (BitVec.ofInt w (clampTo u w v)) = clampTo u w v := by
  have hpow : (0 : Int) < 2 ^ w := by positivity
  have hhalf : (0 : Int) < 2 ^ (w - 1) := by positivity
  cases u
  · have hlow : -2 ^ (w - 1) ≤ clampTo false w v := le_max_left _ _
    have hhigh : clampTo false w v < 2 ^ (w - 1) := by
      simp only [clampTo, Bool.false_eq_true, if_false]
      omega
    exact BitVec.toInt_ofInt_eq_self hw hlow hhigh
  · have hlow : 0 ≤ clampTo true w v := le_max_left _ _
    have hhigh : clampTo true w v < 2 ^ w := by
      simp only [clampTo, if_true]
      omega
    simp only [laneNum, if_true, BitVec.toNat_ofInt]
    rw [Nat.cast_pow, Nat.cast_ofNat, Int.emod_eq_of_lt hlow hhigh, Int.toNat_of_nonneg hlow]

/-! ### Narrowing (R164) -/

/-- What R162 says of a type and its pair type. -/
theorem pairEt_of_mem {et wide : BitVec 4}
    (h : (et, wide) ∈ ([(3, 0), (0, 1), (1, 2), (6, 8), (7, 8)] : List (BitVec 4 × BitVec 4))) :
    pairEt et = some wide ∧ etWidth wide = 2 * etWidth et ∧ etWidth et ≠ 0 ∧
      4096 / etWidth et = 2 * (4096 / etWidth wide) := by
  revert et wide
  decide

/-- The narrowing instruction `i` completes with the bits and flags that `val` gives of each active element of the pair. -/
def State.Narrows (s : State) (t : Task) (f : VF) (wide : BitVec 4) (i : Instr) (val : BitVec (etWidth wide) → Nat × Nat) :
    Prop :=
  let w := etWidth f.et
  let out (j : Nat) := val (t.groupLane f.va (etWidth wide) j)
  s.Yields i f t [(f.va, f.qa), (groupReg f.va 1, f.qa)] f.vd 1 (etFmt f.et) w (4096 / w)
    (fun j => if (t.getK f.k).getLsbD j then BitVec.ofNat w (out j).1 else 0)
    (t.noteLanes (((List.range (4096 / w)).filter fun j => (t.getK f.k).getLsbD j).map out)).sys

section
variable {s : State} {t : Task} {f : VF} {wide : BitVec 4}
  (hmem : (f.et, wide) ∈ ([(3, 0), (0, 1), (1, 2), (6, 8), (7, 8)] : List (BitVec 4 × BitVec 4)))
  (hr : s.VReady f t [(f.va, f.qa), (groupReg f.va 1, f.qa)] [f.vd])
include hmem hr

theorem narrows_of_narrowBody {i : Instr} {op : Task → Nat → Nat × Nat} {val : BitVec (etWidth wide) → Nat × Nat}
    (hi : ∀ s, exec i s = vWord f none (narrowBody f op) s)
    (hop : ∀ u a, u.arithMode = t.arithMode → op u a.toNat = val a) : s.Narrows t f wide i val := by
  obtain ⟨hpair, hwide, hw, hlanes⟩ := pairEt_of_mem hmem
  unfold State.Narrows
  rw [← groupRegs_one] at hr
  rw [← groupSrcs_two] at hr ⊢
  refine yields_masked (by rw [hi, narrowBody, hpair, groupRegs_one]; rfl) hr (etWidth_mul_lanes hw) rfl
    (by rw [splitGroup_one]; rfl) (lanesIn_le f.et) (fun j hj => ?_) fun j _ => ofNat_idleLane_none ..
  rw [Task.advance_groupBits, ← hwide, ← Task.toNat_groupLane t f.va (etWidth_mul_lanes (by omega)) (hlanes ▸ hj)]
  exact hop _ _ (Task.advance_arithMode ..)

theorem vnsat_narrows_int (hint : etIsInt f.et = true) : s.Narrows t f wide (.vnsat f) fun a =>
    ((BitVec.ofInt (etWidth f.et) (clampTo f.u (etWidth f.et) a.toInt)).toNat,
      if clampTo f.u (etWidth f.et) a.toInt = a.toInt then 0 else flSat) := by
  obtain ⟨-, hwide, hw, -⟩ := pairEt_of_mem hmem
  have hpos := Nat.pos_of_ne_zero hw
  refine narrows_of_narrowBody hmem hr (fun _ => rfl) fun u a _ => ?_
  simp only [hint, if_true, ← hwide, toSigned_toNat (show 0 < etWidth wide by omega), clampLane_eq_toNat,
    laneInt_toNat hpos, laneNum_ofInt_clampTo hpos]

theorem vntrunc_narrows_int (hint : etIsInt f.et = true) : s.Narrows t f wide (.vntrunc f) fun a =>
    (a.toNat % 2 ^ etWidth f.et, 0) :=
  narrows_of_narrowBody hmem hr (fun _ => rfl) fun _ _ _ => if_pos hint

theorem vnsat_narrows_float (hflt : etIsInt f.et = false) : s.Narrows t f wide (.vnsat f) fun a =>
    let c := convert (etFmt f.et).toNat t.arithMode (ff32.value a.toNat)
    (c.bits, c.flags) := by
  refine narrows_of_narrowBody hmem hr (fun _ => rfl) fun u a hmode => ?_
  simp only [hflt, Bool.false_eq_true, if_false, hmode]

theorem vntrunc_narrows_float (hflt : etIsInt f.et = false) : s.Narrows t f wide (.vntrunc f) fun a =>
    let r := (etFF f.et).round .tz (ff32.value a.toNat)
    (r.1, r.2 ||| invalidIf (ff32.value a.toNat).isSig) :=
  narrows_of_narrowBody hmem hr (fun _ => rfl) fun _ _ _ => if_neg (by simp [hflt])

end

/-! ### Widening (R162, R163) -/

theorem ofInt_laneNum {w : Nat} (x : Nat) (u : Bool) (a : BitVec w) :
    BitVec.ofInt x (laneNum u a) = if u then a.setWidth x else a.signExtend x := by
  cases u
  · rfl
  · simp [laneNum, BitVec.ofInt_natCast, BitVec.ofNat_toNat]

/-- Lane j of a source of a form. -/
def Task.srcLane (t : Task) (f : VF) (q : VReg) (j : Nat) : BitVec (etWidth f.et) := entryLane (t.head q).data (etWidth f.et) j

/-- Lane j of a source, widened to `x` bits. -/
def Task.wideNum (t : Task) (f : VF) (x : Nat) (q : VReg) (j : Nat) : BitVec x :=
  if f.u then (t.srcLane f q j).setWidth x else (t.srcLane f q j).signExtend x

/-- Lane j of a source as a floating value. -/
def Task.srcVal (t : Task) (f : VF) (q : VReg) (j : Nat) : Fp := (etFF f.et).value (t.srcLane f q j).toNat

theorem ofInt_srcLane (t : Task) (f : VF) (x : Nat) (q : VReg) (j : Nat) :
    BitVec.ofInt x (laneNum f.u (t.srcLane f q j)) = t.wideNum f x q j :=
  ofInt_laneNum x f.u _

theorem srcElem_advance {f : VF} (hw : etWidth f.et ≠ 0) (t : Task) (n : Nat) (q : VReg) (j : Nat) :
    srcElem f (t.advance n) q j = (laneNum f.u (t.srcLane f q j), t.srcVal f q j) := by
  rw [srcElem, Task.advance_headBits, ← toNat_entryLane, laneInt_toNat (Nat.pos_of_ne_zero hw)]
  rfl

@[simp] theorem wideResult_advance (f : VF) (we : BitVec 4) (t : Task) (n : Nat) (i : Int) (x : Fp × Nat) :
    wideResult f we (t.advance n) i x = wideResult f we t i x := by
  simp [wideResult]

/-- The widening instruction `i` completes element by element: integers as `int` gives them, floating values with the bits
and flags of `flt`. -/
def State.Widens (s : State) (t : Task) (f : VF) (wide : BitVec 4) (i : Instr) (g : Nat) (srcs : Srcs)
    (idle int : Nat → BitVec (etWidth wide)) (flt : Nat → Nat × Nat) : Prop :=
  s.VReady f t srcs (groupRegs f.vd g) →
    s.Yields i f t srcs f.vd g (etFmt wide) (etWidth wide) (4096 / etWidth f.et)
      (fun j => if (t.getK f.k).getLsbD j then
          if etIsInt f.et then int j else BitVec.ofNat (etWidth wide) (flt j).1
        else if f.kz then 0 else idle j)
      (if etIsInt f.et then t.sys else
        (t.noteLanes (((List.range (4096 / etWidth f.et)).filter fun j => (t.getK f.k).getLsbD j).map flt)).sys)

section
variable {s : State} {t : Task} {f : VF} {i : Instr} {wide : BitVec 4} {we : Option (BitVec 4)} {g : Nat} {srcs : Srcs}
  {merge : Bool} {op : Task → Nat → Nat × Nat} {iv : Nat → Int} {xv : Nat → Fp × Nat}
  {idle int : Nat → BitVec (etWidth wide)} {flt : Nat → Nat × Nat}

/-- An integer and an exact value for each element make a widening instruction: the integer is cut to the wide width, the
value rounded once to FP32. -/
theorem widens_of_wideBody (hi : ∀ s, exec i s = vWord f none (wideBody f g we srcs merge op) s) (hwe : we = some wide)
    (hw : etWidth wide ≠ 0)
    (hop : ∀ j, j < 4096 / etWidth f.et →
      op (t.advance (if f.lit.isSome then 5 else 3)) j = wideResult f wide t (iv j) (xv j))
    (hint : ∀ j, BitVec.ofInt (etWidth wide) (iv j) = int j)
    (hflt : etIsInt f.et = false → ∀ j, roundLane ff32 t.arithMode (xv j) = flt j)
    (hidle : ∀ j, j < 4096 / etWidth f.et → BitVec.ofNat (etWidth wide) (idleLane f.kz 0
      (if merge then some (laneAt (etWidth wide) (t.groupBits f.vc g)) else none) j) = if f.kz then 0 else idle j) :
    s.Widens t f wide i g srcs idle int flt := by
  intro hr
  subst hwe
  have hdone := yields_masked (fmt := etFmt wide) (w := etWidth wide) (n := 4096 / etWidth f.et)
    (out := fun j => wideResult f wide t (iv j) (xv j)) (by rw [hi]; rfl) hr (etWidth_mul_lanes hw) rfl
    (by rw [Task.advance_groupBits]; rfl) (lanesIn_le f.et) hop hidle
  cases hkind : etIsInt f.et
  · simpa only [wideResult, hkind, hflt hkind, Bool.false_eq_true, if_false] using hdone
  · simp only [wideResult, hkind, noFlags, if_true, ofNat_ofInt, hint] at hdone
    rw [Task.noteLanes_zero] at hdone
    · exact hdone
    · intro y hy
      obtain ⟨j, -, rfl⟩ := List.mem_map.mp hy
      rfl

end

section
variable {s : State} {t : Task} {f : VF} {wide : BitVec 4}

/-- The conversions to a wider type, to the pair or to the quad. -/
theorem cvtWide_widens {i : Instr} {we : Option (BitVec 4)} {g : Nat} {flt : Nat → Nat × Nat}
    (hi : ∀ s, exec i s = vWord f none (wideBody f g we (vfSrcs f 1) false (cvtWide f (we.getD 2))) s) (hwe : we = some wide)
    (hw : etWidth f.et ≠ 0) (hwide : etWidth wide ≠ 0)
    (hflt : etIsInt f.et = false →
      ∀ j, roundLane ff32 t.arithMode (t.srcVal f f.va j, invalidIf (t.srcVal f f.va j).isSig) = flt j) :
    s.Widens t f wide i g [(f.va, f.qa)] (fun _ => 0) (t.wideNum f (etWidth wide) f.va) flt := by
  refine widens_of_wideBody hi hwe hwide (fun j _ => ?_) (ofInt_srcLane t f _ f.va) hflt fun j _ => (ite_self _).symm
  simp only [hwe, cvtWide, srcElem_advance hw, wideResult_advance, Option.getD_some]

variable (hmem : (f.et, wide) ∈ ([(3, 0), (0, 1), (1, 2), (6, 8), (7, 8)] : List (BitVec 4 × BitVec 4)))
include hmem

theorem vwadd_widens : s.Widens t f wide (.vwadd f) 2 [(f.va, f.qa), (f.vb, f.qb)] (fun _ => 0)
    (fun j => t.wideNum f (etWidth wide) f.va j + t.wideNum f (etWidth wide) f.vb j)
    fun j => roundLane ff32 t.arithMode (fpAdd t.arithMode (t.srcVal f f.va j) (t.srcVal f f.vb j)) := by
  obtain ⟨hpair, hwide, hw, -⟩ := pairEt_of_mem hmem
  refine widens_of_wideBody
    (iv := fun j => laneNum f.u (t.srcLane f f.va j) + laneNum f.u (t.srcLane f f.vb j)) (fun _ => rfl) hpair (by omega)
    (fun j _ => ?_) (fun j => ?_) (fun _ _ => rfl) fun j _ => (ite_self _).symm
  · simp only [hpair, srcElem_advance hw, wideResult_advance, Option.getD_some, Task.advance_arithMode]
  · rw [BitVec.ofInt_add, ofInt_srcLane, ofInt_srcLane]

theorem vwmul_widens : s.Widens t f wide (.vwmul f) 2 [(f.va, f.qa), (f.vb, f.qb)] (fun _ => 0)
    (fun j => t.wideNum f (etWidth wide) f.va j * t.wideNum f (etWidth wide) f.vb j)
    fun j => roundLane ff32 t.arithMode (fpMul (t.srcVal f f.va j) (t.srcVal f f.vb j)) := by
  obtain ⟨hpair, hwide, hw, -⟩ := pairEt_of_mem hmem
  refine widens_of_wideBody
    (iv := fun j => laneNum f.u (t.srcLane f f.va j) * laneNum f.u (t.srcLane f f.vb j)) (fun _ => rfl) hpair (by omega)
    (fun j _ => ?_) (fun j => ?_) (fun _ _ => rfl) fun j _ => (ite_self _).symm
  · simp only [hpair, srcElem_advance hw, wideResult_advance, Option.getD_some]
  · rw [BitVec.ofInt_mul, ofInt_srcLane, ofInt_srcLane]

theorem vwmad_widens : s.Widens t f wide (.vwmad f) 2
    ([(f.va, f.qa), (f.vb, f.qb)] ++ [(f.vc, f.qc), (groupReg f.vc 1, f.qc)]) (t.groupLane f.vc (etWidth wide))
    (fun j => t.wideNum f (etWidth wide) f.va j * t.wideNum f (etWidth wide) f.vb j + t.groupLane f.vc (etWidth wide) j)
    fun j => roundLane ff32 t.arithMode (fpFma t.arithMode false false (t.srcVal f f.va j) (t.srcVal f f.vb j)
      (ff32.value (t.groupLane f.vc (etWidth wide) j).toNat)) := by
  obtain ⟨hpair, hwide, hw, hlanes⟩ := pairEt_of_mem hmem
  have hc (j : Nat) (hj : j < 4096 / etWidth f.et) :
      laneAt (etWidth wide) (t.groupBits f.vc 2) j = (t.groupLane f.vc (etWidth wide) j).toNat :=
    (Task.toNat_groupLane t f.vc (etWidth_mul_lanes (by omega)) (hlanes ▸ hj)).symm
  rw [← groupSrcs_two]
  refine widens_of_wideBody
    (iv := fun j => laneNum f.u (t.srcLane f f.va j) * laneNum f.u (t.srcLane f f.vb j) +
      ((t.groupLane f.vc (etWidth wide) j).toNat : Int)) (fun _ => rfl) hpair (by omega)
    (fun j hj => ?_) (fun j => ?_) (fun _ _ => rfl) fun j hj => ?_
  · simp only [hpair, srcElem_advance hw, wideResult_advance, Option.getD_some, Task.advance_arithMode,
      Task.advance_groupBits, hc j hj]
  · rw [BitVec.ofInt_add, BitVec.ofInt_mul, ofInt_srcLane, ofInt_srcLane, ofInt_toNat_self]
  · rw [if_pos rfl, ofNat_idleLane_some, hc j hj, BitVec.ofNat_toNat, BitVec.setWidth_eq]

end

/-- What R162 says of a type and its quad type. -/
theorem quadEt_of_mem {et quad : BitVec 4} (h : (et, quad) ∈ ([(3, 1), (0, 2)] : List (BitVec 4 × BitVec 4))) :
    quadEt et = some quad ∧ etWidth quad ≠ 0 ∧ etWidth et ≠ 0 ∧ etIsInt et = true := by
  revert et quad
  decide

/-- Settles O33: each narrowing instruction gives every element of its pair an operation of its own (`State.Narrows`), each
widening one an integer and an exact value (`State.Widens`). -/
theorem narrowingAndWidening : Obligations.NarrowingAndWidening := by
  unfold Obligations.NarrowingAndWidening
  refine ⟨?_, ?_⟩
  · intro s t f wide hmem srcs hr
    exact ⟨fun hint => ⟨vnsat_narrows_int hmem hr hint, vntrunc_narrows_int hmem hr hint⟩,
      fun hflt => ⟨vnsat_narrows_float hmem hr hflt, vntrunc_narrows_float hmem hr hflt⟩⟩
  · intro s t f wide quad
    refine ⟨fun hmem => ?_, fun hmem => ?_⟩
    · obtain ⟨hpair, hwide, hw, -⟩ := pairEt_of_mem hmem
      exact ⟨vwadd_widens hmem, vwmul_widens hmem, vwmad_widens hmem,
        cvtWide_widens (fun _ => rfl) hpair hw (by omega) fun _ _ => rfl⟩
    · obtain ⟨hquad, hwide, hw, hint⟩ := quadEt_of_mem hmem
      exact cvtWide_widens (fun _ => rfl) hquad hw hwide fun hflt => by simp [hint] at hflt

end Machine

end Sys2Proof

/-! The counterexample to what O34 says of a dithered conversion (R61, R140). -/

namespace Sys2Proof

namespace Machine

/-! ### A dithered conversion without an active element -/

/-- VCVT of FP32 to FP8 from queue 8 to queue 4, dithered, under mask k2. -/
def idleCvt : VF := ⟨8, 4, 8, 0, false, 0, 2, false, false, false, false, ⟨0, false⟩, some 0x183⟩

/-- DITH of the task on core 0 after an outcome. -/
def dithAfter : Out → Option Word64
  | .next s => ((s.core 0).task).map fun t => t.sys.dith
  | _ => none

theorem dithAfter_onlyTask {s : State} (hs : s.cur = 0) (t : Task) : dithAfter (onlyTask s t) = some t.sys.dith := by
  rw [onlyTask, hs, dithAfter, State.core_setTask]
  rfl

theorem nibbleState_converts : dithAfter (exec (.vcvt idleCvt) nibbleState) = some 0x100 := by decide +kernel

theorem nibbleState_idleReady : nibbleState.VReady idleCvt nibbleTask [(8, false)] (groupRegs 4 1) := by
  obtain ⟨hexec, hsound, hsrc, -⟩ := nibbleState_ready
  exact ⟨hexec, hsound, hsrc, by decide +kernel⟩

/-- Refutes O34: the statement has every dithered conversion advance DITH.tcount; the model advances it only when an element
is active (`cvtBody`, R140: only active elements update it). Under the empty mask k2 a dithered VCVT leaves DITH at its
reset value, where the statement has its counter at 1. With an active element asked for, the argument is gone. -/
theorem not_conversions : ¬ Obligations.Conversions := by
  unfold Obligations.Conversions
  intro h
  obtain ⟨hplain, -⟩ := h nibbleState nibbleTask idleCvt 0x183 rfl (by decide)
  obtain ⟨sys, hafter, _, hexec, -⟩ := hplain (by decide) nibbleState_idleReady
  have hdith : sys.dith = 0x10100 := by
    rw [hafter]
    decide +kernel
  have hrun := nibbleState_converts
  rw [hexec, dithAfter_onlyTask (by decide +kernel)] at hrun
  have hkept : sys.dith = 0x100 := Option.some.inj hrun
  rw [hdith] at hkept
  revert hkept
  decide

end Machine

end Sys2Proof

/-! Proofs about the register instructions of the C strand: arithmetic, immediates, fields, compares and predicates (R102 to
R108). First each operation on values, then what the instructions that only write registers complete with. -/

namespace Sys2Proof

namespace Machine

/-! ### The operations of R102 as the statements name them -/

section
variable {n : Nat} (a b : BitVec n)

theorem mulhOf_eq : mulhOf a b = (a.signExtend (2 * n) * b.signExtend (2 * n)).extractLsb' n n := by
  rw [mulhOf, BitVec.signExtend, BitVec.signExtend, ← BitVec.ofInt_mul, extractLsb'_ofInt_high]
  norm_cast

theorem mulhuOf_eq : mulhuOf a b = (a.setWidth (2 * n) * b.setWidth (2 * n)).extractLsb' n n := by
  have hwide (x : BitVec n) : x.setWidth (2 * n) = BitVec.ofInt (2 * n) x.toNat := by
    rw [BitVec.ofInt_natCast, BitVec.ofNat_toNat]
  rw [hwide, hwide, ← BitVec.ofInt_mul, extractLsb'_ofInt_high, mulhuOf, ← BitVec.ofInt_natCast]
  norm_cast

theorem minOf_eq : minOf a b = if a.toInt ≤ b.toInt then a else b := by
  simp only [minOf, BitVec.slt_iff_toInt_lt, ← not_le, ite_not]

theorem maxOf_eq : maxOf a b = if b.toInt ≤ a.toInt then a else b := by
  simp only [maxOf, BitVec.slt_iff_toInt_lt, ← not_le, ite_not]

theorem minuOf_eq : minuOf a b = if a ≤ b then a else b := by
  simp only [minuOf, BitVec.ult_iff_lt, ← BitVec.not_le, ite_not]

theorem maxuOf_eq : maxuOf a b = if b ≤ a then a else b := by
  simp only [maxuOf, BitVec.ult_iff_lt, ← BitVec.not_le, ite_not]

end

section
variable {n m : Nat} (a : BitVec n) {b : BitVec n} (h : b.toNat % n = m)
include h

theorem shlOf_eq : shlOf a b = a <<< m := by
  rw [shlOf, h]

theorem shrOf_eq : shrOf a b = a >>> m := by
  rw [shrOf, h]

theorem sraOf_eq : sraOf a b = a.sshiftRight m := by
  rw [sraOf, h]

theorem rolOf_eq : rolOf a b = a.rotateLeft m := by
  rw [rolOf, h]

end

theorem toNat_mod_64 (b : Word64) : b.toNat % 64 = (b.setWidth 6).toNat := by
  rw [BitVec.toNat_setWidth]

theorem toNat_setWidth_mod_32 (b : Word64) : (b.setWidth 32).toNat % 32 = (b.setWidth 5).toNat := by
  rw [BitVec.toNat_setWidth, BitVec.toNat_setWidth, Nat.mod_mod_of_dvd _ (by decide)]

/-- An immediate of at least six bits shifts by its low six (R104). -/
theorem toNat_signExtend_mod_64 {w : Nat} (hw : 6 ≤ w) (i : BitVec w) :
    (i.signExtend 64).toNat % 64 = (i.setWidth 6).toNat := by
  rw [toNat_mod_64]
  congr 1
  apply BitVec.eq_of_getLsbD_eq
  intro j hj
  rw [BitVec.getLsbD_setWidth, BitVec.getLsbD_setWidth, BitVec.getLsbD_signExtend]
  simp [show j < 64 by omega, show j < w by omega]

/-! ### Instructions that only write registers (R99, R102, R104) -/

section
variable {s : State} {t : Task} {g : Guard} (hx : s.Executes g t)
include hx

theorem cWord_pureRegs (n : Nat) (f : Task → Task) : cWord n g none (pureRegs f) s = onlyTask s (f (t.advance n)) :=
  cWord_pure hx.1 hx.2

/-- A register operation completes in both widths, with the 32-bit result sign-extended (R102). -/
theorem alu3_run {rd ra rb : XReg} {f64 : Word64 → Word64 → Word64} {f32 : Word32 → Word32 → Word32} {v64 : Word64}
    {v32 : Word32} (h64 : f64 (t.getX ra) (t.getX rb) = v64)
    (h32 : f32 ((t.getX ra).setWidth 32) ((t.getX rb).setWidth 32) = v32) :
    alu3 g false rd ra rb f64 f32 s = onlyTask s ((t.advance 2).setX rd v64) ∧
      alu3 g true rd ra rb f64 f32 s = onlyTask s ((t.advance 2).setX rd (v32.signExtend 64)) := by
  simp [alu3, cWord_pureRegs hx, aluReg, binReg, aluOp, h64, h32]

/-- An immediate form completes, on 64 bits (R104). -/
theorem aluImm_run {n : Nat} {rd ra : XReg} {i v : Word64} {f : Word64 → Word64 → Word64} (h : f (t.getX ra) i = v) :
    aluImm n g rd ra i f s = onlyTask s ((t.advance n).setX rd v) := by
  simp [aluImm, cWord_pureRegs hx, immReg, unReg, h]

/-- A predicate operation completes (R108). -/
theorem plog_run {pd pa pb : PReg} {f : Bool → Bool → Bool} {v : Bool} (h : f (t.getP pa) (t.getP pb) = v) :
    plog g pd pa pb f s = onlyTask s ((t.advance 2).setP pd v) := by
  have hp (r : PReg) : (t.advance 2).getP r = t.getP r := by simp [Task.getP]
  simp [plog, cWord_pureRegs hx, plogReg, hp, h]

end

/-- Settles O1: each operation of R102 on values (`mulhOf_eq` to `maxuOf_eq`), in the frame of `alu3_run`. -/
theorem scalarArithmeticResults : Obligations.ScalarArithmeticResults := by
  unfold Obligations.ScalarArithmeticResults
  intro s t g rd ra rb hx
  have h64 := toNat_mod_64 (t.getX rb)
  have h32 := toNat_setWidth_mod_32 (t.getX rb)
  exact ⟨alu3_run hx rfl rfl, alu3_run hx rfl rfl, alu3_run hx rfl rfl, alu3_run hx rfl rfl, alu3_run hx rfl rfl,
    alu3_run hx (shlOf_eq _ h64) (shlOf_eq _ h32), alu3_run hx (shrOf_eq _ h64) (shrOf_eq _ h32),
    alu3_run hx (sraOf_eq _ h64) (sraOf_eq _ h32), alu3_run hx rfl rfl,
    alu3_run hx (mulhOf_eq _ _) (mulhOf_eq _ _), alu3_run hx (mulhuOf_eq _ _) (mulhuOf_eq _ _),
    alu3_run hx (minOf_eq _ _) (minOf_eq _ _), alu3_run hx (maxOf_eq _ _) (maxOf_eq _ _),
    alu3_run hx (minuOf_eq _ _) (minuOf_eq _ _), alu3_run hx (maxuOf_eq _ _) (maxuOf_eq _ _),
    alu3_run hx (rolOf_eq _ h64) (rolOf_eq _ h32)⟩

/-- Settles O4: a short immediate and a literal go through the same frame, `aluImm_run`. -/
theorem immediateResults : Obligations.ImmediateResults := by
  unfold Obligations.ImmediateResults
  intro s t g rd ra imm lit hx
  have short : (imm.signExtend 64).toNat % 64 = imm.toNat := by
    rw [toNat_signExtend_mod_64 le_rfl, BitVec.setWidth_eq]
  have long := toNat_signExtend_mod_64 (by decide) lit
  exact ⟨⟨aluImm_run hx rfl, aluImm_run hx rfl⟩, ⟨aluImm_run hx rfl, aluImm_run hx rfl⟩,
    ⟨aluImm_run hx rfl, aluImm_run hx rfl⟩, ⟨aluImm_run hx rfl, aluImm_run hx rfl⟩,
    ⟨aluImm_run hx rfl, aluImm_run hx rfl⟩,
    ⟨aluImm_run hx (shlOf_eq _ short), aluImm_run hx (shlOf_eq _ long)⟩,
    ⟨aluImm_run hx (shrOf_eq _ short), aluImm_run hx (shrOf_eq _ long)⟩,
    ⟨aluImm_run hx (sraOf_eq _ short), aluImm_run hx (sraOf_eq _ long)⟩⟩

end Machine

end Sys2Proof

namespace Sys2Proof

namespace Machine

/-! ### Division (R103) -/

section
variable {n : Nat} {a b : BitVec n}

theorem divOf_eq_sdiv (hb : b ≠ 0) : divOf a b = a.sdiv b := by
  rw [divOf, if_neg hb]
  apply BitVec.eq_of_toInt_eq
  rw [BitVec.toInt_ofInt, BitVec.toInt_sdiv]

theorem remOf_eq_srem (hb : b ≠ 0) : remOf a b = a.srem b := by
  rw [remOf, if_neg hb, ← BitVec.toInt_srem, BitVec.ofInt_toInt]

theorem neg_one_ne_zero_of_pos (hn : 0 < n) : (-1 : BitVec n) ≠ 0 := by
  intro h
  have hbit := congrArg (fun x : BitVec n => x.getLsbD 0) h
  simp [BitVec.neg_one_eq_allOnes, hn] at hbit

theorem srem_neg_one (hn : 0 < n) (a : BitVec n) : a.srem (-1) = 0 := by
  apply BitVec.eq_of_toInt_eq
  have hone : (-1 : BitVec n).toInt = -1 := by
    rw [show (-1 : BitVec n) = BitVec.allOnes n from BitVec.neg_one_eq_allOnes, BitVec.toInt_allOnes, if_pos hn]
  rw [BitVec.toInt_srem, hone]
  simp

/-- Signed division: the two borders of R103, and truncation toward zero elsewhere. -/
theorem divOf_remOf_spec (hn : 0 < n) (a b : BitVec n) :
    (b = 0 → divOf a b = -1 ∧ remOf a b = a) ∧
      (a = BitVec.intMin n → b = -1 → divOf a b = BitVec.intMin n ∧ remOf a b = 0) ∧
      (b ≠ 0 → ¬(a = BitVec.intMin n ∧ b = -1) →
        (divOf a b).toInt = a.toInt.tdiv b.toInt ∧ (remOf a b).toInt = a.toInt.tmod b.toInt) := by
  refine ⟨fun hb => ?_, fun ha hb => ?_, fun hb hab => ?_⟩
  · rw [divOf, remOf, if_pos hb, if_pos hb]
    exact ⟨BitVec.neg_one_eq_allOnes.symm, rfl⟩
  · subst ha hb
    rw [divOf_eq_sdiv (neg_one_ne_zero_of_pos hn), remOf_eq_srem (neg_one_ne_zero_of_pos hn)]
    exact ⟨BitVec.intMin_sdiv_neg_one, srem_neg_one hn _⟩
  · rw [divOf_eq_sdiv hb, remOf_eq_srem hb, BitVec.toInt_srem]
    exact ⟨BitVec.toInt_sdiv_of_ne_or_ne _ _ (by tauto), rfl⟩

/-- Unsigned division: the border of R103, and quotient and remainder elsewhere. -/
theorem divuOf_remuOf_spec (a b : BitVec n) :
    (b = 0 → divuOf a b = BitVec.allOnes n ∧ remuOf a b = a) ∧
      (b ≠ 0 → (divuOf a b).toNat = a.toNat / b.toNat ∧ (remuOf a b).toNat = a.toNat % b.toNat) := by
  refine ⟨fun hb => ?_, fun hb => ?_⟩
  · rw [divuOf, remuOf, if_pos hb, if_pos hb]
    exact ⟨rfl, rfl⟩
  · rw [divuOf, remuOf, if_neg hb, if_neg hb]
    exact ⟨BitVec.toNat_udiv, BitVec.toNat_umod⟩

end

/-- Settles O2: every operand pair falls under one clause of `divOf_remOf_spec` or `divuOf_remuOf_spec`, whose frame has no
trap (`alu3_run`). -/
theorem divisionNeverTraps : Obligations.DivisionNeverTraps := by
  unfold Obligations.DivisionNeverTraps
  intro s t g rd ra rb hx
  have frame {f64 : Word64 → Word64 → Word64} {f32 : Word32 → Word32 → Word32} :=
    alu3_run hx (rd := rd) (ra := ra) (rb := rb) (f64 := f64) (f32 := f32) rfl rfl
  exact ⟨⟨_, _, frame.1, frame.1, divOf_remOf_spec (by decide) _ _⟩,
    ⟨_, _, frame.2, frame.2, divOf_remOf_spec (by decide) _ _⟩,
    ⟨_, _, frame.1, frame.1, divuOf_remuOf_spec _ _⟩, ⟨_, _, frame.2, frame.2, divuOf_remuOf_spec _ _⟩⟩

/-! ### Counting bits (R102) -/

theorem signExtend_ofNat_of_le {k : Nat} (hk : k ≤ 32) : (BitVec.ofNat 32 k).signExtend 64 = BitVec.ofNat 64 k := by
  rw [BitVec.signExtend_eq_setWidth_of_msb_false]
  · apply BitVec.eq_of_toNat_eq
    simp only [BitVec.toNat_setWidth, BitVec.toNat_ofNat]
    omega
  · rw [BitVec.msb_eq_false_iff_two_mul_lt, BitVec.toNat_ofNat]
    omega

theorem getLsbD_low (a : Word64) {i : Nat} (h : i < 32) : (a.setWidth 32).getLsbD i = a.getLsbD i := by
  rw [BitVec.getLsbD_setWidth]
  simp [h]

/-- A count of the bits of `ra`, in either width (R102). -/
theorem alu3_count {s : State} {t : Task} {g : Guard} (hx : s.Executes g t) (rd ra : XReg)
    (f : ∀ {n : Nat}, BitVec n → Nat) (v : ∀ {n : Nat}, BitVec n → BitVec n → BitVec n)
    (hv : ∀ {n : Nat} (a b : BitVec n), v a b = BitVec.ofNat n (f a)) (hf : ∀ {n : Nat} (a : BitVec n), f a ≤ n) :
    alu3 g false rd ra 0 v v s = onlyTask s ((t.advance 2).setX rd (BitVec.ofNat 64 (f (t.getX ra)))) ∧
      alu3 g true rd ra 0 v v s = onlyTask s ((t.advance 2).setX rd (BitVec.ofNat 64 (f ((t.getX ra).setWidth 32)))) := by
  rw [← signExtend_ofNat_of_le (hf ((t.getX ra).setWidth 32))]
  exact alu3_run hx (hv _ _) (hv _ _)

section
variable {n : Nat} (a : BitVec n)

theorem clzOf_spec : clzOf a ≤ n ∧ (∀ i, i < clzOf a → a.getLsbD (n - 1 - i) = false) ∧
    (clzOf a < n → a.getLsbD (n - 1 - clzOf a) = true) :=
  find?_range_getD n fun i => a.getLsbD (n - 1 - i)

theorem ctzOf_spec : ctzOf a ≤ n ∧ (∀ i, i < ctzOf a → a.getLsbD i = false) ∧
    (ctzOf a < n → a.getLsbD (ctzOf a) = true) :=
  find?_range_getD n fun i => a.getLsbD i

theorem popcOf_le : popcOf a ≤ n := by
  rw [popcOf_eq_countP]
  simpa using (List.range n).countP_le_length (p := fun i => a.getLsbD i)

end

/-- Settles O3: the first set bit from either end stands where it is found (`clzOf_spec`, `ctzOf_spec`), in 32 bits among
the low bits of the register. -/
theorem bitCountResults : Obligations.BitCountResults := by
  unfold Obligations.BitCountResults
  intro s t g rd ra hx
  obtain ⟨clz64, clz32⟩ := alu3_count hx rd ra clzOf clzVal (fun _ _ => rfl) fun a => (clzOf_spec a).1
  obtain ⟨ctz64, ctz32⟩ := alu3_count hx rd ra ctzOf ctzVal (fun _ _ => rfl) fun a => (ctzOf_spec a).1
  obtain ⟨popc64, popc32⟩ := alu3_count hx rd ra popcOf popcVal (fun _ _ => rfl) popcOf_le
  intro out w
  cases w with
  | false =>
    obtain ⟨hle, hclz⟩ := clzOf_spec (t.getX ra)
    obtain ⟨hle', hctz⟩ := ctzOf_spec (t.getX ra)
    refine ⟨⟨_, hle, clz64, hclz⟩, ⟨_, hle', ctz64, hctz⟩, popc64.trans ?_⟩
    rw [popcOf_eq_countP]
    rfl
  | true =>
    obtain ⟨hle, hclz, hclz'⟩ := clzOf_spec ((t.getX ra).setWidth 32)
    obtain ⟨hle', hctz, hctz'⟩ := ctzOf_spec ((t.getX ra).setWidth 32)
    refine ⟨⟨_, hle, clz32, fun i hi => ?_, fun hlt => ?_⟩, ⟨_, hle', ctz32, fun i hi => ?_, fun hlt => ?_⟩,
      popc32.trans ?_⟩
    · exact (getLsbD_low _ (i := 31 - i) (by omega)).symm.trans (hclz i hi)
    · exact (getLsbD_low _ (i := 31 - _) (by omega)).symm.trans (hclz' hlt)
    · exact (getLsbD_low _ (hi.trans_le hle')).symm.trans (hctz i hi)
    · exact (getLsbD_low _ hlt).symm.trans (hctz' hlt)
    · rw [popcOf_eq_countP]
      have hbits : (List.range 32).countP (fun i => ((t.getX ra).setWidth 32).getLsbD i) =
          (List.range 32).countP fun i => (t.getX ra).getLsbD i :=
        List.countP_congr fun i hi => by rw [getLsbD_low _ (List.mem_range.mp hi)]
      rw [hbits]
      rfl

end Machine

end Sys2Proof

namespace Sys2Proof

namespace Machine

/-! ### Fields and addresses (R105, R106) -/

theorem getLsbD_zeroLow (n : Nat) (a : Word64) (i : Nat) :
    (zeroLow n a).getLsbD i = (decide (i < n) && a.getLsbD i) := by
  rw [zeroLow, BitVec.getLsbD_ofNat, Nat.testBit_mod_two_pow, BitVec.testBit_toNat]
  by_cases hi : i < 64
  · simp [hi]
  · simp [hi, BitVec.getLsbD_of_ge a i (by omega)]

theorem signLow_eq {n : Nat} (hn : 0 < n) (a : Word64) : signLow n a = (a.setWidth n).signExtend 64 := by
  rw [signLow, ← BitVec.toNat_setWidth, toSigned_toNat hn]
  rfl

theorem getLsbD_signLow {n : Nat} (hn : 0 < n) (a : Word64) {i : Nat} (hi : i < 64) :
    (signLow n a).getLsbD i = a.getLsbD (if i < n then i else n - 1) := by
  rw [signLow_eq hn, BitVec.getLsbD_signExtend]
  split
  · simp [*]
  · simp [hi, BitVec.msb_setWidth, hn]

theorem getLsbD_fieldOf (pos wid : Nat) (a : Word64) (i : Nat) :
    (fieldOf pos wid a).getLsbD i = (decide (i < wid) && a.getLsbD (pos + i)) := by
  rw [fieldOf, getLsbD_zeroLow, BitVec.getLsbD_ushiftRight]

theorem getLsbD_fieldMask (pos wid : Nat) {i : Nat} (hi : i < 64) :
    (BitVec.ofNat 64 ((2 ^ wid - 1) * 2 ^ pos)).getLsbD i = decide (pos ≤ i ∧ i < pos + wid) := by
  rw [BitVec.getLsbD_ofNat, Nat.testBit_mul_two_pow, Nat.testBit_two_pow_sub_one]
  by_cases h : pos ≤ i
  · simp [hi, h]
    omega
  · simp [h]

theorem getLsbD_insertField (pos wid : Nat) (v a : Word64) {i : Nat} (hi : i < 64) :
    (insertField pos wid v a).getLsbD i =
      if pos ≤ i ∧ i < pos + wid then a.getLsbD (i - pos) else v.getLsbD i := by
  simp only [insertField, BitVec.getLsbD_or, BitVec.getLsbD_and, BitVec.getLsbD_not, getLsbD_fieldMask _ _ hi,
    BitVec.getLsbD_shiftLeft, hi]
  by_cases h : pos ≤ i ∧ i < pos + wid
  · simp [h]
  · simp [h]

theorem scaledSum_eq (sh : BitVec 3) (a b : Word64) :
    scaledSum sh a b = BitVec.ofNat 64 ((a.toNat + b.toNat * 2 ^ sh.toNat) % 2 ^ 64) := by
  apply BitVec.eq_of_toNat_eq
  simp [scaledSum, Nat.shiftLeft_eq]

/-- Settles O5: LEA by `scaledSum_eq`, each field instruction by the bits of its value. -/
theorem addressesAndFields : Obligations.AddressesAndFields := by
  unfold Obligations.AddressesAndFields
  refine ⟨fun s t g sh rd ra rb hx => ?_,
    fun s t g rd ra hx => ⟨fun n hn => ?_, fun n hn => ?_, fun pos wid hwid hend => ⟨?_, ?_⟩⟩⟩
  · rw [← scaledSum_eq, exec_lea, execLea, cWord_pureRegs hx]
    simp [binReg]
  · refine ⟨signLow n.toNat (t.getX ra), ?_, fun i hi => getLsbD_signLow hn _ hi⟩
    rw [exec_sext, execSext, cWord_pureRegs hx]
    simp [unReg]
  · refine ⟨zeroLow n.toNat (t.getX ra), ?_, getLsbD_zeroLow _ _⟩
    rw [exec_zext, execZext, cWord_pureRegs hx]
    simp [unReg]
  · refine ⟨fieldOf pos.toNat wid.toNat (t.getX ra), ?_, getLsbD_fieldOf _ _ _⟩
    rw [exec_bfx, execBfx, cWord_pureRegs hx]
    simp [unReg]
  · refine ⟨insertField pos.toNat wid.toNat (t.getX rd) (t.getX ra), ?_, fun i hi => getLsbD_insertField _ _ _ _ hi⟩
    rw [exec_bfi, execBfi, cWord_pureRegs hx]
    simp [binReg]

/-! ### Compares and predicates (R107, R108) -/

/-- What a condition means (R107). -/
def condTruth (c : Cond) (a b : Word64) : Bool :=
  match c with
  | .eq => decide (a = b)
  | .ne => decide (a ≠ b)
  | .lt => decide (a.toInt < b.toInt)
  | .ge => decide (b.toInt ≤ a.toInt)
  | .ltu => decide (a.toNat < b.toNat)
  | .geu => decide (b.toNat ≤ a.toNat)
  | .tst => decide (a &&& b ≠ 0)

theorem condHolds_eq (c : Cond) (a b : Word64) : condHolds c a b = condTruth c a b := by
  cases c with
  | ge => simp [condHolds, condTruth, BitVec.slt, ← decide_not]
  | geu => simp [condHolds, condTruth, BitVec.ult, ← decide_not]
  | _ => rfl

theorem cmpImm_eq (c : Cond) (imm : BitVec 5) :
    cmpImm c imm = if c = .ltu ∨ c = .geu then imm.setWidth 64 else imm.signExtend 64 := by
  cases c <;> rfl

/-- The complement goes to pe, which p0 discards (R107). -/
theorem Task.setPair_eq (t : Task) (pd pe : PReg) (v : Bool) :
    t.setPair pd pe v = if pe = 0 then t.setP pd v else (t.setP pd v).setP pe (!v) := by
  rw [Task.setPair]
  split
  · next h => rw [h, Task.setP_zero]
  · rfl

/-- Settles O6: `condHolds_eq` for what a compare finds, `Task.setPair_eq` for where it puts it. -/
theorem predicateResults : Obligations.PredicateResults := by
  unfold Obligations.PredicateResults
  intro s t g hx
  refine ⟨fun c pd pe ra rb imm lit => ⟨?_, ?_, ?_⟩, fun pd pa pb => ?_⟩
  · rw [exec_cmp, execCmp, cWord_pureRegs hx]
    simp only [cmpReg, Task.setPair_eq, condHolds_eq, Task.advance_getX]
    rfl
  · rw [exec_cmpi, execCmpi, cWord_pureRegs hx, cmpImm_eq]
    simp only [cmpiReg, Task.setPair_eq, condHolds_eq, Task.advance_getX]
    rfl
  · rw [exec_cmpiLit, execCmpiLit, cWord_pureRegs hx]
    simp only [cmpiReg, Task.setPair_eq, condHolds_eq, Task.advance_getX]
    rfl
  · exact ⟨plog_run hx rfl, plog_run hx rfl, plog_run hx rfl, plog_run hx rfl, plog_run hx rfl, plog_run hx rfl,
      plog_run hx rfl, plog_run hx rfl⟩

end Machine

end Sys2Proof

/-! Proofs about the transfers of control, the SYS group, waiting and containment regions of the C strand (R109, R110, R115,
R124 to R126, R128, R134, R137). -/

namespace Sys2Proof

namespace Machine

/-! ### Instructions on the task's registers that complete or trap (R40, R100) -/

section
variable {s : State} {t t' : Task} {g : Guard} {n : Nat} {f : Word64 → Task → Res Task} (hx : s.Executes g t)
include hx

theorem cWord_regs_run (h : f t.pc (t.advance n) = .ok t') : cWord n g none (regs f) s = onlyTask s t' :=
  cWord_regs hx.1 hx.2 h

theorem cWord_regs_illegalOp {d : Nat} (hs : s.Sound s.cur) (h : f t.pc (t.advance n) = illegalOp d) :
    cWord n g none (regs f) s = trapsWith s t 0 2 d 0 := by
  refine cWord_illegalOp hx hs ?_
  simp only [regs, h]
  rfl

end

/-! ### Branches and calls (R109, R110) -/

theorem branchTarget_eq (pc : Word64) (disp : BitVec 16) :
    branchTarget pc disp = BitVec.ofInt 64 ((pc.toNat : Int) + 2 * disp.toInt) := by
  have hdisp : disp.signExtend 64 <<< 1 = BitVec.ofInt 64 (2 * disp.toInt) := by
    rw [BitVec.shiftLeft_eq_mul_twoPow, BitVec.mul_comm, BitVec.ofInt_mul]
    rfl
  rw [branchTarget, hdisp, BitVec.ofInt_add, ofInt_toNat_self]

/-- A task with the link that a transfer writes, if it writes one (R110). -/
def Task.linked (t : Task) (link : Option XReg) (v : Word64) : Task := link.elim t fun rd => t.setX rd v

theorem transfer_even {link : Option XReg} {ra : XReg} {s : State} {t : Task} {g : Guard} (hx : s.Executes g t)
    (h : (t.getX ra).getLsbD 0 = false) : cWord 2 g none (transfer link ra) s = onlyTask s
      { (t.advance 2).linked link (t.pc + 4) with pc := t.getX ra } := by
  refine cWord_regs_run hx ?_
  cases link <;> simp only [Task.advance_getX, h, Bool.false_eq_true, if_false, Task.linked, Option.elim]

theorem transfer_odd {link : Option XReg} {ra : XReg} {s : State} {t : Task} {g : Guard} (hx : s.Executes g t)
    (h : (t.getX ra).getLsbD 0 = true) (hs : s.Sound s.cur) :
    cWord 2 g none (transfer link ra) s = trapsWith s t 0 2 2 0 := by
  refine cWord_regs_illegalOp hx hs ?_
  simp only [Task.advance_getX, h, if_true]
  rfl

/-- Settles O7: relative targets by `branchTarget_eq`, register targets by the bit that `transfer` checks. -/
theorem branchTargets : Obligations.BranchTargets := by
  unfold Obligations.BranchTargets
  intro s t g hx
  refine ⟨fun disp => ⟨?_, ?_⟩, fun rd ra => ⟨fun h => ?_, fun h hs => ?_⟩⟩
  · rw [exec_br, execBr, ← branchTarget_eq]
    exact cWord_regs_run hx rfl
  · rw [exec_call, execCall, ← branchTarget_eq]
    exact cWord_regs_run hx rfl
  · exact ⟨transfer_even hx h, transfer_even hx h, transfer_even hx h⟩
  · exact ⟨transfer_odd hx h hs, transfer_odd hx h hs, transfer_odd hx h hs⟩

/-! ### The SYS group (R115, R126, R134, R137, R145) -/

/-- The word of TID: its two fields do not meet (R126). -/
theorem tidWord_eq (index : Word32) (launch : Nat) : BitVec.ofNat 64 (index.toNat + launch % 2 ^ 24 * 2 ^ 32) =
    (BitVec.ofNat 24 launch).setWidth 64 <<< 32 ||| index.setWidth 64 := by
  have hindex := index.isLt
  apply BitVec.eq_of_toNat_eq
  simp only [BitVec.toNat_or, BitVec.toNat_shiftLeft, BitVec.toNat_setWidth, BitVec.toNat_ofNat]
  rw [Nat.mod_eq_of_lt (b := 2 ^ 64) (a := index.toNat) (by omega), Nat.shiftLeft_eq,
    Nat.mod_eq_of_lt (a := launch % 2 ^ 24) (b := 2 ^ 64) (by omega), Nat.mod_eq_of_lt (b := 2 ^ 64) (by omega),
    Nat.mod_eq_of_lt (b := 2 ^ 64) (by omega), Nat.mul_comm _ (2 ^ 32), ← Nat.two_pow_add_eq_or_of_lt hindex, Nat.add_comm]

/-- A byte of which a non-temporal store writes one nibble (R145). -/
def nibbleMerged (upper : Bool) (new old : Byte) : Byte :=
  if upper then new.extractLsb' 4 4 ++ old.extractLsb' 0 4 else old.extractLsb' 4 4 ++ new.extractLsb' 0 4

theorem leNat_mod_256 (bs : List Byte) : leNat bs % 256 = (bs.getD 0 0).toNat := by
  cases bs with
  | nil => rfl
  | cons b bs =>
    have := b.isLt
    simp only [leNat, List.getD_cons_zero]
    omega

theorem bytesOf_withNibble (upper : Bool) (bs : List Byte) (old : Byte) :
    bytesOf 1 (withNibble upper (leNat bs) old.toNat) = [nibbleMerged upper (bs.getD 0 0) old] := by
  have hnew := leNat_mod_256 bs
  have hold := old.isLt
  simp only [bytesOf, List.cons.injEq, and_true]
  apply BitVec.eq_of_toNat_eq
  cases upper with
  | true =>
    simp only [withNibble, nibbleMerged, if_true, BitVec.toNat_ofNat, BitVec.toNat_append, BitVec.extractLsb'_toNat,
      Nat.shiftRight_eq_div_pow]
    rw [← Nat.shiftLeft_add_eq_or_of_lt (by omega), Nat.shiftLeft_eq]
    omega
  | false =>
    simp only [withNibble, nibbleMerged, Bool.false_eq_true, if_false, BitVec.toNat_ofNat, BitVec.toNat_append,
      BitVec.extractLsb'_toNat, Nat.shiftRight_eq_div_pow]
    rw [← Nat.shiftLeft_add_eq_or_of_lt (by omega), Nat.shiftLeft_eq]
    omega

theorem State.readNat_one (s : State) (pa : Nat) : s.readNat pa 1 = (Memory.get s.mem pa).toNat := by
  simp [State.readNat, State.readPa, Memory.read, leNat]

/-- What a non-temporal store leaves of a memory (R114, R145). -/
def NtStore.writes (m : List Host.Cell) (y : NtStore) : List Host.Cell :=
  Memory.write m y.pa (match y.half with
    | none => y.bytes
    | some upper => [nibbleMerged upper (y.bytes.getD 0 0) (Memory.get m y.pa)])

theorem State.applyNt_mem (s : State) (y : NtStore) : (s.applyNt y).mem = y.writes s.mem := by
  have hbytes : y.leaves s = match y.half with
      | none => y.bytes
      | some upper => [nibbleMerged upper (y.bytes.getD 0 0) (Memory.get s.mem y.pa)] := by
    cases h : y.half with
    | none => simp only [NtStore.leaves, h]
    | some upper => simp only [NtStore.leaves, h, State.readNat_one, bytesOf_withNibble]
  show (s.writeRaw y.pa (y.leaves s)).mem = _
  rw [State.writeRaw_mem, hbytes, NtStore.writes]

theorem State.foldl_applyNt_mem (l : List NtStore) (s : State) :
    (l.foldl State.applyNt s).mem = l.foldl NtStore.writes s.mem := by
  induction l generalizing s with
  | nil => rfl
  | cons y l ih => rw [List.foldl_cons, List.foldl_cons, ih, State.applyNt_mem]

/-- Settles O11: each instruction in its frame, and the memory that a drain leaves store by store
(`State.foldl_applyNt_mem`). -/
theorem systemGroupEffects : Obligations.SystemGroupEffects := by
  unfold Obligations.SystemGroupEffects
  intro s t g hx
  refine ⟨cWord_pureRegs hx 2 _, fun rd => ?_, cWord_pureRegs hx 2 _, ?_, fun a => ?_⟩
  · rw [exec_tid, execTid, cWord_pureRegs hx, ← tidWord_eq]
    simp [tidReg]
  · rw [exec_ntdrain, execNtdrain]
    exact cWord_run hx.1 hx.2 rfl (by rw [Task.advance_nt])
  · exact congrArg (Memory.get · a) (State.foldl_applyNt_mem t.nt s)

/-! ### Waiting and containment regions (R124, R125, R128) -/

theorem Task.counted_iff (t : Task) (k : Fin 16) (target : Word32) :
    t.counted k target = true ↔ ((t.cc[k.val]).toNat + 2 ^ 32 - target.toNat) % 2 ^ 32 < 2 ^ 31 := by
  have := target.isLt
  rw [Task.counted, decide_eq_true_iff, BitVec.toNat_sub,
    show (t.cc[k.val]).toNat + 2 ^ 32 - target.toNat = 2 ^ 32 - target.toNat + (t.cc[k.val]).toNat by omega]

@[simp] theorem Task.counted_advance (t : Task) (n : Nat) (k : Fin 16) (target : Word32) :
    (t.advance n).counted k target = t.counted k target := by
  simp [Task.counted]

section
variable {s : State} {t : Task} {g : Guard} {ra rb : XReg} (hx : s.Executes g t)
include hx

section
variable {k : Fin 16} (hk : (t.getX ra).toNat = k.val)
include hk

theorem exec_waitc_counted (h : t.counted k ((t.getX rb).setWidth 32) = true) :
    exec (.waitc g ra rb) s = onlyTask s (t.advance 2) := by
  refine cWord_regs_run hx ?_
  simp [hk, h, Nat.not_lt.mpr k.is_le]

theorem exec_waitc_waits (h : t.counted k ((t.getX rb).setWidth 32) = false) (hc : t.cancel = false) :
    exec (.waitc g ra rb) s = onlyTask s { t.advance 2 with
      pc := t.pc, dist := t.dist, wait := .waitc k ((t.getX rb).setWidth 32) } := by
  refine cWord_regs_run hx ?_
  simp [hk, h, hc, Nat.not_lt.mpr k.is_le]

end

theorem exec_waitc_beyond (h : 15 < (t.getX ra).toNat) (hs : s.Sound s.cur) :
    exec (.waitc g ra rb) s = trapsWith s t 0 2 5 0 :=
  cWord_regs_illegalOp hx hs (by simp [h])

theorem exec_bar_arrives (hg : t.rs.rc.gang = true) (hc : t.cmds = []) :
    exec (.bar g) s = onlyTask s { t.advance 2 with bars := t.bars + 1, wait := .bar } :=
  cWord_regs_run hx (by simp [hg, hc])

theorem exec_bar_alone (hg : t.rs.rc.gang = false) (hs : s.Sound s.cur) : exec (.bar g) s = trapsWith s t 0 2 4 0 :=
  cWord_regs_illegalOp hx hs (by simp [hg])

theorem exec_ctopen_opens (he : (t.getX ra).getLsbD 0 = false) (hd : t.regions.length < 4) : exec (.ctopen g ra) s =
    onlyTask s { t.advance 2 with regions := t.regions ++ [⟨t.getX ra, t.commit.length⟩] } :=
  cWord_regs_run hx (by simp [show (t.getX ra)[0] = false from he, Nat.not_le.mpr hd])

theorem exec_ctopen_odd (he : (t.getX ra).getLsbD 0 = true) (hs : s.Sound s.cur) :
    exec (.ctopen g ra) s = trapsWith s t 0 2 2 0 :=
  cWord_regs_illegalOp hx hs (by simp [he])

theorem exec_ctopen_deep (he : (t.getX ra).getLsbD 0 = false) (hd : 4 ≤ t.regions.length) (hs : s.Sound s.cur) :
    exec (.ctopen g ra) s = trapsWith s t 0 2 7 0 :=
  cWord_regs_illegalOp hx hs (by simp [show (t.getX ra)[0] = false from he, hd])

theorem exec_ctclose_closes (hr : t.regions ≠ []) (hc : t.cmds = []) :
    exec (.ctclose g) s = onlyTask s (t.advance 2).closeRegion :=
  cWord_regs_run hx (by simp [hr, hc])

theorem exec_ctclose_none (hr : t.regions = []) (hs : s.Sound s.cur) :
    exec (.ctclose g) s = trapsWith s t 0 2 7 0 :=
  cWord_regs_illegalOp hx hs (by simp [hr])

end

/-- Settles O14: what each of the four answers, case by case; a counter has reached its target or not
(`Task.counted_iff`). -/
theorem waitingAndRegions : Obligations.WaitingAndRegions := by
  unfold Obligations.WaitingAndRegions
  intro s t g hx
  refine ⟨fun ra rb k hk => ⟨fun h => ?_, fun h hc => ?_⟩, fun ra rb h hs => exec_waitc_beyond hx h hs,
    exec_bar_arrives hx, exec_bar_alone hx,
    fun ra => ⟨exec_ctopen_opens hx, exec_ctopen_odd hx, exec_ctopen_deep hx⟩, fun hr hc => ?_, exec_ctclose_none hx⟩
  · exact exec_waitc_counted hx hk ((t.counted_iff k _).mpr h)
  · have hwaits : t.counted k ((t.getX rb).setWidth 32) = false := by
      rw [Bool.eq_false_iff, Ne, t.counted_iff]
      omega
    exact ⟨_, exec_waitc_waits hx hk hwaits hc, rfl, rfl, t.advance_x 2, t.advance_cc 2, rfl⟩
  · refine ⟨exec_ctclose_closes hx hr hc, ?_, ?_⟩ <;> simp [Task.closeRegion]

end Machine

end Sys2Proof

/-! Proofs about the scalar loads and stores of the C strand (R101, R111 to R114): each is one body under one frame, whose
checks come in the order of R111. -/

namespace Sys2Proof

namespace Machine

/-! ### The forms of a scalar access (R101, R111, R116) -/

/-- The addresses that the short forms step by (R111). -/
theorem eaShort_one (base : Word64) (disp : BitVec 6) : eaShort 1 base disp = base + disp.signExtend 64 := by
  rw [eaShort]
  simp

theorem exec_of_mem_loadForms {g : Guard} {cls : BitVec 2} {sx : Bool} {rd ra : XReg} {disp : BitVec 6} {lit : Word32}
    {f : Instr × Nat × Bool × Nat × Word64} (hf : f ∈ loadForms g cls sx rd ra disp lit) :
    f.2.1 ∈ [1, 2, 4, 8] ∧ ∀ s, exec f.1 s =
      cWord f.2.2.2.1 g none (loadBody f.2.1 cls f.2.2.1 rd fun t => t.getX ra + f.2.2.2.2) s := by
  simp only [loadForms, List.mem_cons, List.not_mem_nil, or_false] at hf
  rcases hf with rfl | rfl | rfl | rfl | rfl | rfl | rfl | rfl
  case inl => exact ⟨by simp, fun s => by simp only [exec_ldB, execLdB, eaShort_one]⟩
  all_goals exact ⟨by simp, fun _ => rfl⟩

theorem exec_of_mem_storeForms {g : Guard} {cls : BitVec 2} {nt : Bool} {rs ra : XReg} {disp : BitVec 6} {lit : Word32}
    {f : Instr × Nat × Nat × Word64} (hf : f ∈ storeForms g cls nt rs ra disp lit) :
    f.2.1 ∈ [1, 2, 4, 8] ∧ ∀ s, exec f.1 s =
      cWord f.2.2.1 g (some 0) (storeBody f.2.1 cls nt rs fun t => t.getX ra + f.2.2.2) s := by
  simp only [storeForms, List.mem_cons, List.not_mem_nil, or_false] at hf
  rcases hf with rfl | rfl | rfl | rfl | rfl | rfl | rfl | rfl
  case inl => exact ⟨by simp, fun s => by simp only [exec_stB, execStB, eaShort_one]⟩
  all_goals exact ⟨by simp, fun _ => rfl⟩

section
variable {n a b : Nat} (hn : 0 < n) (ha : a < 2 ^ n) (hb : b < 2 ^ n)
include hn ha hb

theorem toSigned_lt_iff : toSigned n b < toSigned n a ↔ ¬ (BitVec.ofNat n a).toInt ≤ (BitVec.ofNat n b).toInt := by
  rw [← toSigned_toNat hn, ← toSigned_toNat hn, BitVec.toNat_ofNat, BitVec.toNat_ofNat, Nat.mod_eq_of_lt ha,
    Nat.mod_eq_of_lt hb, not_le]

theorem sminNat_eq : sminNat n a b = if (BitVec.ofNat n a).toInt ≤ (BitVec.ofNat n b).toInt then a else b := by
  simp only [sminNat, toSigned_lt_iff hn ha hb, ite_not]

theorem smaxNat_eq : smaxNat n a b = if (BitVec.ofNat n b).toInt ≤ (BitVec.ofNat n a).toInt then a else b := by
  simp only [smaxNat, toSigned_lt_iff hn hb ha, ite_not]

end

theorem exec_of_mem_atomicForms {g : Guard} {w : Bool} {rd ra rb : XReg}
    {f : Instr × (Nat → Nat → Nat → Nat → Nat)} (hf : f ∈ atomicForms g w rd ra rb) :
    ∃ op : Nat → Nat → Nat → Nat → Nat, (∀ n a b old, 0 < n → b < 2 ^ n → old < 2 ^ n → op n a b old = f.2 n a b old) ∧
      ∀ s, exec f.1 s = cWord 2 g (some 1) (atomBody w rd ra rb op) s := by
  simp only [atomicForms, List.mem_cons, List.not_mem_nil, or_false] at hf
  rcases hf with rfl | rfl | rfl | rfl | rfl | rfl | rfl | rfl
  · exact ⟨_, fun _ _ _ _ _ _ _ => rfl, fun _ => rfl⟩
  · exact ⟨_, fun _ _ _ _ _ _ _ => rfl, fun _ => rfl⟩
  · exact ⟨_, fun _ _ _ _ _ _ _ => rfl, fun _ => rfl⟩
  · exact ⟨_, fun _ _ _ _ _ _ _ => rfl, fun _ => rfl⟩
  · exact ⟨_, fun _ _ _ _ hn hb hold => sminNat_eq hn hold hb, fun _ => rfl⟩
  · exact ⟨_, fun _ _ _ _ hn hb hold => smaxNat_eq hn hold hb, fun _ => rfl⟩
  · exact ⟨_, fun _ _ _ _ _ _ _ => rfl, fun _ => rfl⟩
  · exact ⟨_, fun _ _ _ _ _ _ _ => rfl, fun _ => rfl⟩

/-! ### Alignment comes first (R101, R116) -/

theorem State.load_misaligned {s : State} {c : CoreId} {t : Task} {a : Acc} (h : a.va % a.n ≠ 0) :
    s.load c t a = raise 7 0 a.va :=
  if_pos h

theorem State.store_misaligned {s : State} {c : CoreId} {t : Task} {a : Acc} {bs : List Byte} (h : a.va % a.n ≠ 0) :
    s.store c t a bs = raise 7 0 a.va :=
  if_pos h

theorem State.probeAtomic_misaligned {s : State} {c : CoreId} {t : Task} {va n : Nat} (h : va % n ≠ 0) :
    s.probeAtomic c t va n = raise 7 0 va :=
  if_pos h

/-- Settles O10: the first check of every access is its alignment. -/
theorem misalignmentTraps : Obligations.MisalignmentTraps := by
  unfold Obligations.MisalignmentTraps
  intro s t g cls b w r ra rb disp lit hx hs
  refine ⟨fun f hf h => ?_, fun f hf h => ?_, fun f hf h => ?_⟩
  · have hbody : loadBody f.2.1 cls f.2.2.1 r (fun t => t.getX ra + f.2.2.2.2) s.cur t.pc s (t.advance f.2.2.2.1) =
        raise 7 0 (t.getX ra + f.2.2.2.2).toNat := by
      rw [loadBody, Task.advance_getX, State.load_misaligned h]
      rfl
    rw [(exec_of_mem_loadForms hf).2, cWord_raise hx hs hbody, BitVec.ofNat_toNat, BitVec.setWidth_eq]
  · have hbody : storeBody f.2.1 cls b r (fun t => t.getX ra + f.2.2.2) s.cur t.pc s (t.advance f.2.2.1) =
        raise 7 0 (t.getX ra + f.2.2.2).toNat := by
      rw [storeBody, Task.advance_getX, State.store_misaligned h]
    rw [(exec_of_mem_storeForms hf).2, cWord_raise hx hs hbody, BitVec.ofNat_toNat, BitVec.setWidth_eq]
  · obtain ⟨op, -, hexec⟩ := exec_of_mem_atomicForms hf
    have hbody : atomBody w r ra rb op s.cur t.pc s (t.advance 2) = raise 7 0 (t.getX ra).toNat := by
      rw [atomBody, Task.advance_getX, State.probeAtomic_misaligned (n := atomSize w) h]
      rfl
    rw [hexec, cWord_raise hx hs hbody, BitVec.ofNat_toNat, BitVec.setWidth_eq]

end Machine

end Sys2Proof

namespace Sys2Proof

namespace Machine

/-! ### What an access finds of an advanced task (R27) -/

@[simp] theorem State.viewOf_advance (s : State) (t : Task) (n : Nat) : s.viewOf (t.advance n) = s.viewOf t := by
  simp [State.viewOf]

@[simp] theorem Task.blocked_advance (t : Task) (k pa n : Nat) (write : Bool) :
    (t.advance k).blocked pa n write = t.blocked pa n write := by
  simp [Task.blocked]

@[simp] theorem State.blocked_advance (s : State) (t : Task) (k pa n : Nat) (write : Bool) :
    s.blocked (t.advance k) pa n write = s.blocked t pa n write := by
  simp [State.blocked]

@[simp] theorem Task.inWriteRange_advance (t : Task) (k va n : Nat) :
    (t.advance k).inWriteRange va n = t.inWriteRange va n := by
  simp [Task.inWriteRange]

@[simp] theorem State.touchAll_advance (t : Task) (k : Nat) (how : Touch) (cls : Option (BitVec 2)) (gs : List Nat) (s : State) :
    State.touchAll (t.advance k) how cls gs s = State.touchAll t how cls gs s := by
  induction gs generalizing s with
  | nil => rfl
  | cons g gs ih => simp [State.touchAll, State.touchGranule, ih]

@[simp] theorem State.touchAccess_advance (s : State) (t : Task) (k pa n : Nat) (write tileRow : Bool)
    (cls : Option (BitVec 2)) :
    s.touchAccess (t.advance k) pa n write tileRow cls = s.touchAccess t pa n write tileRow cls := by
  simp [State.touchAccess, State.touchRange]

@[simp] theorem State.touchAtomic_advance (s : State) (t : Task) (k pa n : Nat) :
    s.touchAtomic (t.advance k) pa n = s.touchAtomic t pa n := by
  simp [State.touchAtomic, State.touchRange]

@[simp] theorem State.touched_advance (s : State) (t : Task) (k : Nat) (x : Xlate) (n : Nat) (write tileRow : Bool)
    (cls : BitVec 2) : s.touched (t.advance k) x n write tileRow cls = s.touched t x n write tileRow cls := by
  simp [State.touched]

/-! ### Stamps alone (R306, R307) -/

/-- Only the stamps differ. -/
def State.StampsOnly (s s' : State) : Prop := ∃ l, s' = { s with stamps := l }

theorem State.StampsOnly.refl (s : State) : s.StampsOnly s := ⟨s.stamps, rfl⟩

theorem State.StampsOnly.trans {a b c : State} (h : a.StampsOnly b) (k : b.StampsOnly c) : a.StampsOnly c := by
  obtain ⟨l, rfl⟩ := h
  obtain ⟨m, rfl⟩ := k
  exact ⟨m, rfl⟩

theorem State.stampsOnly_touchAll {t : Task} {how : Touch} {cls : Option (BitVec 2)} {gs : List Nat} {s s' : State}
    (h : State.touchAll t how cls gs s = some s') : s.StampsOnly s' := by
  induction gs generalizing s with
  | nil => cases h; exact .refl _
  | cons g gs ih =>
    unfold State.touchAll at h
    split at h
    · cases h
    · next s2 hg =>
      obtain ⟨st, -, he⟩ := Option.map_eq_some_iff.mp hg
      exact .trans ⟨_, he.symm⟩ (ih h)

theorem State.stampsOnly_touchAccess {s s' : State} {t : Task} {pa n : Nat} {write tileRow : Bool}
    {cls : Option (BitVec 2)} (h : s.touchAccess t pa n write tileRow cls = some s') : s.StampsOnly s' := by
  obtain ⟨s1, h1, h2⟩ := Option.bind_eq_some_iff.mp h
  have hr := State.stampsOnly_touchAll h1
  split at h2
  · cases h2; exact hr
  · split at h2 <;> exact hr.trans (State.stampsOnly_touchAll h2)

theorem State.stampsOnly_touchAtomic {s s' : State} {t : Task} {pa n : Nat} (h : s.touchAtomic t pa n = some s') :
    s.StampsOnly s' := by
  obtain ⟨s1, h1, h2⟩ := Option.bind_eq_some_iff.mp h
  exact (State.stampsOnly_touchAll h1).trans (State.stampsOnly_touchAll h2)

theorem State.stampsOnly_touched (s : State) (t : Task) (x : Xlate) (n : Nat) (write tileRow : Bool) (cls : BitVec 2) :
    s.StampsOnly (s.touched t x n write tileRow cls) := by
  unfold State.touched
  split
  · cases h : s.touchAccess t x.pa n write tileRow (some cls) with
    | none => exact .refl s
    | some s' => exact State.stampsOnly_touchAccess h
  · exact .refl s

/-! ### The register value of loaded bytes (R111) -/

theorem leNat_lt (bs : List Byte) : leNat bs < 2 ^ (8 * bs.length) := by
  induction bs with
  | nil => exact Nat.one_pos
  | cons b bs ih =>
    have hb := b.isLt
    rw [leNat, List.length_cons, Nat.mul_succ, Nat.pow_add]
    omega

theorem length_read (m : List Host.Cell) (a n : Nat) : (Memory.read m a n).length = n := by
  simp [Memory.read]

theorem length_deviceView (l : List Buffered) (pa : Nat) (bs : List Byte) : (deviceView l pa bs).length = bs.length := by
  induction l generalizing bs with
  | nil => rfl
  | cons e l ih =>
    rw [deviceView, List.foldl_cons]
    refine (ih _).trans ?_
    cases e <;> simp

/-- The value of n bytes in a register: extended from 8n bits, by their sign when asked (R111). -/
def extended (n : Nat) (sx : Bool) (v : Nat) : Word64 :=
  if sx then (BitVec.ofNat (8 * n) v).signExtend 64 else (BitVec.ofNat (8 * n) v).setWidth 64

theorem loadValue_eq {n : Nat} {bs : List Byte} (hn : 0 < n) (hbs : bs.length = n) (sx : Bool) :
    loadValue n sx bs = extended n sx (leNat bs) := by
  have hlt := leNat_lt bs
  rw [hbs] at hlt
  cases sx with
  | true =>
    have hto : (BitVec.ofNat (8 * n) (leNat bs)).toNat = leNat bs := by
      rw [BitVec.toNat_ofNat, Nat.mod_eq_of_lt hlt]
    simp only [loadValue, extended, if_true]
    rw [← hto, toSigned_toNat (by omega), hto]
    rfl
  | false =>
    simp only [loadValue, extended, Bool.false_eq_true, if_false]
    apply BitVec.eq_of_toNat_eq
    rw [BitVec.toNat_setWidth, BitVec.toNat_ofNat, BitVec.toNat_ofNat, Nat.mod_eq_of_lt hlt]

/-! ### A load, check by check (R111 to R113, R331) -/

/-- What a load of memory meets no fault at (R111 to R113): SRAM, LPDDR or host memory, behind no command, against no stamp,
unpoisoned. -/
structure State.MemoryLoads (s : State) (t : Task) (a : Acc) (x : Xlate) : Prop where
  typ : x.typ = .sram ∨ x.typ = .lpddr ∨ x.typ = .host
  free : t.blocked x.pa a.n false = false
  stamps : x.typ = .sram → (s.touchAccess t x.pa a.n false false (some a.cls)).isSome = true
  clean : ((s.viewOf t).checkMacs x.pa a.n).poisonedAt x.pa a.n = none

section
variable {s : State} {c : CoreId} {t : Task} {a : Acc} {x : Xlate}

theorem State.MemoryLoads.doLoad (h : s.MemoryLoads t a x) :
    s.doLoad t x a = .ok (s.touched t x a.n false false a.cls, (s.viewOf t).readPa x.pa a.n) := by
  rcases h.typ with htyp | htyp | htyp <;> simp [State.doLoad, htyp, h.clean]

theorem State.doLoad_device (htyp : x.typ = .mmio) {reg : Nat} (hread : s.mmioRead x.pa a.n = some reg) :
    s.doLoad t x a = .ok (s, deviceView t.commit x.pa (bytesOf a.n reg)) := by
  simp [State.doLoad, htyp, hread]

theorem State.doLoad_aperture (htyp : x.typ = .wap) (hclean : s.poisonedRow x.pa a.n = none) :
    s.doLoad t x a = .ok (s, s.readW x.pa a.n) := by
  simp [State.doLoad, htyp, hclean]

section
variable (hx : s.translate c t.rs.rc.job a.va .read = .ok x)
include hx

theorem State.MemoryLoads.probeLoad (h : s.MemoryLoads t a x) : s.probeLoad c t a = .ok x := by
  rcases h.typ with htyp | htyp | htyp
  · obtain ⟨s1, hs1⟩ := Option.isSome_iff_exists.mp (h.stamps htyp)
    simp [State.probeLoad, hx, bind, Except.bind, htyp, h.free, hs1]
  · simp [State.probeLoad, hx, bind, Except.bind, htyp, h.free]
  · simp [State.probeLoad, hx, bind, Except.bind, htyp, h.free]

theorem State.probeLoad_device (htyp : x.typ = .mmio) {reg : Nat} (hread : s.mmioRead x.pa a.n = some reg)
    (hfree : t.blocked x.pa a.n false = false) : s.probeLoad c t a = .ok x := by
  simp [State.probeLoad, hx, bind, Except.bind, htyp, hread, hfree]

theorem State.probeLoad_aperture (htyp : x.typ = .wap) (hready : (s.dies[(wDie x.pa).val]).wready = true) :
    s.probeLoad c t a = .ok x := by
  simp [State.probeLoad, hx, bind, Except.bind, htyp, hready]

theorem State.probeLoad_notReady (htyp : x.typ = .wap) (hready : (s.dies[(wDie x.pa).val]).wready = false) :
    s.probeLoad c t a = raiseReplay 13 a.va := by
  simp [State.probeLoad, hx, bind, Except.bind, htyp, hready]

end

section
variable (ha : a.va % a.n = 0)
include ha

theorem State.load_of_probe (h : s.probeLoad c t a = .ok x) : s.load c t a = s.doLoad t x a := by
  rw [State.load, if_neg (not_not.mpr ha), h]
  rfl

theorem State.load_of_refusal {e : Stop} (h : s.probeLoad c t a = .error e) : s.load c t a = .error e := by
  rw [State.load, if_neg (not_not.mpr ha), h]
  rfl

end

end

/-! ### The scalar loads (R111 to R113) -/

section
variable {s s' : State} {t : Task} {g : Guard} {cls : BitVec 2} {sx : Bool} {rd ra : XReg} {disp : BitVec 6} {lit : Word32}
  {f : Instr × Nat × Bool × Nat × Word64} (hx : s.Executes g t) (hf : f ∈ loadForms g cls sx rd ra disp lit)
include hx hf

theorem exec_loadForm {bs : List Byte} (hbs : bs.length = f.2.1)
    (h : s.load s.cur (t.advance f.2.2.2.1) ⟨(t.getX ra + f.2.2.2.2).toNat, f.2.1, cls, false⟩ = .ok (s', bs)) :
    exec f.1 s = .next (s'.setTask s.cur ((t.advance f.2.2.2.1).setX rd (extended f.2.1 f.2.2.1 (leNat bs)))) := by
  obtain ⟨hn, hexec⟩ := exec_of_mem_loadForms hf
  have hpos : 0 < f.2.1 := Nat.pos_of_ne_zero fun h0 => by simp [h0] at hn
  rw [hexec]
  refine cWord_run hx.1 hx.2 rfl ?_
  rw [loadBody, Task.advance_getX, h, ← loadValue_eq hpos hbs]
  rfl

theorem exec_loadForm_replay (hs : s.Sound s.cur) {cause : Nat}
    (h : s.load s.cur (t.advance f.2.2.2.1) ⟨(t.getX ra + f.2.2.2.2).toNat, f.2.1, cls, false⟩ =
      raiseReplay cause (t.getX ra + f.2.2.2.2).toNat) :
    exec f.1 s = .next (s.takeTrap s.cur t ⟨1, BitVec.ofNat 8 cause, 0, t.getX ra + f.2.2.2.2, 0⟩ 0 t.pc
      (s.textAt s.cur t t.pc) 0 0) := by
  have hpair := State.pairStop_of_noFault hs.1 t
  rw [(exec_of_mem_loadForms hf).2, cWord_stop hx.1 hx.2 (hpair none) (x := _) ?_, State.stopAt_trap (hpair _)]
  rw [loadBody, Task.advance_getX, h, raiseReplay, BitVec.ofNat_toNat, BitVec.setWidth_eq]
  rfl

end

/-- Settles O8: a load passes its checks (`State.probeLoad`) and reads the bytes of its kind of memory (`State.doLoad`). -/
theorem scalarLoadsComplete : Obligations.ScalarLoadsComplete := by
  unfold Obligations.ScalarLoadsComplete
  refine ⟨?_, ?_, ?_⟩
  · intro s t g cls sx rd ra disp lit hx f hf n ea x ha hxl htyp
    rw [← Task.advance_rs t f.2.2.2.1] at hxl
    refine ⟨fun hready hclean => exec_loadForm hx hf (length_read ..) ?_,
      fun hready hs => exec_loadForm_replay hx hf hs ?_⟩
    · rw [State.load_of_probe ha (State.probeLoad_aperture hxl htyp hready), State.doLoad_aperture htyp hclean]
    · exact State.load_of_refusal ha (State.probeLoad_notReady hxl htyp hready)
  · intro s t g cls sx rd ra disp lit hx f hf n ea x reg ha hxl htyp hread hfree
    rw [← Task.advance_rs t f.2.2.2.1] at hxl
    rw [← Task.blocked_advance t f.2.2.2.1] at hfree
    rw [← Task.advance_commit t f.2.2.2.1]
    let a : Acc := ⟨ea.toNat, n, cls, false⟩
    have hprobe : s.probeLoad s.cur (t.advance f.2.2.2.1) a = .ok x := State.probeLoad_device hxl htyp hread hfree
    exact exec_loadForm hx hf (by rw [length_deviceView, length_bytesOf])
      ((State.load_of_probe ha hprobe).trans (State.doLoad_device htyp hread))
  · intro s t g cls sx rd ra disp lit hx f hf n ea x ha hxl htyp hfree hstamps hclean
    have hloads : s.MemoryLoads (t.advance f.2.2.2.1) ⟨ea.toNat, n, cls, false⟩ x :=
      ⟨htyp, by simpa using hfree, by simpa using hstamps, by simpa using hclean⟩
    rw [← Task.advance_rs t f.2.2.2.1] at hxl
    obtain ⟨stamps, hst⟩ := s.stampsOnly_touched (t.advance f.2.2.2.1) x n false false cls
    refine ⟨stamps, ?_⟩
    rw [← hst, ← State.viewOf_advance s t f.2.2.2.1]
    refine exec_loadForm hx hf (length_read ..) ?_
    rw [State.load_of_probe ha (hloads.probeLoad hxl), hloads.doLoad]

end Machine

end Sys2Proof

namespace Sys2Proof

namespace Machine

/-! ### What a write of bytes reaches (R282, R355, R356) -/

/-- Only memory, poison, failing MACs, versions and the counts of failed MACs in the dies differ. -/
def State.BytesOnly (s s' : State) : Prop :=
  ∃ mem poison badMac minors majors dies, s' = { s with mem := mem, poison := poison, badMac := badMac, minors := minors,
                                                        majors := majors, dies := dies }

theorem State.BytesOnly.refl (s : State) : s.BytesOnly s := ⟨s.mem, s.poison, s.badMac, s.minors, s.majors, s.dies, rfl⟩

theorem State.BytesOnly.trans {a b c : State} (h : a.BytesOnly b) (k : b.BytesOnly c) : a.BytesOnly c := by
  obtain ⟨_, _, _, _, _, _, rfl⟩ := h
  obtain ⟨m, p, b, i, j, d, rfl⟩ := k
  exact ⟨m, p, b, i, j, d, rfl⟩

theorem State.bytesOnly_foldl {α : Type} {f : State → α → State} (hf : ∀ (s : State) (x : α), s.BytesOnly (f s x))
    (l : List α) (s : State) : s.BytesOnly (l.foldl f s) := by
  induction l generalizing s with
  | nil => exact .refl s
  | cons x l ih => exact (hf s x).trans (ih _)

theorem State.bytesOnly_failLine (s : State) (line : Nat) : s.BytesOnly (s.failLine line) := by
  unfold State.failLine
  split
  · exact ⟨_, _, _, _, _, _, rfl⟩
  · exact .refl s

theorem State.bytesOnly_bumpLine (s : State) (line : Nat) : s.BytesOnly (s.bumpLine line) := by
  unfold State.bumpLine
  dsimp only
  split
  · split <;> exact ⟨_, _, _, _, _, _, rfl⟩
  · exact .refl s

theorem State.bytesOnly_writeLine (pa n : Nat) (s : State) (line : Nat) : s.BytesOnly (State.writeLine pa n s line) := by
  unfold State.writeLine
  refine State.BytesOnly.trans (b := if s.badMac.contains line then _ else s) ?_ (State.bytesOnly_bumpLine _ line)
  split
  · split
    · exact ⟨_, _, _, _, _, _, rfl⟩
    · exact s.bytesOnly_failLine line
  · exact .refl s

theorem State.bytesOnly_writeRaw (s : State) (pa : Nat) (bs : List Byte) : s.BytesOnly (s.writeRaw pa bs) := by
  unfold State.writeRaw
  refine State.BytesOnly.trans (b := if (homeOf pa).isLpddr then _ else s) ?_ ⟨_, _, _, _, _, _, rfl⟩
  split
  · exact State.bytesOnly_foldl (State.bytesOnly_writeLine pa bs.length) _ s
  · exact .refl s

theorem State.bytesOnly_clearCovered (s : State) (pa n : Nat) : s.BytesOnly (s.clearCovered pa n) := by
  unfold State.clearCovered
  dsimp only
  split
  · exact .refl s
  · exact ⟨_, _, _, _, _, _, rfl⟩

theorem State.bytesOnly_writePa (s : State) (pa : Nat) (bs : List Byte) : s.BytesOnly (s.writePa pa bs) :=
  (s.bytesOnly_writeRaw pa bs).trans (State.bytesOnly_clearCovered _ pa bs.length)

theorem State.writePa_tiles (s : State) (pa : Nat) (bs : List Byte) : (s.writePa pa bs).tiles = s.tiles := by
  obtain ⟨_, _, _, _, _, _, h⟩ := s.bytesOnly_writePa pa bs
  rw [h]

/-! ### A tile that a write meets (R259) -/

theorem mem_markTile {ts : List (Nat × Tile)} {e : Nat × Tile} (h : e ∈ ts) (a : Nat) (st : Bool) :
    (if e.1 = a then (e.1, { e.2 with stale := st }) else e) ∈ markTile ts a st :=
  List.mem_map.mpr ⟨e, h, rfl⟩

/-- Marking tiles STALE leaves a tile that is STALE, and one of those marked, STALE. -/
theorem stale_mem_foldl_markTile {l ts : List (Nat × Tile)} {e : Nat × Tile}
    (h : (e ∈ ts ∧ e ∈ l) ∨ (e.1, { e.2 with stale := true }) ∈ ts) :
    (e.1, { e.2 with stale := true }) ∈ l.foldl (fun ts e => markTile ts e.1 true) ts := by
  induction l generalizing ts with
  | nil => exact h.resolve_left fun h => by simp at h
  | cons x l ih =>
    refine ih ?_
    rcases h with ⟨hts, hl⟩ | hts
    · have hm := mem_markTile hts x.1 true
      split at hm
      · exact .inr hm
      · next hne => exact .inl ⟨hm, (List.mem_cons.mp hl).resolve_left fun he => hne (he ▸ rfl)⟩
    · have hm := mem_markTile hts x.1 true
      exact .inr (by split at hm <;> exact hm)

theorem State.stale_mem_staleTiles {s : State} {pa n : Nat} {e : Nat × Tile} (h : e ∈ tilesIn s.tiles pa n) :
    (e.1, { e.2 with stale := true }) ∈ (s.staleTiles pa n).tiles :=
  stale_mem_foldl_markTile (.inl ⟨(List.mem_filter.mp h).1, h⟩)

/-! ### What a task sees does not hang on stamps -/

def State.withStamps (s : State) (l : List (Nat × Stamp)) : State := { s with stamps := l }

section
variable (s : State) (l : List (Nat × Stamp))

theorem State.foldl_withStamps {α : Type} {f : State → α → State}
    (hf : ∀ (s : State) (x : α), f (s.withStamps l) x = (f s x).withStamps l) (xs : List α) :
    xs.foldl f (s.withStamps l) = (xs.foldl f s).withStamps l := by
  induction xs generalizing s with
  | nil => rfl
  | cons x xs ih => rw [List.foldl_cons, hf, ih, List.foldl_cons]

theorem State.failLine_withStamps (line : Nat) : (s.withStamps l).failLine line = (s.failLine line).withStamps l := by
  unfold State.failLine
  split <;> rfl

theorem State.bumpLine_withStamps (line : Nat) : (s.withStamps l).bumpLine line = (s.bumpLine line).withStamps l := by
  unfold State.bumpLine
  dsimp only
  rw [apply_ite (State.withStamps · l), apply_ite (State.withStamps · l)]
  rfl

theorem State.writeLine_withStamps (pa n line : Nat) :
    State.writeLine pa n (s.withStamps l) line = (State.writeLine pa n s line).withStamps l := by
  unfold State.writeLine
  rw [← State.bumpLine_withStamps, apply_ite (State.withStamps · l), apply_ite (State.withStamps · l),
    ← State.failLine_withStamps]
  rfl

theorem State.writeRaw_withStamps (pa : Nat) (bs : List Byte) :
    (s.withStamps l).writeRaw pa bs = (s.writeRaw pa bs).withStamps l := by
  unfold State.writeRaw
  dsimp only
  split
  · rw [State.foldl_withStamps s l fun s x => s.writeLine_withStamps l pa bs.length x]
    rfl
  · rfl

theorem State.applyNt_withStamps (x : NtStore) : (s.withStamps l).applyNt x = (s.applyNt x).withStamps l := by
  have hleaves : x.leaves (s.withStamps l) = x.leaves s := rfl
  rw [State.applyNt, State.applyNt, hleaves, State.writeRaw_withStamps]
  rfl

theorem State.applyMark_withStamps (b : Buffered) : (s.withStamps l).applyMark b = (s.applyMark b).withStamps l := by
  cases b <;> rfl

theorem State.applyCommit_withStamps (bs : List Buffered) :
    (s.withStamps l).applyCommit bs = (s.applyCommit bs).withStamps l := by
  rw [State.applyCommit, State.foldl_withStamps s l fun s x => s.writeRaw_withStamps l x.1 x.2,
    State.foldl_withStamps _ l fun s x => s.applyMark_withStamps l x, State.applyCommit]

theorem State.viewOf_withStamps (t : Task) : (s.withStamps l).viewOf t = (s.viewOf t).withStamps l := by
  unfold State.viewOf
  rw [State.foldl_withStamps s l fun s x => s.applyNt_withStamps l x]
  dsimp only
  split
  · rfl
  · rw [State.applyCommit_withStamps]

end

theorem State.StampsOnly.viewOf_tiles {s s' : State} (h : s.StampsOnly s') (t : Task) :
    (s'.viewOf t).tiles = (s.viewOf t).tiles := by
  obtain ⟨l, rfl⟩ := h
  rw [show ({ s with stamps := l } : State) = s.withStamps l from rfl, State.viewOf_withStamps]
  rfl

/-! ### A store, check by check (R111, R112, R114) -/

/-- What a store to memory meets no fault at (R111, R112): behind no command, against no stamp, inside the write ranges. -/
structure State.MemoryStores (s : State) (t : Task) (a : Acc) (x : Xlate) : Prop where
  typ : x.typ = .sram ∨ x.typ = .lpddr ∨ x.typ = .host
  free : s.blocked t x.pa a.n true = false
  stamps : x.typ = .sram → (s.touchAccess t x.pa a.n true false (some a.cls)).isSome = true
  range : x.typ ≠ .sram → t.inWriteRange a.va a.n = true

section
variable {s : State} {c : CoreId} {t : Task} {a : Acc} {x : Xlate} {bs : List Byte}

section
variable (hx : s.translate c t.rs.rc.job a.va .write = .ok x)
include hx

theorem State.MemoryStores.probeStore (h : s.MemoryStores t a x) (hnt : a.nt = false) :
    s.probeStore c t a false = .ok x := by
  have hfree := h.free
  rcases h.typ with htyp | htyp | htyp
  · obtain ⟨s1, hs1⟩ := Option.isSome_iff_exists.mp (h.stamps htyp)
    simp [State.probeStore, hx, bind, Except.bind, htyp, hnt, hfree, hs1]
  · simp [State.probeStore, hx, bind, Except.bind, htyp, hnt, hfree, h.range]
  · simp [State.probeStore, hx, bind, Except.bind, htyp, hnt, hfree, h.range]

theorem State.probeStore_nonTemporal (htyp : x.typ = .lpddr) (hfree : s.blocked t x.pa a.n true = false)
    (hright : t.rs.rc.nt = true) (hc : t.rs.rc.commit = false) (hrange : t.inWriteRange a.va a.n = true) :
    s.probeStore c t a false = .ok x := by
  simp [State.probeStore, hx, bind, Except.bind, htyp, hfree, hright, hc, hrange]

theorem State.probeStore_device (htyp : x.typ = .mmio) (hfree : s.blocked t x.pa a.n true = false) (hnt : a.nt = false)
    (hsize : (s.mmioWrite x.pa a.n 0 false).isSome = true) : s.probeStore c t a false = .ok x := by
  have hsome : (s.mmioWrite x.pa a.n 0 false).isNone = false := by rw [Option.isNone_eq_false_iff, hsize]
  simp only [State.probeStore, hx, bind, Except.bind, htyp, hfree, hnt, hsome]
  rfl

end

theorem State.store_of_probe (ha : a.va % a.n = 0) (h : s.probeStore c t a false = .ok x) :
    s.store c t a bs = s.doStore c t x a bs false := by
  rw [State.store, if_neg (not_not.mpr ha), h]
  rfl

/-- A store to memory by the strand is a write of its task (R259, R301). -/
theorem State.doStore_memory (htyp : x.typ = .sram ∨ x.typ = .lpddr ∨ x.typ = .host) (hnt : a.nt = false) :
    s.doStore c t x a bs false =
      (s.touched t x a.n true false a.cls).taskWrite c t x.pa bs (decide (x.typ = .sram)) := by
  rcases htyp with htyp | htyp | htyp <;> simp [State.doStore, htyp, hnt]

theorem State.doStore_nonTemporal (htyp : x.typ = .lpddr) (hnt : a.nt = true) : s.doStore c t x a bs false =
    .ok (s, { t with nt := t.nt ++ [⟨t.rs.rc.job, t.slot, x.pa, bs, [], none⟩] }) := by
  simp [State.doStore, htyp, hnt]

theorem State.doStore_device {s1 : State} (htyp : x.typ = .mmio) (hc : t.rs.rc.commit = false)
    (hw : s.mmioWrite x.pa a.n (BitVec.ofNat 64 (leNat bs)) false = some s1) :
    s.doStore c t x a bs false = .ok (s1, t) := by
  unfold State.doStore
  generalize s.mmioWrite x.pa a.n (BitVec.ofNat 64 (leNat bs)) false = written at hw ⊢
  subst hw
  simp [htyp, hc]

theorem Task.buffer_ok {es : List Buffered} (h : commitGranules (t.commit ++ es) ≤ 768) :
    t.buffer es = .ok { t with commit := t.commit ++ es } :=
  if_neg (Nat.not_lt.mpr h)

theorem State.doStore_device_commit (htyp : x.typ = .mmio) (hc : t.rs.rc.commit = true)
    (hw : (s.mmioWrite x.pa a.n (BitVec.ofNat 64 (leNat bs)) false).isSome = true)
    (hroom : commitGranules (t.commit ++ [.device x.pa a.n (BitVec.ofNat 64 (leNat bs))]) ≤ 768) :
    s.doStore c t x a bs false =
      .ok (s, { t with commit := t.commit ++ [.device x.pa a.n (BitVec.ofNat 64 (leNat bs))] }) := by
  obtain ⟨s1, hs1⟩ := Option.isSome_iff_exists.mp hw
  unfold State.doStore
  generalize s.mmioWrite x.pa a.n (BitVec.ofNat 64 (leNat bs)) false = written at hs1 ⊢
  subst hs1
  simp [htyp, hc, Task.buffer_ok hroom, bind, Except.bind]

/-- Under COMMIT bytes that leave the core's own scratchpad wait, with the marks of the tiles they meet (R301). -/
theorem State.taskWrite_commit {pa : Nat} {stale : Bool} (hc : t.rs.rc.commit = true) (hown : ownSpad c pa = false)
    {es : List Buffered} (hes : es = bufferBytes pa bs ++
      (if stale then tilesIn (s.viewOf t).tiles pa bs.length else []).map fun e => .stale e.1)
    (hroom : commitGranules (t.commit ++ es) ≤ 768) :
    s.taskWrite c t pa bs stale = .ok (s, { t with commit := t.commit ++ es }) := by
  subst hes
  simp only [State.taskWrite, hc, hown, Bool.not_false, Bool.and_self, if_true, Task.buffer_ok hroom]

theorem State.flushNt_of_apart {pa n : Nat} (h : ∀ y ∈ t.nt, y.meets pa n = false) : s.flushNt t pa n = (s, t) := by
  unfold State.flushNt
  rw [if_neg]
  simpa using h

/-- Outside COMMIT bytes land, and the tiles they meet turn STALE where asked (R259). -/
theorem State.taskWrite_plain {pa : Nat} {stale : Bool} (hc : t.rs.rc.commit = false)
    (hnt : ∀ y ∈ t.nt, y.meets pa bs.length = false) : s.taskWrite c t pa bs stale =
      .ok (if stale then (s.writePa pa bs).staleTiles pa bs.length else s.writePa pa bs, t) := by
  simp only [State.taskWrite, hc, Bool.false_and, Bool.false_eq_true, if_false, State.flushNt_of_apart hnt]

end

/-! ### The scalar stores (R111, R114, R301) -/

/-- A byte of the low bytes of a register (R111). -/
theorem getD_bytesOf {n i : Nat} (h : i < n) (v : Nat) : (bytesOf n v).getD i 0 = BitVec.ofNat 8 (v / 2 ^ (8 * i)) := by
  induction n generalizing v i with
  | zero => omega
  | succ n ih =>
    cases i with
    | zero => simp [bytesOf]
    | succ i =>
      rw [bytesOf, List.getD_cons_succ, ih (by omega), Nat.div_div_eq_div_mul, Nat.mul_succ, Nat.pow_add, Nat.mul_comm]

theorem exec_storeForm {s s' : State} {t t' : Task} {g : Guard} {cls : BitVec 2} {nt : Bool} {rs ra : XReg}
    {disp : BitVec 6} {lit : Word32} {f : Instr × Nat × Nat × Word64} (hx : s.Executes g t) (hs : s.Sound s.cur)
    (hf : f ∈ storeForms g cls nt rs ra disp lit)
    (h : s.store s.cur (t.advance f.2.2.1) ⟨(t.getX ra + f.2.2.2).toNat, f.2.1, cls, nt⟩
      (bytesOf f.2.1 (t.getX rs).toNat) = .ok (s', t')) : exec f.1 s = .next (s'.setTask s.cur t') := by
  rw [(exec_of_mem_storeForms hf).2]
  refine cWord_run hx.1 hx.2 (State.pairStop_of_noFault hs.1 t _) ?_
  rw [storeBody, Task.advance_getX, Task.advance_getX, h]

theorem getD_bytesOf_toNat {n i : Nat} (h : i < n) (v : Word64) :
    (bytesOf n v.toNat).getD i 0 = v.extractLsb' (8 * i) 8 := by
  rw [getD_bytesOf h]
  apply BitVec.eq_of_toNat_eq
  rw [BitVec.toNat_ofNat, BitVec.extractLsb'_toNat, Nat.shiftRight_eq_div_pow]

/-- What the bytes of a store outside COMMIT leave: on SRAM the tiles that they meet are STALE (R259). -/
def State.landed (s : State) (x : Xlate) (bs : List Byte) : State :=
  if x.typ = .sram then (s.writePa x.pa bs).staleTiles x.pa bs.length else s.writePa x.pa bs

section
variable (s : State) (x : Xlate) (bs : List Byte)

theorem State.landed_mem : (s.landed x bs).mem = Memory.write s.mem x.pa bs := by
  unfold State.landed
  split <;> simp [State.writePa_mem]

theorem State.landed_tiles : (s.landed x bs).tiles =
    if x.typ = .sram then (s.staleTiles x.pa bs.length).tiles else s.tiles := by
  unfold State.landed
  split <;> simp only [State.staleTiles, State.writePa_tiles]

/-- Besides memory and what hangs on its bytes, only tiles differ. -/
theorem State.landed_eq : ∃ s1 tiles, s.BytesOnly s1 ∧ s.landed x bs = { s1 with tiles := tiles } := by
  refine ⟨s.writePa x.pa bs, (s.landed x bs).tiles, s.bytesOnly_writePa x.pa bs, ?_⟩
  unfold State.landed
  split <;> rfl

end

/-- A byte of memory after the low n bytes of a register have landed. -/
theorem State.get_landed {s : State} (hm : Memory.wf s.mem = true) (x : Xlate) (n : Nat) (v : Word64) (a : Nat) :
    Memory.get (s.landed x (bytesOf n v.toNat)).mem a =
      if x.pa ≤ a ∧ a < x.pa + n then v.extractLsb' (8 * (a - x.pa)) 8 else Memory.get s.mem a := by
  rw [State.landed_mem, Memory.get_write _ _ hm, length_bytesOf]
  split
  · next h => rw [getD_bytesOf_toNat (by omega)]
  · rfl

section
variable {s : State} {c : CoreId} {t : Task} {a : Acc} {x : Xlate} {v : Nat} (ha : a.va % a.n = 0)
  (hx : s.translate c t.rs.rc.job a.va .write = .ok x)
include ha hx

section
variable (h : s.MemoryStores t a x) (hnt : a.nt = false)
include h hnt

theorem State.store_memory (hc : t.rs.rc.commit = false) (hapart : ∀ y ∈ t.nt, y.meets x.pa a.n = false) :
    s.store c t a (bytesOf a.n v) = .ok ((s.touched t x a.n true false a.cls).landed x (bytesOf a.n v), t) := by
  rw [State.store_of_probe ha (h.probeStore hx hnt), State.doStore_memory h.typ hnt, State.taskWrite_plain hc]
  · rw [State.landed]
    simp only [decide_eq_true_eq]
  · rwa [length_bytesOf]

theorem State.store_memory_commit (hc : t.rs.rc.commit = true) (hown : ownSpad c x.pa = false) {es : List Buffered}
    (hes : es = bufferBytes x.pa (bytesOf a.n v) ++
      (if x.typ = .sram then tilesIn (s.viewOf t).tiles x.pa a.n else []).map fun e => .stale e.1)
    (hroom : commitGranules (t.commit ++ es) ≤ 768) : s.store c t a (bytesOf a.n v) =
      .ok (s.touched t x a.n true false a.cls, { t with commit := t.commit ++ es }) := by
  rw [State.store_of_probe ha (h.probeStore hx hnt), State.doStore_memory h.typ hnt]
  refine State.taskWrite_commit hc hown ?_ hroom
  rw [(s.stampsOnly_touched t x a.n true false a.cls).viewOf_tiles, length_bytesOf, hes]
  simp only [decide_eq_true_eq]

end

section
variable (htyp : x.typ = .mmio) (hfree : s.blocked t x.pa a.n true = false) (hnt : a.nt = false)
  (hsize : (s.mmioWrite x.pa a.n 0 false).isSome = true)
include htyp hfree hnt hsize

theorem State.store_device {s1 : State} (hc : t.rs.rc.commit = false)
    (hw : s.mmioWrite x.pa a.n (BitVec.ofNat 64 (leNat bs)) false = some s1) : s.store c t a bs = .ok (s1, t) := by
  rw [State.store_of_probe ha (State.probeStore_device hx htyp hfree hnt hsize), State.doStore_device htyp hc hw]

theorem State.store_device_commit (hc : t.rs.rc.commit = true)
    (hw : (s.mmioWrite x.pa a.n (BitVec.ofNat 64 (leNat (bytesOf a.n v))) false).isSome = true)
    (hroom : commitGranules (t.commit ++ [.device x.pa a.n (BitVec.ofNat 64 (leNat (bytesOf a.n v)))]) ≤ 768) :
    s.store c t a (bytesOf a.n v) = .ok (s, { t with
      commit := t.commit ++ [.device x.pa a.n (BitVec.ofNat 64 (leNat (bytesOf a.n v)))] }) := by
  rw [State.store_of_probe ha (State.probeStore_device hx htyp hfree hnt hsize),
    State.doStore_device_commit htyp hc hw hroom]

end

theorem State.store_nonTemporal (htyp : x.typ = .lpddr) (hfree : s.blocked t x.pa a.n true = false) (hnt : a.nt = true)
    (hright : t.rs.rc.nt = true) (hc : t.rs.rc.commit = false) (hrange : t.inWriteRange a.va a.n = true) :
    s.store c t a (bytesOf a.n v) =
      .ok (s, { t with nt := t.nt ++ [⟨t.rs.rc.job, t.slot, x.pa, bytesOf a.n v, [], none⟩] }) := by
  rw [State.store_of_probe ha (State.probeStore_nonTemporal hx htyp hfree hright hc hrange),
    State.doStore_nonTemporal htyp hnt]

end

/-- Settles O9: each kind of store passes its checks (`State.probeStore`) and leaves what `State.doStore` leaves. -/
theorem scalarStoresComplete : Obligations.ScalarStoresComplete := by
  unfold Obligations.ScalarStoresComplete
  intro s t g cls nt rs ra disp lit hx hs hm f hf n ea x ha hxl hfree
  let u := t.advance f.2.2.1
  let a : Acc := ⟨ea.toNat, n, cls, nt⟩
  have hxu : s.translate s.cur u.rs.rc.job a.va .write = .ok x := by rwa [Task.advance_rs]
  have hfreeu : s.blocked u x.pa a.n true = false := by rwa [State.blocked_advance]
  have htouch : s.touchAccess u x.pa n true false (some cls) = s.touchAccess t x.pa n true false (some cls) :=
    State.touchAccess_advance ..
  refine ⟨fun hnt htyp hc hstamps hrange hapart => ?_, fun hnt htyp hright hc hrange => ?_, ?_, ?_⟩
  · have hstores : s.MemoryStores u a x :=
      ⟨htyp, hfreeu, fun h => by rw [htouch]; exact Option.isSome_iff_exists.mpr (hstamps h),
        fun h => by rw [Task.inWriteRange_advance]; exact hrange h⟩
    have hstore := State.store_memory (v := (t.getX rs).toNat) ha hxu hstores hnt (by rwa [Task.advance_rs])
      (by rwa [Task.advance_nt])
    obtain ⟨l, hl⟩ := s.stampsOnly_touched u x n true false cls
    obtain ⟨s1, tiles, ⟨_, _, _, _, _, _, hs1⟩, hland⟩ :=
      State.landed_eq (s.touched u x n true false cls) x (bytesOf n (t.getX rs).toNat)
    refine ⟨_, exec_storeForm hx hs hf hstore, fun y => ?_, fun htyp e he => ⟨_, ?_, rfl⟩, ?_⟩
    · have hmem : (s.touched u x n true false cls).mem = s.mem := by rw [hl]
      rw [State.get_landed (by rwa [hmem]), hmem]
    · rw [State.landed_tiles, if_pos htyp, length_bytesOf]
      exact State.stale_mem_staleTiles (by rwa [hl])
    · rw [hland, hs1, hl]
      exact ⟨rfl, rfl, rfl, rfl, rfl, rfl, rfl, rfl, rfl, rfl, rfl⟩
  · have hstore := State.store_nonTemporal (a := a) (v := (t.getX rs).toNat) ha hxu htyp hfreeu hnt
      (by rwa [Task.advance_rs]) (by rwa [Task.advance_rs]) (by rwa [Task.inWriteRange_advance])
    have hentry : u.nt ++ [⟨u.rs.rc.job, u.slot, x.pa, bytesOf n (t.getX rs).toNat, [], none⟩] =
        t.nt ++ [⟨t.rs.rc.job, t.slot, x.pa, bytesOf n (t.getX rs).toNat, [], none⟩] := by
      rw [Task.advance_nt, Task.advance_rs, Task.advance_slot]
    rw [hentry] at hstore
    exact exec_storeForm hx hs hf hstore
  · intro bs buffers reg hnt hc
    have hcu : u.rs.rc.commit = true := by rwa [Task.advance_rs]
    have hbuffers {s1 : State} {es : List Buffered} (h : commitGranules (u.commit ++ es) ≤ 768 →
        s.store s.cur u a (bytesOf a.n (t.getX rs).toNat) = .ok (s1, { u with commit := u.commit ++ es })) :
        buffers s1 es := by
      intro hroom
      have hstore := h (by rwa [Task.advance_commit])
      rw [Task.advance_commit] at hstore
      exact exec_storeForm hx hs hf hstore
    refine ⟨fun htyp hrange hown => hbuffers fun hroom => ?_, fun s1 htyp hown htouched => hbuffers fun hroom => ?_,
      fun htyp hsize hw => hbuffers fun hroom => ?_⟩
    · have hne : x.typ ≠ .sram := by rcases htyp with h | h <;> simp [h]
      have hstores : s.MemoryStores u a x := ⟨.inr htyp, hfreeu, fun h => absurd h hne,
        fun _ => by rwa [Task.inWriteRange_advance]⟩
      rw [State.store_memory_commit ha hxu hstores hnt hcu hown (by rw [if_neg hne]; simp [bs, a]) hroom,
        State.touched, if_neg hne]
    · have hstores : s.MemoryStores u a x := ⟨.inl htyp, hfreeu, fun _ => by rw [htouch, htouched]; rfl,
        fun h => absurd htyp h⟩
      rw [State.store_memory_commit ha hxu hstores hnt hcu hown (by rw [if_pos htyp, State.viewOf_advance]) hroom,
        State.touched, if_pos htyp, htouch, htouched]
      rfl
    · exact State.store_device_commit ha hxu htyp hfreeu hnt hsize hcu hw hroom
  · intro s1 hnt htyp hc hsize hw
    have hcu : u.rs.rc.commit = false := (congrArg (·.rc.commit) (Task.advance_rs ..)).trans hc
    exact exec_storeForm hx hs hf (State.store_device (a := a) ha hxu htyp hfreeu hnt hsize hcu hw)

end Machine

end Sys2Proof

namespace Sys2Proof

namespace Machine

/-! ### An atomic, check by check (R116) -/

section
variable {s : State} {g : Guard} {t : Task} {va n : Nat} {x : Xlate}

/-- The state with the stamps of an atomic's access to SRAM (R117, R307). -/
def State.atomicStamped (s : State) (t : Task) (x : Xlate) (n : Nat) : State :=
  if x.typ = .sram then (s.touchAtomic t x.pa n).getD s else s

theorem State.stampsOnly_atomicStamped (s : State) (t : Task) (x : Xlate) (n : Nat) :
    s.StampsOnly (s.atomicStamped t x n) := by
  unfold State.atomicStamped
  split
  · cases h : s.touchAtomic t x.pa n with
    | none => exact .refl s
    | some s' => exact State.stampsOnly_touchAtomic h
  · exact .refl s

theorem State.atomicStamped_advance (s : State) (t : Task) (k : Nat) (x : Xlate) (n : Nat) :
    s.atomicStamped (t.advance k) x n = s.atomicStamped t x n := by
  rw [State.atomicStamped, State.touchAtomic_advance, State.atomicStamped]

theorem State.probeAtomic_ok {c : CoreId} (hc : t.rs.rc.commit = false) (ha : va % n = 0)
    (hx : s.translate c t.rs.rc.job va .atomic = .ok x)
    (hmem : x.typ = .sram ∧ (s.touchAtomic t x.pa n).isSome = true ∨
      (x.typ = .lpddr ∨ x.typ = .host) ∧ t.inWriteRange va n = true)
    (hfree : s.blocked t x.pa n true = false) : s.probeAtomic c t va n = .ok x := by
  rcases hmem with ⟨htyp, htouch⟩ | ⟨htyp | htyp, hrange⟩
  · obtain ⟨s1, hs1⟩ := Option.isSome_iff_exists.mp htouch
    simp [State.probeAtomic, ha, hx, bind, Except.bind, htyp, hc, hfree, hs1]
  · simp [State.probeAtomic, ha, hx, bind, Except.bind, htyp, hc, hfree, hrange]
  · simp [State.probeAtomic, ha, hx, bind, Except.bind, htyp, hc, hfree, hrange]

theorem State.atomicPoison_ok (htiles : x.typ = .sram → ∀ e ∈ tilesIn (s.viewOf t).tiles x.pa n, e.2.poison = false)
    (hclean : ((s.viewOf t).checkMacs x.pa n).poisonedAt x.pa n = none) : s.atomicPoison t x va n = .ok () := by
  have hbad : (s.viewOf t).badTile x n = false := by
    by_cases htyp : x.typ = .sram
    · simpa [State.badTile, htyp] using htiles htyp
    · simp [State.badTile, htyp]
  simp [State.atomicPoison, hclean, hbad]

theorem State.AtomicGoes.probeAtomic (h : s.AtomicGoes g t va n x) (k : Nat) :
    s.probeAtomic s.cur (t.advance k) va n = .ok x := by
  obtain ⟨-, -, -, hc, ha, hx, hmem, hfree, -, -⟩ := h
  exact State.probeAtomic_ok (by rwa [Task.advance_rs]) ha (by rwa [Task.advance_rs])
    (by simpa using hmem.imp (fun ⟨htyp, htouch, _⟩ => ⟨htyp, htouch⟩) id) (by rwa [State.blocked_advance])

theorem State.AtomicGoes.atomicPoison (h : s.AtomicGoes g t va n x) (k : Nat) :
    s.atomicPoison (t.advance k) x va n = .ok () := by
  obtain ⟨-, -, -, -, -, -, hmem, -, -, hclean⟩ := h
  refine State.atomicPoison_ok (fun htyp => ?_) (by rwa [State.viewOf_advance])
  rw [State.viewOf_advance]
  rcases hmem with ⟨-, -, htiles⟩ | ⟨hother | hother, -⟩
  · exact htiles
  · rw [htyp] at hother; cases hother
  · rw [htyp] at hother; cases hother

/-- What an atomic leaves in memory once its stamps are set: the new bytes, a hot line, tiles that it makes STALE. -/
def State.atomicLanded (s : State) (x : Xlate) (bs : List Byte) : State :=
  if x.typ = .sram then ((s.writePa x.pa bs).heat x.pa).staleTiles x.pa bs.length else (s.writePa x.pa bs).heat x.pa

theorem State.applyAtomic_of_apart (h : ∀ y ∈ t.nt, y.meets x.pa n = false) (f : Nat → Nat) : s.applyAtomic t x n f =
    ((s.atomicStamped t x n).atomicLanded x (bytesOf n (f (s.readNat x.pa n))), t, s.readNat x.pa n) := by
  simp only [State.applyAtomic, State.flushNt_of_apart h, State.atomicStamped, State.atomicLanded, length_bytesOf]

theorem State.AtomicGoes.doAtomic (h : s.AtomicGoes g t va n x) (k : Nat) (f : Nat → Nat) :
    s.doAtomic (t.advance k) x va n f =
      .ok ((s.atomicStamped t x n).atomicLanded x (bytesOf n (f (s.readNat x.pa n))), t.advance k, s.readNat x.pa n) := by
  have hpoison := h.atomicPoison k
  obtain ⟨-, -, -, -, -, -, -, -, hapart, -⟩ := h
  rw [State.doAtomic, hpoison, State.applyAtomic_of_apart (by simpa using hapart), State.atomicStamped_advance]
  rfl

end

/-! ### What an atomic leaves -/

section
variable (s : State) (x : Xlate) (bs : List Byte)

theorem State.atomicLanded_mem : (s.atomicLanded x bs).mem = Memory.write s.mem x.pa bs := by
  unfold State.atomicLanded
  split <;> exact State.writePa_mem s x.pa bs

theorem State.atomicLanded_tiles : (s.atomicLanded x bs).tiles =
    if x.typ = .sram then (s.staleTiles x.pa bs.length).tiles else s.tiles := by
  have htiles : ((s.writePa x.pa bs).heat x.pa).tiles = s.tiles := State.writePa_tiles s x.pa bs
  unfold State.atomicLanded
  split
  · rw [State.staleTiles, htiles]
    rfl
  · exact htiles

/-- Besides memory and what hangs on its bytes, only tiles and the lines an engine holds hot differ. -/
theorem State.atomicLanded_eq : ∃ s1 tiles, s.BytesOnly s1 ∧
    s.atomicLanded x bs = { s1.heat x.pa with tiles := tiles } := by
  refine ⟨s.writePa x.pa bs, (s.atomicLanded x bs).tiles, s.bytesOnly_writePa x.pa bs, ?_⟩
  unfold State.atomicLanded
  split <;> rfl

theorem State.heat_clusters (pa : Nat) (k : ClusterId) :
    (s.heat pa).clusters[k.val] = { s.clusters[k.val] with hot := ((s.heat pa).clusters[k.val]).hot } := by
  rw [State.heat, State.clusters_setCluster]
  split
  · next h => rw [h]
  · rfl

end

theorem leNat_read_write {m : List Host.Cell} (hm : Memory.wf m = true) (a : Nat) {n v : Nat} (hv : v < 2 ^ (8 * n)) :
    leNat (Memory.read (Memory.write m a (bytesOf n v)) a n) = v := by
  have hread := Memory.read_write_within hm a 0 n (bs := bytesOf n v) (by rw [length_bytesOf, Nat.zero_add])
  rw [Nat.add_zero, List.drop_zero, List.take_of_length_le (by rw [length_bytesOf])] at hread
  rw [hread, leNat_bytesOf, Nat.mod_eq_of_lt]
  rwa [show 256 = 2 ^ 8 from rfl, ← Nat.pow_mul]

theorem State.atomicLeaves_atomicLanded {s : State} (hm : Memory.wf s.mem = true) (t : Task) {n : Nat} (x : Xlate)
    {new : Nat} (hnew : new < 2 ^ (8 * n)) :
    s.AtomicLeaves ((s.atomicStamped t x n).atomicLanded x (bytesOf n new)) t n x new := by
  obtain ⟨l, hl⟩ := s.stampsOnly_atomicStamped t x n
  have hstamps : (s.atomicStamped t x n).stamps =
      if x.typ = .sram then ((s.touchAtomic t x.pa n).getD s).stamps else s.stamps := by
    unfold State.atomicStamped
    split <;> rfl
  have hmem : (s.atomicStamped t x n).mem = s.mem := by rw [hl]
  have htiles : (s.atomicStamped t x n).tiles = s.tiles := by rw [hl]
  obtain ⟨s1, tiles, ⟨_, _, _, _, _, _, hs1⟩, hland⟩ :=
    (s.atomicStamped t x n).atomicLanded_eq x (bytesOf n new)
  refine ⟨?_, fun a ha => ?_, ?_, ?_, fun k => ?_, ?_⟩
  · rw [State.readNat, State.readPa, State.atomicLanded_mem, hmem, leNat_read_write hm _ hnew]
  · rw [State.atomicLanded_mem, hmem, Memory.get_write _ _ hm, length_bytesOf, if_neg (by omega)]
  · rw [State.atomicLanded_tiles, State.staleTiles, htiles, length_bytesOf]
    rfl
  · rw [hland, ← hstamps, hs1]
    rfl
  · have hclusters : s1.clusters = s.clusters := by rw [hs1, hl]
    rw [hland]
    exact (s1.heat_clusters x.pa k).trans (by rw [hclusters])
  · rw [hland, hs1, hl]
    exact ⟨rfl, rfl, rfl, rfl⟩

/-! ### The scalar atomics (R116) -/

theorem atomicForms_lt {g : Guard} {w : Bool} {rd ra rb : XReg} {f : Instr × (Nat → Nat → Nat → Nat → Nat)}
    (hf : f ∈ atomicForms g w rd ra rb) {n a b old : Nat} (hb : b < 2 ^ n) (hold : old < 2 ^ n) :
    f.2 n a b old < 2 ^ n := by
  have hite (p : Prop) [Decidable p] (u v : Nat) (hu : u < 2 ^ n) (hv : v < 2 ^ n) : (if p then u else v) < 2 ^ n := by
    split <;> assumption
  simp only [atomicForms, List.mem_cons, List.not_mem_nil, or_false] at hf
  rcases hf with rfl | rfl | rfl | rfl | rfl | rfl | rfl | rfl
  · exact Nat.mod_lt _ (Nat.two_pow_pos n)
  · exact Nat.and_lt_two_pow _ hb
  · exact Nat.or_lt_two_pow hold hb
  · exact Nat.xor_lt_two_pow hold hb
  · exact hite _ _ _ hold hb
  · exact hite _ _ _ hold hb
  · exact hb
  · exact hite _ _ _ hb hold

theorem exec_atomicForm {s : State} {t : Task} {g : Guard} {w : Bool} {rd ra rb : XReg}
    {f : Instr × (Nat → Nat → Nat → Nat → Nat)} (hf : f ∈ atomicForms g w rd ra rb) {x : Xlate}
    (h : s.AtomicGoes g t (t.getX ra).toNat (atomSize w) x) :
    ∃ s' : State, exec f.1 s = .next (s'.setTask s.cur ((t.advance 2).setX rd (atomOld w (s.readNat x.pa (atomSize w))))) ∧
      s.AtomicLeaves s' t (atomSize w) x (f.2 (8 * atomSize w) ((t.getX rd).toNat % 2 ^ (8 * atomSize w))
        ((t.getX rb).toNat % 2 ^ (8 * atomSize w)) (s.readNat x.pa (atomSize w))) := by
  have hn : 0 < 8 * atomSize w := by cases w <;> decide
  have hb : (t.getX rb).toNat % 2 ^ (8 * atomSize w) < 2 ^ (8 * atomSize w) := Nat.mod_lt _ (Nat.two_pow_pos _)
  have hold : s.readNat x.pa (atomSize w) < 2 ^ (8 * atomSize w) := by
    have hlt := leNat_lt (s.readPa x.pa (atomSize w))
    rwa [State.readPa, length_read] at hlt
  obtain ⟨op, hop, hexec⟩ := exec_of_mem_atomicForms hf
  have hprobe := h.probeAtomic 2
  have hdo := h.doAtomic 2
  obtain ⟨hx, hs, hm, -⟩ := h
  refine ⟨_, ?_, State.atomicLeaves_atomicLanded hm t x (atomicForms_lt hf hb hold)⟩
  rw [hexec]
  refine cWord_run hx.1 hx.2 (State.pairStop_of_noFault hs.1 t _) ?_
  simp only [atomBody, Task.advance_getX, hprobe, hdo, bind, Except.bind, hop _ _ _ _ hn hb hold]

/-! ### The grant of an atomic engine (R304) -/

/-- The lesser of a core found before and another one. -/
def leastCore (m : Option CoreId) (c : CoreId) : Option CoreId :=
  match m with
  | none => some c
  | some a => if c < a then some c else some a

theorem grantOf_cases {last c : CoreId} {l : List CoreId} (h : grantOf last l = some c) :
    (l.filter fun c => decide (last < c)).foldl leastCore none = some c ∨
      (l.filter fun c => decide (last < c)).foldl leastCore none = none ∧ l.foldl leastCore none = some c := by
  unfold grantOf at h
  dsimp only at h
  split at h
  · next hafter => exact .inl (hafter.trans h)
  · next hafter => exact .inr ⟨hafter, h⟩

theorem leastCore_some (a c : CoreId) : leastCore (some a) c = some (if c < a then c else a) :=
  (apply_ite some ..).symm

theorem foldl_leastCore_some {l : List CoreId} {a c : CoreId} (h : l.foldl leastCore (some a) = some c) :
    c ∈ a :: l ∧ ∀ d ∈ a :: l, c ≤ d := by
  induction l generalizing a with
  | nil =>
    cases h
    exact ⟨List.mem_singleton.mpr rfl, fun d hd => le_of_eq (List.mem_singleton.mp hd).symm⟩
  | cons b l ih =>
    rw [List.foldl_cons, leastCore_some] at h
    obtain ⟨hmem, hle⟩ := ih h
    simp only [List.mem_cons, forall_eq_or_imp] at hmem hle ⊢
    split at hmem
    · next hba =>
      rw [if_pos hba] at hle
      exact ⟨.inr hmem, le_trans hle.1 (le_of_lt hba), hle⟩
    · next hba =>
      rw [if_neg hba] at hle
      exact ⟨hmem.imp_right .inr, hle.1, le_trans hle.1 (not_lt.mp hba), hle.2⟩

theorem foldl_leastCore {l : List CoreId} {c : CoreId} (h : l.foldl leastCore none = some c) : c ∈ l ∧ ∀ d ∈ l, c ≤ d := by
  cases l with
  | nil => cases h
  | cons a l => exact foldl_leastCore_some h

theorem foldl_leastCore_eq_none {l : List CoreId} (h : l.foldl leastCore none = none) : l = [] := by
  cases l with
  | nil => rfl
  | cons a l =>
    have hsome : ∀ (l : List CoreId) (a : CoreId), l.foldl leastCore (some a) ≠ none := by
      intro l
      induction l with
      | nil => exact fun a h => nomatch h
      | cons b l ih =>
        intro a
        rw [List.foldl_cons, leastCore_some]
        exact ih _
    exact absurd h (hsome l a)

/-- A grant goes to the first core in cyclic order after the one last granted (R304). -/
theorem grantOf_first {last c : CoreId} {l : List CoreId} (h : grantOf last l = some c) :
    c ∈ l ∧ ∀ d ∈ l, (c.val + 511 - last.val) % 512 ≤ (d.val + 511 - last.val) % 512 := by
  have hlast := last.isLt
  have hc := c.isLt
  rcases grantOf_cases h with hafter | ⟨hnone, hleast⟩
  · obtain ⟨hmem, hle⟩ := foldl_leastCore hafter
    obtain ⟨hmem, hgt⟩ := List.mem_filter.mp hmem
    have hlc : last.val < c.val := Fin.lt_def.mp (of_decide_eq_true hgt)
    refine ⟨hmem, fun d hd => ?_⟩
    have hdlt := d.isLt
    by_cases hld : last < d
    · have hcd := Fin.le_def.mp (hle d (List.mem_filter.mpr ⟨hd, decide_eq_true hld⟩))
      omega
    · rw [Fin.lt_def] at hld
      omega
  · obtain ⟨hmem, hle⟩ := foldl_leastCore hleast
    have hbefore (d : CoreId) (hd : d ∈ l) : d.val ≤ last.val :=
      not_lt.mp fun hld => of_decide_eq_false (by
        simpa using List.filter_eq_nil_iff.mp (foldl_leastCore_eq_none hnone) d hd) hld
    refine ⟨hmem, fun d hd => ?_⟩
    have hcd := Fin.le_def.mp (hle d hd)
    have hdl := hbefore d hd
    have hcl := hbefore c hmem
    omega

section
variable {s : State} {k : ClusterId} {c : CoreId} {q : AtomReq} {t : Task} {n : Nat}

theorem State.unfrozen_of_running {s : State} {t : Task} (h : s.running = some t) :
    (s.core s.cur).frozen = false ∧ (s.dies[(dieOf s.cur).val]).frozen = false := by
  simp only [State.running] at h
  split at h
  · cases h
  · next hfrozen => simpa using hfrozen

theorem State.onCore_next {s s' : State} {c : CoreId} {f : State → Out} (h : f { s with cur := c } = .next s') :
    s.onCore c f = .next { s' with cur := s.cur } := by
  rw [State.onCore, h]

/-- The state in which an engine has taken a request that it grants. -/
def State.granting (s : State) (k : ClusterId) (c : CoreId) (q : AtomReq) : State :=
  s.setCluster k fun x => { x with granted := c, areqs := x.areqs.erase q }

theorem State.grant_of_running (hrun : ({ s with cur := c } : State).running = some t)
    (hnext : (s.granting k c q).nextInstr c t = .ok (q.instr, n)) (hdist : t.dist + n ≤ t.limit) : s.grant k c q =
      (s.granting k c q).onCore c fun s => noteGroup s t q.instr (s.serve k t q.instr) := by
  have hdie : (s.dies[(dieOf c).val]).frozen = false := (State.unfrozen_of_running hrun).2
  have hdue : t.overdue n = false := decide_eq_false (Nat.not_lt.mpr hdist)
  unfold State.grant
  rw [if_neg (by rw [hdie]; exact Bool.false_ne_true), hrun]
  change (match (s.granting k c q).nextInstr c t with
    | .ok (i, n) => if i = q.instr ∧ t.overdue n = false then (s.granting k c q).onCore c
        fun s => noteGroup s t i (s.serve k t i) else .next (s.granting k c q)
    | .error _ => .next (s.granting k c q)) = _
  rw [hnext]
  exact if_pos ⟨rfl, hdue⟩

theorem execAtomicGrant_of_granted
    (hgrant : grantOf (s.clusters[k.val]).granted ((s.clusters[k.val]).areqs.map fun r => r.core) = some c)
    (hq : (s.clusters[k.val]).areqs.find? (fun r => decide (r.core = c)) = some q)
    (hrun : ({ s with cur := c } : State).running = some t)
    (hnext : (s.granting k c q).nextInstr c t = .ok (q.instr, n)) (hdist : t.dist + n ≤ t.limit) {s' : State}
    (hserve : noteGroup { s.granting k c q with cur := c } t q.instr
      (({ s.granting k c q with cur := c } : State).serve k t q.instr) = .next s') :
    execAtomicGrant k s = .next { s' with cur := s.cur } := by
  have hcore : (s.core c).frozen = false := (State.unfrozen_of_running hrun).1
  unfold execAtomicGrant
  simp only [hgrant, hq, State.throughFreeze, hcore, Bool.false_eq_true, if_false]
  rw [State.grant_of_running hrun hnext hdist, State.onCore_next hserve]
  rfl

end

/-- A scalar atomic reads no V register, and an engine's grant performs it as the instruction itself says. -/
theorem serve_of_mem_atomicForms {g : Guard} {w : Bool} {rd ra rb : XReg} {i : Instr}
    (hi : i ∈ (atomicForms g w rd ra rb).map Prod.fst) :
    vReads i = none ∧ ∀ (s : State) (k : ClusterId) (t : Task), s.serve k t i = exec i s := by
  simp only [atomicForms, List.map_cons, List.map_nil, List.mem_cons, List.not_mem_nil, or_false] at hi
  rcases hi with rfl | rfl | rfl | rfl | rfl | rfl | rfl | rfl <;> exact ⟨rfl, fun _ _ _ => rfl⟩

/-- A VAMO of one engine is performed as the instruction itself says. -/
theorem serve_vamo {s : State} {k : ClusterId} {t : Task} {op : VAmoOp} {f : VF} (hamo : t.amo = none)
    (hone : (s.enginesOf s.cur t (.vamo op f)).length ≤ 1) : s.serve k t (.vamo op f) = exec (.vamo op f) s := by
  rw [State.serve, if_neg (by simp [hamo, hone])]
  rfl

/-- Settles O53: an atomic passes its checks (`State.probeAtomic`), and an engine's grant, which goes to the first core in
cyclic order (`grantOf_first`), performs it on that core (`execAtomicGrant_of_granted`). -/
theorem atomicsComplete : Obligations.AtomicsComplete := by
  unfold Obligations.AtomicsComplete
  refine ⟨?_, fun last l c h => grantOf_first h, ?_⟩
  · intro s t g w rd ra rb f hf n val x after leaves
    refine ⟨exec_atomicForm hf, ?_⟩
    intro k c q m cl done here hgrant hq hinstr hnext hdist hgoes
    obtain ⟨s', hexec, hleaves⟩ := exec_atomicForm hf hgoes
    obtain ⟨hreads, hserve⟩ := serve_of_mem_atomicForms (List.mem_map_of_mem hf)
    rw [← hinstr] at hreads hserve hexec hnext
    refine ⟨s', execAtomicGrant_of_granted hgrant hq hgoes.1.1 hnext hdist ?_, hleaves⟩
    rw [noteGroup_of_noReads hreads, hserve]
    exact hexec
  · intro s s2 s3 k c q t n cl s0 s1 hgrant hq hrun hnext hdist hinstr hexec hnote
    refine execAtomicGrant_of_granted hgrant hq hrun hnext hdist ?_
    rw [← hnote, ← hexec]
    congr 1
    rcases hinstr with ⟨g, w, rd, ra, rb, hmem⟩ | ⟨op, f, hvamo, hamo, hone⟩
    · exact (serve_of_mem_atomicForms (g := g) (w := w) (rd := rd) (ra := ra) (rb := rb) hmem).2 _ _ _
    · rw [hvamo] at hone ⊢
      exact serve_vamo hamo hone

end Machine

end Sys2Proof

namespace Sys2Proof

namespace Machine

/-! ### Stamps after a touch (R306, R307) -/

theorem lookupKey_insertKey {α : Type} (k j : Nat) (v : α) (l : List (Nat × α)) :
    lookupKey j (insertKey k v l) = if j = k then some v else lookupKey j l := by
  induction l with
  | nil => simp [insertKey, lookupKey, eq_comm]
  | cons e l ih =>
    obtain ⟨a, w⟩ := e
    by_cases hlt : k < a
    · simp [insertKey, lookupKey, hlt, eq_comm (a := k)]
    · by_cases heq : k = a
      · subst heq
        by_cases hj : k = j <;> simp [insertKey, lookupKey, hj, eq_comm (a := j)]
      · rw [insertKey, if_neg hlt, if_neg heq, lookupKey, lookupKey, ih]
        by_cases ha : a = j
        · rw [if_pos ha, if_pos ha, if_neg (by omega)]
        · rw [if_neg ha, if_neg ha]

theorem State.stampOf_generation (s : State) (g job : Nat) (gen : BitVec 4) :
    (s.stampOf g job gen).job = job ∧ (s.stampOf g job gen).gen = gen := by
  unfold State.stampOf
  split
  · split
    · assumption
    · exact ⟨rfl, rfl⟩
  · exact ⟨rfl, rfl⟩

/-- A touch changes who has read or written, never whose generation it is. -/
theorem Stamp.touch_generation {st st' : Stamp} {s : BitVec 12} {cls : Option (BitVec 2)} {how : Touch}
    (h : st.touch s cls how = some st') : st'.job = st.job ∧ st'.gen = st.gen := by
  unfold Stamp.touch at h
  grind

theorem State.stampOf_insert (s : State) (g h job : Nat) (gen : BitVec 4) {st : Stamp} (hst : st.job = job ∧ st.gen = gen) :
    ({ s with stamps := insertKey g st s.stamps } : State).stampOf h job gen = if h = g then st else s.stampOf h job gen := by
  simp only [State.stampOf, lookupKey_insertKey]
  by_cases hh : h = g
  · simp [hh, hst]
  · simp [hh]

/-- What a strand has read once it may read again, in the same class of accesses (R307). -/
theorem Stamp.touch_read_again {st st' : Stamp} {s : BitVec 12} {a : BitVec 2} (h : st.touch s (some a) .read = some st') :
    (st'.touch s (some a) .read).isSome = true := by
  simp only [Stamp.touch, reduceCtorEq, if_false, Option.any_some] at h ⊢
  grind

/-- The strand of a task may read a granule in a class of accesses. -/
def State.Readable (s : State) (t : Task) (cls : BitVec 2) (g : Nat) : Prop :=
  ((s.stampOf g t.rs.rc.job t.gen).touch t.slot (some cls) .read).isSome = true

section
variable {s s' : State} {t : Task} {cls : BitVec 2}

theorem State.Readable.touchGranule {g h : Nat} (hg : s.touchGranule t g .read (some cls) = some s')
    (hh : s.Readable t cls h) : s'.Readable t cls h := by
  obtain ⟨st, htouch, rfl⟩ := Option.map_eq_some_iff.mp hg
  have hof := s.stampOf_generation g t.rs.rc.job t.gen
  have hst := Stamp.touch_generation htouch
  rw [hof.1, hof.2] at hst
  rw [State.Readable, State.stampOf_insert s g h _ _ hst]
  split
  · exact Stamp.touch_read_again htouch
  · exact hh

theorem State.Readable.touchAll {gs : List Nat} {g : Nat} (h : State.touchAll t .read (some cls) gs s = some s')
    (hg : s.Readable t cls g) : s'.Readable t cls g := by
  induction gs generalizing s with
  | nil => cases h; exact hg
  | cons a gs ih =>
    unfold State.touchAll at h
    split at h
    · cases h
    · next s1 h1 => exact ih h (hg.touchGranule h1)

theorem State.touchAll_of_readable {gs : List Nat} (h : ∀ g ∈ gs, s.Readable t cls g) :
    ∃ s', State.touchAll t .read (some cls) gs s = some s' := by
  induction gs generalizing s with
  | nil => exact ⟨s, rfl⟩
  | cons g gs ih =>
    obtain ⟨hg, hgs⟩ := List.forall_mem_cons.mp h
    obtain ⟨st, hst⟩ := Option.isSome_iff_exists.mp hg
    have h1 : s.touchGranule t g .read (some cls) = some { s with stamps := insertKey g st s.stamps } := by
      rw [State.touchGranule, hst]
      rfl
    rw [State.touchAll, h1]
    exact ih fun a ha => (hgs a ha).touchGranule h1

/-- A read of SRAM may touch what it may read, data and sidebands that it meets (R258, R307). -/
theorem State.touchAccess_of_readable {pa n : Nat}
    (h : ∀ g ∈ granules pa n ++ (s.viewOf t).sideReads pa n, s.Readable t cls g) :
    (s.touchAccess t pa n false false (some cls)).isSome = true := by
  obtain ⟨s1, h1⟩ := State.touchAll_of_readable (fun g hg => h g (List.mem_append_left _ hg))
  obtain ⟨s2, h2⟩ := State.touchAll_of_readable (fun g hg => (h g (List.mem_append_right _ hg)).touchAll h1)
  have htouch : s.touchAccess t pa n false false (some cls) = some s2 := by
    rw [State.touchAccess, State.touchRange]
    exact (Option.bind_eq_some_iff.mpr ⟨s1, h1, h2⟩)
  rw [htouch]
  rfl

theorem State.Readable.touched {x : Xlate} {n g : Nat} (hg : s.Readable t cls g) :
    (s.touched t x n false false cls).Readable t cls g := by
  unfold State.touched
  split
  · cases h : s.touchAccess t x.pa n false false (some cls) with
    | none => exact hg
    | some s2 =>
      obtain ⟨s1, h1, h2⟩ := Option.bind_eq_some_iff.mp h
      exact (hg.touchAll h1).touchAll h2
  · exact hg

end

/-! ### A loading lane (R141, R144) -/

theorem State.checkMacs_withStamps (s : State) (l : List (Nat × Stamp)) (pa n : Nat) :
    (s.withStamps l).checkMacs pa n = (s.checkMacs pa n).withStamps l :=
  State.foldl_withStamps s l (fun s x => s.failLine_withStamps l x) _

/-! ### Translation does not hang on stamps (R111, R342) -/

section
variable (s : State) (l : List (Nat × Stamp))

theorem State.walkFrom_withStamps (ls : List (Nat × Nat × Nat)) (table va : Nat) :
    (s.withStamps l).walkFrom ls table va = s.walkFrom ls table va := by
  induction ls generalizing table with
  | nil => rfl
  | cons e ls ih =>
    obtain ⟨sh, bits, al⟩ := e
    simp only [State.walkFrom, ih]
    rfl

theorem State.walkReads_withStamps (ls : List (Nat × Nat × Nat)) (table va : Nat) :
    (s.withStamps l).walkReads ls table va = s.walkReads ls table va := by
  induction ls generalizing table with
  | nil => rfl
  | cons e ls ih =>
    obtain ⟨sh, bits, al⟩ := e
    simp only [State.walkReads, ih]
    rfl

theorem State.badEntry_withStamps (j : Job) (va : Nat) : (s.withStamps l).badEntry j va = s.badEntry j va := by
  rw [State.badEntry, State.walkReads_withStamps]
  simp only [State.checkMacs_withStamps]
  rfl

theorem State.translate_withStamps (c : CoreId) (job va : Nat) (need : Need) :
    (s.withStamps l).translate c job va need = s.translate c job va need := by
  have hjob : (s.withStamps l).jobOf job = s.jobOf job := rfl
  have hpoison (j : Job) : (s.withStamps l).walkPoison c j va = s.walkPoison c j va := by
    rw [State.walkPoison, State.badEntry_withStamps]
    rfl
  have hleaf (j : Job) : (s.withStamps l).leafOf c j va = s.leafOf c j va := by
    rw [State.leafOf, State.walk, State.walkFrom_withStamps]
    rfl
  have hwvalid (a n : Nat) : (s.withStamps l).wValid a n = s.wValid a n := rfl
  have hfat (pa : Nat) : (s.withStamps l).fatOf pa = s.fatOf pa := rfl
  simp only [State.translate, hjob, hpoison, hleaf, hwvalid, hfat]

end

section
variable {s s' : State} {t : Task} {cls : BitVec 2} {va n : Nat} {x : Xlate}

theorem State.laneLoads_advance (k : Nat) : s.laneLoads (t.advance k) cls va n x ↔ s.laneLoads t cls va n x := by
  simp [State.laneLoads]

theorem State.StampsOnly.laneValue (h : s.StampsOnly s') : s'.laneValue t x n = s.laneValue t x n := by
  obtain ⟨l, rfl⟩ := h
  have hview := s.viewOf_withStamps l t
  rw [State.withStamps] at hview
  rw [State.laneValue, State.laneValue, hview]
  rfl

/-- A lane that may load still may after another lane of its instruction. -/
theorem State.laneLoads.touched (h : s.laneLoads t cls va n x) (y : Xlate) (m : Nat) :
    (s.touched t y m false false cls).laneLoads t cls va n x := by
  obtain ⟨ha, hx, hmem⟩ := h
  have hread (g : Nat) : s.Readable t cls g → (s.touched t y m false false cls).Readable t cls g := State.Readable.touched
  obtain ⟨l, hl⟩ := s.stampsOnly_touched t y m false false cls
  rw [show ({ s with stamps := l } : State) = s.withStamps l from rfl] at hl
  rw [hl] at hread ⊢
  refine ⟨ha, (State.translate_withStamps ..).trans hx, hmem.imp (fun h => h)
    fun ⟨htyp, hfree, hstamps, hclean⟩ => ⟨htyp, hfree, fun hs g hg => ?_, ?_⟩⟩
  · rw [State.viewOf_withStamps] at hg
    exact hread g (hstamps hs g hg)
  · rw [State.viewOf_withStamps, State.checkMacs_withStamps]
    exact hclean

theorem State.laneLoads.probe (h : s.laneLoads t cls va n x) (i : Nat) :
    s.probeLaneLoad s.cur t cls ⟨i, va, n⟩ = .ok x := by
  obtain ⟨ha, hx, hmem⟩ := h
  have hprobe : s.probeLoad s.cur t ⟨va, n, cls, false⟩ = .ok x ∧ x.typ ≠ .mmio := by
    rcases hmem with ⟨htyp, hready, -⟩ | ⟨htyp, hfree, hstamps, hclean⟩
    · exact ⟨State.probeLoad_aperture hx htyp hready, by simp [htyp]⟩
    · exact ⟨State.MemoryLoads.probeLoad hx
        ⟨htyp, hfree, fun hs => State.touchAccess_of_readable (hstamps hs), hclean⟩, by rcases htyp with h | h | h <;> simp [h]⟩
  simp only [State.probeLaneLoad, ha, hx, hprobe, bind, Except.bind, ne_eq, not_true_eq_false, if_false, atLane]

theorem State.laneLoads.doLoad (h : s.laneLoads t cls va n x) : ∃ bs, leNat bs = s.laneValue t x n ∧
    bs.length = n ∧ s.doLoad t x ⟨va, n, cls, false⟩ = .ok (s.touched t x n false false cls, bs) := by
  obtain ⟨ha, hx, hmem⟩ := h
  rcases hmem with ⟨htyp, hready, hclean⟩ | ⟨htyp, hfree, hstamps, hclean⟩
  · refine ⟨s.readW x.pa n, ?_, ?_, ?_⟩
    · rw [State.laneValue, if_pos htyp]
    · simp [State.readW, length_read]
    · rw [State.doLoad_aperture htyp hclean, State.touched, if_neg (by simp [htyp])]
  · have hloads : s.MemoryLoads t ⟨va, n, cls, false⟩ x :=
      ⟨htyp, hfree, fun hs => State.touchAccess_of_readable (hstamps hs), hclean⟩
    refine ⟨(s.viewOf t).readPa x.pa n, ?_, length_read .., hloads.doLoad⟩
    rw [State.laneValue, if_neg (by rcases htyp with h | h | h <;> simp [h])]
    rfl

end

end Machine

end Sys2Proof

namespace Sys2Proof

namespace Machine

/-! ### The lanes of a load, in ascending order (R141, R144) -/

/-- Every lane of a list of accesses may load. -/
def State.LanesLoad (s : State) (t : Task) (cls : BitVec 2) (l : List (LaneAcc × Xlate)) : Prop :=
  ∀ e ∈ l, s.laneLoads t cls e.1.va e.1.n e.2

section
variable {s : State} {t : Task} {cls : BitVec 2}

theorem State.LanesLoad.tail {e : LaneAcc × Xlate} {l : List (LaneAcc × Xlate)} (h : s.LanesLoad t cls (e :: l)) :
    (s.touched t e.2 e.1.n false false cls).LanesLoad t cls l :=
  fun a ha => (h a (List.mem_cons_of_mem _ ha)).touched _ _

theorem State.touched_cur (x : Xlate) (n : Nat) (write tileRow : Bool) : (s.touched t x n write tileRow cls).cur = s.cur := by
  obtain ⟨l, hl⟩ := s.stampsOnly_touched t x n write tileRow cls
  rw [hl]

theorem State.LanesLoad.probeLanes {c : CoreId} {l : List (LaneAcc × Xlate)} (hc : s.cur = c) (h : s.LanesLoad t cls l) :
    probeLanes t cls false (fun s a => s.probeLaneLoad c t cls a) (l.map Prod.fst) s = .ok l := by
  induction l generalizing s with
  | nil => rfl
  | cons e l ih =>
    have hone := (h e List.mem_cons_self).probe e.1.lane
    rw [hc] at hone
    rw [List.map_cons, Machine.probeLanes, hone]
    simp only [bind, Except.bind, ih ((s.touched_cur ..).trans hc) h.tail]

theorem State.LanesLoad.readLanes {l : List (LaneAcc × Xlate)} (h : s.LanesLoad t cls l) :
    ∃ s', readLanes t cls l s = .ok (s', l.map fun e => (e.1.lane, s.laneValue t e.2 e.1.n)) ∧ s.StampsOnly s' := by
  induction l generalizing s with
  | nil => exact ⟨s, rfl, .refl s⟩
  | cons e l ih =>
    obtain ⟨bs, hbs, -, hdo⟩ := (h e List.mem_cons_self).doLoad
    obtain ⟨s', hrest, hst⟩ := ih h.tail
    have hfirst := s.stampsOnly_touched t e.2 e.1.n false false cls
    refine ⟨s', ?_, hfirst.trans hst⟩
    simp only [hfirst.laneValue] at hrest
    rw [Machine.readLanes, hdo]
    simp only [bind, Except.bind, hrest, hbs, List.map_cons]

end

/-! ### The data that lanes add up to (R138, R145) -/

theorem packLanes_append (w : Nat) (ls : List Nat) (x : Nat) :
    packLanes w (ls ++ [x]) = packLanes w ls + x % 2 ^ w * 2 ^ (w * ls.length) := by
  induction ls with
  | nil => simp [packLanes]
  | cons y ls ih =>
    rw [List.cons_append, packLanes_cons, ih, packLanes_cons, List.length_cons, Nat.mul_succ, Nat.pow_add]
    ring

/-- Packed lanes are the sum of their lanes, each in its place. -/
theorem packLanes_eq_sum (w n : Nat) (v : Nat → Nat) :
    packLanes w ((List.range n).map v) = ((List.range n).map fun j => v j % 2 ^ w * 2 ^ (w * j)).sum := by
  induction n with
  | zero => rfl
  | succ n ih =>
    rw [List.range_succ, List.map_append, List.map_singleton, packLanes_append, ih, List.length_map, List.length_range,
      List.map_append, List.sum_append, List.map_singleton, List.sum_singleton]

theorem sum_map_filter (l : List Nat) (on : Nat → Bool) (v : Nat → Nat) :
    ((l.filter on).map v).sum = (l.map fun j => if on j then v j else 0).sum := by
  induction l with
  | nil => rfl
  | cons j l ih =>
    cases hj : on j <;> simp [hj, ih]

theorem foldl_add (l : List Nat) (a : Nat) : l.foldl (· + ·) a = a + l.sum := by
  induction l generalizing a with
  | nil => rfl
  | cons x l ih => rw [List.foldl_cons, ih, List.sum_cons, Nat.add_assoc]

/-- The active lanes read, over the zeros of the others, are the packed lanes. -/
theorem sum_lanes {w n : Nat} {on : Nat → Bool} {v : Nat → Nat} (zr : Nat)
    (hv : ∀ j, j < n → on j = true → v j < 2 ^ w) :
    ((((List.range n).filter on).map fun j => v j * 2 ^ (w * j)).foldl (· + ·)
      (packLanes w ((List.range n).map fun j => if on j then 0 else zr))) =
      packLanes w ((List.range n).map fun j => if on j then v j else zr) := by
  rw [foldl_add, sum_map_filter, packLanes_eq_sum, packLanes_eq_sum, ← List.sum_map_add]
  congr 1
  apply List.map_congr_left
  intro j hmem
  by_cases hj : on j = true
  · simp [hj, Nat.mod_eq_of_lt (hv j (List.mem_range.mp hmem) hj)]
  · simp [hj]

/-! ### The vector loads (R144 to R146) -/

section
variable {s : State} {t : Task} {f : VF} {srcs : Srcs} {accs : Task → List LaneAcc} {live : Task → Nat → Bool}

/-- The data of a load: what its lanes contribute, over the zeros of the lanes it does not fill. -/
def State.loadedData (s : State) (t : Task) (f : VF) (live : Nat → Bool) (l : List (LaneAcc × Xlate)) : Nat :=
  (l.map fun e => laneContrib f (t.getK f.k) (e.1.lane, s.laneValue t e.2 e.1.n)).foldl (· + ·) (fillZero f live)

theorem State.loadedData_advance (k : Nat) (live : Nat → Bool) (l : List (LaneAcc × Xlate)) :
    s.loadedData (t.advance k) f live l = s.loadedData t f live l := by
  simp [State.loadedData, State.laneValue]

/-- The body of a load whose lanes may load pushes its data. -/
theorem loadLanes_ok {p : Task} {c : CoreId} {h : Word64} {l : List (LaneAcc × Xlate)} (hc : s.cur = c)
    (htake : t.takeSources srcs [f.vd] = .ok p) (haccs : accs t = l.map Prod.fst)
    (hl : s.LanesLoad t (BitVec.ofNat 2 f.vc.val) l) : ∃ s', s.StampsOnly s' ∧ loadLanes f srcs true accs live c h s t =
      .ok (s', p.pushQ f.vd (mkEntry (etFmt f.et) (s.loadedData t f (live t) l))) := by
  obtain ⟨s', hread, hst⟩ := hl.readLanes
  refine ⟨s', hst, ?_⟩
  rw [loadLanes, htake, haccs]
  simp only [bind, Except.bind, Bool.not_true, Bool.false_eq_true, if_false, hl.probeLanes hc, hread, List.map_map]
  rfl

theorem Task.vDone_of_pops (p : Task) (e : Entry) (hp : p = { t.advance (if f.lit.isSome then 5 else 3) with
    v := (t.advance (if f.lit.isSome then 5 else 3)).queuesAfter srcs [] }) :
    p.pushQ f.vd e = t.vDone f srcs [(f.vd, e)] t.sys := by
  have hqueues := Task.advance_queuesAfter t (if f.lit.isSome then 5 else 3) srcs [(f.vd, e)]
  have hsys := Task.advance_sys t (if f.lit.isSome then 5 else 3)
  rw [Task.vDone, ← hqueues, ← hsys]
  subst hp
  exact Task.pushAll_popAll (t.advance (if f.lit.isSome then 5 else 3)) _ srcs [(f.vd, e)] rfl

/-- A load whose lanes may load completes. -/
theorem vWord_loadLanes {l : List (LaneAcc × Xlate)} (hr : s.VReady f t srcs [f.vd])
    (hl : s.LanesLoad t (BitVec.ofNat 2 f.vc.val) l) (haccs : accs (t.advance (if f.lit.isSome then 5 else 3)) = l.map Prod.fst) :
    ∃ s', s.StampsOnly s' ∧ vWord f none (loadLanes f srcs true accs live) s = .next (s'.setTask s.cur
      (t.vDone f srcs [(f.vd, mkEntry (etFmt f.et)
        (s.loadedData t f (live (t.advance (if f.lit.isSome then 5 else 3))) l))] t.sys)) := by
  obtain ⟨hx, hs, h1, h2⟩ := hr
  obtain ⟨s', hst, hbody⟩ := loadLanes_ok (live := live) (h := t.pc) rfl (Task.takeSources_ok (by simpa using h1) (by simpa using h2))
    haccs fun e he => State.laneLoads_advance _ |>.mpr (hl e he)
  rw [Task.vDone_of_pops _ _ rfl, State.loadedData_advance] at hbody
  exact ⟨s', hst, vWord_run hx.1 hx.2 (State.laneStop_of_sound hs _) rfl hbody⟩

/-- Under an element type of 4 bits a strided or indexed load raises ETFORM (R145). -/
theorem vWord_loadLanes_etform (hr : s.VReady f t srcs [f.vd]) :
    vWord f none (loadLanes f srcs false accs live) s = trapsWith s t 1 2 13 0 := by
  obtain ⟨hx, hs, h1, h2⟩ := hr
  refine vWord_raise hx hs ?_
  rw [loadLanes, Task.takeSources_ok (by simpa using h1) (by simpa using h2)]
  rfl

/-- The instruction completes with the lanes given in its destination; of the state only stamps, queues and pc change. -/
def State.Loads (s : State) (t : Task) (f : VF) (srcs : Srcs) (i : Instr) (lane : Nat → BitVec (etWidth f.et)) : Prop :=
  ∃ (stamps : List (Nat × Stamp)) (d : EntryBits), exec i s = .next (({ s with stamps := stamps } : State).setTask s.cur
      (t.vDone f srcs [(f.vd, mkEntry (etFmt f.et) d.toNat)] t.sys)) ∧
    ∀ j, j < 4096 / etWidth f.et → entryLane d (etWidth f.et) j = lane j

theorem State.loads_of_data {s' : State} {i : Instr} {n : Nat} {lane : Nat → BitVec (etWidth f.et)} (hst : s.StampsOnly s')
    (h : exec i s = .next (s'.setTask s.cur (t.vDone f srcs [(f.vd, mkEntry (etFmt f.et) n)] t.sys)))
    (hlane : ∀ j, j < 4096 / etWidth f.et → BitVec.ofNat (etWidth f.et) (laneAt (etWidth f.et) n j) = lane j) :
    s.Loads t f srcs i lane := by
  obtain ⟨stamps, rfl⟩ := hst
  refine ⟨stamps, BitVec.ofNat 4096 n, by rw [mkEntry_ofNat, h], fun j hj => ?_⟩
  have hfit : etWidth f.et * (j + 1) ≤ 4096 := (Nat.mul_le_mul_left _ hj).trans (Nat.mul_div_le ..)
  rw [entryLane_eq, BitVec.toNat_ofNat, laneAt_ofNat _ _ _ _ hfit, hlane j hj]

/-- Lanes of packed data, as the entry holds them. -/
theorem ofNat_laneAt_packLanes {w n j : Nat} (v : Nat → Nat) (hj : j < n) :
    BitVec.ofNat w (laneAt w (packLanes w ((List.range n).map v)) j) = BitVec.ofNat w (v j) := by
  rw [laneAt_packLanes _ _ _ (by simpa using hj)]
  apply BitVec.eq_of_toNat_eq
  simp

theorem State.laneLoads.laneValue_lt {cls : BitVec 2} {va n : Nat} {x : Xlate} (h : s.laneLoads t cls va n x) :
    s.laneValue t x n < 2 ^ (8 * n) := by
  obtain ⟨bs, hbs, hlen, -⟩ := h.doLoad
  rw [← hbs, ← hlen]
  exact leNat_lt bs

theorem accSize_bits {et : BitVec 4} (h : 8 ≤ etWidth et) : 8 * accSize et = etWidth et := by
  revert et
  decide

/-- A load of whole bytes: each lane it fills holds what its access reads, the others the zero of the type (R144, R325). -/
theorem loads_wide {i : Instr} {on : Nat → Bool} {va : Nat → Nat} {x : Nat → Xlate}
    (hi : exec i s = vWord f none (loadLanes f srcs true accs live) s) (hw : 8 ≤ etWidth f.et)
    (hlive : ∀ j, j < 4096 / etWidth f.et → live (t.advance (if f.lit.isSome then 5 else 3)) j = on j)
    (haccs : accs (t.advance (if f.lit.isSome then 5 else 3)) =
      ((List.range (4096 / etWidth f.et)).filter on).map fun j => ⟨j, va j, accSize f.et⟩)
    (hr : s.VReady f t srcs [f.vd]) (hl : ∀ j, j < 4096 / etWidth f.et → on j = true →
      s.laneLoads t (BitVec.ofNat 2 f.vc.val) (va j) (accSize f.et) (x j)) :
    s.Loads t f srcs i fun j => if on j then BitVec.ofNat (etWidth f.et) (s.laneValue t (x j) (accSize f.et))
      else BitVec.ofNat (etWidth f.et) (zeroOf (etFmt f.et).toNat) := by
  let l : List (LaneAcc × Xlate) :=
    ((List.range (4096 / etWidth f.et)).filter on).map fun j => (⟨j, va j, accSize f.et⟩, x j)
  have hlanes : s.LanesLoad t (BitVec.ofNat 2 f.vc.val) l := by
    intro e he
    obtain ⟨j, hj, rfl⟩ := List.mem_map.mp he
    obtain ⟨hj, hon⟩ := List.mem_filter.mp hj
    exact hl j (List.mem_range.mp hj) hon
  obtain ⟨s', hst, hexec⟩ := vWord_loadLanes (accs := accs) (live := live) hr hlanes (by rw [haccs, List.map_map]; rfl)
  refine State.loads_of_data hst (hi.trans hexec) fun j hj => ?_
  have hdata : s.loadedData t f (live (t.advance (if f.lit.isSome then 5 else 3))) l =
      packLanes (etWidth f.et) ((List.range (4096 / etWidth f.et)).map fun j =>
        if on j then s.laneValue t (x j) (accSize f.et) else zeroOf (etFmt f.et).toNat) := by
    have hfill : fillZero f (live (t.advance (if f.lit.isSome then 5 else 3))) =
        packLanes (etWidth f.et) ((List.range (4096 / etWidth f.et)).map fun j =>
          if on j then 0 else zeroOf (etFmt f.et).toNat) :=
      congrArg (packLanes _) (List.map_congr_left fun j hj => by rw [hlive j (List.mem_range.mp hj)])
    have hcontrib (e : LaneAcc × Xlate) : laneContrib f (t.getK f.k) (e.1.lane, s.laneValue t e.2 e.1.n) =
        s.laneValue t e.2 e.1.n * 2 ^ (etWidth f.et * e.1.lane) := if_neg (by omega)
    rw [State.loadedData, hfill]
    simp only [hcontrib]
    rw [List.map_map]
    exact sum_lanes _ fun j hj hon => accSize_bits hw ▸ (hl j hj hon).laneValue_lt
  rw [hdata, ofNat_laneAt_packLanes _ hj, apply_ite (BitVec.ofNat _)]

/-! ### Nibbles (R145) -/

/-- What the active nibbles of a byte give. -/
theorem laneContrib_nibble (hw : etWidth f.et = 4) (m : MaskBits) {b v : Nat} {lane : Nat} (hlane : lane / 2 = b) :
    laneContrib f m (lane, v) = ((if activeAt m (2 * b) then v % 16 else 0) +
      (if activeAt m (2 * b + 1) then v / 16 * 16 else 0)) * 2 ^ (8 * b) := by
  rw [laneContrib, if_pos hw]
  simp only [hlane]

theorem nibble_lane (p q : Bool) (v : Nat) {k : Nat} (hk : k < 2) :
    BitVec.ofNat 4 (laneAt 4 ((if p then v % 16 else 0) + (if q then v / 16 * 16 else 0)) k) =
      if (if k = 0 then p else q) then BitVec.ofNat 4 (v / (if k = 0 then 1 else 16)) else 0 := by
  apply BitVec.eq_of_toNat_eq
  rcases (by omega : k = 0 ∨ k = 1) with rfl | rfl
  · cases p <;> cases q <;> simp [laneAt]
  · have hhigh : (v % 16 + v / 16 * 16) / 16 = v / 16 := by omega
    cases p <;> cases q <;> simp [laneAt, hhigh]

theorem packLanes_zeros (w : Nat) (l : List Nat) : packLanes w (l.map fun _ => 0) = 0 := by
  induction l with
  | nil => rfl
  | cons a l ih => rw [List.map_cons, packLanes_cons, ih, Nat.zero_mod, Nat.zero_mul]

theorem fillZero_nibbles (hw : etWidth f.et = 4) (live : Nat → Bool) : fillZero f live = 0 := by
  have het : f.et = 3 := by
    revert hw
    generalize f.et = et
    revert et
    decide
  have hlanes : (List.range (lanesIn (etWidth f.et))).map (fun i => if live i then 0 else zeroOf (etFmt f.et).toNat) =
      (List.range (lanesIn (etWidth f.et))).map fun _ => 0 := by
    refine List.map_congr_left fun j _ => ?_
    rw [het]
    exact ite_self _
  rw [fillZero, hlanes, packLanes_zeros]

/-- VLD of an element type of 4 bits: each active lane holds its nibble (R145). -/
theorem loads_nibbles {x : Nat → Xlate} (hw : etWidth f.et = 4) (hr : s.VReady f t [] [f.vd])
    (hl : ∀ b, b < 512 → (t.getK f.k).getLsbD (2 * b) = true ∨ (t.getK f.k).getLsbD (2 * b + 1) = true →
      s.laneLoads t (BitVec.ofNat 2 f.vc.val) ((vBase f t f.va + b) % 2 ^ 64) 1 (x b)) :
    s.Loads t f [] (.vld f) fun j => if (t.getK f.k).getLsbD j then
      BitVec.ofNat (etWidth f.et) (s.laneValue t (x (j / 2)) (accSize f.et) / (if j % 2 = 0 then 1 else 16)) else 0 := by
  rw [show accSize f.et = 1 by simp [accSize, hw]]
  let m := t.getK f.k
  let on (b : Nat) : Bool := activeAt m (2 * b) || activeAt m (2 * b + 1)
  let byte (b : Nat) : Nat := (if activeAt m (2 * b) then s.laneValue t (x b) 1 % 16 else 0) +
    (if activeAt m (2 * b + 1) then s.laneValue t (x b) 1 / 16 * 16 else 0)
  let l : List (LaneAcc × Xlate) := ((List.range 512).filter on).map fun b =>
    (⟨if activeAt m (2 * b) then 2 * b else 2 * b + 1, (vBase f t f.va + b) % 2 ^ 64, 1⟩, x b)
  have hload (b : Nat) (hb : b < 512) (hon : on b = true) :
      s.laneLoads t (BitVec.ofNat 2 f.vc.val) ((vBase f t f.va + b) % 2 ^ 64) 1 (x b) := by
    refine hl b hb ((Bool.or_eq_true_iff.mp hon).imp (fun h => ?_) fun h => ?_)
    · rwa [activeAt_lt (by omega)] at h
    · rwa [activeAt_lt (by omega)] at h
  have hlanes : s.LanesLoad t (BitVec.ofNat 2 f.vc.val) l := by
    intro e he
    obtain ⟨b, hb, rfl⟩ := List.mem_map.mp he
    obtain ⟨hb, hon⟩ := List.mem_filter.mp hb
    exact hload b (List.mem_range.mp hb) hon
  have haccs : unitAccs f ((t.advance (if f.lit.isSome then 5 else 3)).getK f.k)
      (vBase f (t.advance (if f.lit.isSome then 5 else 3)) f.va) = l.map Prod.fst := by
    rw [unitAccs, if_pos hw, List.map_map, Task.advance_getK, vBase, Task.advance_getX]
    rfl
  obtain ⟨s', hst, hexec⟩ := vWord_loadLanes (accs := fun t => unitAccs f (t.getK f.k) (vBase f t f.va))
    (live := fun t => activeAt (t.getK f.k)) hr hlanes haccs
  refine State.loads_of_data hst hexec fun j hj => ?_
  have hbyte (b : Nat) : (if on b then byte b else 0) = byte b := by
    refine ite_eq_left_iff.mpr fun hon => ?_
    obtain ⟨h0, h1⟩ : activeAt m (2 * b) = false ∧ activeAt m (2 * b + 1) = false := by simpa [on] using hon
    simp [byte, h0, h1]
  have hdata (live : Nat → Bool) : s.loadedData t f live l =
      packLanes 8 ((List.range 512).map fun b => if on b then byte b else 0) := by
    have hlow (b : Nat) (hb : b < 512) (hon : on b = true) : byte b < 2 ^ 8 := by
      have hlt := (hload b hb hon).laneValue_lt
      dsimp only [byte]
      split <;> split <;> omega
    rw [← sum_lanes 0 hlow, State.loadedData, fillZero_nibbles hw, List.map_map]
    simp only [ite_self, packLanes_zeros]
    refine congrArg (List.foldl (· + ·) 0) (List.map_congr_left fun b _ => laneContrib_nibble hw m ?_)
    dsimp only
    split <;> omega
  have hk : j % 2 < 2 := Nat.mod_lt _ (by decide)
  have hj' : j < 1024 := by rwa [hw] at hj
  have hlane := laneAt_laneAt (w := 4) (packLanes 8 ((List.range 512).map fun b => if on b then byte b else 0)) (j / 2) hk
  rw [Nat.div_add_mod, laneAt_packLanes _ _ _ (by simp; omega), List.getElem_map, List.getElem_range, hbyte,
    laneAt_ofNat 4 _ _ 8 (by omega)] at hlane
  rw [hdata, hw, ← hlane, nibble_lane _ _ _ hk]
  have hact : (if j % 2 = 0 then activeAt m (2 * (j / 2)) else activeAt m (2 * (j / 2) + 1)) = m.getLsbD j := by
    split
    · rw [show 2 * (j / 2) = j by omega, activeAt_lt hj']
    · rw [show 2 * (j / 2) + 1 = j by omega, activeAt_lt hj']
  rw [hact]

/-! ### The addresses of lanes (R145) -/

theorem toNat_add_ofNat (b : Word64) (n : Nat) : (b + BitVec.ofNat 64 n).toNat = (b.toNat + n) % 2 ^ 64 := by
  rw [BitVec.toNat_add, BitVec.toNat_ofNat, Nat.add_mod_mod]

theorem toNat_add_mul (b y : Word64) (j : Nat) :
    (b + BitVec.ofNat 64 j * y).toNat = (b.toNat + j * y.toNat) % 2 ^ 64 := by
  rw [BitVec.toNat_add, BitVec.toNat_mul, BitVec.toNat_ofNat, Nat.mod_mul_mod, Nat.add_mod_mod]

theorem toNat_add_signExtend (b : Word64) (e : BitVec 32) :
    (b + e.signExtend 64).toNat = (((b.toNat : Int) + toSigned 32 e.toNat) % 2 ^ 64).toNat := by
  have hsum : b + e.signExtend 64 = BitVec.ofInt 64 ((b.toNat : Int) + e.toInt) := by
    rw [BitVec.ofInt_add, BitVec.ofInt_natCast, BitVec.ofNat_toNat, BitVec.setWidth_eq]
    rfl
  rw [toSigned_toNat (by decide), hsum, BitVec.toNat_ofInt]
  rfl

/-! ### One element for all lanes (R145) -/

/-- VLDB reads once and gives the element to every active lane. -/
theorem loads_broadcast {x : Xlate} (hr : s.VReady f t [] [f.vd])
    (hl : (∃ j, j < 4096 / etWidth f.et ∧ (t.getK f.k).getLsbD j = true) →
      s.laneLoads t (BitVec.ofNat 2 f.vc.val) (vBase f t f.va) (accSize f.et) x) :
    s.Loads t f [] (.vldb f) fun j => if (t.getK f.k).getLsbD j then
      BitVec.ofNat (etWidth f.et) (s.laneValue t x (accSize f.et))
      else BitVec.ofNat (etWidth f.et) (zeroOf (etFmt f.et).toNat) := by
  have hact {j : Nat} (hj : j < 4096 / etWidth f.et) : activeAt (t.getK f.k) j = (t.getK f.k).getLsbD j :=
    activeAt_lt (hj.trans_le (lanesIn_le f.et))
  obtain ⟨hx, hs, h1, h2⟩ := hr
  have htake := Task.takeSources_ok (t := t.advance (if f.lit.isSome then 5 else 3)) (srcs := []) (dsts := [f.vd])
    (by simp) (by simpa using h2)
  cases hfind : (List.range (lanesIn (etWidth f.et))).find? (activeAt (t.getK f.k)) with
  | none =>
    have hidle (j : Nat) (hj : j < 4096 / etWidth f.et) : (t.getK f.k).getLsbD j = false := by
      rw [← hact hj]
      exact Bool.eq_false_iff.mpr (List.find?_eq_none.mp hfind j (List.mem_range.mpr hj))
    refine State.loads_of_data (n := fillZero f fun _ => false) (.refl s)
      (vWord_run hx.1 hx.2 (State.laneStop_of_sound hs _) rfl ?_) fun j hj => ?_
    · dsimp only
      rw [htake, Task.advance_getK]
      simp only [bind, Except.bind, hfind]
      rw [Task.vDone_of_pops _ _ rfl]
    · rw [hidle j hj]
      exact ofNat_laneAt_packLanes _ hj
  | some i =>
    have hi := List.find?_some hfind
    have hlt : i < 4096 / etWidth f.et := List.mem_range.mp (List.mem_of_find?_eq_some hfind)
    have hloads := (State.laneLoads_advance (if f.lit.isSome then 5 else 3)).mpr (hl ⟨i, hlt, hact hlt ▸ hi⟩)
    obtain ⟨bs, hbs, -, hdo⟩ := hloads.doLoad
    refine State.loads_of_data (n := packLanes (etWidth f.et) ((List.range (4096 / etWidth f.et)).map fun j =>
      if activeAt (t.getK f.k) j then leNat bs % 2 ^ etWidth f.et else zeroOf (etFmt f.et).toNat))
      (s.stampsOnly_touched (t.advance (if f.lit.isSome then 5 else 3)) x (accSize f.et) false false (BitVec.ofNat 2 f.vc.val))
      (vWord_run hx.1 hx.2 (State.laneStop_of_sound hs _) rfl ?_) fun j hj => ?_
    · dsimp only
      rw [htake, Task.advance_getK, vBase, Task.advance_getX]
      simp only [bind, Except.bind, hfind]
      rw [← vBase, hloads.probe i]
      dsimp only
      rw [hdo, ← Task.vDone_of_pops _ _ rfl]
      rfl
    · have hvalue : s.laneValue (t.advance (if f.lit.isSome then 5 else 3)) x (accSize f.et) =
          s.laneValue t x (accSize f.et) := by rw [State.laneValue, State.viewOf_advance, State.laneValue]
      have hmod (v : Nat) : BitVec.ofNat (etWidth f.et) (v % 2 ^ etWidth f.et) = BitVec.ofNat (etWidth f.et) v :=
        BitVec.eq_of_toNat_eq (by simp)
      rw [ofNat_laneAt_packLanes _ hj, hact hj, apply_ite (BitVec.ofNat _), hbs, hvalue, hmod]

end

theorem filter_range_lt {n k : Nat} (h : k ≤ n) (p : Nat → Bool) :
    (List.range n).filter (fun j => p j && decide (j < k)) = (List.range k).filter p := by
  obtain ⟨m, rfl⟩ := Nat.exists_eq_add_of_le h
  rw [List.range_add, List.filter_append, List.filter_map]
  have hlow : (List.range k).filter (fun j => p j && decide (j < k)) = (List.range k).filter p :=
    List.filter_congr fun j hj => by simp [List.mem_range.mp hj]
  simp [hlow]

theorem lanes_ge {et : BitVec 4} (h : 8 ≤ etWidth et) : 128 ≤ 4096 / etWidth et := by
  revert et
  decide

/-- Settles O37: a load's lanes pass their checks in ascending order (`State.LanesLoad.probeLanes`), and what they read adds up
to the lanes of its entry (`loads_wide`, `loads_nibbles`, `loads_broadcast`). -/
theorem vectorLoadsComplete : Obligations.VectorLoadsComplete := by
  unfold Obligations.VectorLoadsComplete
  intro s t f x w n sz cls base live zero mem gives loads
  have hbase : vBase f (t.advance (if f.lit.isSome then 5 else 3)) f.va = base.toNat := by
    rw [vBase, Task.advance_getX]
  have hact {j : Nat} (hj : j < n) : activeAt (t.getK f.k) j = live j := activeAt_lt (hj.trans_le (lanesIn_le f.et))
  have hlive : (List.range (lanesIn (etWidth f.et))).filter (activeAt (t.getK f.k)) =
      (List.range (4096 / etWidth f.et)).filter live := List.filter_congr fun j hj => hact (List.mem_range.mp hj)
  refine ⟨fun hw => ?_, fun hw => ?_, fun _ hr hl => loads_broadcast hr (hl ·)⟩
  · have hform : decide (etWidth f.et ≠ 4) = true := decide_eq_true (by omega)
    refine ⟨fun hr hl => loads_wide (on := live) (va := fun j => (base + BitVec.ofNat 64 (j * sz)).toNat) rfl hw
        (fun j hj => ?_) ?_ hr hl,
      fun hr hl => loads_wide (on := live) (va := fun j => (base + BitVec.ofNat 64 j * t.getX f.vb).toNat)
        (congrArg (fun form => vWord f none (loadLanes f [] form _ _) s) hform) hw (fun j hj => ?_) ?_ hr hl,
      fun hr hl => loads_wide (on := fun j => live j && decide (j < 128))
        (va := fun j => (base + (entryLane (t.head f.vb).data 32 j).signExtend 64).toNat)
        (congrArg (fun form => vWord f none (loadLanes f [(f.vb, f.qb)] form _ _) s) hform) hw (fun j hj => ?_) ?_ hr hl⟩
    · rw [Task.advance_getK, hact hj]
    · simp only [unitAccs, if_neg (show etWidth f.et ≠ 4 by omega), Task.advance_getK, hbase, toNat_add_ofNat, hlive]
      rfl
    · rw [Task.advance_getK, hact hj]
    · simp only [stridedAccs, Task.advance_getK, Task.advance_getX, hbase, toNat_add_mul, hlive]
    · rw [Task.advance_getK, hact hj]
    · have hlow : (List.range (4096 / etWidth f.et)).filter (fun j => live j && decide (j < 128)) =
          (List.range 128).filter (activeAt (t.getK f.k)) := by
        rw [filter_range_lt (lanes_ge hw)]
        exact List.filter_congr fun j hj => (activeAt_lt ((List.mem_range.mp hj).trans (by decide))).symm
      simp only [indexedAccs, Task.advance_getK, Task.advance_headBits, hbase, toNat_add_signExtend, toNat_entryLane, hlow]
  · have hform : decide (etWidth f.et ≠ 4) = false := decide_eq_false (not_not.mpr hw)
    refine ⟨fun hr hl => ?_, fun hr => ?_, fun hr => ?_⟩
    · refine loads_nibbles hw hr fun b hb hon => ?_
      have hloads := hl b hb hon
      rwa [toNat_add_ofNat] at hloads
    · exact (congrArg (fun form => vWord f none (loadLanes f [] form _ _) s) hform).trans (vWord_loadLanes_etform hr)
    · exact (congrArg (fun form => vWord f none (loadLanes f [(f.vb, f.qb)] form _ _) s) hform).trans
        (vWord_loadLanes_etform hr)

end Machine

end Sys2Proof

namespace Sys2Proof

namespace Machine

/-! ### The stamps of an atomic, for tasks and states that differ elsewhere (R117, R307) -/

/-- The stamps that an atomic of n bytes at a place leaves, none where one stands against it. -/
def State.touchPlace (s : State) (t : Task) (x : Xlate) (n : Nat) : Option State :=
  if x.typ = .sram then s.touchAtomic t x.pa n else some s

/-- Where tiles lie and of which format they are. -/
def State.places (s : State) : List (Nat × BitVec 5) := s.tiles.map fun e => (e.1, e.2.fmt)

section
variable {s s' : State} {t u : Task}

theorem State.sideGranules_of_places (h : s.places = s'.places) (pa n : Nat) : s.sideGranules pa n = s'.sideGranules pa n := by
  have heq (s : State) : s.sideGranules pa n = (s.places.filter fun e =>
      decide (e.1 < pa + n) && decide (pa < e.1 + tileSize e.2 + 512)).flatMap fun e => granules (e.1 + tileSize e.2) 512 := by
    rw [State.places, List.filter_map, List.flatMap_map]
    rfl
  rw [heq, heq, h]

theorem places_markTile (ts : List (Nat × Tile)) (a : Nat) (st : Bool) :
    (markTile ts a st).map (fun e => (e.1, e.2.fmt)) = ts.map fun e => (e.1, e.2.fmt) := by
  rw [markTile, List.map_map]
  refine List.map_congr_left fun e _ => ?_
  simp only [Function.comp_apply]
  split <;> rfl

theorem State.places_staleTiles (s : State) (pa n : Nat) : (s.staleTiles pa n).places = s.places := by
  have hfold (l ts : List (Nat × Tile)) : (l.foldl (fun ts e => markTile ts e.1 true) ts).map (fun e => (e.1, e.2.fmt)) =
      ts.map fun e => (e.1, e.2.fmt) := by
    induction l generalizing ts with
    | nil => rfl
    | cons e l ih => rw [List.foldl_cons, ih, places_markTile]
  exact hfold _ _

/-- The stamps that touches leave hang on the stamps before them and on the strand alone. -/
theorem State.touchAll_stamps (hrs : t.rs = u.rs) (hgen : t.gen = u.gen) (hslot : t.slot = u.slot) (how : Touch)
    (cls : Option (BitVec 2)) (gs : List Nat) (h : s.stamps = s'.stamps) :
    (State.touchAll t how cls gs s).map State.stamps = (State.touchAll u how cls gs s').map State.stamps := by
  induction gs generalizing s s' with
  | nil => exact congrArg some h
  | cons g gs ih =>
    have hof : s.stampOf g t.rs.rc.job t.gen = s'.stampOf g u.rs.rc.job u.gen := by
      rw [State.stampOf, State.stampOf, h, hrs, hgen]
    simp only [State.touchAll, State.touchGranule, hof, hslot]
    cases (s'.stampOf g u.rs.rc.job u.gen).touch u.slot cls how with
    | none => rfl
    | some st => exact ih (by simp [h])

theorem State.touchAtomic_stamps (hrs : t.rs = u.rs) (hgen : t.gen = u.gen) (hslot : t.slot = u.slot)
    (h : s.stamps = s'.stamps) (hp : s.places = s'.places) (pa n : Nat) :
    (s.touchAtomic t pa n).map State.stamps = (s'.touchAtomic u pa n).map State.stamps := by
  have hside := State.touchAll_stamps hrs hgen hslot .write none (s'.sideGranules pa n) h
  rw [State.touchAtomic, State.touchAtomic, State.sideGranules_of_places hp]
  cases h1 : State.touchAll t .write none (s'.sideGranules pa n) s with
  | none =>
    rw [h1] at hside
    rw [Option.map_eq_none_iff.mp hside.symm]
    rfl
  | some a =>
    rw [h1] at hside
    obtain ⟨b, hb, hab⟩ := Option.map_eq_some_iff.mp hside.symm
    rw [hb]
    exact State.touchAll_stamps hrs hgen hslot .atomic none _ hab.symm

theorem State.touchPlace_stamps (hrs : t.rs = u.rs) (hgen : t.gen = u.gen) (hslot : t.slot = u.slot)
    (h : s.stamps = s'.stamps) (hp : s.places = s'.places) (x : Xlate) (n : Nat) :
    (s.touchPlace t x n).map State.stamps = (s'.touchPlace u x n).map State.stamps := by
  unfold State.touchPlace
  split
  · exact State.touchAtomic_stamps hrs hgen hslot h hp x.pa n
  · exact congrArg some h

theorem State.atomicStamped_of_touch {x : Xlate} {n : Nat} (h : s.touchPlace t x n = some s') :
    s.atomicStamped t x n = s' := by
  unfold State.touchPlace at h
  unfold State.atomicStamped
  split at h
  · next htyp => rw [if_pos htyp, h]; rfl
  · next htyp => rw [if_neg htyp, Option.some.inj h]

theorem State.stampsOnly_touchPlace {x : Xlate} {n : Nat} (h : s.touchPlace t x n = some s') : s.StampsOnly s' := by
  rw [← State.atomicStamped_of_touch h]
  exact s.stampsOnly_atomicStamped t x n

end

/-! ### The checks of a VAMO's lanes (R141, R152) -/

/-- A lane of an atomic passes its checks but for stamps. -/
structure State.LaneAtomic (s : State) (c : CoreId) (t : Task) (va n : Nat) (x : Xlate) : Prop where
  aligned : va % n = 0
  translated : s.translate c t.rs.rc.job va .atomic = .ok x
  range : x.typ = .sram ∨ (x.typ = .lpddr ∨ x.typ = .host) ∧ t.inWriteRange va n = true
  free : s.blocked t x.pa n true = false

section
variable {s s' : State} {c : CoreId} {t : Task} {n : Nat}

theorem State.LaneAtomic.ofStampsOnly {va : Nat} {x : Xlate} (h : s.LaneAtomic c t va n x) (hst : s.StampsOnly s') :
    s'.LaneAtomic c t va n x := by
  have hview := hst.viewOf_tiles t
  obtain ⟨l, rfl⟩ := hst
  refine ⟨h.aligned, (State.translate_withStamps s l ..).trans h.translated, h.range, ?_⟩
  rw [State.blocked, hview]
  exact h.free

theorem State.LaneAtomic.probe {va : Nat} {x : Xlate} (h : s.LaneAtomic c t va n x) (hc : t.rs.rc.commit = false)
    (htouch : s.touchPlace t x n = some s') : s.probeAtomic c t va n = .ok x := by
  refine State.probeAtomic_ok hc h.aligned h.translated (h.range.imp (fun htyp => ⟨htyp, ?_⟩) id) h.free
  rw [State.touchPlace, if_pos htyp] at htouch
  rw [htouch]
  rfl

theorem probeAmo_ok {l : List (LaneAcc × Xlate)} (hc : t.rs.rc.commit = false)
    (hl : ∀ e ∈ l, s.LaneAtomic c t e.1.va n e.2) (htouch : l.foldlM (fun s e => s.touchPlace t e.2 n) s = some s') :
    probeAmo c t n (l.map Prod.fst) s = .ok l := by
  induction l generalizing s with
  | nil => rfl
  | cons e l ih =>
    rw [List.foldlM_cons] at htouch
    obtain ⟨s1, h1, hrest⟩ := Option.bind_eq_some_iff.mp htouch
    have hstamped := State.atomicStamped_of_touch h1
    rw [State.atomicStamped] at hstamped
    have hprobe := (hl e List.mem_cons_self).probe hc h1
    have hmore := ih (fun a ha => (hl a (List.mem_cons_of_mem _ ha)).ofStampsOnly (State.stampsOnly_touchPlace h1)) hrest
    rw [List.map_cons, probeAmo, hprobe]
    simp only [bind, Except.bind, atLane, hstamped, hmore]

theorem poisonLanes_ok {l : List (LaneAcc × Xlate)} (h : ∀ e ∈ l, s.atomicPoison t e.2 e.1.va n = .ok ()) :
    poisonLanes n s t l = .ok () := by
  induction l with
  | nil => rfl
  | cons e l ih =>
    rw [poisonLanes, List.foldlM_cons, h e List.mem_cons_self]
    exact ih fun a ha => h a (List.mem_cons_of_mem _ ha)

end

/-! ### A VAMO's lanes in ascending order (R151, R152) -/

/-- One lane's turn: memory, the old values by lane, and flags. -/
def amoTurn (n : Nat) (op : Nat → Nat → Nat × Nat) (x : Nat → Xlate) (b : Nat → Nat)
    (acc : (Nat → Byte) × (Nat → Nat) × Nat) (j : Nat) : (Nat → Byte) × (Nat → Nat) × Nat :=
  let old := leNat ((List.range n).map fun i => acc.1 ((x j).pa + i))
  let r := op old (b j)
  (fun a => if (x j).pa ≤ a ∧ a < (x j).pa + n then BitVec.ofNat 8 (r.1 / 2 ^ (8 * (a - (x j).pa))) else acc.1 a,
   fun k => if k = j then old else acc.2.1 k, acc.2.2 ||| r.2)

theorem amoTurn_old_of_notMem {n : Nat} {op : Nat → Nat → Nat × Nat} {x : Nat → Xlate} {b : Nat → Nat} {js : List Nat}
    {j : Nat} (h : j ∉ js) (acc : (Nat → Byte) × (Nat → Nat) × Nat) :
    (js.foldl (amoTurn n op x b) acc).2.1 j = acc.2.1 j := by
  induction js generalizing acc with
  | nil => rfl
  | cons k js ih =>
    rw [List.mem_cons, not_or] at h
    rw [List.foldl_cons, ih h.2]
    exact if_neg h.1

theorem Task.flag_flag (t : Task) (a b : Nat) : (t.flag a).flag b = t.flag (a ||| b) := by
  simp only [Task.flag, BitVec.ofNat_or, BitVec.or_assoc]

theorem Task.flag_zero (t : Task) : t.flag 0 = t := by
  simp [Task.flag]

section
variable {n d : Nat} {op op' : Nat → Nat → Nat × Nat} {x : Nat → Xlate} {va : Nat → Nat} {js : List Nat} {s : State} {u : Task}

/-- What one lane leaves. -/
def State.amoStep (s : State) (u : Task) (n : Nat) (x : Xlate) (new : Nat) : State :=
  (s.atomicStamped u x n).atomicLanded x (bytesOf n new)

theorem amoLanes_cons {j : Nat} {rest : List (LaneAcc × Xlate)} (h : ∀ y ∈ u.nt, y.meets (x j).pa n = false) {old : Nat}
    (hold : s.readNat (x j).pa n = old) {more : State × Task × List (Nat × Nat)}
    (hmore : amoLanes n op d rest (s.amoStep u n (x j) (op old (laneAt (8 * n) d j)).1)
      (u.flag (op old (laneAt (8 * n) d j)).2) = more) :
    amoLanes n op d ((⟨j, va j, n⟩, x j) :: rest) s u = (more.1, more.2.1, (j, old) :: more.2.2) := by
  subst hmore hold
  simp only [amoLanes, State.applyAtomic_of_apart h, State.amoStep]

theorem State.amoStep_mem (s : State) (u : Task) (n : Nat) (x : Xlate) (new : Nat) :
    (s.amoStep u n x new).mem = Memory.write s.mem x.pa (bytesOf n new) := by
  obtain ⟨l, hl⟩ := s.stampsOnly_atomicStamped u x n
  rw [State.amoStep, State.atomicLanded_mem, hl]

/-- The place of a lane as an access. -/
def amoLane (n : Nat) (va : Nat → Nat) (x : Nat → Xlate) (j : Nat) : LaneAcc × Xlate := (⟨j, va j, n⟩, x j)

/-- Memory, old values and flags after the lanes: each sees what the lanes before it wrote. -/
theorem amoLanes_values (hop : ∀ a b, a < 2 ^ (8 * n) → b < 2 ^ (8 * n) → op' a b = op a b)
    (hm : Memory.wf s.mem = true) (hnt : ∀ j ∈ js, ∀ y ∈ u.nt, y.meets (x j).pa n = false) (hnd : js.Nodup)
    {acc : (Nat → Byte) × (Nat → Nat) × Nat} (hg : ∀ a, Memory.get s.mem a = acc.1 a) :
    (∀ a, Memory.get (amoLanes n op' d (js.map (amoLane n va x)) s u).1.mem a =
      (js.foldl (amoTurn n op x (laneAt (8 * n) d)) acc).1 a) ∧
    (amoLanes n op' d (js.map (amoLane n va x)) s u).2.2 =
      js.map (fun j => (j, (js.foldl (amoTurn n op x (laneAt (8 * n) d)) acc).2.1 j)) ∧
    ∃ fl, (js.foldl (amoTurn n op x (laneAt (8 * n) d)) acc).2.2 = acc.2.2 ||| fl ∧
      (amoLanes n op' d (js.map (amoLane n va x)) s u).2.1 = u.flag fl := by
  induction js generalizing s u acc with
  | nil => exact ⟨hg, rfl, 0, (Nat.or_zero _).symm, (Task.flag_zero u).symm⟩
  | cons j js ih =>
    obtain ⟨hj, hnd⟩ := List.nodup_cons.mp hnd
    obtain ⟨hntj, hntrest⟩ := List.forall_mem_cons.mp hnt
    let old := leNat ((List.range n).map fun i => acc.1 ((x j).pa + i))
    have hold : s.readNat (x j).pa n = old := by
      simp only [old, State.readNat, State.readPa, Memory.read, hg]
    have hlt : old < 2 ^ (8 * n) := by
      have h := leNat_lt ((List.range n).map fun i => acc.1 ((x j).pa + i))
      rwa [List.length_map, List.length_range] at h
    have heq := hop old (laneAt (8 * n) d j) hlt (Nat.mod_lt _ (Nat.two_pow_pos _))
    obtain ⟨hmem, holds, fl, hfl, htask⟩ := ih (acc := amoTurn n op x (laneAt (8 * n) d) acc j)
      (s := s.amoStep u n (x j) (op' old (laneAt (8 * n) d j)).1) (u := u.flag (op' old (laneAt (8 * n) d j)).2)
      (by rw [State.amoStep_mem]; exact Memory.wf_write _ _ _ hm) hntrest hnd (fun a => by
        rw [State.amoStep_mem, Memory.get_write _ _ hm, length_bytesOf, heq, hg]
        dsimp only [amoTurn]
        split
        · next h => rw [getD_bytesOf (by omega)]
        · rfl)
    have hcons := amoLanes_cons (va := va) hntj hold (op := op') (d := d) (rest := js.map (amoLane n va x)) rfl
    rw [List.map_cons, amoLane, hcons, List.foldl_cons]
    refine ⟨hmem, ?_, (op' old (laneAt (8 * n) d j)).2 ||| fl, ?_, ?_⟩
    · rw [List.map_cons, amoTurn_old_of_notMem hj, holds]
      exact congrArg (· :: _) (congrArg (Prod.mk j) (if_pos rfl).symm)
    · rw [hfl, heq, ← Nat.or_assoc]
      rfl
    · rw [htask, Task.flag_flag]

theorem State.amoStep_stamps {s' sT : State} {t : Task} {x : Xlate} (hrs : u.rs = t.rs) (hgen : u.gen = t.gen)
    (hslot : u.slot = t.slot) (hst : s.stamps = sT.stamps) (hp : s.places = sT.places)
    (htouch : sT.touchPlace t x n = some s') (new : Nat) :
    (s.amoStep u n x new).stamps = s'.stamps ∧ (s.amoStep u n x new).places = s'.places := by
  obtain ⟨s1, h1, hs1⟩ := Option.map_eq_some_iff.mp
    ((State.touchPlace_stamps hrs hgen hslot hst hp x n).trans (congrArg (Option.map State.stamps) htouch))
  have hstamped := State.atomicStamped_of_touch h1
  obtain ⟨l, hl⟩ := State.stampsOnly_touchPlace h1
  obtain ⟨l', hl'⟩ := State.stampsOnly_touchPlace htouch
  obtain ⟨s2, tiles, ⟨_, _, _, _, _, _, hs2⟩, hland⟩ := s1.atomicLanded_eq x (bytesOf n new)
  rw [State.amoStep, hstamped]
  refine ⟨?_, ?_⟩
  · rw [hland, hs2]
    exact hs1
  · have htiles := s1.atomicLanded_tiles x (bytesOf n new)
    have hplaces : s1.places = s'.places := by rw [State.places, State.places, hl, hl']; exact hp
    rw [← hplaces, State.places, htiles]
    split
    · exact s1.places_staleTiles x.pa _
    · rfl

theorem amoLanes_stamps {sT sT' : State} {t : Task} (hnt : ∀ j ∈ js, ∀ y ∈ u.nt, y.meets (x j).pa n = false)
    (hrs : u.rs = t.rs) (hgen : u.gen = t.gen) (hslot : u.slot = t.slot) (hst : s.stamps = sT.stamps)
    (hp : s.places = sT.places) (htouch : js.foldlM (fun s j => s.touchPlace t (x j) n) sT = some sT') :
    (amoLanes n op d (js.map (amoLane n va x)) s u).1.stamps = sT'.stamps := by
  induction js generalizing s u sT with
  | nil => cases htouch; exact hst
  | cons j js ih =>
    obtain ⟨hntj, hntrest⟩ := List.forall_mem_cons.mp hnt
    rw [List.foldlM_cons] at htouch
    obtain ⟨s1, h1, hrest⟩ := Option.bind_eq_some_iff.mp htouch
    obtain ⟨hst1, hp1⟩ := State.amoStep_stamps hrs hgen hslot hst hp h1 (op (s.readNat (x j).pa n) (laneAt (8 * n) d j)).1
    rw [List.map_cons, amoLane, amoLanes_cons hntj rfl rfl]
    exact ih hntrest hrs hgen hslot hst1 hp1 hrest

/-- The tiles that a lane on SRAM meets turn STALE. -/
def State.stalePlace (n : Nat) (s : State) (x : Xlate) : State := if x.typ = .sram then s.staleTiles x.pa n else s

theorem State.stalePlace_tiles {s s' : State} (h : s.tiles = s'.tiles) (x : Xlate) :
    (s.stalePlace n x).tiles = (s'.stalePlace n x).tiles := by
  unfold State.stalePlace
  split
  · simp only [State.staleTiles, h]
  · exact h

theorem foldl_stalePlace_tiles {s s' : State} (h : s.tiles = s'.tiles) :
    (js.foldl (fun s j => s.stalePlace n (x j)) s).tiles = (js.foldl (fun s j => s.stalePlace n (x j)) s').tiles := by
  induction js generalizing s s' with
  | nil => exact h
  | cons j js ih => exact ih (State.stalePlace_tiles h (x j))

theorem State.amoStep_frame (s : State) (u : Task) (n : Nat) (x : Xlate) (new : Nat) :
    (s.amoStep u n x new).tiles = (s.stalePlace n x).tiles ∧ (s.amoStep u n x new).cores = s.cores ∧
      (s.amoStep u n x new).wmem = s.wmem ∧ (s.amoStep u n x new).flash = s.flash ∧ (s.amoStep u n x new).jobs = s.jobs := by
  obtain ⟨l, hl⟩ := s.stampsOnly_atomicStamped u x n
  obtain ⟨s1, tiles, ⟨_, _, _, _, _, _, hs1⟩, hland⟩ := (s.atomicStamped u x n).atomicLanded_eq x (bytesOf n new)
  refine ⟨?_, ?_⟩
  · rw [State.amoStep, State.atomicLanded_tiles, length_bytesOf, hl, State.stalePlace]
    split <;> rfl
  · rw [State.amoStep, hland, hs1, hl]
    exact ⟨rfl, rfl, rfl, rfl⟩

theorem amoLanes_frame (hnt : ∀ j ∈ js, ∀ y ∈ u.nt, y.meets (x j).pa n = false) :
    (amoLanes n op d (js.map (amoLane n va x)) s u).1.tiles = (js.foldl (fun s j => s.stalePlace n (x j)) s).tiles ∧
      (amoLanes n op d (js.map (amoLane n va x)) s u).1.cores = s.cores ∧
      (amoLanes n op d (js.map (amoLane n va x)) s u).1.wmem = s.wmem ∧
      (amoLanes n op d (js.map (amoLane n va x)) s u).1.flash = s.flash ∧
      (amoLanes n op d (js.map (amoLane n va x)) s u).1.jobs = s.jobs := by
  induction js generalizing s u with
  | nil => exact ⟨rfl, rfl, rfl, rfl, rfl⟩
  | cons j js ih =>
    obtain ⟨hntj, hntrest⟩ := List.forall_mem_cons.mp hnt
    obtain ⟨htiles, hcores, hwmem, hflash, hjobs⟩ :=
      s.amoStep_frame u n (x j) (op (s.readNat (x j).pa n) (laneAt (8 * n) d j)).1
    obtain ⟨htiles', hcores', hwmem', hflash', hjobs'⟩ := ih (s := s.amoStep u n (x j) (op (s.readNat (x j).pa n)
      (laneAt (8 * n) d j)).1) (u := u.flag (op (s.readNat (x j).pa n) (laneAt (8 * n) d j)).2) hntrest
    rw [List.map_cons, amoLane, amoLanes_cons hntj rfl rfl]
    exact ⟨htiles'.trans (foldl_stalePlace_tiles htiles), hcores'.trans hcores, hwmem'.trans hwmem, hflash'.trans hflash,
      hjobs'.trans hjobs⟩

end

/-! ### VAMO (R151, R152) -/

/-- Where a lane of a VAMO lies (R145). -/
def Task.amoAddr (t : Task) (f : VF) (j : Nat) : Word64 :=
  t.getX f.vc + (f.lit.getD 0).signExtend 64 + (entryLane (t.head f.va).data 32 j).signExtend 64

theorem amoTurn_old_lt {n : Nat} {op : Nat → Nat → Nat × Nat} {x : Nat → Xlate} {b : Nat → Nat} {js : List Nat}
    {acc : (Nat → Byte) × (Nat → Nat) × Nat} (h : ∀ k, acc.2.1 k < 2 ^ (8 * n)) (k : Nat) :
    (js.foldl (amoTurn n op x b) acc).2.1 k < 2 ^ (8 * n) := by
  induction js generalizing acc with
  | nil => exact h k
  | cons j js ih =>
    refine ih fun k => ?_
    have hlt := leNat_lt ((List.range n).map fun i => acc.1 ((x j).pa + i))
    rw [List.length_map, List.length_range] at hlt
    dsimp only [amoTurn]
    split
    · exact hlt
    · exact h k

section
variable {t : Task} {f : VF}

/-- The old values of lanes below 128, as the lanes of an entry: 0 in every other lane. -/
theorem sum_olds {w n m : Nat} (hm : m ≤ n) (live : Nat → Bool) {old : Nat → Nat} (hold : ∀ j, old j < 2 ^ w) :
    ((((List.range m).filter live).map fun j => (j, old j)).map fun v => v.2 * 2 ^ (w * v.1)).foldl (· + ·) 0 =
      packLanes w ((List.range n).map fun j => if live j && decide (j < m) then old j else 0) := by
  have hsum := sum_lanes (w := w) (n := n) (on := fun j => live j && decide (j < m)) (v := old) 0 fun j _ _ => hold j
  simp only [ite_self, packLanes_zeros, filter_range_lt hm] at hsum
  rw [List.map_map, ← hsum]
  rfl

/-- The task after a VAMO: sources popped, flags set, the old values pushed when asked. -/
theorem Task.amoDone_of_pops {srcs : Srcs} (p : Task) (fl : Nat) (olds : List (Nat × Nat))
    (hp : p = { t.advance (if f.lit.isSome then 5 else 3) with
      v := (t.advance (if f.lit.isSome then 5 else 3)).queuesAfter srcs [] }) {n : Nat}
    (hn : (olds.map fun v => v.2 * 2 ^ (etWidth f.et * v.1)).foldl (· + ·) 0 = n) :
    (p.flag fl).amoDone f olds = t.vDone f srcs (if f.u then [(f.vd, mkEntry (etFmt f.et) n)] else [])
      { t.sys with acflags := t.sys.acflags ||| BitVec.ofNat 64 fl } := by
  have hqueues (l : List (VReg × Entry)) := Task.advance_queuesAfter t (if f.lit.isSome then 5 else 3) srcs l
  have hsys := Task.advance_sys t (if f.lit.isSome then 5 else 3)
  rw [Task.vDone, ← hqueues, ← hsys, Task.amoDone, hn]
  generalize mkEntry (etFmt f.et) n = e
  generalize t.advance (if f.lit.isSome then 5 else 3) = u at hp ⊢
  subst hp
  split
  · have hpush := Task.pushAll_popAll u (Task.flag { u with v := u.queuesAfter srcs [] } fl) srcs [(f.vd, e)] rfl
    change Task.pushAll _ [(f.vd, e)] = _
    rw [hpush, Task.flag]
  · rw [Task.flag]

theorem amoAccs_eq (js : List Nat) (x : Nat → Xlate) (k : Nat)
    (hjs : (List.range 128).filter (fun j => (t.getK f.k).getLsbD j) = js) :
    amoAccs f (t.advance k) = (js.map (amoLane (accSize f.et) (fun j => (t.amoAddr f j).toNat) x)).map Prod.fst := by
  have hact : (List.range 128).filter (activeAt (t.getK f.k)) = js :=
    (List.filter_congr fun j hj => activeAt_lt ((List.mem_range.mp hj).trans (by decide))).trans hjs
  rw [amoAccs, vBase, Task.advance_getK, Task.advance_getX, Task.advance_headBits, indexedAccs, hact, List.map_map]
  refine List.map_congr_left fun j _ => ?_
  rw [← toNat_entryLane, ← toNat_add_signExtend]
  rfl

end

theorem float_fp32 : etIsFloat 8 = true ∧ etFF 8 = ff32 := ⟨rfl, rfl⟩

theorem etIsFloat_of_int {et : BitVec 4} (h : et = 0 ∨ et = 1 ∨ et = 2) :
    etIsFloat et = false ∧ et ≠ 8 ∧ 0 < etWidth et := by
  rcases h with rfl | rfl | rfl <;> decide

section
variable {et : BitVec 4} {a b : Nat} (h : et = 0 ∨ et = 1 ∨ et = 2 ∨ et = 8) (ha : a < 2 ^ etWidth et)
  (hb : b < 2 ^ etWidth et)
include h ha hb

theorem amoOp_min : amoOp .min et a b = if et = 8 then fpMin ff32 a b else
    (if (BitVec.ofNat (etWidth et) a).toInt ≤ (BitVec.ofNat (etWidth et) b).toInt then a else b, 0) := by
  rw [← or_assoc, ← or_assoc, or_assoc (a := et = 0)] at h
  rcases h with h | rfl
  · obtain ⟨hint, h8, hpos⟩ := etIsFloat_of_int h
    simp only [amoOp, hint, Bool.false_eq_true, if_false, sminNat_eq hpos ha hb, noFlags, if_neg h8]
  · simp only [amoOp, float_fp32, if_true]

theorem amoOp_max : amoOp .max et a b = if et = 8 then fpMax ff32 a b else
    (if (BitVec.ofNat (etWidth et) b).toInt ≤ (BitVec.ofNat (etWidth et) a).toInt then a else b, 0) := by
  rw [← or_assoc, ← or_assoc, or_assoc (a := et = 0)] at h
  rcases h with h | rfl
  · obtain ⟨hint, h8, hpos⟩ := etIsFloat_of_int h
    simp only [amoOp, hint, Bool.false_eq_true, if_false, smaxNat_eq hpos ha hb, noFlags, if_neg h8]
  · simp only [amoOp, float_fp32, if_true]

end

section
variable {s s1 : State} {t : Task} {f : VF} {x : Nat → Xlate} {js : List Nat}

/-- The task of a VAMO that has popped its sources. -/
def Task.amoPopped (t : Task) (f : VF) : Task :=
  { t.advance (if f.lit.isSome then 5 else 3) with
    v := (t.advance (if f.lit.isSome then 5 else 3)).queuesAfter [(f.va, f.qa), (f.vb, f.qb)] [] }

/-- What the lanes of a VAMO leave. -/
def State.amoRun (s : State) (t : Task) (o : VAmoOp) (f : VF) (x : Nat → Xlate) (js : List Nat) :
    State × Task × List (Nat × Nat) :=
  amoLanes (accSize f.et) (amoOp o f.et) (t.headBits f.vb)
    (js.map (amoLane (accSize f.et) (fun j => (t.amoAddr f j).toNat) x)) s (t.amoPopped f)

variable (hr : s.VReady f t [(f.va, f.qa), (f.vb, f.qb)] (if f.u then [f.vd] else []))
  (hjs : (List.range 128).filter (fun j => (t.getK f.k).getLsbD j) = js)
include hr hjs

/-- A VAMO whose lanes pass their checks performs them all (R152). -/
theorem exec_vamo_ok (o : VAmoOp) (hc : t.rs.rc.commit = false)
    (hlanes : ∀ j ∈ js, s.LaneAtomic s.cur t (t.amoAddr f j).toNat (accSize f.et) (x j))
    (hpoison : ∀ j ∈ js, s.atomicPoison t (x j) (t.amoAddr f j).toNat (accSize f.et) = .ok ())
    (htouch : js.foldlM (fun s j => s.touchPlace t (x j) (accSize f.et)) s = some s1) : exec (.vamo o f) s =
      .next ((s.amoRun t o f x js).1.setTask s.cur ((s.amoRun t o f x js).2.1.amoDone f (s.amoRun t o f x js).2.2)) := by
  obtain ⟨hx, hs, h1, h2⟩ := hr
  have htake : amoSources f (t.advance (if f.lit.isSome then 5 else 3)) = .ok (t.amoPopped f) :=
    Task.takeSources_ok (by simpa using h1) (by simpa using h2)
  have hprobe : probeAmo s.cur (t.advance (if f.lit.isSome then 5 else 3)) (accSize f.et)
      (amoAccs f (t.advance (if f.lit.isSome then 5 else 3))) s =
        .ok (js.map (amoLane (accSize f.et) (fun j => (t.amoAddr f j).toNat) x)) := by
    rw [amoAccs_eq js x _ hjs]
    refine probeAmo_ok (s' := s1) (by rwa [Task.advance_rs]) (fun e he => ?_) ?_
    · obtain ⟨j, hj, rfl⟩ := List.mem_map.mp he
      obtain ⟨ha, hxl, hrange, hfree⟩ := hlanes j hj
      exact ⟨ha, by rwa [Task.advance_rs], by simpa [amoLane] using hrange, by rwa [State.blocked_advance]⟩
    · rw [List.foldlM_map]
      simpa [State.touchPlace, amoLane] using htouch
  have hclean : poisonLanes (accSize f.et) s (t.advance (if f.lit.isSome then 5 else 3))
      (js.map (amoLane (accSize f.et) (fun j => (t.amoAddr f j).toNat) x)) = .ok () := by
    refine poisonLanes_ok fun e he => ?_
    obtain ⟨j, hj, rfl⟩ := List.mem_map.mp he
    have h := hpoison j hj
    rw [State.atomicPoison, ← State.viewOf_advance] at h
    exact h
  rw [exec_vamo, execVamo]
  refine vWord_run hx.1 hx.2 (State.laneStop_of_sound hs _) (State.pairStop_of_noFault hs.1 t _) ?_
  dsimp only
  rw [htake]
  simp only [bind, Except.bind, hprobe, hclean, Task.advance_headBits]
  rfl

/-- Under COMMIT the first active lane raises ATOMIC (R301). -/
theorem exec_vamo_commit (o : VAmoOp) (hc : t.rs.rc.commit = true) {j : Nat} {y : Xlate} (hj : js.head? = some j)
    (ha : (t.amoAddr f j).toNat % accSize f.et = 0)
    (hxl : s.translate s.cur t.rs.rc.job (t.amoAddr f j).toNat .atomic = .ok y) (hmmio : y.typ ≠ .mmio)
    (hwap : y.typ ≠ .wap) : exec (.vamo o f) s =
      .next (s.takeTrap s.cur t ⟨0, 2, 14, t.amoAddr f j, j⟩ 1 t.pc (s.textAt s.cur t t.pc) 0 0) := by
  obtain ⟨hx, hs, h1, h2⟩ := hr
  obtain ⟨rest, rfl⟩ := List.head?_eq_some_iff.mp hj
  have htake : amoSources f (t.advance (if f.lit.isSome then 5 else 3)) = .ok (t.amoPopped f) :=
    Task.takeSources_ok (by simpa using h1) (by simpa using h2)
  have hlane : s.probeAtomic s.cur (t.advance (if f.lit.isSome then 5 else 3)) (t.amoAddr f j).toNat (accSize f.et) =
      raise 2 14 (t.amoAddr f j).toNat := by
    simp [State.probeAtomic, ha, hxl, bind, Except.bind, hmmio, hwap, hc]
  have hprobe : probeAmo s.cur (t.advance (if f.lit.isSome then 5 else 3)) (accSize f.et)
      (amoAccs f (t.advance (if f.lit.isSome then 5 else 3))) s = .error (.trap ⟨0, 2, 14, t.amoAddr f j, j⟩) := by
    have hat : atLane j (s.probeAtomic s.cur (t.advance (if f.lit.isSome then 5 else 3)) (t.amoAddr f j).toNat
        (accSize f.et)) = .error (.trap ⟨0, 2, 14, t.amoAddr f j, j⟩) := by
      rw [hlane, raise, BitVec.ofNat_toNat, BitVec.setWidth_eq]
      rfl
    rw [amoAccs_eq (j :: rest) (fun _ => y) _ hjs, List.map_cons, List.map_cons, probeAmo]
    simp only [amoLane, hat, bind, Except.bind]
  rw [exec_vamo, execVamo]
  rw [vWord_stop hx.1 hx.2 (State.laneStop_of_sound hs _) (State.pairStop_of_noFault hs.1 t _)
      (x := .trap ⟨0, 2, 14, t.amoAddr f j, j⟩) ?_,
    State.stopAt_trap (State.pairStop_of_noFault hs.1 t _)]
  dsimp only
  rw [htake]
  simp only [bind, Except.bind, hprobe]

end

theorem accSize_of_atomic {et : BitVec 4} (h : et = 0 ∨ et = 1 ∨ et = 2 ∨ et = 8) :
    accSize et = etWidth et / 8 ∧ 8 * accSize et = etWidth et ∧ 128 ≤ 4096 / etWidth et := by
  rcases h with rfl | rfl | rfl | rfl <;> decide

/-- Settles O40: the lanes of a VAMO pass their checks (`probeAmo_ok`) and are performed in ascending order
(`amoLanes_values`, `amoLanes_stamps`, `amoLanes_frame`). -/
theorem vectorAtomicsComplete : Obligations.VectorAtomicsComplete := by
  unfold Obligations.VectorAtomicsComplete
  intro s t f o x hm het w n srcs live addr op turn done touch stale hr
  obtain ⟨hacc, hbits, hwide⟩ := accSize_of_atomic het
  refine ⟨fun hc j hj ha hxl hmmio hwap => exec_vamo_commit hr rfl o hc hj (by rw [hacc]; exact ha) hxl hmmio hwap,
    fun hc _ s1 htouch hl => ?_⟩
  have hop (a b : Nat) (ha : a < 2 ^ (8 * accSize f.et)) (hb : b < 2 ^ (8 * accSize f.et)) :
      amoOp o f.et a b = op a b := by
    rw [hbits] at ha hb
    cases o with
    | add | or | and | xor => rfl
    | min => simpa [op, w] using amoOp_min het ha hb
    | max => simpa [op, w] using amoOp_max het ha hb
  have hlanes (j : Nat) (hj : j ∈ live) : s.LaneAtomic s.cur t (t.amoAddr f j).toNat (accSize f.et) (x j) := by
    obtain ⟨ha, hxl, hrange, hfree, -⟩ := hl j hj
    rw [hacc]
    exact ⟨ha, hxl, hrange.imp_left And.left, hfree⟩
  have hpoison (j : Nat) (hj : j ∈ live) : s.atomicPoison t (x j) (t.amoAddr f j).toNat (accSize f.et) = .ok () := by
    obtain ⟨-, -, hrange, -, -, hclean⟩ := hl j hj
    refine State.atomicPoison_ok (fun htyp => ?_) (hacc ▸ hclean)
    rw [hacc]
    refine hrange.elim And.right fun h => ?_
    rcases h.1 with h | h <;> rw [htyp] at h <;> cases h
  have hnt (j : Nat) (hj : j ∈ live) : ∀ y ∈ (t.amoPopped f).nt, y.meets (x j).pa (accSize f.et) = false := by
    obtain ⟨-, -, -, -, hapart, -⟩ := hl j hj
    rw [hacc, Task.amoPopped]
    simpa using hapart
  have htouch' : live.foldlM (fun s j => s.touchPlace t (x j) (accSize f.et)) s = some s1 := by
    rw [hacc]
    exact htouch
  have hturn : turn = amoTurn (accSize f.et) op x (laneAt (8 * accSize f.et) (t.headBits f.vb)) := by
    funext acc j
    rw [hbits, hacc, ← funext (toNat_entryLane t f.vb w)]
    rfl
  have hexec := exec_vamo_ok hr rfl o hc hlanes hpoison htouch'
  obtain ⟨hmem, holds, fl, hfl, htask⟩ := amoLanes_values (va := fun j => (t.amoAddr f j).toNat) (d := t.headBits f.vb)
    (x := x) hop hm hnt (List.nodup_range.filter _) (acc := (Memory.get s.mem, fun _ => 0, 0)) fun _ => rfl
  have hstamps := amoLanes_stamps (op := amoOp o f.et) (d := t.headBits f.vb) (va := fun j => (t.amoAddr f j).toNat) (t := t)
    hnt (by simp [Task.amoPopped]) (by simp [Task.amoPopped]) (by simp [Task.amoPopped]) rfl rfl htouch'
  have hframe := amoLanes_frame (s := s) (op := amoOp o f.et) (d := t.headBits f.vb) (va := fun j => (t.amoAddr f j).toNat) hnt
  rw [← hturn] at hmem holds hfl
  have hentry := sum_olds (w := w) hwide (fun j => (t.getK f.k).getLsbD j) (old := done.2.1) fun j => by
    have hlt := amoTurn_old_lt (n := accSize f.et) (op := op) (x := x) (b := laneAt (8 * accSize f.et) (t.headBits f.vb))
      (js := live) (acc := (Memory.get s.mem, fun _ => 0, 0)) (fun _ => Nat.two_pow_pos _) j
    rwa [← hturn, hbits] at hlt
  refine ⟨(s.amoRun t o f x live).1, BitVec.ofNat 4096 (packLanes w ((List.range (4096 / w)).map fun j =>
    if (t.getK f.k).getLsbD j && decide (j < 128) then done.2.1 j else 0)), ?_, hmem, fun j hj => ?_, hstamps, ?_⟩
  · rw [mkEntry_ofNat, hexec, ← hentry]
    rw [Nat.zero_or] at hfl
    have holds' : (s.amoRun t o f x live).2.2 = live.map fun j => (j, done.2.1 j) := holds
    have htask' : (s.amoRun t o f x live).2.1 = (t.amoPopped f).flag done.2.2 := by
      rw [show done.2.2 = fl from hfl]
      exact htask
    rw [holds', htask', Task.amoDone_of_pops (t.amoPopped f) done.2.2 _ rfl rfl]
  · have hfit : w * (j + 1) ≤ 4096 := (Nat.mul_le_mul_left _ hj).trans (Nat.mul_div_le ..)
    rw [entryLane_ofNat_packLanes _ _ _ (by simpa using hj) hfit, List.getElem_map, List.getElem_range,
      apply_ite (BitVec.ofNat w)]
    refine if_congr ?_ rfl rfl
    rw [List.contains_iff_mem, List.mem_filter, List.mem_range, Bool.and_eq_true, decide_eq_true_eq, and_comm]
  · have hstale : (fun s j => State.stalePlace (accSize f.et) s (x j)) = stale := by
      rw [hacc]
      rfl
    rw [hstale] at hframe
    exact hframe

end Machine

end Sys2Proof

namespace Sys2Proof

namespace Machine

/-! ### Records by their handles (R289) -/

section
variable {s s' : State} {h : Word64} {k : ClusterId} {r : RecSlot}

theorem State.recOf_eq_some : s.recOf h = some (k, r) ↔ ∃ ten sl, splitHandle h = some (k, ten, sl) ∧
    (s.clusters[k.val]).recs.find? (fun r => decide (r.slot = sl) && decide (r.tenure = ten)) = some r := by
  unfold State.recOf
  cases splitHandle h with
  | none => simp
  | some e =>
    obtain ⟨k', ten, sl⟩ := e
    simp only [Option.map_eq_some_iff, Prod.mk.injEq, Option.some.injEq]
    constructor
    · rintro ⟨r', hr', rfl, rfl⟩
      exact ⟨ten, sl, ⟨rfl, rfl, rfl⟩, hr'⟩
    · rintro ⟨ten', sl', ⟨rfl, rfl, rfl⟩, hr'⟩
      exact ⟨r, hr', rfl, rfl⟩

/-- A handle names a record of the same fields wherever the stored records are the same. -/
theorem State.recOf_of_stored (hst : s'.stored k = s.stored k) (hr : s.recOf h = some (k, r)) :
    ∃ r', s'.recOf h = some (k, r') ∧ r'.rc = r.rc := by
  obtain ⟨ten, sl, hh, hfind⟩ := State.recOf_eq_some.mp hr
  have hstored (s : State) : (s.stored k).find? (fun e => decide (e.1 = sl) && decide (e.2.1 = ten)) =
      ((s.clusters[k.val]).recs.find? fun r => decide (r.slot = sl) && decide (r.tenure = ten)).map
        fun x => (x.slot, x.tenure, x.rc) := List.find?_map ..
  have hfound := hstored s'
  rw [hst, hstored, hfind] at hfound
  obtain ⟨r', hr', heq⟩ := Option.map_eq_some_iff.mp hfound.symm
  exact ⟨r', State.recOf_eq_some.mpr ⟨ten, sl, hh, hr'⟩, congrArg (fun e => e.2.2) heq⟩

/-- The record that a handle names, changed. -/
theorem State.recOf_setRec (hr : s.recOf h = some (k, r)) {f : RecSlot → RecSlot} (hslot : ∀ x, (f x).slot = x.slot)
    (hten : ∀ x, (f x).tenure = x.tenure) : (s.setRec k r.slot f).recOf h = some (k, f r) := by
  obtain ⟨ten, sl, hh, hfind⟩ := State.recOf_eq_some.mp hr
  refine State.recOf_eq_some.mpr ⟨ten, sl, hh, ?_⟩
  have hp : (fun x : RecSlot => decide (x.slot = sl) && decide (x.tenure = ten)) ∘
      (fun x => if x.slot = r.slot then f x else x) = fun x => decide (x.slot = sl) && decide (x.tenure = ten) := by
    funext x
    dsimp only [Function.comp]
    split <;> simp [hslot, hten]
  rw [State.setRec, State.clusters_setCluster, if_pos rfl, List.find?_map, hp, hfind]
  exact congrArg some (if_pos rfl)

theorem State.decrement_eq (hr : s.recOf h = some (k, r)) (spawned : Bool) : ∃ f : RecSlot → RecSlot,
    s.decrement h spawned = s.setRec k r.slot f ∧ (∀ x, (f x).slot = x.slot) ∧ (∀ x, (f x).tenure = x.tenure) ∧
      ∀ x, (f x).rc.join = x.rc.join - 1 := by
  unfold State.decrement
  rw [hr]
  exact ⟨_, rfl, fun _ => rfl, fun _ => rfl, fun _ => rfl⟩

theorem State.decrement_none (hr : s.recOf h = none) (spawned : Bool) : s.decrement h spawned = s := by
  unfold State.decrement
  rw [hr]

theorem State.decrement_joins (hr : s.recOf h = some (k, r)) (spawned : Bool) :
    ∃ r', (s.decrement h spawned).recOf h = some (k, r') ∧ r'.rc.join = r.rc.join - 1 := by
  obtain ⟨f, heq, hslot, hten, hjoin⟩ := State.decrement_eq hr spawned
  exact ⟨f r, by rw [heq, State.recOf_setRec hr hslot hten], hjoin r⟩

end

/-! ### What the retirement of a record leaves (R298, R300) -/

/-- Cores, memory and non-temporal stores are as they were. -/
structure State.SameCores (s s' : State) : Prop where
  cores : s'.cores = s.cores
  mem : s'.mem = s.mem
  nt : s'.nt = s.nt

theorem State.SameCores.trans {a b c : State} (h : a.SameCores b) (k : b.SameCores c) : a.SameCores c :=
  ⟨k.cores.trans h.cores, k.mem.trans h.mem, k.nt.trans h.nt⟩

section
variable (s : State)

theorem State.sameCores_setJob (n : Nat) (f : Job → Job) : s.SameCores (s.setJob n f) := ⟨rfl, rfl, rfl⟩

theorem State.readyIn_nt (k : ClusterId) (l : List RecSlot) : (State.readyIn k l s).nt = s.nt := by
  induction l generalizing s with
  | nil => rfl
  | cons r rest ih =>
    rw [State.readyIn, ih]
    split <;> rfl

theorem State.refresh_nt : s.refresh.nt = s.nt := by
  unfold State.refresh
  generalize List.finRange 32 = ks
  induction ks generalizing s with
  | nil => rfl
  | cons k ks ih => rw [List.foldl_cons, ih, State.readyIn_nt]

theorem State.sameCores_refresh : s.SameCores s.refresh :=
  ⟨s.refresh_keeps.1.cores, s.refresh_keeps.1.mem, s.refresh_nt⟩

theorem State.sameCores_decrement (h : Word64) (spawned : Bool) :
    s.SameCores (s.decrement h spawned) ∧ (s.decrement h spawned).jobs = s.jobs := by
  cases hr : s.recOf h with
  | none => rw [State.decrement_none hr]; exact ⟨⟨rfl, rfl, rfl⟩, rfl⟩
  | some e =>
    obtain ⟨f, heq, -⟩ := State.decrement_eq (k := e.1) (r := e.2) hr spawned
    rw [heq]
    exact ⟨⟨rfl, rfl, rfl⟩, rfl⟩

/-- The records of a launch's first tasks no longer wait for one of them. -/
def State.dropDeps (s : State) (r : Rec) : State :=
  if r.origin = 0 then
    { s with clusters := s.clusters.map fun k => { k with recs := k.recs.map fun x =>
      if x.rc.job = r.job ∧ x.rc.launch = r.launch ∧ x.rc.origin = 0 then
        { x with deps := x.deps.filter fun d => decide (d ≠ r.index.toNat) } else x } }
  else s

theorem State.dropDeps_keeps (r : Rec) : s.SameCores (s.dropDeps r) ∧ (s.dropDeps r).jobs = s.jobs ∧
    ∀ k, (s.dropDeps r).stored k = s.stored k := by
  unfold State.dropDeps
  split
  · refine ⟨⟨rfl, rfl, rfl⟩, rfl, fun k => ?_⟩
    simp only [State.stored, Vector.getElem_map, List.map_map]
    refine List.map_congr_left fun x _ => ?_
    dsimp only [Function.comp]
    split <;> rfl
  · exact ⟨⟨rfl, rfl, rfl⟩, rfl, fun _ => rfl⟩

/-- A launch with one task less to come and one more of a status. -/
def Launch.retireOne (status : BitVec 2) (l : Launch) : Launch :=
  { l with pending := l.pending - 1, stats := l.stats.set status.toNat (l.stats[status.toNat] + 1) }

theorem State.launchOf_of_jobs {s s' : State} (h : s'.jobs = s.jobs) (job n : Nat) :
    s'.launchOf job n = s.launchOf job n := by
  rw [State.launchOf, State.launchOf, State.jobOf, State.jobOf, h]

theorem State.launchOf_setLaunch (job n : Nat) {f : Launch → Launch} (hf : ∀ l, (f l).num = l.num) :
    (s.setLaunch job n f).launchOf job n = (s.launchOf job n).map f := by
  rw [State.launchOf, State.launchOf, State.setLaunch, State.jobOf_setJob_same]
  · cases s.jobOf job with
    | none => rfl
    | some j =>
      have hp : (fun l : Launch => decide (l.num = n)) ∘ (fun l => if l.num = n then f l else l) =
          fun l => decide (l.num = n) := by
        funext l
        dsimp only [Function.comp]
        split <;> simp [hf]
      simp only [Option.map_some, Option.bind_some, List.find?_map, hp]
      cases hfind : j.launches.find? fun l => decide (l.num = n) with
      | none => rfl
      | some l =>
        have hnum : decide (l.num = n) = true := List.find?_some (p := fun l : Launch => decide (l.num = n)) hfind
        exact congrArg some (if_pos (of_decide_eq_true hnum))
  · exact fun _ => rfl

/-- What a retirement does of its own: its successor decremented, its dependents released, its launch counting it. -/
def State.counted (s : State) (r : Rec) (status : BitVec 2) : State :=
  ((s.decrement r.succ (decide (r.origin = 1))).dropDeps r).setLaunch r.job r.launch (Launch.retireOne status)

theorem State.counted_keeps (r : Rec) (status : BitVec 2) : s.SameCores (s.counted r status) :=
  ((s.sameCores_decrement ..).1.trans (State.dropDeps_keeps _ r).1).trans (State.sameCores_setJob ..)

theorem State.launchOf_counted {r : Rec} {l : Launch} (hl : s.launchOf r.job r.launch = some l) (status : BitVec 2) :
    (s.counted r status).launchOf r.job r.launch = some (l.retireOne status) := by
  have hjobs : ((s.decrement r.succ (decide (r.origin = 1))).dropDeps r).jobs = s.jobs :=
    (State.dropDeps_keeps _ r).2.1.trans (s.sameCores_decrement ..).2
  rw [State.counted, State.launchOf_setLaunch _ _ _ (f := Launch.retireOne status) fun _ => rfl,
    State.launchOf_of_jobs hjobs, hl]
  rfl

theorem State.recOf_counted {r : Rec} {k : ClusterId} {x : RecSlot} (hr : s.recOf r.succ = some (k, x)) (status : BitVec 2) :
    ∃ x', (s.counted r status).recOf r.succ = some (k, x') ∧ x'.rc.join = x.rc.join - 1 := by
  obtain ⟨x1, h1, hjoin⟩ := State.decrement_joins hr (decide (r.origin = 1))
  obtain ⟨x2, h2, hrc⟩ := State.recOf_of_stored (s' := s.counted r status) ((State.dropDeps_keeps _ r).2.2 k) h1
  exact ⟨x2, h2, by rw [hrc, hjoin]⟩

/-- A record retired of a launch that has others to come: counted, and what may start becomes ready. -/
theorem State.retireRec_eq {r : Rec} {l : Launch} (hl : s.launchOf r.job r.launch = some l) (hp : 1 < l.pending)
    (status : BitVec 2) : s.retireRec r status = (s.counted r status).refresh := by
  have hne : ¬ (l.retireOne status).pending = 0 := Nat.sub_ne_zero_of_lt hp
  change (match (s.counted r status).launchOf r.job r.launch with
    | some l => (if l.pending = 0 then (s.counted r status).launchComplete r.job l else s.counted r status).refresh
    | none => (s.counted r status).refresh) = _
  rw [s.launchOf_counted hl]
  exact congrArg State.refresh (if_neg hne)

end

/-! ### A task that leaves its core (R137, R300) -/

/-- A field of a cluster that an update keeps reads the same of every cluster. -/
theorem State.stored_setCluster (s : State) (k c : ClusterId) {f : Cluster → Cluster} (hf : ∀ x, (f x).recs = x.recs) :
    (s.setCluster k f).stored c = s.stored c := by
  rw [State.stored, State.clusters_setCluster]
  split
  · next h => rw [hf, h, State.stored]
  · rfl

theorem State.freeCore_alone (s : State) (c : CoreId) : ∃ f : Core → Core, s.freeCore c false = s.setCore c f ∧
    ∀ k, (f k).status = .idle ∧ (f k).task = none :=
  ⟨fun k => { k with status := .idle, task := none, left := ((s.core c).task.map Task.leftRegs).getD k.left,
                     vgroup := none }, rfl, fun _ => ⟨rfl, rfl⟩⟩

section
variable {s : State} {c : CoreId} {t : Task} {l : Launch} (hs : t.sessions = []) (hc : t.rs.rc.commit = false)
  (hl : s.launchOf t.rs.rc.job t.rs.rc.launch = some l)

include hs in
theorem State.leave_keeps (status : Nat) : (s.leave c t status).cores = s.cores ∧ (s.leave c t status).mem = s.mem ∧
    (s.leave c t status).nt = s.nt ++ t.nt ∧ (s.leave c t status).jobs = s.jobs ∧
    ∀ k, (s.leave c t status).stored k = s.stored k := by
  rw [State.leave, hs]
  refine ⟨rfl, rfl, rfl, rfl, fun k => ?_⟩
  have hdisown : (s.disownRecords (clusterOf c) t.slot).stored k = s.stored k :=
    State.stored_setCluster s (clusterOf c) k fun _ => rfl
  exact (State.stored_setCluster _ (clusterOf c) k
    (f := fun k => { k with saved := k.saved.filter fun e => decide (e.1 ≠ t.slot) }) fun _ => rfl).trans hdisown

include hs hc hl in
/-- What a retirement does before it counts the task: its registers and stores leave, its gang notes its EXIT. -/
theorem State.retireTask_eq (st : BitVec 2) : ∃ (b : State) (lb : Launch), s.retireTask c t st =
      ((b.retireRec t.rs.rc st).freeCore c t.rs.rc.paired).setCore c (fun k => { k with preempt := false }) ∧
    b.cores = s.cores ∧ b.mem = s.mem ∧ b.nt = s.nt ++ t.nt ∧ (∀ k, b.stored k = s.stored k) ∧
    b.launchOf t.rs.rc.job t.rs.rc.launch = some lb ∧ lb.pending = l.pending ∧ lb.stats = l.stats := by
  obtain ⟨hcores, hmem, hnt, hjobs, hstored⟩ := State.leave_keeps (s := s) (c := c) hs st.toNat
  have hla := (State.launchOf_of_jobs hjobs t.rs.rc.job t.rs.rc.launch).trans hl
  by_cases hexit : (t.exited && t.rs.rc.gang) = true
  · refine ⟨(s.leave c t st.toNat).setLaunch t.rs.rc.job t.rs.rc.launch fun l => { l with exited := l.exited + 1 },
      { l with exited := l.exited + 1 }, ?_, hcores, hmem, hnt, hstored, ?_, rfl, rfl⟩
    · simp only [State.retireTask, hexit, if_true, hc, Bool.false_eq_true, if_false]
    · rw [State.launchOf_setLaunch _ _ _ (f := fun l => { l with exited := l.exited + 1 }) fun _ => rfl, hla]
      rfl
  · refine ⟨s.leave c t st.toNat, l, ?_, hcores, hmem, hnt, hstored, hla, rfl, rfl⟩
    simp only [State.retireTask, hexit, hc, Bool.false_eq_true, if_false]

include hs hc hl in
/-- A task whose launch has others to come leaves its core, counted with its status. -/
theorem State.retireTask_leaves (hp : t.rs.rc.paired = false) (hpend : 1 < l.pending) (st : BitVec 2) :
    ∃ l', ((s.retireTask c t st).core c).status = .idle ∧ (s.retireTask c t st).taskOf c = none ∧
      (s.retireTask c t st).launchOf t.rs.rc.job t.rs.rc.launch = some l' ∧ l'.pending = l.pending - 1 ∧
      l'.stats = l.stats.set st.toNat (l.stats[st.toNat] + 1) ∧ (s.retireTask c t st).nt = s.nt ++ t.nt ∧
      (s.retireTask c t st).mem = s.mem ∧ (∀ j : CoreId, j ≠ c → (s.retireTask c t st).core j = s.core j) ∧
      ∀ k r, s.recOf t.rs.rc.succ = some (k, r) →
        ∃ r', (s.retireTask c t st).recOf t.rs.rc.succ = some (k, r') ∧ r'.rc.join = r.rc.join - 1 := by
  obtain ⟨b, lb, heq, hcores, hmem, hnt, hstored, hlb, hpending, hstats⟩ := State.retireTask_eq (c := c) hs hc hl st
  rw [heq, State.retireRec_eq b hlb (by rwa [hpending]), hp]
  have hkeeps := (b.counted_keeps t.rs.rc st).trans (State.sameCores_refresh _)
  have hlaunch := (State.launchOf_of_jobs (State.refresh_keeps (b.counted t.rs.rc st)).2.1 _ _).trans
    (b.launchOf_counted hlb st)
  have hjoins (k : ClusterId) (r : RecSlot) (hr : s.recOf t.rs.rc.succ = some (k, r)) :
      ∃ r', (b.counted t.rs.rc st).refresh.recOf t.rs.rc.succ = some (k, r') ∧ r'.rc.join = r.rc.join - 1 := by
    obtain ⟨r1, h1, hrc⟩ := State.recOf_of_stored (hstored k) hr
    obtain ⟨r2, h2, hjoin⟩ := b.recOf_counted h1 st
    obtain ⟨r3, h3, hrc3⟩ := State.recOf_of_stored ((State.refresh_keeps (b.counted t.rs.rc st)).2.2 k) h2
    exact ⟨r3, h3, by rw [hrc3, hjoin, hrc]⟩
  generalize (b.counted t.rs.rc st).refresh = x at hkeeps hlaunch hjoins ⊢
  obtain ⟨f, hfree, hidle⟩ := x.freeCore_alone c
  rw [hfree]
  refine ⟨lb.retireOne st, ?_, ?_, hlaunch, ?_, ?_, hkeeps.nt.trans hnt, hkeeps.mem.trans hmem, fun j hj => ?_, hjoins⟩
  · rw [State.core_setCore_same, State.core_setCore_same]
    exact (hidle _).1
  · rw [State.taskOf, State.core_setCore_same, State.core_setCore_same]
    exact (hidle _).2
  · rw [← hpending]; rfl
  · rw [← hstats]; rfl
  · rw [State.core_setCore_other _ _ _ _ hj, State.core_setCore_other _ _ _ _ hj, State.core, State.core, hkeeps.cores,
      hcores]

end

/-! ### Barriers (R125, R305) -/

theorem nodup_filterMap_fst {α β : Type} {g : α → Option (α × β)} (hg : ∀ a e, g a = some e → e.1 = a) {l : List α}
    (hl : l.Nodup) : ((l.filterMap g).map Prod.fst).Nodup := by
  induction l with
  | nil => exact List.nodup_nil
  | cons a l ih =>
    obtain ⟨ha, hl⟩ := List.nodup_cons.mp hl
    cases he : g a with
    | none => rw [List.filterMap_cons_none he]; exact ih hl
    | some e =>
      rw [List.filterMap_cons_some he, List.map_cons, List.nodup_cons, hg a e he]
      refine ⟨fun hmem => ?_, ih hl⟩
      obtain ⟨e', he', hfst⟩ := List.mem_map.mp hmem
      obtain ⟨b, hb, hgb⟩ := List.mem_filterMap.mp he'
      exact ha (hfst ▸ hg b e' hgb ▸ hb)

theorem nodup_gangTasks (s : State) (job launch : Nat) : ((s.gangTasks job launch).map Prod.fst).Nodup := by
  refine nodup_filterMap_fst (fun c e hc => ?_) (List.nodup_finRange 512)
  cases ht : s.taskOf c with
  | none => simp [ht] at hc
  | some t =>
    simp only [ht, Option.ite_none_right_eq_some, Option.some.injEq] at hc
    rw [← hc.2]

section
variable {l : List (CoreId × Task)} (f : CoreId × Task → Task)

theorem State.foldl_setTask_other {c : CoreId} (hc : c ∉ l.map Prod.fst) (s : State) :
    (l.foldl (fun s e => s.setTask e.1 (f e)) s).core c = s.core c := by
  induction l generalizing s with
  | nil => rfl
  | cons a l ih =>
    rw [List.map_cons, List.mem_cons, not_or] at hc
    rw [List.foldl_cons, ih hc.2]
    exact State.core_setCore_other _ _ _ _ hc.1

/-- Tasks put onto distinct cores. -/
theorem State.taskOf_foldl_setTask (hl : (l.map Prod.fst).Nodup) (s : State) {e : CoreId × Task} (he : e ∈ l) :
    (l.foldl (fun s e => s.setTask e.1 (f e)) s).taskOf e.1 = some (f e) := by
  induction l generalizing s with
  | nil => cases he
  | cons a l ih =>
    obtain ⟨ha, hl⟩ := List.nodup_cons.mp hl
    rw [List.foldl_cons]
    rcases List.mem_cons.mp he with rfl | he
    · rw [State.taskOf, State.foldl_setTask_other f ha, State.core_setTask]
    · exact ih hl _ he

theorem State.foldl_setTask_keeps (s : State) : (l.foldl (fun s e => s.setTask e.1 (f e)) s).mem = s.mem ∧
    (l.foldl (fun s e => s.setTask e.1 (f e)) s).jobs = s.jobs := by
  induction l generalizing s with
  | nil => exact ⟨rfl, rfl⟩
  | cons a l ih => exact ih (s.setTask a.1 (f a))

end

/-- A member of a gang as a barrier's release lets it go on (R125, R305). -/
def releasedTask (gen : BitVec 4) (e : CoreId × Task) : Task :=
  if e.2.wait = .bar then { e.2 with wait := .none, passed := e.2.bars, gen := gen } else { e.2 with gen := gen }

/-- A gang released: its tasks go on, its launch counts the barrier. -/
def State.released (s : State) (here : List (CoreId × Task)) (job launch : Nat) (gen : BitVec 4) : State :=
  (here.foldl (fun s e => s.setTask e.1 (releasedTask gen e)) s).setLaunch job launch fun l => { l with bars := l.bars + 1 }

section
variable {s : State} {job launch : Nat} {l : Launch} (hl : s.launchOf job launch = some l)
  (hold : ∀ e ∈ (s.gangTasks job launch).filter (fun e => decide (e.2.wait = .bar)), l.bars < e.2.bars)
include hl hold

theorem execBarrierRelease_eq : execBarrierRelease job launch s =
    if ((s.gangTasks job launch).filter (fun e => decide (e.2.wait = .bar))).isEmpty ||
      decide (((s.gangTasks job launch).filter (fun e => decide (e.2.wait = .bar))).length +
        ((s.gangTasks job launch).filter (fun e => e.2.exited && decide (e.2.wait ≠ .aborted))).length + l.exited < l.count)
    then .next s else (s.advanceGen job).elim (.next s) fun x =>
      .next (x.1.released (s.gangTasks job launch) job launch x.2) := by
  have hnone : ((s.gangTasks job launch).filter (fun e => decide (e.2.wait = .bar))).filter
      (fun e => decide (e.2.bars ≤ l.bars)) = [] :=
    List.filter_eq_nil_iff.mpr fun e he => by simpa using hold e he
  unfold execBarrierRelease
  simp only [hl, hnone, List.isEmpty_nil, Bool.not_true, Bool.false_eq_true, if_false]
  refine if_congr Iff.rfl rfl ?_
  cases s.advanceGen job <;> rfl

theorem execBarrierRelease_waits
    (hfew : ((s.gangTasks job launch).filter (fun e => decide (e.2.wait = .bar))).length +
      ((s.gangTasks job launch).filter (fun e => e.2.exited && decide (e.2.wait ≠ .aborted))).length + l.exited < l.count) :
    execBarrierRelease job launch s = .next s := by
  rw [execBarrierRelease_eq hl hold, if_pos (Bool.or_eq_true_iff.mpr (.inr (decide_eq_true hfew)))]

theorem execBarrierRelease_releases {s1 : State} {gen : BitVec 4}
    (hne : (s.gangTasks job launch).filter (fun e => decide (e.2.wait = .bar)) ≠ [])
    (hall : l.count ≤ ((s.gangTasks job launch).filter (fun e => decide (e.2.wait = .bar))).length +
      ((s.gangTasks job launch).filter (fun e => e.2.exited && decide (e.2.wait ≠ .aborted))).length + l.exited)
    (hadv : s.advanceGen job = some (s1, gen)) :
    execBarrierRelease job launch s = .next (s1.released (s.gangTasks job launch) job launch gen) := by
  rw [execBarrierRelease_eq hl hold, if_neg, hadv]
  · rfl
  · rw [List.isEmpty_eq_false_iff.mpr hne, Bool.false_or, decide_eq_true_eq, not_lt]
    exact hall

end

theorem State.released_keeps (s1 : State) (here : List (CoreId × Task)) (job launch : Nat) (gen : BitVec 4) :
    (s1.released here job launch gen).mem = s1.mem ∧
      (s1.released here job launch gen).launchOf job launch =
        (s1.launchOf job launch).map fun l => { l with bars := l.bars + 1 } := by
  obtain ⟨hmem, hjobs⟩ := State.foldl_setTask_keeps (l := here) (releasedTask gen) s1
  refine ⟨hmem, ?_⟩
  rw [State.released, State.launchOf_setLaunch _ _ _ (f := fun l => { l with bars := l.bars + 1 }) fun _ => rfl,
    State.launchOf_of_jobs hjobs]

/-- Every member of a gang whose barrier is released is the task that goes on. -/
theorem State.taskOf_released (s1 : State) {here : List (CoreId × Task)} (hnodup : (here.map Prod.fst).Nodup)
    (job launch : Nat) (gen : BitVec 4) {e : CoreId × Task} (he : e ∈ here) :
    (s1.released here job launch gen).taskOf e.1 = some (releasedTask gen e) := by
  have hcores : (s1.released here job launch gen).cores =
      (here.foldl (fun s e => s.setTask e.1 (releasedTask gen e)) s1).cores := rfl
  rw [State.taskOf, State.core, hcores]
  exact State.taskOf_foldl_setTask (releasedTask gen) hnodup s1 he

/-- A running task that may retire leaves with a status (R137, R274). -/
theorem execTaskRetire_retires {s : State} {c : CoreId} {t : Task} {st : BitVec 2} (hstatus : (s.core c).status = .running)
    (ht : s.taskOf c = some t) (hp : t.rs.rc.paired = false)
    (hwait : t.wait = .ended st ∧ st ≠ 1 ∨ (s.core c).frozen = false ∧ (s.dies[(dieOf c).val]).frozen = false ∧
      (t.wait = .exiting ∧ t.cmds = [] ∧ s.recordKept (clusterOf c) t.slot = false ∧ st = 0 ∨ t.wait = .ended st)) :
    execTaskRetire c s = .next (s.retireTask c t st) := by
  have hor (pc : Word64) (depth : Nat) (st : BitVec 2) : s.retireOr c t st pc depth = s.retireTask c t st := by
    simp [State.retireOr, State.pairStop, hp]
  unfold execTaskRetire
  simp only [hstatus, ht]
  rcases hwait with ⟨hended, hne⟩ | ⟨hcore, hdie, ⟨hexit, hcmds, hkept, rfl⟩ | hended⟩
  · simp [hended, show st ≠ 1#2 from hne, hor]
  · simp [hexit, hcore, State.stopped, hdie, hcmds, hkept, hor]
  · simp [hended, hcore, State.stopped, hdie, hor]

/-! ### Generations (R305) -/

section
variable {s : State} {job : Nat} {gen : BitVec 4}

theorem genHeld_of_task {c : CoreId} {t : Task} (ht : s.taskOf c = some t) (hjob : t.rs.rc.job = job) (hgen : t.gen = gen) :
    s.genHeld job gen = true := by
  unfold State.genHeld
  exact Bool.or_eq_true_iff.mpr (.inl (Bool.or_eq_true_iff.mpr (.inl
    (List.any_eq_true.mpr ⟨c, List.mem_finRange c, by simp [ht, hjob, hgen]⟩))))

theorem genHeld_of_parked {k : ClusterId} {p : Parked} (hp : p ∈ (s.clusters[k.val]).parked)
    (hjob : p.task.rs.rc.job = job) (hgen : p.task.gen = gen) : s.genHeld job gen = true := by
  have hany : (s.clusters.toList.any fun k => k.parked.any fun p =>
      decide (p.task.rs.rc.job = job) && decide (p.task.gen = gen)) = true :=
    List.any_eq_true.mpr ⟨s.clusters[k.val], by simp, List.any_eq_true.mpr ⟨p, hp, by simp [hjob, hgen]⟩⟩
  unfold State.genHeld
  exact Bool.or_eq_true_iff.mpr (.inl (Bool.or_eq_true_iff.mpr (.inr hany)))

theorem execGenerationSweep_held (hheld : s.genHeld job gen = true) : execGenerationSweep job gen s = .next s :=
  if_pos hheld

/-- The sweep of a generation that nothing holds, where no advance waits for it. -/
theorem execGenerationSweep_sweeps (hheld : s.genHeld job gen = false)
    (hwait : ∀ j, s.jobOf job = some j → j.made < j.asked → gen ≠ j.gen + 1) :
    execGenerationSweep job gen s = .next (s.sweep job gen) := by
  have hnone : ((s.jobOf job).any fun j => decide (j.made < j.asked) && decide (gen = j.gen + 1)) = false := by
    cases hj : s.jobOf job with
    | none => rfl
    | some j => simpa using hwait j hj
  rw [execGenerationSweep, if_neg (Bool.eq_false_iff.mp hheld), if_neg (Bool.eq_false_iff.mp hnone)]

/-- The sweep of a generation that nothing holds and an advance waits for makes the advance. -/
theorem execGenerationSweep_advances {j : Job} (hheld : s.genHeld job gen = false) (hj : s.jobOf job = some j)
    (hasked : j.made < j.asked) (hgen : gen = j.gen + 1) : execGenerationSweep job gen s =
      .next ((s.setJob job fun j => { j with gen := j.gen + 1, made := j.made + 1 }).sweep job gen) := by
  subst hgen
  rw [execGenerationSweep, if_neg (Bool.eq_false_iff.mp hheld), if_pos (by simp [hj, hasked]), State.makeGen, hj]
  simp only [hheld, Bool.false_eq_true, if_false, Option.getD_some]

end

/-- Settles O52: a retirement counts its task (`State.retireTask_leaves`), a release lets a gang go on in the generation that it
takes (`execBarrierRelease_eq`), and a sweep makes the advance that waited (`execGenerationSweep_advances`). -/
theorem retirementBarriersAndSweeps : Obligations.RetirementBarriersAndSweeps := by
  unfold Obligations.RetirementBarriersAndSweeps
  intro s
  refine ⟨?_, ?_, fun job gen => ⟨fun h => execGenerationSweep_held h, fun h => ?_⟩, fun job j hj hasked hheld => ?_,
    fun job gen => ⟨fun c t ht hjob hgen => genHeld_of_task ht hjob hgen,
      fun k p hp hjob hgen => genHeld_of_parked hp hjob hgen⟩⟩
  · intro c t st l hstatus ht hwait hc hp hsess hl hpend
    obtain ⟨l', hleaves⟩ := State.retireTask_leaves (c := c) hsess hc hl hp hpend st
    exact ⟨_, l', execTaskRetire_retires hstatus ht hp hwait, hleaves⟩
  · intro job launch l s1 gen hl here waits exits hne hold
    refine ⟨execBarrierRelease_waits hl hold, fun hall hadv => ?_⟩
    have hadvanced := State.advanced_advanceGen hadv
    obtain ⟨hmem, hlaunch⟩ := s1.released_keeps here job launch gen
    refine ⟨s1.released here job launch gen, execBarrierRelease_releases hl hold hne hall hadv,
      hmem.trans hadvanced.outside.mem, fun e he => ?_, { l with bars := l.bars + 1 }, ?_, rfl⟩
    · exact s1.taskOf_released (nodup_gangTasks s job launch) job launch gen he
    · rw [hlaunch, hadvanced.launchOf, hl]
      rfl
  · by_cases hwait : ∃ j, s.jobOf job = some j ∧ j.made < j.asked ∧ gen = j.gen + 1
    · obtain ⟨j, hj, hasked, hgen⟩ := hwait
      refine ⟨_, execGenerationSweep_advances h hj hasked hgen, rfl, rfl, rfl, fun hno => ?_, fun _ _ _ _ => rfl⟩
      exact absurd hgen (hno j hj hasked)
    · have hno (j : Job) (hj : s.jobOf job = some j) (hasked : j.made < j.asked) : gen ≠ j.gen + 1 :=
        fun hgen => hwait ⟨j, hj, hasked, hgen⟩
      exact ⟨_, execGenerationSweep_sweeps h hno, rfl, rfl, rfl, fun _ => rfl,
        fun j hj hasked hgen => absurd hgen (hno j hj hasked)⟩
  · have hwaits : ¬ (j.asked = j.made ∧ s.genHeld job (j.gen + 1) = false) := fun h => by
      rw [hheld] at h
      exact Bool.noConfusion h.2
    rw [State.askGen_eq hj, if_neg hwaits, hasked, Nat.add_sub_cancel_left]
    rfl

end Machine

end Sys2Proof

namespace Sys2Proof

namespace Machine

/-! ### Cores whose engines run (R184, R271) -/

section
variable {s s' : State} {c : CoreId} {t : Task}

theorem State.unfrozen_of_engineTask (h : s.engineTask c = some t) :
    (s.core c).frozen = false ∧ (s.dies[(dieOf c).val]).frozen = false := by
  have hand : ((s.core c).frozen || (s.dies[(dieOf c).val]).frozen) = false := by
    by_contra hne
    rw [State.engineTask, if_pos (Bool.of_not_eq_false hne)] at h
    cases h
  exact Bool.or_eq_false_iff.mp hand

theorem State.engineTask_of_frozen (h : (s.core c).frozen = true) : s.engineTask c = none := by
  rw [State.engineTask, if_pos (by rw [h, Bool.true_or])]

/-- What engines run depends on the core's task, its status and its clock alone. -/
theorem State.engineTask_congr (hstatus : (s'.core c).status = (s.core c).status) (htask : s'.taskOf c = s.taskOf c)
    (hfrozen : (s'.core c).frozen = (s.core c).frozen) (hdies : s'.dies = s.dies) : s'.engineTask c = s.engineTask c := by
  have htask : (s'.core c).task = (s.core c).task := htask
  unfold State.engineTask
  simp only [hstatus, htask, hfrozen, hdies]

theorem State.hostOf_of_notMate (h : (s.core c).status ≠ .mate) : s.hostOf c = c := if_neg h

theorem State.hostOf_setCore {f : Core → Core} (h : ∀ k, (f k).status = k.status) : (s.setCore c f).hostOf c = s.hostOf c := by
  unfold State.hostOf
  rw [State.core_setCore_same, h]

end

/-! ### Waits and the milestone bound (R124, R174, R270) -/

section
variable {s : State} {c : CoreId} {t : Task} (ht : s.engineTask c = some t)
include ht

theorem execWaitcSatisfied_counted {k : Fin 16} {target : Word32} (hw : t.wait = .waitc k target)
    (hk : (t.cc[k.val] - target).toNat < 2 ^ 31) :
    execWaitcSatisfied c s = onlyTaskOf s c { t with wait := .none, pc := t.pc + 4, dist := t.dist + 2 } := by
  have hk : t.counted k target = true := decide_eq_true hk
  unfold execWaitcSatisfied
  simp only [ht, hw, hk, if_true]
  rfl

theorem execWaitOverdue_none {k : Fin 16} {target : Word32} (hw : t.wait = .waitc k target) (hs : s.Sound c) :
    execWaitOverdue c none s = .next (s.takeTrap c t ⟨2, 16, 0, 0, 0⟩ 0 t.pc (s.textAt c t t.pc) 0 0) := by
  unfold execWaitOverdue
  simp only [ht, hw, State.stopAt_trap (State.pairStop_of_noFault hs.1 t _)]

theorem execMilestoneOverdue_takes {h : Parcel} (hw : t.wait = .none) (hf : s.fetchParcel c t t.pc.toNat = .ok h)
    (hs : s.Sound c) (hd : t.limit < t.dist + headParcels h) : execMilestoneOverdue c s =
      .next (s.takeTrap c t ⟨2, 15, 0, 0, 0⟩ (headEngine h) t.pc (s.textAt c t t.pc) 0 0) := by
  have hover : t.overdue (headParcels h) = true := decide_eq_true hd
  have hengine : s.pcEngine c t = headEngine h := by
    unfold State.pcEngine
    rw [hf]
  unfold execMilestoneOverdue
  simp only [ht, hw, hf, hover, if_true, State.takeOverdue, hengine, State.stopAt_trap (State.pairStop_of_noFault hs.1 t _)]

section
variable {q : Cmd} {k : Fin 16} {target : Word32} (hq : t.cmdOf q.seq = some q) (hwait : q.waitsFor = some (k, target))
include hq hwait

theorem execWaitingWordSatisfied_counted (hk : (t.cc[k.val] - target).toNat < 2 ^ 31) :
    execWaitingWordSatisfied c q.seq s = onlyTaskOf s c { t with cmds := t.cmdsBut q.seq } := by
  have hk : t.counted k target = true := decide_eq_true hk
  unfold execWaitingWordSatisfied
  simp only [ht, hq, hwait, Option.bind_some, hk, if_true]
  rfl

theorem execWaitOverdue_some (hs : s.Sound c) : execWaitOverdue c (some q.seq) s =
    .next (s.takeTrap c t ⟨2, 16, 0, 0, 0⟩ (engCode q.eng) q.addr (s.textAt c t q.addr) 0 0) := by
  unfold execWaitOverdue
  simp only [ht, hq, hwait, Option.isSome_some, if_true, State.fatalWord, State.stopCmd,
    State.pairStop_of_noFault hs.1 t]

end

end

theorem Cmd.waitsFor_of_kind {q : Cmd} {k : Fin 16} {target : Word32}
    (h : q.kind = .mWaitc k target ∨ q.kind = .xWaitc k target) : q.waitsFor = some (k, target) := by
  unfold Cmd.waitsFor
  rcases h with h | h <;> rw [h]

/-! ### Freezes (R184, R185) -/

section
variable {s : State} {c : CoreId}

/-- A core and its partner are frozen or let run, and keep everything else; no other core changes. -/
theorem State.core_setFrozen (s : State) (c : CoreId) (b : Bool) :
    (s.setFrozen c b).core c = { s.core c with frozen := b } ∧
      (s.setFrozen c b).core (partnerOf c) = { s.core (partnerOf c) with frozen := b } ∧
      ∀ k : CoreId, k ≠ c → k ≠ partnerOf c → (s.setFrozen c b).core k = s.core k := by
  refine ⟨?_, ?_, fun k hc hp => ?_⟩
  · rw [State.setFrozen, State.core_setCore_other _ _ _ _ (partnerOf_ne c).symm, State.core_setCore_same]
  · rw [State.setFrozen, State.core_setCore_same, State.core_setCore_other _ _ _ _ (partnerOf_ne c)]
  · rw [State.setFrozen, State.core_setCore_other _ _ _ _ hp, State.core_setCore_other _ _ _ _ hc]

theorem execFreeze_freezes {t : Task} (ht : s.engineTask c = some t) (hmate : (s.core c).status ≠ .mate) :
    execFreeze c s = .next (s.setFrozen c true) := by
  rw [execFreeze, State.hostOf_of_notMate hmate, ht]
  rfl

theorem execFreezeEnd_frozen (h : (s.core c).frozen = true) : execFreezeEnd c s = .next (s.setFrozen c false) := by
  rw [execFreezeEnd, if_pos h]

/-- A freeze that lasts too long ends, and its task by the fatal trap of cause 17. -/
theorem execFreezeOverdue_frozen {t : Task} (h : (s.core c).frozen = true) (hrun : s.stopped c = false)
    (ht : (s.setFrozen c false).engineTask c = some t) (hmate : ((s.setFrozen c false).core c).status ≠ .mate)
    (hs : (s.setFrozen c false).Sound c) : execFreezeOverdue c s =
      .next ((s.setFrozen c false).takeTrap c t ⟨2, 17, 0, 0, 0⟩ ((s.setFrozen c false).pcEngine c t) t.pc
        ((s.setFrozen c false).textAt c t t.pc) 0 0) := by
  unfold execFreezeOverdue
  rw [if_neg (by rw [h, hrun]; decide)]
  simp only [State.hostOf_of_notMate hmate, ht, State.stopAt_trap (State.pairStop_of_noFault hs.1 t _)]

end

/-! ### Replays and tests (R283 to R285, R345) -/

/-- A core whose clock the monitor has stopped replays and tests nothing. -/
theorem execFreezeOverdue_stopped {s : State} {c : CoreId} (h : s.stopped c = true) : execFreezeOverdue c s = .next s := by
  rw [execFreezeOverdue, if_pos (by rw [h, Bool.or_true])]

section
variable {s : State} {c : CoreId}

theorem execTimingReplay_stopped (h : s.stopped c = true) (again : Option Consumer) : execTimingReplay c again s = .next s := by
  rw [execTimingReplay, if_pos h]

theorem execLaneTest_stopped (h : s.stopped c = true) (matrix : Bool) (lane : BitVec 10) :
    execLaneTest c matrix lane s = .next s := by
  rw [execLaneTest, if_pos h]

theorem execWakeTest_stopped (h : s.stopped c = true) (pass : Bool) : execWakeTest c pass s = .next s := by
  rw [execWakeTest, if_pos (Or.inr h)]

/-- The event of an instruction at its pc. -/
theorem State.datapathEvent_instr {t : Task} (ht : s.engineTask c = some t) (e : Event) :
    s.datapathEvent c e .instr = s.consume c t e ⟨s.pcEngine c t, 0, false, t.pc, t.regions.length⟩ := by
  rw [State.datapathEvent, ht]

/-- The event of a command. -/
theorem State.datapathEvent_cmd {t : Task} {q : Cmd} (ht : s.engineTask c = some t) (hq : t.cmdOf q.seq = some q) (e : Event) :
    s.datapathEvent c e (.cmd q.seq) = s.failCmd c t e q := by
  rw [State.datapathEvent, ht]
  simp only [hq]

/-- The state with a replay counted in TREP, which stays at its greatest value (R283). -/
def State.countReplay (s : State) (c : CoreId) : State := s.setCore c fun k => { k with trep := satSucc k.trep }

theorem execTimingReplay_counts (hrun : s.stopped c = false) : execTimingReplay c none s = .next (s.countReplay c) := by
  rw [execTimingReplay, if_neg (Bool.eq_false_iff.mp hrun)]
  rfl

theorem execTimingReplay_fails (hrun : s.stopped c = false) (w : Consumer) : execTimingReplay c (some w) s =
    .next ((s.countReplay c).datapathEvent (s.hostOf c) ⟨7, 0, none, [], 0⟩ w) := by
  have hhost : (s.countReplay c).hostOf c = s.hostOf c := State.hostOf_setCore fun _ => rfl
  rw [execTimingReplay, if_neg (Bool.eq_false_iff.mp hrun), ← hhost]
  rfl

end

/-- The oldest unfinished command of the matrix engine (R284). -/
def Task.oldestM (t : Task) : Option Cmd := t.cmds.find? fun q => decide (q.eng = .m)

/-- The state in which a lane test has withdrawn an unpaired core and told of it (R284). -/
def State.withdrawn (s : State) (c : CoreId) : State :=
  { s.setCore c (fun k => { k with withdrawn := true }) with notices := s.notices ++ [.laneFail c] }

section
variable {s : State} {c : CoreId} (hrun : s.stopped c = false) (hmate : (s.core c).status ≠ .mate)
  (hpair : ∀ t, s.taskOf c = some t → t.rs.rc.paired = false)

theorem State.engineTask_withdrawn : (s.withdrawn c).engineTask c = s.engineTask c := by
  have hcore : (s.withdrawn c).core c = { s.core c with withdrawn := true } :=
    State.core_setCore_same s c fun k => { k with withdrawn := true }
  refine State.engineTask_congr ?_ ?_ ?_ rfl
  · rw [hcore]
  · rw [State.taskOf, State.taskOf, hcore]
  · rw [hcore]

include hpair in
theorem State.withdraw_unpaired : s.withdraw c c = s.setCore c fun k => { k with withdrawn := true } := by
  have hnone : ((s.taskOf c).any fun t => t.rs.rc.paired) = false := by
    cases ht : s.taskOf c with
    | none => rfl
    | some t => exact hpair t ht
  rw [State.withdraw, hnone]
  rfl

include hrun hmate hpair

/-- A lane test withdraws the core, and its fault goes to the oldest command of M, or waits. -/
theorem execLaneTest_eq (matrix : Bool) (lane : BitVec 10) : execLaneTest c matrix lane s =
    .next ((if matrix then ((s.withdrawn c).engineTask c).bind Task.oldestM else none).elim
      ((s.withdrawn c).setCore c fun k => { k with laneFault := some (matrix, lane) })
      fun q => (s.withdrawn c).datapathEvent c ⟨6, laneInfo matrix lane, none, [], 0⟩ (.cmd q.seq)) := by
  rw [execLaneTest, if_neg (Bool.eq_false_iff.mp hrun)]
  dsimp only
  rw [State.hostOf_of_notMate hmate, State.withdraw_unpaired hpair]
  change (match (if matrix then ((s.withdrawn c).engineTask c).bind Task.oldestM else none) with
    | some q => Host.Outcome.next ((s.withdrawn c).datapathEvent c ⟨6, laneInfo matrix lane, none, [], 0⟩ (.cmd q.seq))
    | none => Host.Outcome.next ((s.withdrawn c).setCore c fun k => { k with laneFault := some (matrix, lane) })) = _
  cases (if matrix then ((s.withdrawn c).engineTask c).bind Task.oldestM else none) <;> rfl

/-- A lane-test fault with no command of M to consume it waits for the next instruction or command of its engine. -/
theorem execLaneTest_waits (matrix : Bool) (lane : BitVec 10)
    (hnone : matrix = true → ∀ t, s.engineTask c = some t → ∀ q ∈ t.cmds, q.eng ≠ .m) : execLaneTest c matrix lane s =
      .next ((s.withdrawn c).setCore c fun k => { k with laneFault := some (matrix, lane) }) := by
  have hoff : (if matrix then ((s.withdrawn c).engineTask c).bind Task.oldestM else none) = none := by
    cases matrix with
    | false => rfl
    | true =>
      rw [if_pos rfl, State.engineTask_withdrawn, Option.bind_eq_none_iff]
      exact fun t ht => List.find?_eq_none.mpr fun q hq => by simpa using hnone rfl t ht q hq
  rw [execLaneTest_eq hrun hmate hpair, hoff, Option.elim_none]

/-- A lane-test fault of the matrix engine is consumed by its oldest command. -/
theorem execLaneTest_consumed (lane : BitVec 10) {t : Task} {q : Cmd} (ht : s.engineTask c = some t)
    (hq : t.oldestM = some q) (hseq : t.cmdOf q.seq = some q) :
    execLaneTest c true lane s = .next ((s.withdrawn c).failCmd c t ⟨6, laneInfo true lane, none, [], 0⟩ q) := by
  have ht' := (State.engineTask_withdrawn (s := s) (c := c)).trans ht
  rw [execLaneTest_eq hrun hmate hpair, if_pos rfl, ht', Option.bind_some, hq, Option.elim_some,
    State.datapathEvent_cmd ht' hseq]

end

/-- The lane-test fault of M that waits is consumed by the next word of M. -/
theorem engWord_laneFault {n : Nat} {fx : Effect} {body : Body} {s : State} {t : Task} {lane : BitVec 10}
    (hr : s.running = some t) (hl : (s.core s.cur).laneFault = some (true, lane)) : engWord .m n fx body s =
      .next ((s.setCore s.cur fun k => { k with laneFault := none }).consume s.cur t
        ⟨6, laneInfo true lane, none, [], 0⟩ ⟨2, 0, false, t.pc, t.regions.length⟩) := by
  have hstop : s.laneStop s.cur true = some ⟨6, laneInfo true lane, none, [], 0⟩ := by
    unfold State.laneStop
    rw [hl]
    rfl
  unfold engWord
  simp only [hr, if_true, hstop]

/-- A core that has failed its latest wake test is not offered (R285). -/
theorem State.offered_of_wakeOut {s : State} {c : CoreId} (h : (s.core c).wakeOut = true) : s.offered c = false := by
  simp [State.offered, h]

section
variable {s : State} {c : CoreId} (hrun : s.stopped c = false) (hidle : (s.core c).status = .idle)
include hrun hidle

theorem execWakeTest_untested (hen : (s.core c).waketest.getLsbD 0 = false) (pass : Bool) :
    execWakeTest c pass s = .next (s.setCore c fun k => { k with wakeOut := false }) := by
  rw [execWakeTest, if_neg (by simp [hidle, hrun]), if_pos hen]

variable (hen : (s.core c).waketest.getLsbD 0 = true)
include hen

theorem execWakeTest_passes : execWakeTest c true s =
    .next (s.setCore c fun k => { k with wakeOut := false, waketest := k.waketest &&& 1 }) := by
  rw [execWakeTest, if_neg (by simp [hidle, hrun]), if_neg (by rw [hen]; decide), if_pos rfl]

theorem execWakeTest_fails : execWakeTest c false s =
    .next { s.setCore c (fun k => { k with wakeOut := true, waketest := k.waketest ||| 2 }) with
      notices := s.notices ++ [.wakeFail c] } := by
  rw [execWakeTest, if_neg (by simp [hidle, hrun]), if_neg (by rw [hen]; decide), if_neg (by decide)]
  rfl

end

/-- Settles O49: each event is the step of its own law, at a task that engines run or at a core whose clock runs. -/
theorem waitsFreezesAndTests : Obligations.WaitsFreezesAndTests := by
  unfold Obligations.WaitsFreezesAndTests
  refine ⟨fun s c t ht => ?_, fun s c => ?_⟩
  · intro fatal
    refine ⟨fun k target hw hk => execWaitcSatisfied_counted ht hw hk,
      fun q k target hq hkind => ⟨fun hk => execWaitingWordSatisfied_counted ht hq (Cmd.waitsFor_of_kind hkind) hk,
        fun hs => execWaitOverdue_some ht hq (Cmd.waitsFor_of_kind hkind) hs⟩,
      fun k target hw hs => execWaitOverdue_none ht hw hs,
      fun h hw hf hs hd => execMilestoneOverdue_takes ht hw hf hs hd, fun hmate => ?_, fun s0 hfrozen hs0 => ?_⟩
    · obtain ⟨hself, hpartner, hothers⟩ := s.core_setFrozen c true
      refine ⟨_, execFreeze_freezes ht hmate, by rw [hself], by rw [hpartner], State.engineTask_of_frozen (by rw [hself]),
        hothers, rfl⟩
    · subst hs0
      refine ⟨execFreezeEnd_frozen hfrozen, fun hmate hs => ?_⟩
      exact execFreezeOverdue_frozen hfrozen (State.unfrozen_of_engineTask ht).2 ht hmate hs
  · intro counted
    have hcounted : counted = s.countReplay c := rfl
    refine ⟨fun hstop again matrix lane pass i hi => ?_, fun hrun => ⟨execTimingReplay_counts hrun, fun t ht => ?_,
      fun matrix lane hmate hpair => ?_, fun t e lane i hcur hr hl hi he => ?_,
      fun hidle hen => ⟨⟨_, execWakeTest_fails hrun hidle hen, ?_, ?_, rfl⟩,
        ⟨_, execWakeTest_passes hrun hidle hen, ?_, ?_, ?_, rfl⟩⟩,
      fun hidle hen pass => execWakeTest_untested hrun hidle hen pass⟩⟩
    · simp only [List.mem_cons, List.not_mem_nil, or_false] at hi
      rcases hi with rfl | rfl | rfl | rfl
      · exact execTimingReplay_stopped hstop again
      · exact execLaneTest_stopped hstop matrix lane
      · exact execWakeTest_stopped hstop pass
      · exact execFreezeOverdue_stopped hstop
    · rw [hcounted] at ht ⊢
      rw [← State.datapathEvent_instr ht]
      exact execTimingReplay_fails hrun .instr
    · intro gone
      refine ⟨fun hnone => execLaneTest_waits hrun hmate hpair matrix lane hnone, fun t q hm ht hq hseq => ?_⟩
      subst hm
      exact execLaneTest_consumed hrun hmate hpair lane ht hq hseq
    · subst hcur he
      simp only [List.mem_cons, List.not_mem_nil, or_false] at hi
      rcases hi with rfl | rfl | rfl | rfl | rfl | rfl | rfl | rfl <;> exact engWord_laneFault hr hl
    · exact State.offered_of_wakeOut (congrArg Core.wakeOut (s.core_setCore_same c fun k =>
        { k with wakeOut := true, waketest := k.waketest ||| 2 }))
    · exact (congrArg (fun k : Core => k.waketest.getLsbD 1) (s.core_setCore_same c fun k =>
        { k with wakeOut := true, waketest := k.waketest ||| 2 })).trans (by simp)
    · rw [State.core_setCore_same]
    · rw [State.core_setCore_same]
    · rw [State.core_setCore_same]

end Machine

end Sys2Proof

namespace Sys2Proof

namespace Machine

/-! ### A command's refusals and its end (R364, R366) -/

theorem demand_of_true {b : Bool} (h : b = true) (status : Nat) : demand b status = .ok () := if_pos h

theorem demand_of_false {b : Bool} (h : b = false) (status : Nat) : demand b status = .error (status, []) :=
  if_neg (Bool.eq_false_iff.mp h)

theorem orStatus_some {α : Type} (a : α) (status : Nat) : orStatus (some a) status = .ok a := rfl

/-- A command that has ended leaves the whole mailbox as `mailboxEnd` says, and signals the host. -/
theorem State.answer_eq (s : State) (code : Nat) (tag : BitVec 16) (status : Nat) (result : List Byte) :
    s.answer code tag status result =
      { s with mailbox := mailboxEnd code tag (s.somePayload code) (BitVec.ofNat 32 status) result,
               notices := s.notices ++ [.msix 0] } := rfl

theorem State.takesCommand_of_open {s : State} (hopen : s.boot = .open_) (hidle : s.program = none) :
    s.takesCommand = true := by
  rw [State.takesCommand, hopen, hidle]
  rfl

theorem State.command_ignored {s : State} (h : s.takesCommand = false) (code : Nat) (tag : BitVec 16) (r : Command) :
    s.command code tag r = .next s := by
  unfold State.command
  exact if_pos (by rw [h]; rfl)

section
variable {s : State} (htakes : s.takesCommand = true) (code : Nat) (tag : BitVec 16)
include htakes

theorem State.command_ok (s' : State) (result : List Byte) :
    s.command code tag (.ok (s', result)) = .next (s'.answer code tag 0 result) := by
  rw [State.command, htakes]
  rfl

theorem State.command_error (status : Nat) (read : List (Nat × Nat)) : s.command code tag (.error (status, read)) =
    .next ((read.foldl (fun s r => s.checkMacs r.1 r.2) s).answer code tag status []) := by
  rw [State.command, htakes]
  rfl

end

theorem execMailboxBadCommand_refuses {s : State} (htakes : s.takesCommand = true) (tag : BitVec 16) {code : BitVec 16} {len : Nat}
    (hunknown : knownCommand code.toNat len = false) : execMailboxBadCommand tag code len s =
      .next { s with
        mailbox := { mailboxEnd code.toNat tag (s.somePayload code.toNat) 2 [] with length := BitVec.ofNat 32 len },
        notices := s.notices ++ [.msix 0] } := by
  rw [execMailboxBadCommand, if_neg (by rw [htakes, hunknown]; decide)]
  rfl

/-! ### CREATE-JOB (R365) -/

/-- The lowest free number is the only free one with none free below it. -/
theorem lowestFree_eq {l : List Nat} {n : Nat} (hfree : n ∉ l) (hbelow : ∀ m, m < n → m ∈ l) : lowestFree l = n := by
  have hleast : ∀ m, m < lowestFree l → m ∈ l := fun m hm => by
    unfold lowestFree at hm
    cases hf : (List.range (l.length + 1)).find? fun n => !l.contains n with
    | some v =>
      rw [hf, Option.getD_some] at hm
      obtain ⟨-, -, hall⟩ := List.find?_range_eq_some.mp hf
      simpa using hall m hm
    | none =>
      rw [hf, Option.getD_none] at hm
      simpa using List.find?_eq_none.mp hf m (List.mem_range.mpr (by omega))
  rcases Nat.lt_trichotomy (lowestFree l) n with h | h | h
  · exact absurd (hbelow _ h) (lowestFree_not_mem l)
  · exact h
  · exact absurd (hleast n h) hfree

/-- The job that CREATE-JOB makes: nothing in it yet. -/
def createdJob (n : Nat) (a : JobArgs) : Job := ⟨n, BitVec.ofNat 12 n, a, 0, 0, 0, [], [], [], 0, false, false⟩

section
variable {s : State} (htakes : s.takesCommand = true) (tag : BitVec 16) (a : JobArgs)
include htakes

theorem execCreateJob_badArgument (h : ¬ a.wbase ≤ a.wlim ∨ a.root % 0x200000 ≠ 0) :
    execCreateJob tag a s = .next (s.answer 2 tag 3 []) := by
  have hbad : (decide (a.wbase ≤ a.wlim) && decide (a.root % 0x200000 = 0)) = false := by
    rw [Bool.and_eq_false_iff, decide_eq_false_iff_not, decide_eq_false_iff_not]
    exact h
  rw [execCreateJob, demand_of_false hbad]
  exact State.command_error htakes 2 tag 3 []

variable (hw : a.wbase ≤ a.wlim) (hroot : a.root % 0x200000 = 0)
include hw hroot

theorem execCreateJob_badKeys (hkeys : s.keysStand a = false) : execCreateJob tag a s =
    .next (((keyReads a).foldl (fun s r => s.checkMacs r.1 r.2) s).answer 2 tag 3 []) := by
  rw [execCreateJob, demand_of_true (by rw [decide_eq_true hw, decide_eq_true hroot]; rfl), hkeys]
  exact State.command_error htakes 2 tag 3 (keyReads a)

theorem execCreateJob_creates {n : Nat} (hn : n < 4096) (hfree : ∀ j ∈ s.jobs, j.num ≠ n)
    (hbelow : ∀ m, m < n → ∃ j ∈ s.jobs, j.num = m) (hkeys : s.keysStand a = true) : execCreateJob tag a s =
      .next (({ s with jobs := s.jobs ++ [createdJob n a] } : State).answer 2 tag 0 (bytesOf 8 n ++ bytesOf 2 n)) := by
  have hlowest : lowestFree (s.jobs.map fun j => j.num) = n :=
    lowestFree_eq (by simpa using hfree) (by simpa using hbelow)
  rw [execCreateJob, demand_of_true (by rw [decide_eq_true hw, decide_eq_true hroot]; rfl), hkeys, hlowest]
  simp only [bind, Except.bind, Bool.not_true, Bool.false_eq_true, if_false, demand_of_true (decide_eq_true hn)]
  exact State.command_ok htakes 2 tag { s with jobs := s.jobs ++ [createdJob n a] } _

end

/-! ### CANCEL, QUERY and DEBUG-ATTACH (R123, R135, R365, R367) -/

section
variable {s : State} (htakes : s.takesCommand = true) (tag : BitVec 16) {level : BitVec 2} {job n : Nat}
include htakes

theorem execMailboxCancel_noJob (hj : s.jobOf job = none) :
    execMailboxCancel tag level job n s = .next (s.answer 4 tag 5 []) := by
  rw [execMailboxCancel, hj]
  exact State.command_error htakes 4 tag 5 []

section
variable {j : Job} (hj : s.jobOf job = some j)
include hj

theorem execMailboxCancel_nothing (hwork : s.work none job level.toNat n = none) :
    execMailboxCancel tag level job n s = .next (s.answer 4 tag 0 (bytesOf 4 2)) := by
  rw [execMailboxCancel, hj]
  simp only [hwork]
  exact State.command_ok htakes 4 tag s (bytesOf 4 2)

variable {ls : List Launch} (hwork : s.work none job level.toNat n = some ls)
include hwork

theorem execMailboxCancel_done (hlevel : level ≠ 3) (hdone : ∀ l ∈ ls, l.done = true) :
    execMailboxCancel tag level job n s = .next (s.answer 4 tag 0 (bytesOf 4 1)) := by
  rw [execMailboxCancel, hj]
  simp only [hwork]
  rw [if_neg fun h => hlevel h.1, if_pos ⟨hlevel, List.all_eq_true.mpr hdone⟩]
  exact State.command_ok htakes 4 tag s (bytesOf 4 1)

theorem execMailboxCancel_live (hlevel : level ≠ 3) (hlive : ∃ l ∈ ls, l.done = false) :
    execMailboxCancel tag level job n s =
      .next ((s.cancelWork job fun m => ls.any fun l => decide (l.num = m)).answer 4 tag 0 (bytesOf 4 0)) := by
  obtain ⟨l, hl, hlive⟩ := hlive
  have hall : ¬ (ls.all fun l => l.done) = true := fun h => by
    rw [List.all_eq_true.mp h l hl] at hlive
    cases hlive
  rw [execMailboxCancel, hj]
  simp only [hwork]
  rw [if_neg fun h => hlevel h.1, if_neg fun h => hall h.2, if_neg hlevel]
  exact State.command_ok htakes 4 tag (s.cancelWork job fun m => ls.any fun l => decide (l.num = m)) (bytesOf 4 0)

theorem execMailboxCancel_job (hlevel : level = 3) (hpending : j.pending ≠ 0) :
    execMailboxCancel tag level job n s =
      .next (((s.setJob job fun k => { k with freeing := true, cancelled := true }).cancelWork job
        fun m => ls.any fun l => decide (l.num = m)).answer 4 tag 0 (bytesOf 4 0)) := by
  rw [execMailboxCancel, hj]
  simp only [hwork]
  rw [if_neg fun h => hpending h.2, if_neg fun h => h.1 hlevel, if_pos hlevel]
  exact State.command_ok htakes 4 tag ((s.setJob job fun k => { k with freeing := true, cancelled := true }).cancelWork job
    fun m => ls.any fun l => decide (l.num = m)) (bytesOf 4 0)

end

/-- CANCEL of a job whose work has ended frees it. -/
theorem execMailboxCancel_frees {j : Job} (hj : s.jobOf job = some j) (hnum : j.num = job) (hpending : j.pending = 0) :
    execMailboxCancel tag 3 job job s = .next ((s.freeJob job).answer 4 tag 0 (bytesOf 4 1)) := by
  have hwork : s.work none job (3 : BitVec 2).toNat job = some j.launches := by
    rw [State.work, hj]
    exact if_pos hnum.symm
  rw [execMailboxCancel, hj]
  simp only [hwork]
  rw [if_pos ⟨trivial, hpending⟩]
  exact State.command_ok htakes 4 tag (s.freeJob job) (bytesOf 4 1)

end

/-- What is refused, if at all, with the status of a missing object alone. -/
def MissesOnly {α : Type} (x : Except Refused α) : Prop := ∀ st, x = .error st → st = (5, [])

section
variable {α β : Type}

theorem missesOnly_ok (a : α) : MissesOnly (.ok a : Except Refused α) := fun _ h => nomatch h

theorem missesOnly_error : MissesOnly (.error (5, []) : Except Refused α) := fun _ h => (Except.error.inj h).symm

theorem missesOnly_demand {b : Bool} : MissesOnly (demand b 5) := by
  cases b with
  | false => exact missesOnly_error
  | true => exact missesOnly_ok ()

theorem missesOnly_orStatus {x : Option α} : MissesOnly (orStatus x 5) := by
  cases x with
  | none => exact missesOnly_error
  | some a => exact missesOnly_ok a

theorem MissesOnly.bind {x : Except Refused α} {f : α → Except Refused β} (hx : MissesOnly x) (hf : ∀ a, MissesOnly (f a)) :
    MissesOnly (x >>= f) := by
  cases x with
  | error e =>
    rw [hx e rfl]
    exact missesOnly_error
  | ok a => exact hf a

end

section
variable {s : State} (tag : BitVec 16)

theorem execQuery_value (hoff : s.boot ≠ .off) (hidle : s.program = none) {sel : QuerySel} {v : List Byte}
    (hv : s.queried sel = .ok v) : execQuery tag sel s = .next (s.answer 5 tag 0 v) := by
  rw [execQuery, if_neg (by rw [hidle]; simpa using hoff), hv]

theorem execQuery_error (hoff : s.boot ≠ .off) (hidle : s.program = none) {sel : QuerySel} {st : Refused}
    (hv : s.queried sel = .error st) : execQuery tag sel s = .next (s.answer 5 tag st.1 []) := by
  rw [execQuery, if_neg (by rw [hidle]; simpa using hoff), hv]

theorem execQuery_programming (h : s.program.isSome = true) (sel : QuerySel) : execQuery tag sel s = .next s := by
  rw [execQuery, if_pos (Or.inr h)]

theorem execCreateJob_programming (h : s.program.isSome = true) (a : JobArgs) : execCreateJob tag a s = .next s := by
  have htakes : s.takesCommand = false := by
    rw [State.takesCommand, Option.isNone_eq_false_iff.mpr h, Bool.and_false]
  exact State.command_ignored htakes 2 tag _

theorem State.queried_launch {job n : Nat} {l : Launch} (hl : s.launchOf job n = some l) (hshown : s.hides none job n = false) :
    s.queried (.launch job n) = .ok (bytesOf 8 l.pending ++ l.stats.toList.flatMap fun k => bytesOf 8 k) := by
  rw [State.queried, demand_of_true (by rw [hshown]; rfl), hl]
  rfl

theorem State.queried_wbperm (d : DieId) (i : Fin 16) : s.queried (.wbperm d i) =
    .ok (bytesOf 8 ((s.dies[d.val]).wbperm.extractLsb' (64 * i.val) 64).toNat) := by
  rw [State.queried, BitVec.extractLsb'_toNat, Nat.shiftRight_eq_div_pow]
  rfl

/-- QUERY is refused for a missing job or an object of it, and for nothing else. -/
theorem State.missesOnly_queried (s : State) (sel : QuerySel) : MissesOnly (s.queried sel) := by
  cases sel with
  | launch job n => exact missesOnly_demand.bind fun _ => missesOnly_orStatus.bind fun _ => missesOnly_ok _
  | graph job n => exact missesOnly_orStatus.bind fun _ => missesOnly_orStatus.bind fun _ => missesOnly_ok _
  | phase job n => exact missesOnly_orStatus.bind fun _ => missesOnly_orStatus.bind fun _ => missesOnly_ok _
  | job n => exact missesOnly_orStatus.bind fun _ => missesOnly_ok _
  | wsize => exact missesOnly_ok _
  | wbperm d i => exact missesOnly_ok _
  | monstat d => exact missesOnly_ok _
  | bootState => exact missesOnly_ok _

end

/-- The state in which a debugger is attached to the tasks of a launch and an index (R357). -/
def State.attached (s : State) (job launch : Nat) (index : Word32) : State :=
  { s with
    sessions := s.sessions ++ [⟨job, launch, index⟩]
    cores := s.cores.map fun k => { k with task := k.task.map (Task.attachDebug job launch index) }
    clusters := s.clusters.map fun k => { k with
      parked := k.parked.map fun p => { p with task := Task.attachDebug job launch index p.task } } }

section
variable {s : State} (htakes : s.takesCommand = true) (tag : BitVec 16) {job launch : Nat} {index : Word32} {l : Launch} {j : Job}
  (hl : s.launchOf job launch = some l) (hj : s.jobOf job = some j) (hshown : s.hides none job launch = false)
  (hindex : index.toNat < l.count)
include htakes hl hj hshown hindex

theorem execDebugAttach_refused (hconf : s.confidential = true) :
    execDebugAttach tag job launch index none s = .next (s.answer 8 tag 4 []) := by
  have hno : (!s.confidential || (none : Option (List Byte)).any fun k => Config.tokenOk j.args.debugKey k) = false := by
    rw [hconf]
    rfl
  rw [execDebugAttach, hj, hl, demand_of_true (by rw [hshown]; rfl)]
  simp only [orStatus_some, bind, Except.bind, demand_of_true (decide_eq_true hindex), demand_of_false hno]
  exact State.command_error htakes 8 tag 4 []

theorem execDebugAttach_attaches {token : Option (List Byte)}
    (htoken : s.confidential = false ∨ token.any (Config.tokenOk j.args.debugKey) = true) :
    execDebugAttach tag job launch index token s =
      .next ((s.attached job launch index).answer 8 tag 0 (bytesOf 8 s.sessions.length)) := by
  have hallowed : (!s.confidential || token.any fun k => Config.tokenOk j.args.debugKey k) = true := by
    rcases htoken with h | h
    · rw [h]
      rfl
    · rw [h, Bool.or_true]
  rw [execDebugAttach, hj, hl, demand_of_true (by rw [hshown]; rfl)]
  simp only [orStatus_some, bind, Except.bind, demand_of_true (decide_eq_true hindex), demand_of_true hallowed]
  exact State.command_ok htakes 8 tag (s.attached job launch index) (bytesOf 8 s.sessions.length)

end

/-- The task of a core once a debugger is attached. -/
theorem State.taskOf_attached (s : State) (job launch : Nat) (index : Word32) (c : CoreId) :
    (s.attached job launch index).taskOf c = (s.taskOf c).map (Task.attachDebug job launch index) := by
  rw [State.taskOf, State.core, State.attached, Vector.getElem_map]
  rfl

end Machine

end Sys2Proof

namespace Sys2Proof

namespace Machine

/-! ### LOAD-IMAGE (R365, R369, R400) -/

section
variable {s : State} (htakes : s.takesCommand = true) (tag : BitVec 16) {job hostAddr len : Nat} {sha : List Byte}
  {secs : List ImageSection} {blocks : List (Nat × Nat)}
include htakes

theorem execLoadImage_noJob (hj : s.jobOf job = none) :
    execLoadImage tag job hostAddr len sha secs blocks s = .next (s.answer 1 tag 5 []) := by
  rw [execLoadImage, hj]
  exact State.command_error htakes 1 tag 5 []

variable {j : Job} (hj : s.jobOf job = some j)
include hj

theorem execLoadImage_otherDigest (hsha : sha384 (s.readPa (hostBase + hostAddr) len) ≠ sha) :
    execLoadImage tag job hostAddr len sha secs blocks s = .next (s.answer 1 tag 3 []) := by
  rw [execLoadImage, hj]
  simp only [orStatus_some, bind, Except.bind]
  rw [demand_of_false (by rw [decide_eq_false hsha, Bool.and_false])]
  exact State.command_error htakes 1 tag 3 []

variable (hhost : hostAddr + len ≤ hostBase) (hsha : sha384 (s.readPa (hostBase + hostAddr) len) = sha)
include hhost hsha

theorem execLoadImage_badBlocks (hbad : ((blocks.all fun b => decide (b.1 + b.2 ≤ len)) &&
      (blocks.map fun b => ((s.readPa (hostBase + hostAddr) len).drop b.1).take b.2).all blockOk) = false) :
    execLoadImage tag job hostAddr len sha secs blocks s = .next (s.answer 1 tag 3 []) := by
  have hin : (inHost hostAddr len && decide (sha384 (s.readPa (hostBase + hostAddr) len) = sha)) = true := by
    rw [inHost, decide_eq_true hhost, decide_eq_true hsha]
    rfl
  rw [execLoadImage, hj]
  simp only [orStatus_some, bind, Except.bind, demand_of_true hin]
  rw [demand_of_false hbad]
  exact State.command_error htakes 1 tag 3 []

theorem execLoadImage_loads {s' : State} (hok : ((blocks.all fun b => decide (b.1 + b.2 ≤ len)) &&
      (blocks.map fun b => ((s.readPa (hostBase + hostAddr) len).drop b.1).take b.2).all blockOk) = true)
    (hplace : State.placeSections j (s.readPa (hostBase + hostAddr) len) secs secs s = .ok s') :
    execLoadImage tag job hostAddr len sha secs blocks s =
      .next (((blocks.map fun b => ((s.readPa (hostBase + hostAddr) len).drop b.1).take b.2).foldl State.translateBlock s').answer
        1 tag 0 []) := by
  have hin : (inHost hostAddr len && decide (sha384 (s.readPa (hostBase + hostAddr) len) = sha)) = true := by
    rw [inHost, decide_eq_true hhost, decide_eq_true hsha]
    rfl
  rw [execLoadImage, hj]
  simp only [orStatus_some, bind, Except.bind, demand_of_true hin]
  rw [demand_of_true hok]
  simp only [hplace]
  exact State.command_ok htakes 1 tag _ []

end

/-- The bytes of a section without relocations: its part of the image. -/
theorem sectionBytes_plain {img : List Byte} {x : ImageSection} (secs : List ImageSection) (hlen : x.off + x.len ≤ img.length)
    (hrelocs : x.relocs = []) : sectionBytes img secs x = some ((img.drop x.off).take x.len) := by
  rw [sectionBytes, if_neg (by omega), hrelocs]
  rfl

/-- The bytes of a section with one relocation, to itself. -/
theorem sectionBytes_reloc {img : List Byte} {x : ImageSection} {r : Reloc} (hlen : x.off + x.len ≤ img.length)
    (hrelocs : x.relocs = [r]) (htarget : r.target = 0) (hroom : r.off + 8 ≤ x.len) : sectionBytes img [x] x =
      some (((img.drop x.off).take x.len).take r.off ++ bytesOf 8 (BitVec.ofNat 64 x.va + r.add).toNat ++
        ((img.drop x.off).take x.len).drop (r.off + 8)) := by
  rw [sectionBytes, if_neg (by omega), hrelocs, List.foldlM_cons, htarget]
  simp only [List.getElem?_cons_zero, if_neg (Nat.not_lt.mpr hroom)]
  rfl

/-- Bytes that stay in one 64 KiB unit of an address are one piece. -/
theorem piecesOf_single {va n : Nat} (hpos : 0 < n) (hunit : va % 65536 + n ≤ 65536) : piecesOf va n = [(va, n)] := by
  have hmod := Nat.div_add_mod va 65536
  have hlast : (va + n - 1) / 65536 = va / 65536 := by omega
  rw [piecesOf, blocksOf, if_neg (by omega), hlast, Nat.sub_self]
  refine congrArg (fun x => [x]) (Prod.ext ?_ ?_)
  · change max va ((va / 65536 + 0) * 65536) = va
    omega
  · change min (va + n) ((va / 65536 + 0) * 65536 + 65536) - max va ((va / 65536 + 0) * 65536) = n
    omega

/-- A section of plain bytes in one page of D-space: written where firmware's walk places it. -/
theorem State.placeSections_single {s : State} {j : Job} {img data : List Byte} {x : ImageSection} {pa : Nat} {typ : MType}
    (hbytes : sectionBytes img [x] x = some data) (htile : x.tile = none) (hdata : data ≠ [])
    (hunit : x.va % 65536 + data.length ≤ 65536) (hplace : s.placeOf j x.va = some (pa, typ)) (hmmio : typ ≠ .mmio)
    (hwap : typ ≠ .wap) : State.placeSections j img [x] [x] s = .ok (s.systemWrite pa data) := by
  have hfor : s.placeFor j x.va = some pa := by
    rw [State.placeFor, hplace]
    exact if_neg (by simp [hmmio, hwap])
  have hlay : s.layOut j x.va data = some [(pa, data)] := by
    rw [State.layOut, piecesOf_single (List.length_pos_iff.mpr hdata) hunit]
    simp [hfor]
  have hsection : s.placeSection j x.va x.tile data = some (s.systemWrite pa data) := by
    rw [State.placeSection, htile]
    simp [laidBytes, hlay]
  simp only [State.placeSections, hbytes, hsection]

/-- The mailbox, the host's notices, the clock and the program of weights are as they were. -/
structure State.SameHost (s s' : State) : Prop where
  tick : s'.tick = s.tick
  mailbox : s'.mailbox = s.mailbox
  notices : s'.notices = s.notices
  program : s'.program = s.program

theorem State.BytesOnly.sameHost {s s' : State} (h : s.BytesOnly s') : s.SameHost s' := by
  obtain ⟨_, _, _, _, _, _, rfl⟩ := h
  exact ⟨rfl, rfl, rfl, rfl⟩

theorem State.sameHost_systemWrite (s : State) (pa : Nat) (bs : List Byte) : s.SameHost (s.systemWrite pa bs) := by
  obtain ⟨h1, h2, h3, h4⟩ := (s.bytesOnly_writePa pa bs).sameHost
  exact ⟨h1, h2, h3, h4⟩

/-- A command's end, seen from the state before a command that left the host's side alone. -/
theorem State.SameHost.answers {s s' : State} (h : s.SameHost s') (code : Nat) (tag : BitVec 16) (status : Nat)
    (result : List Byte) : (s'.answer code tag status result).Answers s code tag (BitVec.ofNat 32 status) result :=
  ⟨rfl, congrArg (fun l => l ++ [Notice.msix 0]) h.notices⟩

/-! ### SUBMIT-PHASE (R120) -/

theorem State.setJob_setJob (s : State) (n : Nat) {f g : Job → Job} (hf : ∀ j, (f j).num = j.num) :
    (s.setJob n f).setJob n g = s.setJob n fun j => g (f j) := by
  have hjobs : ((s.jobs.map fun j => if j.num = n then f j else j).map fun j => if j.num = n then g j else j) =
      s.jobs.map fun j => if j.num = n then g (f j) else j := by
    rw [List.map_map]
    refine List.map_congr_left fun j _ => ?_
    dsimp only [Function.comp]
    by_cases hj : j.num = n
    · simp only [hj, if_true, hf]
    · simp only [hj, if_false]
  simp only [State.setJob, hjobs]

/-- A phase of one graph of one launch in a job: the phase and the graph that it makes, waiting for the launch. -/
def Job.withPhase (phase graph : Nat) (j : Job) : Job :=
  { j with phases := j.phases ++ [⟨phase, 0, 1, false, false⟩], pending := j.pending + 1,
           graphs := j.graphs ++ [⟨graph, phase, 1, false, false⟩] }

/-- The submission of one launch in one graph. -/
theorem State.submit_single {s s' : State} {job va num : Nat} {j : Job} {gen : BitVec 4 × Nat} (hj : s.jobOf job = some j)
    (hlaunch : (s.setJob job (Job.withPhase j.phases.length j.graphs.length)).submitLaunch job j.graphs.length j.phases.length
      gen [] va = .ok (s', num)) : s.submit job gen [[va]] = .ok (s'.refresh, bytesOf 8 j.phases.length) := by
  have hphase := State.jobOf_setJob_some hj (f := fun k =>
    { k with phases := k.phases ++ [⟨j.phases.length, 0, 1, false, false⟩], pending := k.pending + 1 }) fun _ => rfl
  have hboth := s.setJob_setJob job (f := fun k =>
      { k with phases := k.phases ++ [⟨j.phases.length, 0, 1, false, false⟩], pending := k.pending + 1 })
    (g := fun k => { k with graphs := k.graphs ++ [⟨j.graphs.length, j.phases.length, 1, false, false⟩] }) fun _ => rfl
  have hgraph : State.submitGraph job j.graphs.length j.phases.length gen [va] []
      (s.setJob job (Job.withPhase j.phases.length j.graphs.length)) = .ok s' := by
    rw [State.submitGraph, hlaunch]
    rfl
  have hgraphs : State.submitGraphs job j.phases.length gen [[va]] (s.setJob job fun k =>
      { k with phases := k.phases ++ [⟨j.phases.length, 0, 1, false, false⟩], pending := k.pending + 1 }) = .ok s' := by
    rw [State.submitGraphs, hphase]
    simp only [orStatus_some, bind, Except.bind]
    rw [demand_of_true (by rfl)]
    simp only [List.length_singleton, hboth]
    exact (congrArg (fun x => Except.bind x (State.submitGraphs job j.phases.length gen [])) hgraph)
  rw [State.submit, hj]
  simp only [orStatus_some, bind, Except.bind]
  rw [demand_of_true (by rfl)]
  simp only [List.length_singleton, hgraphs]

/-- SUBMIT-PHASE of a list of one graph of one launch. -/
theorem execSubmitPhase_single {s s1 s' : State} (htakes : s.takesCommand = true) (tag : BitVec 16) {job addr ga va num : Nat}
    {j : Job} {gen : BitVec 4 × Nat} (hj : s.jobOf job = some j) (hask : s.askGen job = (s1, gen))
    (hgraphs : s1.firmwareList job addr = .ok [ga]) (hlaunches : s1.firmwareList job ga = .ok [va])
    (hlaunch : (s1.setJob job (Job.withPhase j.phases.length j.graphs.length)).submitLaunch job j.graphs.length
      j.phases.length gen [] va = .ok (s', num)) :
    execSubmitPhase tag job addr s = .next (s'.refresh.answer 3 tag 0 (bytesOf 8 j.phases.length)) := by
  obtain ⟨j1, hj1, hphases, hsame⟩ : ∃ j1, s1.jobOf job = some j1 ∧ j1.phases = j.phases ∧ j1.graphs = j.graphs := by
    have hj1 := State.jobOf_askGen hj
    rw [hask] at hj1
    refine ⟨_, hj1, ?_, ?_⟩ <;> split <;> rfl
  have hsubmit : s1.submit job gen [[va]] = .ok (s'.refresh, bytesOf 8 j.phases.length) := by
    rw [← hphases, ← hsame] at hlaunch
    rw [State.submit_single hj1 hlaunch, hphases]
  rw [execSubmitPhase, hask, State.submitAt, hj1]
  simp only [orStatus_some, bind, Except.bind, hgraphs, List.mapM_cons, List.mapM_nil, hlaunches, pure, Except.pure, hsubmit]
  exact State.command_ok htakes 3 tag s'.refresh _

/-! ### PROGRAM-WEIGHTS begins (R372) -/

/-- The checks of PROGRAM-WEIGHTS for one row of bytes, without flags. -/
theorem State.weightRows_row {s : State} {host wa : Nat} (halign : wa % 4096 = 0) (hvalid : s.wValid wa 4096 = true)
    (hhost : host + 4096 ≤ hostBase) : s.weightRows host wa 4096 0 = .ok (s.readPa (hostBase + host) 4096, []) := by
  have hfmt : decide (fmtWidth (BitVec.ofNat 5 (bitsAt (0 : Word32).toNat 4 5)) ≠ 0) = true := by decide
  have hflags : decide ((0 : Word32) &&& ~~~(0x1F3 : Word32) = 0) = true := by decide
  have hin : inHost host 4096 = true := decide_eq_true hhost
  rw [State.weightRows]
  rw [demand_of_true (by rw [hflags, hfmt, decide_eq_true halign, hvalid]; rfl)]
  simp only [bind, Except.bind]
  rw [if_neg (by decide), demand_of_true hin]

/-- PROGRAM-WEIGHTS of one row as it begins. -/
def rowProgram (s : State) (tag : BitVec 16) (host wa : Nat) (bad : List ColumnFailure) : Program :=
  { tag := tag, wa := wa, bytes := s.readPa (hostBase + host) 4096, tiles := [], verify := false, next := 0, checked := 0,
    bad := bad, place := (0, []), job := s.firmwareNum, failed := none }

section
variable {s : State} (htakes : s.takesCommand = true) (tag : BitVec 16) {host wa : Word64} (bad : List ColumnFailure)
  (halign : wa.toNat % 4096 = 0) (hvalid : s.wValid wa.toNat 4096 = true) (hhost : host.toNat + 4096 ≤ hostBase)
include htakes halign hvalid hhost

theorem execProgramWeights_window (hmeets : s.meetsWindow wa.toNat 4096 = true) :
    execProgramWeights tag host wa 4096 0 none bad s = .next { s with
      mailbox := mailboxEnd 6 tag (weightPayload host wa 4096 0) 4 [], notices := s.notices ++ [.msix 0] } := by
  have hrows : s.weightRows host.toNat wa.toNat (4096 : Word64).toNat 0 = _ := State.weightRows_row halign hvalid hhost
  rw [execProgramWeights, if_neg (by rw [htakes]; decide)]
  simp only [hrows]
  exact if_pos hmeets

theorem execProgramWeights_begins (hmeets : s.meetsWindow wa.toNat 4096 = false) :
    execProgramWeights tag host wa 4096 0 none bad s = .next { s with
      mailbox := { mailboxEnd 6 tag (weightPayload host wa 4096 0) 0xFFFFFFFF [] with result := s.mailbox.result },
      jobs := s.jobs ++ [firmwareJob s.firmwareNum],
      program := some (rowProgram s tag host.toNat wa.toNat bad) } := by
  have hrows : s.weightRows host.toNat wa.toNat (4096 : Word64).toNat 0 = _ := State.weightRows_row halign hvalid hhost
  rw [execProgramWeights, if_neg (by rw [htakes]; decide)]
  simp only [hrows]
  exact if_neg (Bool.eq_false_iff.mp hmeets)

end

/-! ### The notify register (R364) -/

theorem postedCode_eq_query {x : PostedCommand} (h : postedCode x = 5) : ∃ sel, x = .query sel := by
  cases x with
  | query sel => exact ⟨sel, rfl⟩
  | _ => simp [postedCode] at h

/-- QUERY ends with OK or with the status of a missing object. -/
theorem execQuery_answers {s : State} (tag : BitVec 16) (hoff : s.boot ≠ .off) (hidle : s.program = none) (sel : QuerySel) :
    ∃ (status : Nat) (result : List Byte), (status = 0 ∨ status = 5) ∧
      execQuery tag sel s = .next (s.answer 5 tag status result) := by
  cases hv : s.queried sel with
  | ok v => exact ⟨0, v, Or.inl rfl, execQuery_value tag hoff hidle hv⟩
  | error st =>
    have hmiss := s.missesOnly_queried sel st hv
    exact ⟨5, [], Or.inr rfl, by rw [execQuery_error tag hoff hidle hv, hmiss]⟩

/-- A host's write of the notify register, and of nothing else. -/
theorem execPcieMemoryRequest_notify {s : State} {bs : List Byte} (hlen : bs.length = 2 ∨ bs.length = 4) (hoff : s.boot ≠ .off)
    (n : Nat) : execPcieMemoryRequest true 0x1000 (some bs) n s = s.notify := by
  unfold execPcieMemoryRequest
  exact if_pos ⟨rfl, rfl, rfl, hlen, hoff⟩

/-- The state in which the host's write is done. -/
def State.pcieWritten (s : State) : State := { s with notices := s.notices ++ [.pcieDone] }

/-- The notices of a command that the host's write has started and that has ended. -/
theorem answered_then_done (l : List Notice) : l ++ [.msix 0] ++ [.pcieDone] = l ++ [.msix 0, .pcieDone] :=
  List.append_assoc l [.msix 0] [.pcieDone]

theorem State.notify_ignored {s : State} (h : s.answersCode s.mailbox.code.toNat = false) : s.notify = .next s.pcieWritten := by
  unfold State.notify
  exact if_pos (by rw [h]; rfl)

section
variable {s : State} (h : s.answersCode s.mailbox.code.toNat = true)
include h

/-- The mailbox's command is not one. -/
theorem State.notify_unknown (hunknown : knownCommand s.mailbox.code.toNat s.mailbox.length.toNat = false) :
    s.notify = .next { s with
      mailbox := { s.mailbox with status := 2, result := taggedResult s.mailbox.tag [] },
      notices := s.notices ++ [.msix 0, .pcieDone] } := by
  unfold State.notify
  dsimp only
  rw [if_neg (by rw [h]; decide), if_pos (by rw [hunknown]; rfl), ← answered_then_done]
  rfl

/-- The mailbox's command is QUERY, in recovery: it ends with a status other than that of a command in progress. -/
theorem State.notify_query (hboot : s.boot = .recovery) (hidle : s.program = none) (hcode : s.mailbox.code = 5) :
    ∃ (status : Word32) (result : List Byte), status ≠ 0xFFFFFFFF ∧ s.notify = .next { s with
      mailbox := { s.mailbox with status := status, result := taggedResult s.mailbox.tag result },
      notices := s.notices ++ [.msix 0, .pcieDone] } := by
  by_cases hknown : knownCommand s.mailbox.code.toNat s.mailbox.length.toNat = false
  · exact ⟨2, [], by decide, State.notify_unknown h hknown⟩
  rw [← answered_then_done]
  unfold State.notify
  dsimp only
  rw [if_neg (by rw [h]; decide), if_neg (by rw [Bool.not_eq_false] at hknown; rw [hknown]; decide)]
  cases hx : (Config.commandOf s.mailbox.code.toNat (s.mailbox.payload.take s.mailbox.length.toNat) s.tick).filter
      fun x => decide (postedCode x = s.mailbox.code.toNat) with
  | none => exact ⟨3, [], by decide, rfl⟩
  | some x =>
    have hfive : postedCode x = 5 := by
      have hp := (Option.filter_eq_some_iff.mp hx).2
      rw [hcode] at hp
      exact of_decide_eq_true hp
    obtain ⟨sel, rfl⟩ := postedCode_eq_query hfive
    dsimp only [State.runPosted]
    obtain ⟨status, result, hstatus, hquery⟩ := execQuery_answers
      (s := { s with mailbox := { s.mailbox with status := 0xFFFFFFFF } }) s.mailbox.tag
      (fun e => nomatch hboot.symm.trans e) hidle sel
    have hended : BitVec.ofNat 32 status ≠ 0xFFFFFFFF := by rcases hstatus with rfl | rfl <;> decide
    have hmailbox : Mailbox.mk (BitVec.ofNat 16 5) s.mailbox.tag s.mailbox.length (BitVec.ofNat 32 status)
          (taggedResult s.mailbox.tag result) s.mailbox.payload =
        { s.mailbox with status := BitVec.ofNat 32 status, result := taggedResult s.mailbox.tag result } := by
      rw [show BitVec.ofNat 16 5 = s.mailbox.code from hcode.symm]
    refine ⟨BitVec.ofNat 32 status, result, hended, ?_⟩
    rw [hquery, ← hmailbox]
    exact if_neg fun e => hended e.1

end

end Machine

end Sys2Proof

namespace Sys2Proof

namespace Machine

/-! ### Measuring the weight tier (R338, R339, R362) -/

/-- The dies, the measurements, the boot state and the translation store aside, the state is as it was. -/
def State.MeasuresOnly (s s' : State) : Prop :=
  ∃ dies measured boot tstore, s' = { s with dies := dies, measured := measured, boot := boot, tstore := tstore }

theorem State.MeasuresOnly.refl (s : State) : s.MeasuresOnly s := ⟨_, _, _, _, rfl⟩

theorem State.MeasuresOnly.trans {a b c : State} (h : a.MeasuresOnly b) (h' : b.MeasuresOnly c) : a.MeasuresOnly c := by
  obtain ⟨_, _, _, _, rfl⟩ := h
  obtain ⟨_, _, _, _, rfl⟩ := h'
  exact ⟨_, _, _, _, rfl⟩

theorem State.measuresOnly_foldl {α : Type} {f : State → α → State} (hf : ∀ (s : State) (x : α), s.MeasuresOnly (f s x))
    (l : List α) (s : State) : s.MeasuresOnly (l.foldl f s) := by
  induction l generalizing s with
  | nil => exact .refl s
  | cons x l ih => exact (hf s x).trans (ih _)

theorem State.measuresOnly_setDie (s : State) (d : DieId) (f : Die → Die) : s.MeasuresOnly (s.setDie d f) := ⟨_, _, _, _, rfl⟩

theorem State.measuresOnly_record (s : State) (i : Fin 10) (v : List Byte) : s.MeasuresOnly (s.record i v) := ⟨_, _, _, _, rfl⟩

theorem State.measuresOnly_boot (s : State) (b : BootState) : s.MeasuresOnly { s with boot := b } := ⟨_, _, _, _, rfl⟩

theorem State.measuresOnly_steer (d : DieId) (col : Fin 64) (l : List (BitVec 13)) (s : State) :
    s.MeasuresOnly (State.steer d col l s).1 := by
  induction l generalizing s with
  | nil => exact .refl s
  | cons f l ih =>
    unfold State.steer
    dsimp only
    split
    · exact .refl s
    · exact (s.measuresOnly_setDie d _).trans (ih _)

theorem State.measuresOnly_mendColumns (d : DieId) (l : List ColumnFailure) (s : State) :
    s.MeasuresOnly (State.mendColumns d l s).1 := by
  induction l generalizing s with
  | nil => exact .refl s
  | cons f l ih => exact (State.measuresOnly_steer d f.col f.vias s).trans (ih _)

theorem State.measuresOnly_measureDie (s : State) (d : DieId) (bad : List ColumnFailure) :
    s.MeasuresOnly (s.measureDie d bad) := by
  unfold State.measureDie
  refine State.MeasuresOnly.trans (State.measuresOnly_mendColumns d (bad.filter fun f => decide (f.die = d)) s) ?_
  exact State.MeasuresOnly.trans (State.measuresOnly_foldl (fun s f => s.measuresOnly_setDie d _) _ _)
    (State.measuresOnly_setDie _ d _)

theorem State.measuresOnly_recordWeights (s : State) : s.MeasuresOnly s.recordWeights :=
  State.MeasuresOnly.trans (State.measuresOnly_foldl (fun s _ => s.measuresOnly_record _ _) _ s)
    (State.measuresOnly_record _ 8 _)

theorem State.measuresOnly_measureRange (s : State) (wa n : Nat) (bad : List ColumnFailure) :
    s.MeasuresOnly (s.measureRange wa n bad) :=
  State.MeasuresOnly.trans (State.measuresOnly_foldl (fun s _ => s.measuresOnly_measureDie _ bad) _ s)
    (State.measuresOnly_recordWeights _)

/-- Measurement 8 stands once the weights are recorded. -/
theorem State.measured8_recordWeights (s : State) : s.recordWeights.measured[8] = s.recordWeights.measure8 :=
  Vector.getElem_set_self (by decide)

/-! ### RESET-SCRUB (R358) -/

theorem State.measuresOnly_startDie (bad : List ColumnFailure) (s : State) (d : DieId) :
    s.MeasuresOnly (State.startDie bad s d) := by
  unfold State.startDie State.loadMap
  dsimp only
  refine State.MeasuresOnly.trans ?_ (State.measuresOnly_setDie _ d _)
  refine State.MeasuresOnly.trans ?_ (State.measuresOnly_measureDie _ d bad)
  exact (s.measuresOnly_setDie d _).trans (State.measuresOnly_setDie _ d _)

theorem State.measuresOnly_bootFrom (bad : List ColumnFailure) (s : State) : s.MeasuresOnly (State.bootFrom bad s) := by
  unfold State.bootFrom
  split
  · exact ⟨_, _, _, _, rfl⟩
  next fw hfw =>
    have hdies : s.MeasuresOnly ((List.finRange 4).foldl (fun s d => s.record (Fin.ofNat 10 (4 + d.val)) (s.dies[d.val]).root)
        ((List.finRange 4).foldl (State.startDie bad) (s.record 2 fw))) :=
      (s.measuresOnly_record 2 fw).trans ((State.measuresOnly_foldl (State.measuresOnly_startDie bad) _ _).trans
        (State.measuresOnly_foldl (fun s _ => s.measuresOnly_record _ _) _ _))
    dsimp only
    generalize (List.finRange 4).foldl (fun s d => s.record (Fin.ofNat 10 (4 + d.val)) (s.dies[d.val]).root)
        ((List.finRange 4).foldl (State.startDie bad) (s.record 2 fw)) = x at hdies ⊢
    refine hdies.trans (State.MeasuresOnly.trans (b := { x with tstore := x.tstore.filter fun e => decide (e.meas2 = fw) })
      ⟨_, _, _, _, rfl⟩ ?_)
    split
    · exact State.measuresOnly_boot _ _
    · refine State.MeasuresOnly.trans ?_ (State.measuresOnly_boot _ _)
      exact ((State.measuresOnly_record _ 3 _).trans (State.measuresOnly_record _ 8 _)).trans (State.measuresOnly_record _ 9 _)

section
variable {s : State} (htakes : s.takesCommand = true) (tag : BitVec 16) (conf : Bool)
include htakes

theorem execResetScrub_busy (bad : List ColumnFailure) (hjobs : s.jobs ≠ []) :
    execResetScrub tag conf bad s = .next (s.answer 7 tag 1 []) := by
  rw [execResetScrub, if_neg (by rw [htakes]; decide), if_pos]
  rw [List.isEmpty_eq_false_iff.mpr hjobs]
  rfl

theorem execResetScrub_scrubs (bad : List ColumnFailure) (hjobs : s.jobs = [])
    (hrings : ∀ k : ClusterId, (s.clusters[k.val]).srhead = (s.clusters[k.val]).srtail) :
    execResetScrub tag conf bad s = .next ((State.bootFrom bad (s.scrub conf)).answer 7 tag 0 []) := by
  have hempty : s.ringsFull = false := by
    rw [State.ringsFull, List.any_eq_false]
    intro k hk
    obtain ⟨i, hi, rfl⟩ := List.mem_iff_getElem.mp hk
    rw [Vector.length_toList] at hi
    rw [Vector.getElem_toList]
    simpa using hrings ⟨i, hi⟩
  rw [execResetScrub, if_neg (by rw [htakes]; decide), if_neg]
  rw [hjobs, hempty]
  decide

end

/-- What a scrub leaves, and the boot sequence after it. -/
theorem State.scrub_leaves (s : State) (conf : Bool) (bad : List ColumnFailure) :
    let s' := State.bootFrom bad (s.scrub conf)
    s.SameHost s' ∧ s'.confidential = conf ∧ s'.scrubs = s.scrubs + 1 ∧ s'.keyEpoch = s.keyEpoch + 1 ∧ s'.tiles = [] ∧
      s'.stamps = [] ∧ s'.tlb = [] ∧ s'.mem = s.mem.filter (fun e => decide (hostBase ≤ e.1)) ∧ s'.wmem = s.wmem ∧
      ∀ c : CoreId, s'.core c = (s.core c).scrubbed := by
  intro s'
  obtain ⟨dies, measured, boot, tstore, hboot⟩ := State.measuresOnly_bootFrom bad (s.scrub conf)
  have hs' : s' = _ := hboot
  rw [hs']
  refine ⟨⟨rfl, rfl, rfl, rfl⟩, rfl, rfl, rfl, rfl, rfl, rfl, rfl, rfl, fun c => ?_⟩
  exact Vector.getElem_map ..

/-! ### PROGRAM-WEIGHTS ends (R362, R365, R366) -/

/-- What the end of PROGRAM-WEIGHTS leaves: its job gone, the roots formed, its answer given. -/
theorem State.endProgram_leaves (s : State) (x : Program) (status first : Nat) :
    let s' := s.endProgram x status first
    s'.program = none ∧ s'.jobs = s.jobs.filter (fun k => decide (k.num ≠ x.job)) ∧
      s'.mailbox = { s.mailbox with
        status := BitVec.ofNat 32 status, result := taggedResult s.mailbox.tag (bytesOf 8 x.next ++ bytesOf 8 first) } ∧
      s'.notices = s.notices ++ [.msix 0] ∧ s'.measured[8] = s'.measure8 ∧ s'.mem = s.mem ∧ s'.cores = s.cores := by
  intro s'
  have hrecorded : (s.measureRange x.wa x.bytes.length x.bad).measured[8] = (s.measureRange x.wa x.bytes.length x.bad).measure8 :=
    State.measured8_recordWeights _
  have hs' : s' = ({ (s.measureRange x.wa x.bytes.length x.bad).freeJob x.job with program := none } : State).finishCommand status
    (weightResult x.next first) := rfl
  obtain ⟨dies, measured, boot, tstore, hrange⟩ := State.measuresOnly_measureRange s x.wa x.bytes.length x.bad
  rw [hrange] at hrecorded hs'
  rw [hs']
  exact ⟨rfl, rfl, rfl, rfl, hrecorded, rfl, rfl⟩

/-- PROGRAM-WEIGHTS waits while a launch of it runs. -/
theorem State.weightTurn_waits {s : State} {x : Program} {j : Job} (hx : s.program = some x) (hj : s.jobOf x.job = some j)
    (hlive : ∃ y ∈ j.launches, y.done = false) : s.weightTurn = s := by
  obtain ⟨y, hy, hlive⟩ := hlive
  have hany : ((s.jobOf x.job).any fun j => j.launches.any fun l => !l.done) = true := by
    rw [hj]
    exact List.any_eq_true.mpr ⟨y, hy, by rw [hlive]; rfl⟩
  unfold State.weightTurn
  simp only [hx, hany, if_true]

section
variable {s : State} {x : Program} {j : Job} (hx : s.program = some x) (hj : s.jobOf x.job = some j)
  (hdone : ∀ y ∈ j.launches, y.done = true)
include hj hdone in
/-- No launch of PROGRAM-WEIGHTS runs once each of its job's has ended. -/
theorem Program.idle : ((s.jobOf x.job).any fun j => j.launches.any fun l => !l.done) = false := by
  rw [hj]
  exact List.any_eq_false.mpr fun y hy => by rw [hdone y hy]; decide

include hx hj hdone

theorem State.weightTurn_failed {status a : Nat} (hfailed : x.failed = some (status, a)) :
    s.weightTurn = s.endProgram x status a := by
  unfold State.weightTurn
  simp only [hx, Program.idle hj hdone, Bool.false_eq_true, if_false, hfailed]

theorem State.weightTurn_ends (hfailed : x.failed = none) (htodo : x.todo = none) : s.weightTurn = s.endProgram x 0 0 := by
  unfold State.weightTurn
  simp only [hx, Program.idle hj hdone, Bool.false_eq_true, if_false, hfailed, htodo]

theorem State.weightTurn_goesOn (hfailed : x.failed = none) {first stop : Nat} {writes : Bool}
    (htodo : x.todo = some (first, stop, writes)) : s.weightTurn = s.startWeights x first stop writes := by
  unfold State.weightTurn
  simp only [hx, Program.idle hj hdone, Bool.false_eq_true, if_false, hfailed, htodo]

end

section
variable {x : Program} (hcompared : x.verify = false ∨ x.next ≤ x.checked)
include hcompared

/-- Nothing is left to compare. -/
theorem Program.compared : (x.verify && decide (x.checked < x.next)) = false := by
  rcases hcompared with h | h
  · rw [h, Bool.false_and]
  · rw [decide_eq_false (Nat.not_lt.mpr h), Bool.and_false]

theorem Program.todo_none (hall : x.bytes.length ≤ 4096 * x.next) : x.todo = none := by
  unfold Program.todo
  rw [Program.compared hcompared]
  exact if_neg (Nat.not_lt.mpr hall)

/-- The rows that are left, where no tile binds them. -/
theorem Program.todo_rows (htiles : x.tiles = []) {rows : Nat} (hrows : 0 < rows)
    (hlen : x.bytes.length = 4096 * (x.next + rows)) : x.todo = some (x.next, x.next + rows, true) := by
  have hstride : x.stride = 1 := by rw [Program.stride, htiles]; rfl
  unfold Program.todo
  rw [Program.compared hcompared, hlen, hstride, Nat.mul_div_cancel_left _ (by decide)]
  simp only [Nat.div_one, Nat.mul_one, Bool.false_eq_true, if_false]
  exact if_pos (by omega)

end

end Machine

end Sys2Proof

namespace Sys2Proof

namespace Machine

/-! ### A launch of PROGRAM-WEIGHTS (R243, R365) -/

/-- A write to a scratchpad changes its bytes and the poison over them alone: no MAC stands there. -/
theorem State.writePa_spad (s : State) (c : CoreId) {off : Nat} (hoff : off < 0x100000) (bs : List Byte) :
    ∃ poison, s.writePa (spadPa c off) bs = { s with mem := Memory.write s.mem (spadPa c off) bs, poison := poison } := by
  have hpa : spadPa c off < 0x20000000 := by
    have := c.isLt
    unfold spadPa
    omega
  have hhome : (homeOf (spadPa c off)).isLpddr = false := by
    unfold homeOf
    rw [if_pos hpa]
    split <;> rfl
  have hraw : s.writeRaw (spadPa c off) bs = { s with mem := Memory.write s.mem (spadPa c off) bs } := by
    unfold State.writeRaw
    rw [hhome]
    rfl
  rw [State.writePa, hraw, State.clearCovered]
  dsimp only
  split <;> exact ⟨_, rfl⟩

/-- An advance of a generation changes jobs, stamps and the parked contexts alone. -/
theorem State.advanceGen_shape {s s1 : State} {job : Nat} {gen : BitVec 4} (h : s.advanceGen job = some (s1, gen)) :
    ∃ jobs stamps clusters, s1 = { s with jobs := jobs, stamps := stamps, clusters := clusters } := by
  obtain ⟨j, -, -, -, hmake⟩ := State.advanceGen_eq_some h
  unfold State.makeGen at hmake
  split at hmake
  · cases hmake
  · split at hmake
    · cases hmake
    · cases hmake
      exact ⟨_, _, _, rfl⟩

/-- The command of rows from a scratchpad to W-space. -/
def rowsCfg (base wa n : Nat) : XCfg := { XCfg.zero with sbase := base, dspace := .wspace, dbase := wa, len := n, rows := 1 }

theorem rowBounds_one (base len : Nat) : rowBounds base 1 len 0 = ((base : Int), (base : Int) + len) := by
  simp [rowBounds]

theorem checkSpad_zero {n : Nat} (h : n ≤ laybyBase) : checkSpad 0 (0 + (n : Int)) = .ok () := by
  unfold checkSpad
  have hn : ¬ ((laybyBase : Nat) : Int) < 0 + (n : Int) := by omega
  by_cases hpos : 0 + (n : Int) ≤ 0
  · exact if_pos hpos
  · rw [if_neg hpos, if_neg (by omega), if_neg hn]

/-- A range of the core's W window, of a die that accepts it, passes its check. -/
theorem State.checkW_window {s : State} {c : CoreId} {wa n : Nat} (hlo : (s.core c).wwbase.toNat ≤ wa)
    (hhi : wa + n ≤ (s.core c).wwlim.toNat) (hvalid : s.wValid wa n = true) :
    s.checkW c (wa : Int) ((wa : Int) + n) = .ok () := by
  have hlen : ((wa : Int) + n - wa).toNat = n := by omega
  unfold State.checkW
  dsimp only
  split
  · rfl
  · rw [if_neg (by omega), if_neg (by omega), Int.toNat_natCast, hlen, hvalid]
    rfl

/-- The launch check of rows passes within the core's W window. -/
theorem State.moveRanges_rows {s : State} {c : CoreId} {wa n : Nat} (t : Task) (hn : n ≤ laybyBase)
    (hlo : (s.core c).wwbase.toNat ≤ wa) (hhi : wa + n ≤ (s.core c).wwlim.toNat) (hvalid : s.wValid wa n = true)
    (hready : s.wNotReady wa (wa + n : Nat) = false) : ∃ a, s.moveRanges c t (rowsCfg 0 wa n) false true = .ok a := by
  have hside : s.checkSide c .wspace wa 1 (n + 0) 0 = .ok () := by
    have hw := State.checkW_window hlo hhi hvalid
    simp only [State.checkSide, List.range_one, List.foldlM_cons, List.foldlM_nil, Nat.cast_zero, zero_mul,
      add_zero, hw]
    rfl
  have hspad : s.checkSide c .spad 0 1 (n + 0) 0 = .ok () := by
    rw [State.checkSide, rowBounds_one]
    exact checkSpad_zero hn
  have hgo : (s.sideNotReady .spad 0 1 (n + 0) 0 || s.sideNotReady .wspace wa 1 n 0) = false := by
    rw [State.sideNotReady, State.sideNotReady, rowBounds_one, rowBounds_one]
    have hready : s.wNotReady wa ((wa : Int) + n) = false := by exact_mod_cast hready
    simp [hready]
  have hnone (k a : Nat) : s.pieces c t [] k a = [] := by cases k <;> rfl
  have hneed (b : Bool) (e : Res Unit) : need (false || true || b) e = .ok () := rfl
  rw [State.moveRanges]
  simp only [hneed, bind, Except.bind]
  change ∃ a, (if (s.sideNotReady .spad 0 1 (n + 0) 0 || s.sideNotReady .wspace wa 1 n 0) = true then .error .wait
    else (s.checkSide c .spad 0 1 (n + 0) 0).bind fun _ => (s.checkSide c .wspace wa 1 (n + 0) 0).bind fun _ =>
      (s.checkPieces c t [] 0 (s.pieces c t [] 65 0)).bind fun _ => .ok (_, _)) = Except.ok a
  rw [if_neg (Bool.eq_false_iff.mp hgo), hspad, hside, hnone]
  exact ⟨_, rfl⟩

/-- The task of a launch of rows: at its EXIT from the start. -/
def rowsTask (x : Program) (c : CoreId) (resid limit l slot : Nat) (tenure : BitVec 16) (gen : BitVec 4) : Task :=
  { newTask (weightRec x.job l slot tenure gen) (slotOf c resid) gen limit false with wait := .exiting, exited := true }

theorem rowsTask_eq (x : Program) (c : CoreId) (resid limit l slot : Nat) (tenure : BitVec 16) (gen : BitVec 4) :
    rowsTask x c resid limit l slot tenure gen =
      { newTask (weightRec x.job l slot tenure gen) (slotOf c resid) gen limit false with wait := .exiting, exited := true } := rfl

/-- The bytes of a launch's rows in a core's scratchpad. -/
def State.rowsPut (s : State) (c : CoreId) (x : Program) (first n : Nat) : State :=
  (s.clearSpad c).stagePut (spadPa c x.base) ((x.bytes.drop (4096 * first)).take n)

theorem State.rowsPut_eq (s : State) (c : CoreId) (x : Program) (first n : Nat) : s.rowsPut c x first n =
    (s.clearSpad c).stagePut (spadPa c x.base) ((x.bytes.drop (4096 * first)).take n) := rfl

/-- The tiles among the rows of a launch. -/
def Program.tilesAt (x : Program) (wa n : Nat) : List (Nat × Tile) :=
  x.tiles.filter fun e => decide (wa ≤ e.1) && decide (e.1 < wa + n)

/-- The tiles of a launch's rows stand in a core's scratchpad, and PROGRAM-WEIGHTS counts on the launch. -/
def State.rowsCounted (s : State) (c : CoreId) (x : Program) (first wa n : Nat) (writes : Bool) : State :=
  { s with
    tiles := (x.tilesAt wa n).foldl (fun ts e => newTile ts (spadPa c x.base + (e.1 - wa)) e.2) s.tiles
    program := some (x.begins first writes) }

/-- A launch of PROGRAM-WEIGHTS begins on a core that may run it, when its commands pass their check. -/
theorem State.startWeights_launches {s s1 s3 s4 : State} {x : Program} {j : Job} {c : CoreId} {gen : BitVec 4}
    {first stop wa n resid slot : Nat} {tenure : BitVec 16} {writes : Bool} {t : Task} {a : List PageUse × List Foot}
    (hwa : wa = x.wa + 4096 * first) (hn : n = 4096 * x.part first stop) (hj : s.jobOf x.job = some j)
    (hcore : s.weightCore x (wDie wa) n = some c) (hadv : s.advanceGen x.job = some (s1, gen))
    (hresid : (List.range 7).find? (s.residOk c) = some resid)
    (hnew : ((s1.rowsPut c x first n).rowsCounted c x first wa n writes).newSlot (clusterOf c) [] = (s3, slot, tenure))
    (ht : t = rowsTask x c resid (s.core c).milemax.toNat j.launches.length slot tenure gen)
    (hs4 : s4 = (s3.setJob x.job (Job.weightLaunch (clusterOf c) wa n)).start c t)
    (hmoves : s4.moveRanges c t (rowsCfg x.base wa n) false true = .ok a) :
    s.startWeights x first stop writes = s4.setTask c (x.commands writes (rowsCfg x.base wa n) a.1 a.2 t) := by
  have hl : ((s.jobOf x.job).map fun j => j.launches.length).getD 0 = j.launches.length := by rw [hj]; rfl
  unfold State.startWeights
  extract_lets rows wa' n' l mine src cfg
  have hwa' : wa' = wa := hwa.symm
  have hn' : n' = n := hn.symm
  have hmine : mine = x.tilesAt wa' n' := rfl
  have hcfg : cfg = rowsCfg x.base wa' n' := rfl
  have hl' : l = j.launches.length := hl
  clear_value cfg mine l n' wa'
  subst hcfg hmine hn' hwa' hl'
  rw [hcore, hadv]
  split
  next c' s1' gen' hc' hs1' =>
    cases hc'
    cases hs1'
    rw [hresid]
    split
    · contradiction
    next resid' hresid' =>
      cases hresid'
      extract_lets s2
      have hput : s1.rowsPut c x first n' = s2 := State.rowsPut_eq ..
      rw [hput, State.rowsCounted] at hnew
      clear_value s2
      split
      next s3' slot' tenure' hnew' =>
        cases hnew'.symm.trans hnew
        extract_lets src' t' s4'
        have ht' : t' = t := (rowsTask_eq ..).symm.trans ht.symm
        have hs4' : s4' = (s3.setJob x.job (Job.weightLaunch (clusterOf c) wa' n')).start c t' := rfl
        clear_value s4'
        clear_value t'
        subst ht'
        cases hs4'.trans hs4.symm
        rw [hmoves]
  next hno => exact absurd rfl (hno c s1 gen rfl)

end Machine

end Sys2Proof

namespace Sys2Proof

namespace Machine

/-! ### What a launch of rows leaves (R243, R327, R365) -/

theorem State.wValid_congr {s s' : State} (h : s'.dies = s.dies) (wa n : Nat) : s'.wValid wa n = s.wValid wa n := by
  unfold State.wValid State.wSize
  rw [h]

theorem State.wNotReady_congr {s s' : State} (h : s'.dies = s.dies) (lo hi : Int) : s'.wNotReady lo hi = s.wNotReady lo hi := by
  unfold State.wNotReady
  rw [h]

/-- The start of an unpaired task changes its core and the order of readiness alone. -/
theorem State.start_alone (s : State) (c : CoreId) {t : Task} (hpair : t.rs.rc.paired = false) :
    ∃ cores, s.start c t = { s with cores := cores, readySeq := s.readySeq + 1 } := by
  unfold State.start
  dsimp only
  rw [if_neg (Bool.eq_false_iff.mp hpair)]
  exact ⟨_, rfl⟩

section
variable {x : Program} {rows : Nat}

theorem Program.base_rows (hplace : x.place.1 = 0) : x.base = 0 := by
  rw [Program.base, hplace, ite_self]

theorem Program.part_rows (htiles : x.tiles = []) (hplace : x.place.1 = 0) (hrows : rows ≤ 112) :
    x.part x.next (x.next + rows) = rows := by
  have hstride : x.stride = 1 := by rw [Program.stride, htiles]; rfl
  rw [Program.part, Program.base_rows hplace, hstride, Nat.add_sub_cancel_left]
  exact min_eq_left hrows

/-- The commands of a launch of rows: the programming, and under the verify flag the comparison behind it. -/
theorem Program.commands_kinds (cfg : XCfg) (pages : List PageUse) (foot : List Foot) {t : Task} (hcmds : t.cmds = []) :
    (x.commands true cfg pages foot t).cmds.map Cmd.kind =
      if x.verify then [.xProg (XCmd.new cfg none false 0 none), .xVerify (XCmd.new cfg none false 0 none)]
      else [.xProg (XCmd.new cfg none false 0 none)] := by
  rw [Program.commands, if_pos rfl]
  cases x.verify <;> simp [Task.accept, hcmds]

theorem Program.commands_task (x : Program) (cfg : XCfg) (pages : List PageUse) (foot : List Foot) (t : Task) :
    (x.commands true cfg pages foot t).rs = t.rs ∧ (x.commands true cfg pages foot t).wait = t.wait := by
  rw [Program.commands, if_pos rfl]
  cases x.verify <;> exact ⟨rfl, rfl⟩

end

/-- Rows laid from the start of a scratchpad change its bytes, with what hangs on them, and the parked contexts alone. -/
theorem State.rowsPut_shape (s : State) (c : CoreId) {x : Program} (hbase : x.base = 0) (first n : Nat) :
    ∃ clusters stamps poison, s.rowsPut c x first n = { s with
      clusters := clusters, stamps := stamps, poison := poison
      mem := Memory.write s.mem (spadPa c 0) ((x.bytes.drop (4096 * first)).take n) } := by
  rw [State.rowsPut, hbase, State.stagePut]
  obtain ⟨poison, hput⟩ := State.writePa_spad ((s.clearSpad c).emptyStamps (spadPa c 0)
    ((x.bytes.drop (4096 * first)).take n).length) c (off := 0) (by decide) ((x.bytes.drop (4096 * first)).take n)
  rw [hput]
  exact ⟨_, _, poison, rfl⟩

section
variable {s s1 s3 : State} {x : Program} {c : CoreId} {gen : BitVec 4} {first wa n slot : Nat} {tenure : BitVec 16}
  {writes : Bool} (htiles : x.tiles = []) (hbase : x.base = 0)
  (hnew : ((s1.rowsPut c x first n).rowsCounted c x first wa n writes).newSlot (clusterOf c) [] = (s3, slot, tenure))
include htiles hbase hnew

/-- The state in which the rows of a launch lie in a scratchpad and a slot is taken for its record. -/
theorem State.rowsSlot_shape : ∃ clusters stamps poison, s3 = { s1 with
    clusters := clusters, stamps := stamps, poison := poison, program := some (x.begins first writes)
    mem := Memory.write s1.mem (spadPa c 0) ((x.bytes.drop (4096 * first)).take n) } := by
  obtain ⟨clusters, stamps, poison, hput⟩ := s1.rowsPut_shape c hbase first n
  have hs3 := (congrArg Prod.fst hnew).symm
  rw [hput, State.rowsCounted, Program.tilesAt, htiles, List.filter_nil, List.foldl_nil] at hs3
  exact ⟨_, stamps, poison, hs3⟩

end

/-- The launch of rows stands in its job, with its window. -/
theorem State.launchOf_weightLaunch {s : State} {job : Nat} {j : Job} (hj : s.jobOf job = some j)
    (hnums : ∀ y ∈ j.launches, y.num ≠ j.launches.length) (k : ClusterId) (wa n : Nat) :
    ((s.setJob job (Job.weightLaunch k wa n)).launchOf job j.launches.length).bind Launch.window =
      some (BitVec.ofNat 39 wa, BitVec.ofNat 39 (wa + n)) := by
  have hnone : j.launches.find? (fun l => decide (l.num = j.launches.length)) = none :=
    List.find?_eq_none.mpr fun y hy => by simpa using hnums y hy
  rw [State.launchOf, State.jobOf_setJob_some hj (f := Job.weightLaunch k wa n) fun _ => rfl,
    Option.bind_some, Job.weightLaunch, List.find?_append, hnone]
  simp

theorem toNat_window {wa : Nat} (h : wa < 2 ^ 39) : (BitVec.ofNat 39 wa).setWidth 64 = BitVec.ofNat 64 wa := by
  apply BitVec.eq_of_toNat_eq
  rw [BitVec.toNat_setWidth, BitVec.toNat_ofNat, BitVec.toNat_ofNat, Nat.mod_eq_of_lt h]

/-- What the launch of rows leaves: the rows in the scratchpad of its core, which runs its task with its W window. -/
structure State.RowsLaunched (s s' : State) (x : Program) (c : CoreId) (t : Task) (wa n : Nat) : Prop where
  core : s'.core c = { s'.core c with
    status := .running, task := some t, wwbase := BitVec.ofNat 64 wa, wwlim := BitVec.ofNat 64 (wa + n) }
  others : ∀ k : CoreId, k ≠ c → s'.core k = s.core k
  mem : s'.mem = Memory.write s.mem (spadPa c 0) ((x.bytes.drop (4096 * x.next)).take n)
  program : s'.program = some (x.begins x.next true)
  dies : s'.dies = s.dies
  mailbox : s'.mailbox = s.mailbox
  notices : s'.notices = s.notices
  wmem : s'.wmem = s.wmem

theorem State.RowsLaunched.setTask {s s' : State} {x : Program} {c : CoreId} {t : Task} {wa n : Nat}
    (h : s.RowsLaunched s' x c t wa n) (u : Task) : s.RowsLaunched (s'.setTask c u) x c u wa n := by
  obtain ⟨hcore, hothers, hmem, hprogram, hdies, hmailbox, hnotices, hwmem⟩ := h
  refine ⟨?_, fun k hk => ?_, hmem, hprogram, hdies, hmailbox, hnotices, hwmem⟩
  · rw [State.core_setTask, hcore]
  · rw [State.setTask, State.core_setCore_other _ _ _ _ hk, hothers k hk]

section
variable {s s1 s3 : State} {x : Program} {j : Job} {c : CoreId} {gen : BitVec 4} {wa n slot l : Nat} {tenure : BitVec 16}

/-- The launch of rows, its task started. -/
theorem State.rowsLaunched_start (htiles : x.tiles = []) (hbase : x.base = 0) (hj : s.jobOf x.job = some j)
    (hnums : ∀ y ∈ j.launches, y.num ≠ j.launches.length) (hadv : s.advanceGen x.job = some (s1, gen))
    (hnew : ((s1.rowsPut c x x.next n).rowsCounted c x x.next wa n true).newSlot (clusterOf c) [] = (s3, slot, tenure))
    (hwa : wa + n < 2 ^ 39) {t : Task} (hjob : t.rs.rc.job = x.job) (hlaunch : t.rs.rc.launch = j.launches.length)
    (hpair : t.rs.rc.paired = false) :
    s.RowsLaunched ((s3.setJob x.job (Job.weightLaunch (clusterOf c) wa n)).start c t) x c t wa n := by
  obtain ⟨j1, hj1, hlaunches⟩ : ∃ j1, s1.jobOf x.job = some j1 ∧ j1.launches = j.launches := by
    have h := (State.advanced_advanceGen hadv).launches x.job
    rw [hj] at h
    obtain ⟨j1, hj1, h⟩ := Option.map_eq_some_iff.mp h
    exact ⟨j1, hj1, h⟩
  obtain ⟨jobs, stamps1, clusters1, hs1⟩ := State.advanceGen_shape hadv
  obtain ⟨clusters, stamps, poison, hs3⟩ := State.rowsSlot_shape htiles hbase hnew
  have hj3 : s3.jobOf x.job = some j1 := by
    rw [← hj1, hs3]
    rfl
  have hwindow : (s3.setJob x.job (Job.weightLaunch (clusterOf c) wa n)).windowOf t =
      (BitVec.ofNat 39 wa, BitVec.ofNat 39 (wa + n)) := by
    rw [← hlaunches] at hnums hlaunch
    unfold State.windowOf
    rw [hjob, hlaunch, State.launchOf_weightLaunch hj3 hnums]
  obtain ⟨cores, hstart⟩ := State.start_alone (s3.setJob x.job (Job.weightLaunch (clusterOf c) wa n)) c hpair
  refine ⟨?_, fun k hk => ?_, ?_, ?_, ?_, ?_, ?_, ?_⟩
  · rw [State.start_core, hwindow, toNat_window (by omega), toNat_window hwa]
  · rw [State.start_core_other _ _ _ hk (by rw [hpair]; exact fun h => nomatch h), hs3, hs1]
    rfl
  all_goals
    rw [hstart, hs3, hs1]
    rfl

/-- The next launch of PROGRAM-WEIGHTS, of rows that are left and no tile binds. -/
theorem State.startWeights_rows (htiles : x.tiles = []) (hplace : x.place.1 = 0) {rows : Nat}
    (hrows : rows ≤ 112) (hwa : wa = x.wa + 4096 * x.next) (hn : n = 4096 * rows) (hj : s.jobOf x.job = some j)
    (hnums : ∀ y ∈ j.launches, y.num ≠ j.launches.length) (hcore : s.weightCore x (wDie wa) n = some c)
    (hadv : s.advanceGen x.job = some (s1, gen)) (hresid : s.residOk c 0 = true) (htop : wa + n < 2 ^ 39)
    (hvalid : s.wValid wa n = true) (hready : s.wNotReady wa (wa + n : Nat) = false) :
    ∃ t : Task, s.RowsLaunched (s.startWeights x x.next (x.next + rows) true) x c t wa n ∧ t.rs.rc.job = x.job ∧
      t.wait = .exiting ∧ t.cmds.map Cmd.kind =
        if x.verify then [.xProg (XCmd.new (rowsCfg 0 wa n) none false 0 none), .xVerify (XCmd.new (rowsCfg 0 wa n) none false 0 none)]
        else [.xProg (XCmd.new (rowsCfg 0 wa n) none false 0 none)] := by
  have hbase := Program.base_rows hplace
  have hpart : n = 4096 * x.part x.next (x.next + rows) := by rw [Program.part_rows htiles hplace hrows, hn]
  obtain ⟨⟨s3, slot, tenure⟩, hnew⟩ : ∃ r,
      ((s1.rowsPut c x x.next n).rowsCounted c x x.next wa n true).newSlot (clusterOf c) [] = r := ⟨_, rfl⟩
  obtain ⟨t, ht⟩ : ∃ t, t = rowsTask x c 0 (s.core c).milemax.toNat j.launches.length slot tenure gen := ⟨_, rfl⟩
  have hlaunched := State.rowsLaunched_start (t := t) htiles hbase hj hnums hadv hnew htop (by rw [ht]; rfl) (by rw [ht]; rfl)
    (by rw [ht]; rfl)
  obtain ⟨s4, hs4⟩ : ∃ s4, s4 = (s3.setJob x.job (Job.weightLaunch (clusterOf c) wa n)).start c t := ⟨_, rfl⟩
  rw [← hs4] at hlaunched
  have hn112 : n ≤ laybyBase := by
    rw [hn]
    exact Nat.mul_le_mul_left 4096 hrows
  obtain ⟨a, hmoves⟩ := State.moveRanges_rows (s := s4) (c := c) (wa := wa) (n := n) t hn112
    (by rw [hlaunched.core, BitVec.toNat_ofNat]; exact Nat.mod_le ..)
    (by rw [hlaunched.core, BitVec.toNat_ofNat, Nat.mod_eq_of_lt (by omega)])
    ((State.wValid_congr hlaunched.dies wa n).trans hvalid) ((State.wNotReady_congr hlaunched.dies _ _).trans hready)
  have hfirst : (List.range 7).find? (s.residOk c) = some 0 := List.find?_cons_of_pos (l := (List.range 6).map Nat.succ) hresid
  have hstarts := State.startWeights_launches hwa hpart hj hcore hadv hfirst hnew ht hs4 (hbase ▸ hmoves)
  rw [hbase] at hstarts
  obtain ⟨hrs, hwait⟩ := x.commands_task (rowsCfg 0 wa n) a.1 a.2 t
  refine ⟨x.commands true (rowsCfg 0 wa n) a.1 a.2 t, ?_, ?_, ?_, Program.commands_kinds _ _ _ (by rw [ht]; rfl)⟩
  · rw [hstarts]
    exact hlaunched.setTask _
  · rw [hrs, ht]
    rfl
  · rw [hwait, ht]
    rfl

end

end Machine

end Sys2Proof

namespace Sys2Proof

namespace Machine

/-! ### The mailbox commands together (R364 to R372) -/

theorem State.answer_mem (s : State) (code : Nat) (tag : BitVec 16) (status : Nat) (result : List Byte) :
    (s.answer code tag status result).mem = s.mem := rfl

theorem State.answersCode_of_takes {s : State} (h : s.takesCommand = true) (code : Nat) : s.answersCode code = true := by
  rw [State.answersCode, h, Bool.true_or]

/-- While PROGRAM-WEIGHTS runs, an open module answers nothing. -/
theorem State.answersCode_programming {s : State} (hopen : s.boot = .open_) (hbusy : s.program.isSome = true) (code : Nat) :
    s.answersCode code = false := by
  rw [State.answersCode, State.takesCommand, hopen, Option.isNone_eq_false_iff.mpr hbusy]
  rfl

/-- With no row asked for, PROGRAM-WEIGHTS goes on (R336). -/
theorem execWeightRowProgram_turn {s : State} {d : DieId} (hnone : s.requester d = none) (l : List Bool) :
    execWeightRowProgram d l s = .next s.weightTurn := by
  unfold execWeightRowProgram
  simp only [hnone]

/-- The rows that a launch has laid in a scratchpad, as they read there. -/
theorem get_rows {mem : List Host.Cell} (c : CoreId) (hm : Memory.wf mem = true) {bytes : List Byte} {next rows i : Nat}
    (hlen : bytes.length = 4096 * (next + rows)) (hi : i < 4096 * rows) :
    Memory.get (Memory.write mem (spadPa c 0) ((bytes.drop (4096 * next)).take (4096 * rows))) (spadPa c i) =
      bytes.getD (4096 * next + i) 0 := by
  have hcount : ((bytes.drop (4096 * next)).take (4096 * rows)).length = 4096 * rows := by
    rw [List.length_take, List.length_drop, hlen]
    omega
  rw [Memory.get_write _ mem hm, hcount, if_pos (by unfold spadPa; omega)]
  rw [show spadPa c i - spadPa c 0 = i by unfold spadPa; omega]
  rw [List.getD_eq_getElem?_getD, List.getD_eq_getElem?_getD, List.getElem?_take_of_lt hi, List.getElem?_drop]

section
variable {s : State} (hboot : s.boot = .recovery)
include hboot

theorem State.answersCode_recovery (hcode : s.mailbox.code = 5) : s.answersCode s.mailbox.code.toNat = true := by
  rw [State.answersCode, hboot, hcode, Bool.or_eq_true]
  exact Or.inr rfl

theorem State.answersCode_recovery_other (hcode : s.mailbox.code ≠ 5) : s.answersCode s.mailbox.code.toNat = false := by
  have hnat : s.mailbox.code.toNat ≠ 5 := fun h => hcode (BitVec.eq_of_toNat_eq h)
  rw [State.answersCode, State.takesCommand, hboot, decide_eq_false hnat]
  rfl

end

section
variable {s : State} (htakes : s.takesCommand = true) (tag : BitVec 16) {job hostAddr len : Nat} {sha : List Byte} {j : Job}
  (hj : s.jobOf job = some j) (hhost : hostAddr + len ≤ hostBase) (hsha : sha384 (s.readPa (hostBase + hostAddr) len) = sha)
include htakes hj hhost hsha

/-- LOAD-IMAGE of one section of plain bytes in one page. -/
theorem execLoadImage_section {x : ImageSection} {data : List Byte} {pa : Nat} {typ : MType} (htile : x.tile = none)
    (hbytes : sectionBytes (s.readPa (hostBase + hostAddr) len) [x] x = some data) (hdata : data ≠ [])
    (hunit : x.va % 65536 + data.length ≤ 65536) (hplace : s.placeOf j x.va = some (pa, typ)) (hmmio : typ ≠ .mmio)
    (hwap : typ ≠ .wap) (hm : Memory.wf s.mem = true) :
    ∃ s' : State, execLoadImage tag job hostAddr len sha [x] [] s = .next s' ∧ s'.Answers s 1 tag 0 [] ∧
      s'.cores = s.cores ∧ s'.jobs = s.jobs ∧ ∀ a, Memory.get s'.mem a =
        if pa ≤ a ∧ a < pa + data.length then data.getD (a - pa) 0 else Memory.get s.mem a := by
  obtain ⟨s1, hs1⟩ : ∃ s1, s1 = s.systemWrite pa data := ⟨_, rfl⟩
  have hput := s.memoryOnly_writePa pa data
  have hhost1 : s.SameHost s1 := hs1 ▸ s.sameHost_systemWrite pa data
  have hcores : s1.cores = s.cores := hs1 ▸ hput.cores
  have hjobs : s1.jobs = s.jobs := hs1 ▸ hput.jobs
  have hmem : s1.mem = Memory.write s.mem pa data := hs1 ▸ State.writePa_mem s pa data
  have hplaced : State.placeSections j (s.readPa (hostBase + hostAddr) len) [x] [x] s = .ok s1 :=
    hs1 ▸ State.placeSections_single hbytes htile hdata hunit hplace hmmio hwap
  refine ⟨s1.answer 1 tag 0 [], execLoadImage_loads htakes tag hj hhost hsha (blocks := []) rfl hplaced, hhost1.answers 1 tag 0 [],
    hcores, hjobs, fun a => ?_⟩
  rw [State.answer_mem, hmem]
  exact Memory.get_write data s.mem hm pa a

/-- LOAD-IMAGE of one portable block. -/
theorem execLoadImage_block {off n : Nat} (hfit : off + n ≤ len) :
    (blockOk (((s.readPa (hostBase + hostAddr) len).drop off).take n) = true →
      execLoadImage tag job hostAddr len sha [] [(off, n)] s =
        .next ((s.translateBlock (((s.readPa (hostBase + hostAddr) len).drop off).take n)).answer 1 tag 0 [])) ∧
    (blockOk (((s.readPa (hostBase + hostAddr) len).drop off).take n) = false →
      execLoadImage tag job hostAddr len sha [] [(off, n)] s = .next (s.answer 1 tag 3 [])) := by
  refine ⟨fun hok => execLoadImage_loads htakes tag hj hhost hsha ?_ rfl, fun hbad => execLoadImage_badBlocks htakes tag hj hhost hsha ?_⟩
  · simp [hfit, hok]
  · simp [hbad]

end

/-- Settles O58: each command ends by `State.command_ok` or `State.command_error`; a launch of PROGRAM-WEIGHTS is
`State.startWeights_rows`, its end `State.endProgram_leaves`. -/
theorem mailboxCommands : Obligations.MailboxCommands := by
  unfold Obligations.MailboxCommands
  refine ⟨fun s tag hopen hidle => ?_, fun s tag => ?_⟩
  · intro only
    have hend {e : Out} {code status : Nat} {result : List Byte} {s1 : State}
        (h : e = .next (s1.answer code tag status result)) : e = only code (BitVec.ofNat 32 status) result s1 :=
      h.trans (congrArg Host.Outcome.next (s1.answer_eq code tag status result))
    clear_value only
    have htakes := State.takesCommand_of_open hopen hidle
    have hoff : s.boot ≠ .off := fun h => nomatch hopen.symm.trans h
    refine ⟨fun code len hunknown => execMailboxBadCommand_refuses htakes tag hunknown, fun a n hn hfree hbelow =>
        ⟨fun hw hroot hkeys => hend (execCreateJob_creates htakes tag a hw hroot hn hfree hbelow hkeys),
          fun h => hend (execCreateJob_badArgument htakes tag a h),
          fun hw hroot hkeys => hend (execCreateJob_badKeys htakes tag a hw hroot hkeys)⟩,
      ?_, ?_, ?_, fun job n l hl hshown => hend (execQuery_value tag hoff hidle (State.queried_launch hl hshown)),
      fun d i => hend (execQuery_value tag hoff hidle (State.queried_wbperm d i)), ?_, ?_, ?_, ?_⟩
    · intro job hostAddr len sha x j pa typ img part
      have hlen : img.length = len := by simp [img, State.readPa, Memory.read]
      refine ⟨fun hj => hend (execLoadImage_noJob htakes tag hj), fun hfit => ?_, fun hj hhost => ?_⟩
      · rw [← hlen] at hfit
        exact ⟨fun hrelocs => sectionBytes_plain [x] hfit hrelocs,
          fun r hrelocs htarget hroom => sectionBytes_reloc hfit hrelocs htarget hroom⟩
      · refine ⟨fun hsha => hend (execLoadImage_otherDigest htakes tag hj hsha),
          fun data hsha htile hbytes hdata hunit hplace hmmio hwap hm => ?_, fun off n hsha hfit => ?_⟩
        · exact execLoadImage_section htakes tag hj hhost hsha htile hbytes hdata hunit hplace hmmio hwap hm
        · intro b
          have hblock := execLoadImage_block htakes tag hj hhost hsha hfit
          exact ⟨fun hok => hend (hblock.1 hok), fun hbad => hend (hblock.2 hbad)⟩
    · intro job addr ga va g1 j s1 gen s4 num hj hask hg1 hgraphs hlaunches phase hlaunch
      subst hg1
      exact hend (execSubmitPhase_single htakes tag hj hask hgraphs hlaunches hlaunch)
    · intro level job n
      refine ⟨fun hj => hend (execMailboxCancel_noJob htakes tag hj), fun j hj hnum =>
        ⟨fun hwork => hend (execMailboxCancel_nothing htakes tag hj hwork), ?_, fun hpending => ?_⟩⟩
      · intro ls hwork pick
        exact ⟨fun hlevel hdone => hend (execMailboxCancel_done htakes tag hj hwork hlevel hdone),
          fun hlevel hlive => hend (execMailboxCancel_live htakes tag hj hwork hlevel hlive),
          fun hlevel hpending => hend (execMailboxCancel_job htakes tag hj hwork hlevel hpending)⟩
      · exact ⟨_, execMailboxCancel_frees htakes tag hj hnum hpending, ⟨rfl, rfl⟩, rfl, rfl, rfl⟩
    · have hstate : s.queried .bootState = .ok [2] := by
        rw [State.queried, hopen]
        rfl
      exact hend (execQuery_value tag hoff hidle hstate)
    · intro host wa bad halign hvalid hhost payload
      exact ⟨execProgramWeights_window htakes tag bad halign hvalid hhost,
        execProgramWeights_begins htakes tag bad halign hvalid hhost⟩
    · intro conf
      refine ⟨fun hjobs => hend (execResetScrub_busy htakes tag conf [] hjobs), fun hjobs hrings => ?_⟩
      have hscrub := execResetScrub_scrubs htakes tag conf [] hjobs hrings
      have hleaves := s.scrub_leaves conf []
      generalize State.bootFrom [] (s.scrub conf) = b at hscrub hleaves
      obtain ⟨hhost, hconf, hscrubs, hepoch, htiles, hstamps, htlb, hmem, hwmem, hcores⟩ := hleaves
      exact ⟨b.answer 7 tag 0 [], hscrub, hhost.answers 7 tag 0 [], hconf, hscrubs, hepoch, htiles, hstamps, htlb, hmem, hwmem,
        fun c => ⟨congrArg Core.task (hcores c), congrArg Core.status (hcores c)⟩⟩
    · intro job launch index l j hl hj hshown hindex
      refine ⟨fun hconf => hend (execDebugAttach_refused htakes tag hl hj hshown hindex hconf), fun token htoken =>
        ⟨_, execDebugAttach_attaches htakes tag hl hj hshown hindex htoken, ⟨rfl, rfl⟩, rfl, rfl, fun c t ht => ?_⟩⟩
      exact (s.taskOf_attached job launch index c).trans (by rw [ht]; rfl)
  · refine ⟨fun hboot hidle => ?_, fun a sel hbusy => ⟨execCreateJob_programming tag hbusy a, execQuery_programming tag hbusy sel⟩,
      ?_, ?_, fun d l x j hnone hx hj => ?_⟩
    · have hstate : s.queried .bootState = .ok [1] := by
        rw [State.queried, hboot]
        rfl
      exact execQuery_value tag (fun h => nomatch hboot.symm.trans h) hidle hstate
    · intro bs n hopen hlen m
      have hwrite := execPcieMemoryRequest_notify hlen (fun h => nomatch hopen.symm.trans h) n
      refine ⟨fun hbusy => hwrite.trans (State.notify_ignored ?_), fun hidle hunknown => hwrite.trans (State.notify_unknown ?_ hunknown)⟩
      · exact State.answersCode_programming hopen hbusy _
      · exact State.answersCode_of_takes (State.takesCommand_of_open hopen hidle) _
    · intro bs n hboot hidle hlen m
      have hwrite := execPcieMemoryRequest_notify hlen (fun h => nomatch hboot.symm.trans h) n
      refine ⟨fun hcode => hwrite.trans (State.notify_ignored ?_), fun hcode => ?_⟩
      · exact State.answersCode_recovery_other hboot hcode
      · obtain ⟨status, result, hstatus, hnotify⟩ := State.notify_query (State.answersCode_recovery hboot hcode) hboot hidle hcode
        exact ⟨status, result, hstatus, hwrite.trans hnotify⟩
    · have hturn (l : List Bool) : execWeightRowProgram d l s = .next s.weightTurn :=
        execWeightRowProgram_turn hnone l
      refine ⟨fun hlive => (hturn l).trans (by rw [State.weightTurn_waits hx hj hlive]), fun hdone => ?_⟩
      intro ends compared
      have hends {status first : Nat} (h : s.weightTurn = s.endProgram x status first) : ends status first :=
        ⟨_, (hturn l).trans (by rw [h]), s.endProgram_leaves x status first⟩
      refine ⟨fun status a hfailed => hends (State.weightTurn_failed hx hj hdone hfailed), fun hfailed hcompared hall =>
        hends (State.weightTurn_ends hx hj hdone hfailed (Program.todo_none hcompared hall)), ?_⟩
      intro c made rows hfailed hcompared htiles hplace hpos hrows hlen wa n htop hvalid hready hcore hresid hadv hnums hm
      have hgoes := State.weightTurn_goesOn hx hj hdone hfailed (Program.todo_rows hcompared htiles hpos hlen)
      obtain ⟨t, hlaunched, hjob, hwait, hkinds⟩ := State.startWeights_rows htiles hplace hrows (wa := wa) (n := n) rfl rfl hj hnums
        hcore hadv hresid htop hvalid hready
      rw [← hgoes] at hlaunched
      refine ⟨s.weightTurn, t, XCmd.new (rowsCfg 0 wa n) none false 0 none, hturn l, ?_, ?_, hjob, hwait, hkinds, rfl, rfl, rfl, rfl,
        rfl, ?_, ?_, ?_, hlaunched.mailbox, hlaunched.notices, hlaunched.wmem, hlaunched.others, fun i hi => ?_⟩
      · exact congrArg Core.task hlaunched.core
      · exact congrArg Core.status hlaunched.core
      · exact congrArg Core.wwbase hlaunched.core
      · exact congrArg Core.wwlim hlaunched.core
      · exact hlaunched.program
      · rw [hlaunched.mem]
        exact get_rows c hm hlen hi

end Machine

end Sys2Proof
